-- ==== Sys2Proof/Word.lean ====
section
/-! DEFINITION. The word types of the ND4 and their plainest arithmetic (spec 00 R8: little-endian bytes). -/

namespace Sys2Proof

/-- One byte of memory (00 R8). -/
abbrev Byte := BitVec 8
/-- One 32-bit register of a lane, or one 32-bit word (03 R62). -/
abbrev Word := BitVec 32
/-- A 64-bit register, program counter or generic address (04 R81). -/
abbrev DWord := BitVec 64

end Sys2Proof
end

