-- ==== Sys2Proof/Config.lean ====
section
/-! DEFINITION. What an implementation fixes, and the free values: opaque constants with no body, so that nothing in Lean can see
what they are (log 4, 6-11, 23). -/

namespace Sys2Proof.Config

/-- An unpredictable or unstated 32-bit value: the first number is the machine's free counter, the second tells values of one step apart. -/
opaque word : Nat → Nat → Word
/-- An unpredictable predicate. -/
opaque bit : Nat → Nat → Bool
/-- An unpredictable 64-bit value. -/
opaque dword : Nat → Nat → DWord
/-- An unpredictable byte. -/
opaque byte : Nat → Nat → Byte
/-- An unpredictable choice: a number. -/
opaque choice : Nat → Nat → Nat

/-- The fixed function of each approximation (13 R286) where the spec names no exact value: form (0 FRCP, 1 FRSQ, 2 FEX2, 3 FLG2,
4 FSIN, 5 FCOS, 6 FTANH), source bits, !ftz. -/
opaque approx : Nat → Word → Bool → Word

/-- What a boot reads, and what is fused (24 R433, R434): the image of a kind (1 Umaov, 2 hart runtime, 3 loader) as a die's firmware core reads it; the
unrevoked key slots; the floor of a kind; whether step 1 of a die passes; the failure code of a die's step. -/
opaque flash : Nat → Nat → List Byte
opaque keySlots : List (List Byte)
opaque svnFloor : Nat → Nat
opaque training : Nat → Bool
opaque failCode : Nat → Nat → Byte
/-- Whether the ranks of a collective that stand outside the package agree with a descriptor, and the elements that a rank outside gives (26 R459). -/
opaque peerAgrees : Nat → Nat → Bool
opaque peerElem : Nat → Nat → Nat → Word

/-- SHA-256 (24 R434, 26 R460). -/
opaque sha256 : List Byte → List Byte
/-- RSASSA-PSS with SHA-256: is a signature (modulus, message, signature) valid (24 R434). -/
opaque pssValid : List Byte → List Byte → List Byte → Bool
/-- The signature of a message by the package's attestation key (26 R460). -/
opaque sign : List Byte → List Byte

/-- Skew of TIME of a die against die 0, in ticks; the model takes it modulo 15 (01 R35). -/
opaque skew : Nat → Nat
/-- The package serial number, form (its lowest bit: 0 bare package, 1 module) and attestation key (24 R436). -/
opaque serial : DWord
opaque form : Byte
opaque akey : Nat → DWord
/-- Frames of the snapshot pool that firmware reserves (23 R408). -/
opaque poolFrames : Nat
/-- Interleave ranges that firmware reserves at boot (04 R107): first offset and end, of the 4 KiB and 64 KiB range. -/
opaque range4 : Nat × Nat
opaque range64 : Nat × Nat
/-- LINKCFG that firmware sets at boot (24 R431). -/
opaque linkcfg : Nat → BitVec 2
/-- Bytes 64 to 81,919 of an Anvil save image (15 R343). -/
opaque imageByte : Nat → Nat → Byte
/-- Dies of the package, cores of a die, cores of the package (00 R4). -/
def numDies : Nat := 4
def coresPerDie : Nat := 96
def numCores : Nat := 384
/-- Bytes of a scratchpad slice and of a B-store (04 R84, 15 R322). -/
def sramBytes : Nat := 0x180000
def bstBytes : Nat := 0x300000
/-- Where scratchpad places begin among the places of bytes (below: DRAM in die-local form). -/
def sramPlace : Nat := 2 ^ 40

end Sys2Proof.Config
end

