-- ==== Sys2Proof/Syntax.lean ====
section
/-! DEFINITION. The instructions of the Gulnor (revision 1) and the steps of the part, as data: one constructor per row of
spec/opcode_table.json. The 213 Gulnor forms carry the operand fields of their format (08 R192-R198), the 40 compact
forms the fields of R200, and the 122 steps of the part that have no encoding carry the unit that acts and what the
outside world supplies. -/

namespace Sys2Proof

/-- An operand selector (08 R193). -/
inductive Sel where
  /-- `vn` -/
  | v (n : BitVec 8)
  /-- `sn` -/
  | s (n : BitVec 6)
  /-- `pn` -/
  | p (n : BitVec 3)
  /-- `mn` -/
  | m (n : BitVec 3)
  /-- `bn` -/
  | b (n : BitVec 4)
  /-- `wn` -/
  | w (n : BitVec 4)
  /-- `tn` -/
  | t (n : BitVec 3)
  /-- `an` -/
  | a (n : BitVec 3)
  /-- The form's immediate, 0x300. -/
  | imm
  /-- No operand, 0x3FF. -/
  | none
  deriving DecidableEq, Repr

/-- The TYPE codes 0x0 to 0x9 (09 R211). -/
inductive TyCode where
  | dflt | f32 | bf16 | f16 | s32 | u32 | s16 | u16 | s8 | u8
  deriving DecidableEq, Repr

/-- The element formats of CVTPK and CVTWD, codes 0x02 to 0x0C (09 R219). -/
inductive EFmt where
  | bf16 | f16 | e4m3 | e5m2 | e3m2 | e2m3 | e2m1 | int8 | uint8 | int4 | uint4
  deriving DecidableEq, Repr

/-- The level of a barrier, MINOR 0x00 to 0x03 (09 R219). -/
inductive BarLvl where
  | grp | blk | nbh | grid
  deriving DecidableEq, Repr

/-- The kind of an access (23 R402). -/
inductive AccKind where
  | read | write | rmw | fetch
  deriving DecidableEq, Repr

/-- The common fields of a 96-bit op (08 R192): the guard (negate bit and predicate) and STALL. -/
structure Hdr where
  neg : Bool
  p : BitVec 3
  stall : BitVec 4
  deriving DecidableEq, Repr

/-- What an encoded instruction holds beside its operands: STALL and GUARD, and whether an all-zero modifying slot stands before
a form that has no operand fields (08 R192, R196). -/
structure Coding where
  h : Hdr
  zeroPfx : Bool := false
  deriving DecidableEq, Repr

/-- The fields of a modifying slot that stands before an op (08 R196). -/
structure Pfx where
  rnd : BitVec 3
  sat : BitVec 2
  den : BitVec 2
  seed : BitVec 2
  imx : Bool
  imm : BitVec 32
  deriving DecidableEq, Repr

/-- The operand fields of format A (08 R194). -/
structure OpA where
  pfx : Option Pfx
  ty : TyCode
  dst : Sel
  sa : Sel
  sb : Sel
  sc : Sel
  rnd : BitVec 2
  sat : Bool
  imm : BitVec 16
  deriving DecidableEq, Repr

/-- The operand fields of format M (08 R194). -/
structure OpM where
  pfx : Option Pfx
  ty : TyCode
  data : Sel
  brec : BitVec 4
  index : Sel
  scope : BitVec 3
  rem : Bool
  aux : Sel
  glen : BitVec 2
  imm : BitVec 16
  deriving DecidableEq, Repr

/-- The operand fields of format C (08 R194). A barrier number stands in `d1` as `.v n` (09 R218). -/
structure OpC where
  pfx : Option Pfx
  d1 : Sel
  d2 : Sel
  sa : Sel
  carry : Sel
  clen : BitVec 2
  tslot : BitVec 3
  ldisp : BitVec 27
  deriving DecidableEq, Repr

/-- The operand fields of format X (08 R194). -/
structure OpX where
  pfx : Option Pfx
  dst : Sel
  sa : Sel
  sb : Sel
  sc : Sel
  imm : BitVec 32
  deriving DecidableEq, Repr

/-- The fields of a compact op (08 R200). -/
structure OpK where
  dst : BitVec 8
  sa : BitVec 8
  sb : BitVec 8
  imm : BitVec 16
  deriving DecidableEq, Repr

/-- What ECC finds in the word that an access meets: nothing, an error that it corrects, an error that it cannot correct (26 R450, 23 R410). -/
inductive Ecc where
  | none | corr | unc
  deriving DecidableEq, Repr

/-- The modes of a hart (24 R420). -/
inductive HartMode where
  | m | s | u | vs | vu
  deriving DecidableEq, Repr

/-- A hart's access to a CSR: a read, or a write of a value. -/
structure CsrOp where
  mode : HartMode
  w : Option (BitVec 64)
  deriving DecidableEq, Repr

/-- What a hart does about LQDEVATTR: an access to the CSR, or an SFENCE.VMA, after which its value is in force (24 R420). -/
inductive DevAttrOp where
  | csr (o : CsrOp)
  | fence
  deriving DecidableEq, Repr

/-- A hart's access to a CSR that the package has once. -/
structure HartCsr where
  hart : Nat
  op : CsrOp
  deriving DecidableEq, Repr

/-- A hart's access to LQPWRCTL, or to the read-only telemetry CSR 0xDC0 + k beside it (25 R439). -/
inductive PowerCsr where
  | control (a : HartCsr)
  | telemetry (k : Nat) (a : HartCsr)
  deriving DecidableEq, Repr

/-- A core cycle of a slice's collectors, with the uncorrectable error that a register file has for one of them, if any: the collector's baton, and whether
it reads for its second address. -/
structure Collecting where
  slice : Nat
  err : Option (Nat × Bool)
  deriving DecidableEq, Repr

/-- One direction of a fabric link: into the package, or out of it. -/
structure LinkEnd where
  link : Nat
  inn : Bool
  deriving DecidableEq, Repr

/-- Who reaches the control windows (24 R422): a hart, or a die's firmware core. -/
inductive Master where
  | hart (h : Nat)
  | firm (d : Nat)
  deriving DecidableEq, Repr

/-- An access by physical address: a read of `n` bytes; a write of bytes, as a release or not; AMOADD.D, as a release or not (24 R426). -/
inductive BusOp where
  | read (n : Nat)
  | write (data : List Byte) (rel : Bool)
  | amoadd (v : BitVec 64) (rel : Bool)
  deriving DecidableEq, Repr

/-- Which request a unit serves next. -/
inductive ServeReq where
  /-- a request queued by a core's memory unit, by number -/
  | core (c id : Nat) (err : Ecc)
  /-- a hart's or a firmware core's access at a physical address, through a mapping of a PLACE -/
  | bus (m : Master) (pa place : Nat) (o : BusOp)
  deriving DecidableEq, Repr

/-- Where a PCI Express peer's request goes: a physical address with its PLACE, where its device context uses no page tables or an MSI page table has
answered; or an address for the IOMMU's walker, with the roots of the device context's first and second stage (24 R432). -/
inductive PeerAddr where
  | pa (a place : Nat)
  | va (a : Nat) (first second : Option (BitVec 64))
  deriving DecidableEq, Repr

/-- What a PCI Express peer asks of the part. -/
inductive PeerReq where
  /-- a read of `n` bytes -/
  | read (a : PeerAddr) (n : Nat)
  /-- a posted write, with the relaxed-ordering attribute or without -/
  | write (a : PeerAddr) (data : List Byte) (ro : Bool)
  deriving DecidableEq, Repr

/-- Bytes of an access. -/
def BusOp.size : BusOp → Nat
  | .read n => n
  | .write data _ => data.length
  | .amoadd _ _ => 8

/-- Does an access write? -/
def BusOp.writes : BusOp → Bool
  | .read _ => false
  | _ => true

/-- An access of a hart, a firmware core or a peer. -/
inductive Access where
  | bus (m : Master) (pa place : Nat) (o : BusOp)
  | peer (k : Nat) (r : PeerReq)
  deriving DecidableEq, Repr

/-- The hart, firmware core or port whose access it is. -/
def Access.agent : Access → Nat × Nat
  | .bus (.hart h) _ _ _ => (0, h)
  | .bus (.firm d) _ _ _ => (1, d)
  | .peer k _ => (2, k)

/-- The instructions: one constructor per row of spec/opcode_table.json. -/
inductive Instr where
  -- 09 R212-R222: the Gulnor forms and the compact forms with operand fields; the slice cycle
  | bra (o : OpC)
  | brx (o : OpC)
  | call (o : OpC)
  | callx (o : OpC)
  | join (o : OpC)
  | mballot (o : OpA)
  | mlogAnd (o : OpA)
  | mlogOr (o : OpA)
  | mlogXor (o : OpA)
  | mlogAndn (o : OpA)
  | mlogMov (o : OpA)
  | mtest (o : OpA)
  | mpop (o : OpA)
  | voteAny (o : OpA)
  | voteAll (o : OpA)
  | voteBallot (o : OpA)
  | brvAny (o : OpC)
  | brvAll (o : OpC)
  | brvNone (o : OpC)
  | pass (o : OpC)
  | passAny (o : OpC)
  | barArrive (lvl : BarLvl) (o : OpC)
  | barWait (lvl : BarLvl) (o : OpC)
  | barSync (lvl : BarLvl) (o : OpC)
  | add (o : OpA)
  | sub (o : OpA)
  | mul (o : OpA)
  | mulhi (o : OpA)
  | mad (o : OpA)
  | madhi (o : OpA)
  | wmul (o : OpA)
  | add64 (o : OpA)
  | min (o : OpA)
  | max (o : OpA)
  | absd (o : OpA)
  | neg (o : OpA)
  | divstep (o : OpA)
  | divfix (o : OpA)
  | and (o : OpA)
  | or (o : OpA)
  | xor (o : OpA)
  | andn (o : OpA)
  | mix3 (o : OpA)
  | shl (o : OpA)
  | shr (o : OpA)
  | sar (o : OpA)
  | fshf (o : OpA)
  | popc (o : OpA)
  | clz (o : OpA)
  | brev (o : OpA)
  | bfe (o : OpA)
  | bfi (o : OpA)
  | cmpEq (o : OpA)
  | cmpNe (o : OpA)
  | cmpLt (o : OpA)
  | cmpLe (o : OpA)
  | cmpGt (o : OpA)
  | cmpGe (o : OpA)
  | plogAnd (o : OpA)
  | plogOr (o : OpA)
  | plogXor (o : OpA)
  | plogAndn (o : OpA)
  | plogMov (o : OpA)
  | sel (o : OpA)
  | mov (o : OpA)
  | movxSv (o : OpA)
  | movxPv (o : OpA)
  | movxVp (o : OpA)
  | movxSw (o : OpA)
  | movxWs (o : OpA)
  | movxMs (o : OpA)
  | movxSm (o : OpA)
  | shflIdx (o : OpA)
  | shflUp (o : OpA)
  | shflDown (o : OpA)
  | shflXor (o : OpA)
  | rdlane (o : OpA)
  | fadd (o : OpA)
  | fmul (o : OpA)
  | fma (o : OpA)
  | fnma (o : OpA)
  | fmin (o : OpA)
  | fmax (o : OpA)
  | fabs (o : OpA)
  | fneg (o : OpA)
  | fcpsgn (o : OpA)
  | fcmpEq (o : OpA)
  | fcmpNe (o : OpA)
  | fcmpLt (o : OpA)
  | fcmpLe (o : OpA)
  | fcmpGt (o : OpA)
  | fcmpGe (o : OpA)
  | fcmpUn (o : OpA)
  | fcmpOrd (o : OpA)
  | fclass (o : OpA)
  | fscale (o : OpA)
  | frnd (o : OpA)
  | frcp (o : OpA)
  | frsq (o : OpA)
  | fsqrt (o : OpA)
  | fex2 (o : OpA)
  | flg2 (o : OpA)
  | fsin (o : OpA)
  | fcos (o : OpA)
  | ftanh (o : OpA)
  | fadd2 (o : OpA)
  | fmul2 (o : OpA)
  | fma2 (o : OpA)
  | fdot2 (o : OpA)
  | cvt (src : TyCode) (o : OpA)
  | cvtpk (fmt : EFmt) (o : OpA)
  | cvtwd (fmt : EFmt) (o : OpA)
  | qscaleE8m0 (o : OpA)
  | qscaleE4m3 (o : OpA)
  | qscaleF32 (o : OpA)
  | qscaleF16 (o : OpA)
  | redAdd (o : OpA)
  | redMin (o : OpA)
  | redMax (o : OpA)
  | redAnd (o : OpA)
  | redOr (o : OpA)
  | redXor (o : OpA)
  | scanAdd (o : OpA)
  | scanMin (o : OpA)
  | scanMax (o : OpA)
  | scanAnd (o : OpA)
  | scanOr (o : OpA)
  | scanXor (o : OpA)
  | ld (o : OpM)
  | st (o : OpM)
  | lda (o : OpM)
  | str (o : OpM)
  | ldfmt (o : OpM)
  | ldu (o : OpM)
  | stu (o : OpM)
  | stmc (o : OpM)
  | stredAdd (o : OpM)
  | stredAnd (o : OpM)
  | stredOr (o : OpM)
  | stredXor (o : OpM)
  | stredMin (o : OpM)
  | stredMax (o : OpM)
  | fenceAcq (o : OpM)
  | fenceRel (o : OpM)
  | fenceFull (o : OpM)
  | brmake (o : OpX)
  | brsetBase (o : OpX)
  | brsetStride (o : OpX)
  | brsetExtent (o : OpX)
  | brsetSwz (o : OpX)
  | brsetEsz (o : OpX)
  | brsetOobf (o : OpX)
  | brgetBase (o : OpX)
  | brgetStride (o : OpX)
  | brgetExtent (o : OpX)
  | brgetSwz (o : OpX)
  | brgetEsz (o : OpX)
  | brgetOobf (o : OpX)
  | bradv (o : OpX)
  | lea (o : OpM)
  | atomAdd (o : OpM)
  | atomAnd (o : OpM)
  | atomOr (o : OpM)
  | atomXor (o : OpM)
  | atomMin (o : OpM)
  | atomMax (o : OpM)
  | atomXchg (o : OpM)
  | cas (o : OpM)
  | atomnAdd (o : OpM)
  | atomnAnd (o : OpM)
  | atomnOr (o : OpM)
  | atomnXor (o : OpM)
  | atomnMin (o : OpM)
  | atomnMax (o : OpM)
  | ldwE (o : OpM)
  | ldf (o : OpM)
  | fill (o : OpM)
  | empty (o : OpM)
  | feget (o : OpM)
  | cpyb (o : OpX)
  | cpyk (o : OpM)
  | cpyw (o : OpX)
  | cpyq (o : OpX)
  | job (o : OpX)
  | jobp (o : OpX)
  | jwait (o : OpX)
  | jstat (o : OpX)
  | tdset (wd : BitVec 3) (o : OpX)
  | tdget (wd : BitVec 3) (o : OpX)
  | bsld (o : OpX)
  | accrd (o : OpX)
  | accwr (o : OpX)
  | accz (o : OpX)
  | jchk (o : OpX)
  | emit (o : OpX)
  | take (o : OpX)
  | done (o : OpX)
  | syscall (o : OpX)
  | brk (o : OpX)
  | timerarm (o : OpX)
  | rdsr (o : OpX)
  | wrsr (o : OpX)
  | rdcnt (o : OpX)
  | hintClass (o : OpX)
  | hintIdle (o : OpX)
  | compactAddV (o : OpK)
  | compactAddVi (o : OpK)
  | compactSubV (o : OpK)
  | compactMulV (o : OpK)
  | compactMulVi (o : OpK)
  | compactMin (o : OpK)
  | compactMax (o : OpK)
  | compactAndV (o : OpK)
  | compactAndVi (o : OpK)
  | compactOrV (o : OpK)
  | compactOrVi (o : OpK)
  | compactXorV (o : OpK)
  | compactXorVi (o : OpK)
  | compactShlV (o : OpK)
  | compactShlVi (o : OpK)
  | compactShrVi (o : OpK)
  | compactSarVi (o : OpK)
  | compactMovV (o : OpK)
  | compactMovVi (o : OpK)
  | compactAddS (o : OpK)
  | compactAddSi (o : OpK)
  | compactMovS (o : OpK)
  | compactMovSi (o : OpK)
  | compactCmpEq (o : OpK)
  | compactCmpLt (o : OpK)
  | compactCmpLtU32 (o : OpK)
  | compactCmpLtI (o : OpK)
  | compactFadd (o : OpK)
  | compactFmul (o : OpK)
  | compactFmin (o : OpK)
  | compactFmax (o : OpK)
  | compactLdV (o : OpK)
  | compactLdI (o : OpK)
  | compactSt (o : OpK)
  | compactLdu (o : OpK)
  | compactPopc (o : OpK)
  | compactShflXor (o : OpK)
  | compactShflIdx (o : OpK)
  | sliceCycle (sl : Nat)
  -- the forms without operand fields
  | nop
  | ret
  | park
  | exit
  | fenceOpr
  | tret
  | tretW
  | ckpt
  | compactNop
  | compactExit
  -- steps of the part that no program encodes
  | ceiling (g : Nat)
  | instructionLineFill (core : Nat) (root : BitVec 64) (va : BitVec 64) (soft : Bool)
  | operandCollect (x : Collecting)
  | resultWriteback (sl : Nat)
  | wRegisterApply (core : Nat)
  | joinTest (g : Nat)
  | barrierRelease (blk : Nat) (lv : BarLvl) (n : Nat)
  | hintIdleWake (sl : Nat)
  | memoryRequestServe (r : ServeReq)
  | loadReply (core : Nat) (id : Nat)
  | inboundDrain (core : Nat)
  | creditAcknowledge (src : Nat) (tgt : Nat)
  | creditReturn (src : Nat) (tgt : Nat)
  | denialNotice (id : Nat)
  | fullEmptyAnswer (core : Nat) (id : Nat)
  | ldwEWake (core : Nat) (id : Nat)
  | promotionDemand (id : Nat)
  | promotionAnswer (id : Nat)
  | atomicPerform (core : Nat) (id : Nat) (lost : Bool) (err : Ecc)
  | atomicReplay (core : Nat) (id : Nat)
  | streamPrefetch (die : Nat) (line : Nat)
  | copyElement (core : Nat) (tag : Nat) (k : Nat) (err : Ecc)
  | copyRetire (core : Nat) (tag : Nat)
  | copyFault (core : Nat) (tag : Nat)
  | bsldComplete (core : Nat) (id : Nat)
  | jobStart (core : Nat)
  | anvilIteration (core : Nat) (soft : Nat)
  | anvilDrain (core : Nat)
  | jobDone (core : Nat)
  | jobFault (core : Nat)
  | recordArrival (die : Nat)
  | overflowRefill (gr : Nat) (node : Nat) (q : Nat)
  | binfull (g : Nat)
  | binEvaluation (die : Nat)
  | binTimerExpiry (gr : Nat) (node : Nat) (q : Nat)
  | vaneDone (die : Nat)
  | vaneTake (die : Nat)
  | nodeStatusWrite (gr : Nat)
  | graphComplete (gr : Nat)
  | qres (die : Nat) (q : Nat)
  | qcommit (die : Nat) (q : Nat) (v : BitVec 32)
  | qcfg (die : Nat) (q : Nat) (v : BitVec 32)
  | commandConsume (die : Nat) (q : Nat)
  | nopCommand (die : Nat) (q : Nat)
  | launch (die : Nat) (q : Nat)
  | graph (die : Nat) (q : Nat)
  | waitmem (die : Nat) (q : Nat)
  | waitmemSatisfied (die : Nat) (q : Nat)
  | writemem (die : Nat) (q : Nat)
  | gstatus (die : Nat) (q : Nat)
  | blockStart (id : Nat)
  | launchComplete (id : Nat)
  | blockRelease (id : Nat)
  | leaseRenew (die : Nat)
  | leasePoll (die : Nat)
  | leaderLapse (die : Nat)
  | leaseHandover (die : Nat) (succ : Nat)
  | setregion (die : Nat)
  | clearregion (die : Nat)
  | preempt (die : Nat)
  | restore (die : Nat)
  | setrspace (die : Nat)
  | blockPreempt (id : Nat)
  | blockRestore (id : Nat)
  | tsync (die : Nat) (v : BitVec 64)
  | tlbInvalidation (core : Nat)
  | tableWalk (core : Nat) (root : BitVec 64) (va : BitVec 64) (kind : AccKind)
  | trapDelivery (die : Nat)
  | trcfg (die : Nat) (v : BitVec 32)
  | tractResumeTrpc (die : Nat) (v : BitVec 32)
  | tractResumePc (die : Nat) (v : BitVec 32)
  | tractEndGroup (die : Nat) (v : BitVec 32)
  | tractKill (die : Nat) (v : BitVec 32)
  | migctlGo (die : Nat)
  | migrationFreeze (die : Nat)
  | migrationDone (die : Nat)
  | rollback (id : Nat)
  | launchKill (id : Nat) (cause : BitVec 9)
  | syscallTicketDraw (g : Nat)
  | scdone (die : Nat) (h : Nat) (v : BitVec 64)
  | syscallCompletion (id : Nat)
  | introute (die : Nat) (k : Nat) (v : BitVec 32)
  | comparatorFire (core : Nat) (n : Nat)
  | lqdevattr (h : Nat) (o : DevAttrOp)
  | lqcuralm (a : HartCsr) (ev : BitVec 5)
  | lqpwrctl (r : PowerCsr)
  | currentAlarm (k : Nat)
  | boostGrant (on : Bool)
  | telemetryUpdate (avg : BitVec 32) (pwr : BitVec 64) (tmp : BitVec 64) (uj : BitVec 64)
  | slottabWrite (sl : Nat) (row : Nat) (v : BitVec 32)
  | clkratWrite (sl : Nat) (v : BitVec 32)
  | passcntWrite (core : Nat) (v : BitVec 32)
  | tokbalWrite (sl : Nat) (v : BitVec 32)
  | tokenRefill (sl : Nat)
  | sgate (sl : Nat)
  | cgate (core : Nat)
  | coff (core : Nat)
  | unitWake (core : Nat)
  | coldReset
  | warmReset
  | flitSend (d : LinkEnd) (pay : BitVec 64)
  | flitReceive (d : LinkEnd) (lane : BitVec 8)
  | ackReceive (d : LinkEnd)
  | nakReceive (d : LinkEnd)
  | ackTimeout (d : LinkEnd)
  | laneShed (l : Nat)
  | linkReset (l : Nat)
  | finjctl (l : Nat) (v : BitVec 64)
  | collctlGo (die : Nat)
  | collectiveComplete (die : Nat)
  | attctlGo (die : Nat)
  | quoteSign (die : Nat)
  | twinCompare (t : Nat)
  | ckptRendezvous (t : Nat)
  | pciePeerRequest (k : Nat) (r : PeerReq)
  | registerWrite (die : Nat) (off : Nat) (n : Nat) (v : BitVec 64) (m : Master)
  | aplicWiredSource (die : Nat) (src : Nat) (on : Bool)
  | pcieLinkReset (k : Nat)
  | retrainComplete (l : Nat) (bad : BitVec 8)
  | dramActivationWindow (die : Nat) (v : BitVec 16)
  | badreq (die : Nat)
  deriving DecidableEq, Repr

end Sys2Proof
end

