-- ==== Sys2Proof/Decode.lean ====
section
/-! DEFINITION. The encoding of the Gulnor: one `Form` per row of the opcode tables (09 R210-R221) with the operand table of its
chapter, the checks of order 5 and 6 of 08 R207, the decoder (total, rejecting by name) and the encoder. -/

namespace Sys2Proof

/-! ## Forms -/

/-- A register class (03 R62). -/
inductive Cls where
  | v | s | p | m | b | w | t | a
  deriving DecidableEq, Repr

/-- How a form reads its immediate (12 R263, 13 R279, 11 R245). -/
inductive Ext where
  /-- sign-extended -/
  | sx
  /-- zero-extended -/
  | zx
  /-- sign-extended for a signed TYPE, zero-extended for an unsigned one -/
  | byTy
  /-- a floating value of the TYPE -/
  | fp
  /-- a 16-bit floating value that stands in both elements -/
  | fp2
  /-- a value of .f32 -/
  | f32
  /-- a value of the source type of CVT -/
  | srcTy
  deriving DecidableEq, Repr

/-- How many registers an operand names. -/
inductive Cnt where
  | one | pair | glen | clen | args | len | wbit
  deriving DecidableEq, Repr

/-- One operand of a form: the slot of 23 R401 it stands in, what it admits, and how it is used. -/
structure Fld where
  slot : Nat
  cls : List Cls
  imm : Option Ext := none
  /-- the greatest immediate admitted -/
  lim : Nat := 0xFFFFFFFF
  /-- 0x3FF admitted -/
  opt : Bool := false
  cnt : Cnt := .one
  dst : Bool := false
  src : Bool := true
  deriving DecidableEq, Repr

/-- The four formats (08 R194). -/
inductive Fm where
  | a | m | c | x
  deriving DecidableEq, Repr

/-- How a form uses IMM16, IMM32 or LDISP beside an immediate selector. -/
inductive ImmUse where
  /-- only where a selector is 0x300 -/
  | sel
  /-- never -/
  | none
  /-- the immediate of the memory operand -/
  | mem
  /-- the memory immediate, or the successor of LDW.E (14 R309) -/
  | ldwe
  /-- the selection table of MIX3 -/
  | mix3
  /-- the element index of CVTPK and CVTWD -/
  | elem
  /-- the control of CPYK -/
  | cpyk
  /-- the direct target -/
  | target
  /-- EMIT: node and LEN -/
  | emit
  /-- RDSR, WRSR: W and the register number -/
  | sr
  /-- RDCNT: the counter number -/
  | cnt
  deriving DecidableEq, Repr

/-- Whether a form has a rounding slot, a flush, ... -/
inductive Slot3 where
  | no | yes
  /-- with .f32 only (13 R280, R293) -/
  | f32
  /-- except between two integer types (13 R280) -/
  | cvt
  deriving DecidableEq, Repr

/-- Issue classes (01 R22). -/
inductive Iss where
  | alu | mem | control | engine
  deriving DecidableEq, Repr

/-- Timing classes (01 R30). -/
inductive Tim where
  | f | n | s | x
  deriving DecidableEq, Repr

/-- A form of the opcode map. -/
structure Form where
  fmt : Fm
  opc : Nat
  minors : List Nat := [0]
  /-- the TYPE set, default first; empty: TYPE is reserved -/
  types : List TyCode := []
  ops : List Fld := []
  rnd : Slot3 := .no
  sat : Bool := false
  den : Slot3 := .no
  imm : ImmUse := .sel
  /-- default scope of a form with a scope slot -/
  scope : Option Nat := none
  rem : Bool := false
  glens : List Nat := [0]
  brec : Bool := false
  /-- D1 holds a barrier number (09 R218) -/
  bar : Bool := false
  /-- an s destination (or data) admits no v source (or index): 12 R262, 13 R278, 14 R295 -/
  uni : Bool := false
  /-- no modifying slot admitted at all (16 R345) -/
  noPfx : Bool := false
  /-- latency of a fixed-latency result; 0: the form has none -/
  lat : Nat := 0
  /-- an interlocked result (08 R201) -/
  inter : Bool := false
  iss : Iss
  tim : Tim
  deriving DecidableEq, Repr

namespace Forms

/-- NOP -/
def nop : Form :=
  { fmt := .a, opc := 0x01, iss := .alu, tim := .f }
/-- BRA -/
def bra : Form :=
  { fmt := .c, opc := 0x02, imm := .target, iss := .control, tim := .n }
/-- BRX -/
def brx : Form :=
  { fmt := .c, opc := 0x03, ops := [{ slot := 2, cls := [.v, .s], cnt := .pair }], iss := .control, tim := .n }
/-- CALL -/
def call : Form :=
  { fmt := .c, opc := 0x04, imm := .target, iss := .control, tim := .n }
/-- CALLX -/
def callx : Form :=
  { fmt := .c, opc := 0x05, ops := [{ slot := 2, cls := [.v, .s], cnt := .pair }], iss := .control, tim := .n }
/-- RET -/
def ret : Form :=
  { fmt := .c, opc := 0x06, iss := .control, tim := .n }
/-- JOIN -/
def join : Form :=
  { fmt := .c, opc := 0x07, ops := [{ slot := 2, cls := [.m] }], iss := .control, tim := .f }
/-- MBALLOT -/
def mballot : Form :=
  { fmt := .a, opc := 0x08, ops := [{ slot := 0, cls := [.m], dst := true, src := false }, { slot := 2, cls := [.p] }], lat := 1, iss := .alu, tim := .f }
/-- MLOG_AND -/
def mlogAnd : Form :=
  { fmt := .a, opc := 0x09, ops := [{ slot := 0, cls := [.m], dst := true, src := false }, { slot := 2, cls := [.m], imm := some .zx }, { slot := 3, cls := [.m], imm := some .zx }], lat := 1, iss := .alu, tim := .f }
/-- MLOG_OR -/
def mlogOr : Form :=
  { fmt := .a, opc := 0x09, minors := [1], ops := [{ slot := 0, cls := [.m], dst := true, src := false }, { slot := 2, cls := [.m], imm := some .zx }, { slot := 3, cls := [.m], imm := some .zx }], lat := 1, iss := .alu, tim := .f }
/-- MLOG_XOR -/
def mlogXor : Form :=
  { fmt := .a, opc := 0x09, minors := [2], ops := [{ slot := 0, cls := [.m], dst := true, src := false }, { slot := 2, cls := [.m], imm := some .zx }, { slot := 3, cls := [.m], imm := some .zx }], lat := 1, iss := .alu, tim := .f }
/-- MLOG_ANDN -/
def mlogAndn : Form :=
  { fmt := .a, opc := 0x09, minors := [3], ops := [{ slot := 0, cls := [.m], dst := true, src := false }, { slot := 2, cls := [.m], imm := some .zx }, { slot := 3, cls := [.m], imm := some .zx }], lat := 1, iss := .alu, tim := .f }
/-- MLOG_MOV -/
def mlogMov : Form :=
  { fmt := .a, opc := 0x09, minors := [4], ops := [{ slot := 0, cls := [.m], dst := true, src := false }, { slot := 2, cls := [.m], imm := some .zx }], lat := 1, iss := .alu, tim := .f }
/-- MTEST -/
def mtest : Form :=
  { fmt := .a, opc := 0x0A, ops := [{ slot := 0, cls := [.p], dst := true, src := false }, { slot := 2, cls := [.m] }], lat := 5, iss := .alu, tim := .f }
/-- MPOP -/
def mpop : Form :=
  { fmt := .a, opc := 0x0B, ops := [{ slot := 0, cls := [.v, .s], dst := true, src := false }, { slot := 2, cls := [.m] }], lat := 5, iss := .alu, tim := .f }
/-- VOTE_ANY -/
def voteAny : Form :=
  { fmt := .a, opc := 0x0C, ops := [{ slot := 0, cls := [.p], dst := true, src := false }, { slot := 2, cls := [.p] }], lat := 5, iss := .alu, tim := .f }
/-- VOTE_ALL -/
def voteAll : Form :=
  { fmt := .a, opc := 0x0C, minors := [1], ops := [{ slot := 0, cls := [.p], dst := true, src := false }, { slot := 2, cls := [.p] }], lat := 5, iss := .alu, tim := .f }
/-- VOTE_BALLOT -/
def voteBallot : Form :=
  { fmt := .a, opc := 0x0C, minors := [2], ops := [{ slot := 0, cls := [.v, .s], dst := true, src := false }, { slot := 2, cls := [.p] }], lat := 5, iss := .alu, tim := .f }
/-- BRV_ANY -/
def brvAny : Form :=
  { fmt := .c, opc := 0x0D, ops := [{ slot := 2, cls := [.p] }], imm := .target, iss := .control, tim := .n }
/-- BRV_ALL -/
def brvAll : Form :=
  { fmt := .c, opc := 0x0D, minors := [1], ops := [{ slot := 2, cls := [.p] }], imm := .target, iss := .control, tim := .n }
/-- BRV_NONE -/
def brvNone : Form :=
  { fmt := .c, opc := 0x0D, minors := [2], ops := [{ slot := 2, cls := [.p] }], imm := .target, iss := .control, tim := .n }
/-- PASS -/
def pass : Form :=
  { fmt := .c, opc := 0x10, ops := [{ slot := 0, cls := [.p], dst := true, src := false }, { slot := 1, cls := [.s], dst := true, src := false }, { slot := 2, cls := [.s], imm := some .zx }, { slot := 5, cls := [.v], opt := true, cnt := .clen }], lat := 5, iss := .control, tim := .n }
/-- PASS_ANY -/
def passAny : Form :=
  { fmt := .c, opc := 0x11, ops := [{ slot := 0, cls := [.p], dst := true, src := false }, { slot := 1, cls := [.s], dst := true, src := false }, { slot := 2, cls := [.s], imm := some .zx }, { slot := 5, cls := [.v], opt := true, cnt := .clen }], lat := 5, iss := .control, tim := .n }
/-- PARK -/
def park : Form :=
  { fmt := .c, opc := 0x12, iss := .control, tim := .f }
/-- EXIT -/
def exit : Form :=
  { fmt := .c, opc := 0x13, iss := .control, tim := .f }
/-- BAR_ARRIVE -/
def barArrive : Form :=
  { fmt := .c, opc := 0x14, minors := [0, 1, 2, 3], bar := true, iss := .control, tim := .n }
/-- BAR_WAIT -/
def barWait : Form :=
  { fmt := .c, opc := 0x15, minors := [0, 1, 2, 3], ops := [{ slot := 2, cls := [.s], imm := some .zx, opt := true }], bar := true, iss := .control, tim := .n }
/-- BAR_SYNC -/
def barSync : Form :=
  { fmt := .c, opc := 0x16, minors := [0, 1, 2, 3], ops := [{ slot := 2, cls := [.s], imm := some .zx, opt := true }], bar := true, iss := .control, tim := .n }
/-- ADD -/
def add : Form :=
  { fmt := .a, opc := 0x20, types := [.s32, .u32], ops := [{ slot := 0, cls := [.v, .s], dst := true, src := false }, { slot := 2, cls := [.v, .s], imm := some .sx }, { slot := 3, cls := [.v, .s], imm := some .sx }], sat := true, uni := true, lat := 5, iss := .alu, tim := .f }
/-- SUB -/
def sub : Form :=
  { fmt := .a, opc := 0x21, types := [.s32, .u32], ops := [{ slot := 0, cls := [.v, .s], dst := true, src := false }, { slot := 2, cls := [.v, .s], imm := some .sx }, { slot := 3, cls := [.v, .s], imm := some .sx }], sat := true, uni := true, lat := 5, iss := .alu, tim := .f }
/-- MUL -/
def mul : Form :=
  { fmt := .a, opc := 0x22, types := [.s32, .u32], ops := [{ slot := 0, cls := [.v, .s], dst := true, src := false }, { slot := 2, cls := [.v, .s], imm := some .sx }, { slot := 3, cls := [.v, .s], imm := some .sx }], sat := true, uni := true, lat := 5, iss := .alu, tim := .n }
/-- MULHI -/
def mulhi : Form :=
  { fmt := .a, opc := 0x23, types := [.s32, .u32], ops := [{ slot := 0, cls := [.v, .s], dst := true, src := false }, { slot := 2, cls := [.v, .s], imm := some .sx }, { slot := 3, cls := [.v, .s], imm := some .sx }], uni := true, lat := 5, iss := .alu, tim := .n }
/-- MAD -/
def mad : Form :=
  { fmt := .a, opc := 0x24, types := [.s32, .u32], ops := [{ slot := 0, cls := [.v, .s], dst := true, src := false }, { slot := 2, cls := [.v, .s], imm := some .sx }, { slot := 3, cls := [.v, .s], imm := some .sx }, { slot := 4, cls := [.v, .s], imm := some .sx }], sat := true, uni := true, lat := 5, iss := .alu, tim := .n }
/-- MADHI -/
def madhi : Form :=
  { fmt := .a, opc := 0x25, types := [.s32, .u32], ops := [{ slot := 0, cls := [.v, .s], dst := true, src := false }, { slot := 2, cls := [.v, .s], imm := some .sx }, { slot := 3, cls := [.v, .s], imm := some .sx }, { slot := 4, cls := [.v, .s], imm := some .sx }], uni := true, lat := 5, iss := .alu, tim := .n }
/-- WMUL -/
def wmul : Form :=
  { fmt := .a, opc := 0x26, types := [.s32, .u32], ops := [{ slot := 0, cls := [.v, .s], cnt := .pair, dst := true, src := false }, { slot := 2, cls := [.v, .s], imm := some .sx }, { slot := 3, cls := [.v, .s], imm := some .sx }], uni := true, lat := 5, iss := .alu, tim := .n }
/-- ADD64 -/
def add64 : Form :=
  { fmt := .a, opc := 0x27, types := [.s32, .u32], ops := [{ slot := 0, cls := [.v, .s], cnt := .pair, dst := true, src := false }, { slot := 2, cls := [.v, .s], cnt := .pair }, { slot := 3, cls := [.v, .s], imm := some .sx, cnt := .pair }], uni := true, lat := 5, iss := .alu, tim := .f }
/-- MIN -/
def min : Form :=
  { fmt := .a, opc := 0x28, types := [.s32, .u32], ops := [{ slot := 0, cls := [.v, .s], dst := true, src := false }, { slot := 2, cls := [.v, .s], imm := some .byTy }, { slot := 3, cls := [.v, .s], imm := some .byTy }], uni := true, lat := 5, iss := .alu, tim := .f }
/-- MAX -/
def max : Form :=
  { fmt := .a, opc := 0x29, types := [.s32, .u32], ops := [{ slot := 0, cls := [.v, .s], dst := true, src := false }, { slot := 2, cls := [.v, .s], imm := some .byTy }, { slot := 3, cls := [.v, .s], imm := some .byTy }], uni := true, lat := 5, iss := .alu, tim := .f }
/-- ABSD -/
def absd : Form :=
  { fmt := .a, opc := 0x2A, types := [.s32, .u32], ops := [{ slot := 0, cls := [.v, .s], dst := true, src := false }, { slot := 2, cls := [.v, .s], imm := some .byTy }, { slot := 3, cls := [.v, .s], imm := some .byTy }], uni := true, lat := 5, iss := .alu, tim := .f }
/-- NEG -/
def neg : Form :=
  { fmt := .a, opc := 0x2B, types := [.s32, .u32], ops := [{ slot := 0, cls := [.v, .s], dst := true, src := false }, { slot := 2, cls := [.v, .s], imm := some .sx }], sat := true, uni := true, lat := 5, iss := .alu, tim := .f }
/-- DIVSTEP -/
def divstep : Form :=
  { fmt := .a, opc := 0x2C, types := [.s32, .u32], ops := [{ slot := 0, cls := [.v, .s], cnt := .pair, dst := true, src := false }, { slot := 2, cls := [.v, .s], cnt := .pair }, { slot := 3, cls := [.v, .s], imm := some .byTy }], uni := true, lat := 8, iss := .alu, tim := .s }
/-- DIVFIX -/
def divfix : Form :=
  { fmt := .a, opc := 0x2D, types := [.s32, .u32], ops := [{ slot := 0, cls := [.v, .s], cnt := .pair, dst := true, src := false }, { slot := 2, cls := [.v, .s], cnt := .pair }, { slot := 3, cls := [.v, .s], imm := some .byTy }, { slot := 4, cls := [.v, .s], imm := some .byTy }], uni := true, lat := 8, iss := .alu, tim := .s }
/-- AND -/
def and : Form :=
  { fmt := .a, opc := 0x30, ops := [{ slot := 0, cls := [.v, .s], dst := true, src := false }, { slot := 2, cls := [.v, .s], imm := some .zx }, { slot := 3, cls := [.v, .s], imm := some .zx }], uni := true, lat := 5, iss := .alu, tim := .f }
/-- OR -/
def or : Form :=
  { fmt := .a, opc := 0x31, ops := [{ slot := 0, cls := [.v, .s], dst := true, src := false }, { slot := 2, cls := [.v, .s], imm := some .zx }, { slot := 3, cls := [.v, .s], imm := some .zx }], uni := true, lat := 5, iss := .alu, tim := .f }
/-- XOR -/
def xor : Form :=
  { fmt := .a, opc := 0x32, ops := [{ slot := 0, cls := [.v, .s], dst := true, src := false }, { slot := 2, cls := [.v, .s], imm := some .zx }, { slot := 3, cls := [.v, .s], imm := some .zx }], uni := true, lat := 5, iss := .alu, tim := .f }
/-- ANDN -/
def andn : Form :=
  { fmt := .a, opc := 0x33, ops := [{ slot := 0, cls := [.v, .s], dst := true, src := false }, { slot := 2, cls := [.v, .s], imm := some .zx }, { slot := 3, cls := [.v, .s], imm := some .zx }], uni := true, lat := 5, iss := .alu, tim := .f }
/-- MIX3 -/
def mix3 : Form :=
  { fmt := .a, opc := 0x34, ops := [{ slot := 0, cls := [.v, .s], dst := true, src := false }, { slot := 2, cls := [.v, .s] }, { slot := 3, cls := [.v, .s] }, { slot := 4, cls := [.v, .s] }], imm := .mix3, uni := true, lat := 5, iss := .alu, tim := .f }
/-- SHL -/
def shl : Form :=
  { fmt := .a, opc := 0x35, ops := [{ slot := 0, cls := [.v, .s], dst := true, src := false }, { slot := 2, cls := [.v, .s], imm := some .zx }, { slot := 3, cls := [.v, .s], imm := some .zx, lim := 31 }], uni := true, lat := 5, iss := .alu, tim := .f }
/-- SHR -/
def shr : Form :=
  { fmt := .a, opc := 0x36, ops := [{ slot := 0, cls := [.v, .s], dst := true, src := false }, { slot := 2, cls := [.v, .s], imm := some .zx }, { slot := 3, cls := [.v, .s], imm := some .zx, lim := 31 }], uni := true, lat := 5, iss := .alu, tim := .f }
/-- SAR -/
def sar : Form :=
  { fmt := .a, opc := 0x37, ops := [{ slot := 0, cls := [.v, .s], dst := true, src := false }, { slot := 2, cls := [.v, .s], imm := some .zx }, { slot := 3, cls := [.v, .s], imm := some .zx, lim := 31 }], uni := true, lat := 5, iss := .alu, tim := .f }
/-- FSHF -/
def fshf : Form :=
  { fmt := .a, opc := 0x38, ops := [{ slot := 0, cls := [.v, .s], dst := true, src := false }, { slot := 2, cls := [.v, .s] }, { slot := 3, cls := [.v, .s] }, { slot := 4, cls := [.v, .s], imm := some .zx, lim := 32 }], uni := true, lat := 5, iss := .alu, tim := .f }
/-- POPC -/
def popc : Form :=
  { fmt := .a, opc := 0x39, ops := [{ slot := 0, cls := [.v, .s], dst := true, src := false }, { slot := 2, cls := [.v, .s] }], uni := true, lat := 5, iss := .alu, tim := .f }
/-- CLZ -/
def clz : Form :=
  { fmt := .a, opc := 0x3A, ops := [{ slot := 0, cls := [.v, .s], dst := true, src := false }, { slot := 2, cls := [.v, .s] }], uni := true, lat := 5, iss := .alu, tim := .f }
/-- BREV -/
def brev : Form :=
  { fmt := .a, opc := 0x3B, ops := [{ slot := 0, cls := [.v, .s], dst := true, src := false }, { slot := 2, cls := [.v, .s] }], uni := true, lat := 5, iss := .alu, tim := .f }
/-- BFE -/
def bfe : Form :=
  { fmt := .a, opc := 0x3C, types := [.s32, .u32], ops := [{ slot := 0, cls := [.v, .s], dst := true, src := false }, { slot := 2, cls := [.v, .s] }, { slot := 3, cls := [.v, .s], imm := some .zx }], uni := true, lat := 5, iss := .alu, tim := .f }
/-- BFI -/
def bfi : Form :=
  { fmt := .a, opc := 0x3D, ops := [{ slot := 0, cls := [.v, .s], dst := true, src := false }, { slot := 2, cls := [.v, .s] }, { slot := 3, cls := [.v, .s] }, { slot := 4, cls := [.v, .s], imm := some .zx }], uni := true, lat := 5, iss := .alu, tim := .f }
/-- CMP_EQ -/
def cmpEq : Form :=
  { fmt := .a, opc := 0x40, types := [.s32, .u32], ops := [{ slot := 0, cls := [.p], dst := true, src := false }, { slot := 2, cls := [.v, .s], imm := some .byTy }, { slot := 3, cls := [.v, .s], imm := some .byTy }], lat := 5, iss := .alu, tim := .f }
/-- CMP_NE -/
def cmpNe : Form :=
  { fmt := .a, opc := 0x40, minors := [1], types := [.s32, .u32], ops := [{ slot := 0, cls := [.p], dst := true, src := false }, { slot := 2, cls := [.v, .s], imm := some .byTy }, { slot := 3, cls := [.v, .s], imm := some .byTy }], lat := 5, iss := .alu, tim := .f }
/-- CMP_LT -/
def cmpLt : Form :=
  { fmt := .a, opc := 0x40, minors := [2], types := [.s32, .u32], ops := [{ slot := 0, cls := [.p], dst := true, src := false }, { slot := 2, cls := [.v, .s], imm := some .byTy }, { slot := 3, cls := [.v, .s], imm := some .byTy }], lat := 5, iss := .alu, tim := .f }
/-- CMP_LE -/
def cmpLe : Form :=
  { fmt := .a, opc := 0x40, minors := [3], types := [.s32, .u32], ops := [{ slot := 0, cls := [.p], dst := true, src := false }, { slot := 2, cls := [.v, .s], imm := some .byTy }, { slot := 3, cls := [.v, .s], imm := some .byTy }], lat := 5, iss := .alu, tim := .f }
/-- CMP_GT -/
def cmpGt : Form :=
  { fmt := .a, opc := 0x40, minors := [4], types := [.s32, .u32], ops := [{ slot := 0, cls := [.p], dst := true, src := false }, { slot := 2, cls := [.v, .s], imm := some .byTy }, { slot := 3, cls := [.v, .s], imm := some .byTy }], lat := 5, iss := .alu, tim := .f }
/-- CMP_GE -/
def cmpGe : Form :=
  { fmt := .a, opc := 0x40, minors := [5], types := [.s32, .u32], ops := [{ slot := 0, cls := [.p], dst := true, src := false }, { slot := 2, cls := [.v, .s], imm := some .byTy }, { slot := 3, cls := [.v, .s], imm := some .byTy }], lat := 5, iss := .alu, tim := .f }
/-- PLOG_AND -/
def plogAnd : Form :=
  { fmt := .a, opc := 0x41, ops := [{ slot := 0, cls := [.p], dst := true, src := false }, { slot := 2, cls := [.p] }, { slot := 3, cls := [.p] }], lat := 5, iss := .alu, tim := .f }
/-- PLOG_OR -/
def plogOr : Form :=
  { fmt := .a, opc := 0x41, minors := [1], ops := [{ slot := 0, cls := [.p], dst := true, src := false }, { slot := 2, cls := [.p] }, { slot := 3, cls := [.p] }], lat := 5, iss := .alu, tim := .f }
/-- PLOG_XOR -/
def plogXor : Form :=
  { fmt := .a, opc := 0x41, minors := [2], ops := [{ slot := 0, cls := [.p], dst := true, src := false }, { slot := 2, cls := [.p] }, { slot := 3, cls := [.p] }], lat := 5, iss := .alu, tim := .f }
/-- PLOG_ANDN -/
def plogAndn : Form :=
  { fmt := .a, opc := 0x41, minors := [3], ops := [{ slot := 0, cls := [.p], dst := true, src := false }, { slot := 2, cls := [.p] }, { slot := 3, cls := [.p] }], lat := 5, iss := .alu, tim := .f }
/-- PLOG_MOV -/
def plogMov : Form :=
  { fmt := .a, opc := 0x41, minors := [4], ops := [{ slot := 0, cls := [.p], dst := true, src := false }, { slot := 2, cls := [.p] }], lat := 5, iss := .alu, tim := .f }
/-- SEL -/
def sel : Form :=
  { fmt := .a, opc := 0x42, ops := [{ slot := 0, cls := [.v, .s], dst := true, src := false }, { slot := 2, cls := [.v, .s], imm := some .sx }, { slot := 3, cls := [.v, .s], imm := some .sx }, { slot := 4, cls := [.p] }], uni := true, lat := 5, iss := .alu, tim := .f }
/-- MOV -/
def mov : Form :=
  { fmt := .a, opc := 0x43, ops := [{ slot := 0, cls := [.v, .s], dst := true, src := false }, { slot := 2, cls := [.v, .s], imm := some .sx }], uni := true, lat := 5, iss := .alu, tim := .f }
/-- MOVX_SV -/
def movxSv : Form :=
  { fmt := .a, opc := 0x44, ops := [{ slot := 0, cls := [.s], dst := true, src := false }, { slot := 2, cls := [.v] }], lat := 5, iss := .alu, tim := .f }
/-- MOVX_PV -/
def movxPv : Form :=
  { fmt := .a, opc := 0x44, minors := [1], ops := [{ slot := 0, cls := [.p], dst := true, src := false }, { slot := 2, cls := [.v] }], lat := 5, iss := .alu, tim := .f }
/-- MOVX_VP -/
def movxVp : Form :=
  { fmt := .a, opc := 0x44, minors := [2], ops := [{ slot := 0, cls := [.v], dst := true, src := false }, { slot := 2, cls := [.p] }], lat := 5, iss := .alu, tim := .f }
/-- MOVX_SW -/
def movxSw : Form :=
  { fmt := .a, opc := 0x44, minors := [3], ops := [{ slot := 0, cls := [.s], dst := true, src := false }, { slot := 2, cls := [.w] }], lat := 5, iss := .alu, tim := .f }
/-- MOVX_WS -/
def movxWs : Form :=
  { fmt := .a, opc := 0x44, minors := [4], ops := [{ slot := 0, cls := [.w], dst := true, src := false }, { slot := 2, cls := [.s], imm := some .zx }], iss := .alu, tim := .f }
/-- MOVX_MS -/
def movxMs : Form :=
  { fmt := .a, opc := 0x44, minors := [5], ops := [{ slot := 0, cls := [.m], dst := true, src := false }, { slot := 2, cls := [.s], imm := some .zx }], lat := 1, iss := .alu, tim := .f }
/-- MOVX_SM -/
def movxSm : Form :=
  { fmt := .a, opc := 0x44, minors := [6], ops := [{ slot := 0, cls := [.s], dst := true, src := false }, { slot := 2, cls := [.m] }], lat := 5, iss := .alu, tim := .f }
/-- SHFL_IDX -/
def shflIdx : Form :=
  { fmt := .a, opc := 0x45, ops := [{ slot := 0, cls := [.v], dst := true, src := false }, { slot := 2, cls := [.v] }, { slot := 3, cls := [.v, .s], imm := some .zx, lim := 31 }], lat := 6, iss := .alu, tim := .n }
/-- SHFL_UP -/
def shflUp : Form :=
  { fmt := .a, opc := 0x45, minors := [1], ops := [{ slot := 0, cls := [.v], dst := true, src := false }, { slot := 2, cls := [.v] }, { slot := 3, cls := [.s], imm := some .zx, lim := 31 }], lat := 6, iss := .alu, tim := .n }
/-- SHFL_DOWN -/
def shflDown : Form :=
  { fmt := .a, opc := 0x45, minors := [2], ops := [{ slot := 0, cls := [.v], dst := true, src := false }, { slot := 2, cls := [.v] }, { slot := 3, cls := [.s], imm := some .zx, lim := 31 }], lat := 6, iss := .alu, tim := .n }
/-- SHFL_XOR -/
def shflXor : Form :=
  { fmt := .a, opc := 0x45, minors := [3], ops := [{ slot := 0, cls := [.v], dst := true, src := false }, { slot := 2, cls := [.v] }, { slot := 3, cls := [.s], imm := some .zx, lim := 31 }], lat := 6, iss := .alu, tim := .n }
/-- RDLANE -/
def rdlane : Form :=
  { fmt := .a, opc := 0x46, ops := [{ slot := 0, cls := [.v, .s], dst := true, src := false }, { slot := 2, cls := [.v] }, { slot := 3, cls := [.s], imm := some .zx, lim := 31 }], lat := 6, iss := .alu, tim := .n }
/-- FADD -/
def fadd : Form :=
  { fmt := .a, opc := 0x50, types := [.f32, .bf16, .f16], ops := [{ slot := 0, cls := [.v, .s], dst := true, src := false }, { slot := 2, cls := [.v, .s], imm := some .fp }, { slot := 3, cls := [.v, .s], imm := some .fp }], rnd := .yes, sat := true, den := .yes, uni := true, lat := 5, iss := .alu, tim := .n }
/-- FMUL -/
def fmul : Form :=
  { fmt := .a, opc := 0x51, types := [.f32, .bf16, .f16], ops := [{ slot := 0, cls := [.v, .s], dst := true, src := false }, { slot := 2, cls := [.v, .s], imm := some .fp }, { slot := 3, cls := [.v, .s], imm := some .fp }], rnd := .yes, sat := true, den := .yes, uni := true, lat := 5, iss := .alu, tim := .n }
/-- FMA -/
def fma : Form :=
  { fmt := .a, opc := 0x52, types := [.f32, .bf16, .f16], ops := [{ slot := 0, cls := [.v, .s], dst := true, src := false }, { slot := 2, cls := [.v, .s], imm := some .fp }, { slot := 3, cls := [.v, .s], imm := some .fp }, { slot := 4, cls := [.v, .s], imm := some .fp }], rnd := .yes, sat := true, den := .yes, uni := true, lat := 5, iss := .alu, tim := .n }
/-- FNMA -/
def fnma : Form :=
  { fmt := .a, opc := 0x53, types := [.f32, .bf16, .f16], ops := [{ slot := 0, cls := [.v, .s], dst := true, src := false }, { slot := 2, cls := [.v, .s], imm := some .fp }, { slot := 3, cls := [.v, .s], imm := some .fp }, { slot := 4, cls := [.v, .s], imm := some .fp }], rnd := .yes, sat := true, den := .yes, uni := true, lat := 5, iss := .alu, tim := .n }
/-- FMIN -/
def fmin : Form :=
  { fmt := .a, opc := 0x54, types := [.f32, .bf16, .f16], ops := [{ slot := 0, cls := [.v, .s], dst := true, src := false }, { slot := 2, cls := [.v, .s], imm := some .fp }, { slot := 3, cls := [.v, .s], imm := some .fp }], den := .yes, uni := true, lat := 5, iss := .alu, tim := .f }
/-- FMAX -/
def fmax : Form :=
  { fmt := .a, opc := 0x55, types := [.f32, .bf16, .f16], ops := [{ slot := 0, cls := [.v, .s], dst := true, src := false }, { slot := 2, cls := [.v, .s], imm := some .fp }, { slot := 3, cls := [.v, .s], imm := some .fp }], den := .yes, uni := true, lat := 5, iss := .alu, tim := .f }
/-- FABS -/
def fabs : Form :=
  { fmt := .a, opc := 0x56, types := [.f32, .bf16, .f16], ops := [{ slot := 0, cls := [.v, .s], dst := true, src := false }, { slot := 2, cls := [.v, .s], imm := some .fp }], den := .yes, uni := true, lat := 5, iss := .alu, tim := .f }
/-- FNEG -/
def fneg : Form :=
  { fmt := .a, opc := 0x57, types := [.f32, .bf16, .f16], ops := [{ slot := 0, cls := [.v, .s], dst := true, src := false }, { slot := 2, cls := [.v, .s], imm := some .fp }], den := .yes, uni := true, lat := 5, iss := .alu, tim := .f }
/-- FCPSGN -/
def fcpsgn : Form :=
  { fmt := .a, opc := 0x58, types := [.f32, .bf16, .f16], ops := [{ slot := 0, cls := [.v, .s], dst := true, src := false }, { slot := 2, cls := [.v, .s], imm := some .fp }, { slot := 3, cls := [.v, .s], imm := some .fp }], den := .yes, uni := true, lat := 5, iss := .alu, tim := .f }
/-- FCMP_EQ -/
def fcmpEq : Form :=
  { fmt := .a, opc := 0x59, types := [.f32, .bf16, .f16], ops := [{ slot := 0, cls := [.p], dst := true, src := false }, { slot := 2, cls := [.v, .s], imm := some .fp }, { slot := 3, cls := [.v, .s], imm := some .fp }], den := .yes, lat := 5, iss := .alu, tim := .f }
/-- FCMP_NE -/
def fcmpNe : Form :=
  { fmt := .a, opc := 0x59, minors := [1], types := [.f32, .bf16, .f16], ops := [{ slot := 0, cls := [.p], dst := true, src := false }, { slot := 2, cls := [.v, .s], imm := some .fp }, { slot := 3, cls := [.v, .s], imm := some .fp }], den := .yes, lat := 5, iss := .alu, tim := .f }
/-- FCMP_LT -/
def fcmpLt : Form :=
  { fmt := .a, opc := 0x59, minors := [2], types := [.f32, .bf16, .f16], ops := [{ slot := 0, cls := [.p], dst := true, src := false }, { slot := 2, cls := [.v, .s], imm := some .fp }, { slot := 3, cls := [.v, .s], imm := some .fp }], den := .yes, lat := 5, iss := .alu, tim := .f }
/-- FCMP_LE -/
def fcmpLe : Form :=
  { fmt := .a, opc := 0x59, minors := [3], types := [.f32, .bf16, .f16], ops := [{ slot := 0, cls := [.p], dst := true, src := false }, { slot := 2, cls := [.v, .s], imm := some .fp }, { slot := 3, cls := [.v, .s], imm := some .fp }], den := .yes, lat := 5, iss := .alu, tim := .f }
/-- FCMP_GT -/
def fcmpGt : Form :=
  { fmt := .a, opc := 0x59, minors := [4], types := [.f32, .bf16, .f16], ops := [{ slot := 0, cls := [.p], dst := true, src := false }, { slot := 2, cls := [.v, .s], imm := some .fp }, { slot := 3, cls := [.v, .s], imm := some .fp }], den := .yes, lat := 5, iss := .alu, tim := .f }
/-- FCMP_GE -/
def fcmpGe : Form :=
  { fmt := .a, opc := 0x59, minors := [5], types := [.f32, .bf16, .f16], ops := [{ slot := 0, cls := [.p], dst := true, src := false }, { slot := 2, cls := [.v, .s], imm := some .fp }, { slot := 3, cls := [.v, .s], imm := some .fp }], den := .yes, lat := 5, iss := .alu, tim := .f }
/-- FCMP_UN -/
def fcmpUn : Form :=
  { fmt := .a, opc := 0x59, minors := [6], types := [.f32, .bf16, .f16], ops := [{ slot := 0, cls := [.p], dst := true, src := false }, { slot := 2, cls := [.v, .s], imm := some .fp }, { slot := 3, cls := [.v, .s], imm := some .fp }], den := .yes, lat := 5, iss := .alu, tim := .f }
/-- FCMP_ORD -/
def fcmpOrd : Form :=
  { fmt := .a, opc := 0x59, minors := [7], types := [.f32, .bf16, .f16], ops := [{ slot := 0, cls := [.p], dst := true, src := false }, { slot := 2, cls := [.v, .s], imm := some .fp }, { slot := 3, cls := [.v, .s], imm := some .fp }], den := .yes, lat := 5, iss := .alu, tim := .f }
/-- FCLASS -/
def fclass : Form :=
  { fmt := .a, opc := 0x5A, types := [.f32, .bf16, .f16], ops := [{ slot := 0, cls := [.v, .s], dst := true, src := false }, { slot := 2, cls := [.v, .s] }], den := .yes, uni := true, lat := 5, iss := .alu, tim := .f }
/-- FSCALE -/
def fscale : Form :=
  { fmt := .a, opc := 0x5B, types := [.f32, .bf16, .f16], ops := [{ slot := 0, cls := [.v, .s], dst := true, src := false }, { slot := 2, cls := [.v, .s], imm := some .fp }, { slot := 3, cls := [.v, .s], imm := some .sx }], rnd := .yes, sat := true, den := .yes, uni := true, lat := 5, iss := .alu, tim := .n }
/-- FRND -/
def frnd : Form :=
  { fmt := .a, opc := 0x5C, types := [.f32, .bf16, .f16], ops := [{ slot := 0, cls := [.v, .s], dst := true, src := false }, { slot := 2, cls := [.v, .s] }], rnd := .yes, den := .yes, uni := true, lat := 5, iss := .alu, tim := .n }
/-- FRCP -/
def frcp : Form :=
  { fmt := .a, opc := 0x60, types := [.f32], ops := [{ slot := 0, cls := [.v, .s], dst := true, src := false }, { slot := 2, cls := [.v, .s] }], den := .yes, uni := true, lat := 8, iss := .alu, tim := .s }
/-- FRSQ -/
def frsq : Form :=
  { fmt := .a, opc := 0x61, types := [.f32], ops := [{ slot := 0, cls := [.v, .s], dst := true, src := false }, { slot := 2, cls := [.v, .s] }], den := .yes, uni := true, lat := 8, iss := .alu, tim := .s }
/-- FSQRT -/
def fsqrt : Form :=
  { fmt := .a, opc := 0x62, types := [.f32], ops := [{ slot := 0, cls := [.v, .s], dst := true, src := false }, { slot := 2, cls := [.v, .s] }], rnd := .yes, sat := true, den := .yes, uni := true, lat := 8, iss := .alu, tim := .s }
/-- FEX2 -/
def fex2 : Form :=
  { fmt := .a, opc := 0x63, types := [.f32], ops := [{ slot := 0, cls := [.v, .s], dst := true, src := false }, { slot := 2, cls := [.v, .s] }], den := .yes, uni := true, lat := 8, iss := .alu, tim := .s }
/-- FLG2 -/
def flg2 : Form :=
  { fmt := .a, opc := 0x64, types := [.f32], ops := [{ slot := 0, cls := [.v, .s], dst := true, src := false }, { slot := 2, cls := [.v, .s] }], den := .yes, uni := true, lat := 8, iss := .alu, tim := .s }
/-- FSIN -/
def fsin : Form :=
  { fmt := .a, opc := 0x65, types := [.f32], ops := [{ slot := 0, cls := [.v, .s], dst := true, src := false }, { slot := 2, cls := [.v, .s] }], den := .yes, uni := true, lat := 12, iss := .alu, tim := .x }
/-- FCOS -/
def fcos : Form :=
  { fmt := .a, opc := 0x66, types := [.f32], ops := [{ slot := 0, cls := [.v, .s], dst := true, src := false }, { slot := 2, cls := [.v, .s] }], den := .yes, uni := true, lat := 12, iss := .alu, tim := .x }
/-- FTANH -/
def ftanh : Form :=
  { fmt := .a, opc := 0x67, types := [.f32], ops := [{ slot := 0, cls := [.v, .s], dst := true, src := false }, { slot := 2, cls := [.v, .s] }], den := .yes, uni := true, lat := 12, iss := .alu, tim := .x }
/-- FADD2 -/
def fadd2 : Form :=
  { fmt := .a, opc := 0x68, types := [.bf16, .f16], ops := [{ slot := 0, cls := [.v, .s], dst := true, src := false }, { slot := 2, cls := [.v, .s], imm := some .fp2 }, { slot := 3, cls := [.v, .s], imm := some .fp2 }], rnd := .yes, sat := true, den := .yes, uni := true, lat := 5, iss := .alu, tim := .n }
/-- FMUL2 -/
def fmul2 : Form :=
  { fmt := .a, opc := 0x69, types := [.bf16, .f16], ops := [{ slot := 0, cls := [.v, .s], dst := true, src := false }, { slot := 2, cls := [.v, .s], imm := some .fp2 }, { slot := 3, cls := [.v, .s], imm := some .fp2 }], rnd := .yes, sat := true, den := .yes, uni := true, lat := 5, iss := .alu, tim := .n }
/-- FMA2 -/
def fma2 : Form :=
  { fmt := .a, opc := 0x6A, types := [.bf16, .f16], ops := [{ slot := 0, cls := [.v, .s], dst := true, src := false }, { slot := 2, cls := [.v, .s], imm := some .fp2 }, { slot := 3, cls := [.v, .s], imm := some .fp2 }, { slot := 4, cls := [.v, .s], imm := some .fp2 }], rnd := .yes, sat := true, den := .yes, uni := true, lat := 5, iss := .alu, tim := .n }
/-- FDOT2 -/
def fdot2 : Form :=
  { fmt := .a, opc := 0x6B, types := [.bf16, .f16], ops := [{ slot := 0, cls := [.v, .s], dst := true, src := false }, { slot := 2, cls := [.v, .s] }, { slot := 3, cls := [.v, .s] }, { slot := 4, cls := [.v, .s], imm := some .f32 }], rnd := .yes, sat := true, den := .yes, uni := true, lat := 6, iss := .alu, tim := .n }
/-- CVT -/
def cvt : Form :=
  { fmt := .a, opc := 0x70, minors := [1, 2, 3, 4, 5, 6, 7, 8, 9], types := [.f32, .s32, .u32, .bf16, .f16, .s16, .u16, .s8, .u8], ops := [{ slot := 0, cls := [.v, .s], dst := true, src := false }, { slot := 2, cls := [.v, .s], imm := some .srcTy }], rnd := .yes, sat := true, den := .cvt, uni := true, lat := 5, iss := .alu, tim := .n }
/-- CVTPK -/
def cvtpk : Form :=
  { fmt := .a, opc := 0x71, minors := [2, 3, 4, 5, 6, 7, 8, 9, 10, 11, 12], ops := [{ slot := 0, cls := [.v, .s], dst := true, src := false }, { slot := 2, cls := [.v, .s] }, { slot := 3, cls := [.v, .s] }, { slot := 4, cls := [.v, .s] }], rnd := .yes, sat := true, den := .yes, imm := .elem, uni := true, lat := 6, iss := .alu, tim := .n }
/-- CVTWD -/
def cvtwd : Form :=
  { fmt := .a, opc := 0x72, minors := [2, 3, 4, 5, 6, 7, 8, 9, 10, 11, 12], ops := [{ slot := 0, cls := [.v, .s], dst := true, src := false }, { slot := 2, cls := [.v, .s] }], den := .yes, imm := .elem, uni := true, lat := 6, iss := .alu, tim := .n }
/-- QSCALE_E8M0 -/
def qscaleE8m0 : Form :=
  { fmt := .a, opc := 0x73, ops := [{ slot := 0, cls := [.v, .s], dst := true, src := false }, { slot := 2, cls := [.v, .s] }, { slot := 3, cls := [.v, .s], imm := some .zx }], rnd := .yes, sat := true, den := .yes, uni := true, lat := 6, iss := .alu, tim := .n }
/-- QSCALE_E4M3 -/
def qscaleE4m3 : Form :=
  { fmt := .a, opc := 0x73, minors := [1], ops := [{ slot := 0, cls := [.v, .s], dst := true, src := false }, { slot := 2, cls := [.v, .s] }, { slot := 3, cls := [.v, .s], imm := some .zx }], rnd := .yes, sat := true, den := .yes, uni := true, lat := 6, iss := .alu, tim := .n }
/-- QSCALE_F32 -/
def qscaleF32 : Form :=
  { fmt := .a, opc := 0x73, minors := [2], ops := [{ slot := 0, cls := [.v, .s], dst := true, src := false }, { slot := 2, cls := [.v, .s] }, { slot := 3, cls := [.v, .s], imm := some .f32 }], rnd := .yes, sat := true, den := .yes, uni := true, lat := 6, iss := .alu, tim := .n }
/-- QSCALE_F16 -/
def qscaleF16 : Form :=
  { fmt := .a, opc := 0x73, minors := [3], ops := [{ slot := 0, cls := [.v, .s], dst := true, src := false }, { slot := 2, cls := [.v, .s] }, { slot := 3, cls := [.v, .s], imm := some .zx }], rnd := .yes, sat := true, den := .yes, uni := true, lat := 6, iss := .alu, tim := .n }
/-- RED_ADD -/
def redAdd : Form :=
  { fmt := .a, opc := 0x78, types := [.s32, .u32, .f32], ops := [{ slot := 0, cls := [.v, .s], dst := true, src := false }, { slot := 2, cls := [.v] }], rnd := .f32, sat := true, den := .f32, lat := 10, iss := .alu, tim := .n }
/-- RED_MIN -/
def redMin : Form :=
  { fmt := .a, opc := 0x78, minors := [1], types := [.s32, .u32, .f32], ops := [{ slot := 0, cls := [.v, .s], dst := true, src := false }, { slot := 2, cls := [.v] }], den := .f32, lat := 10, iss := .alu, tim := .n }
/-- RED_MAX -/
def redMax : Form :=
  { fmt := .a, opc := 0x78, minors := [2], types := [.s32, .u32, .f32], ops := [{ slot := 0, cls := [.v, .s], dst := true, src := false }, { slot := 2, cls := [.v] }], den := .f32, lat := 10, iss := .alu, tim := .n }
/-- RED_AND -/
def redAnd : Form :=
  { fmt := .a, opc := 0x78, minors := [3], types := [.s32, .u32], ops := [{ slot := 0, cls := [.v, .s], dst := true, src := false }, { slot := 2, cls := [.v] }], lat := 10, iss := .alu, tim := .n }
/-- RED_OR -/
def redOr : Form :=
  { fmt := .a, opc := 0x78, minors := [4], types := [.s32, .u32], ops := [{ slot := 0, cls := [.v, .s], dst := true, src := false }, { slot := 2, cls := [.v] }], lat := 10, iss := .alu, tim := .n }
/-- RED_XOR -/
def redXor : Form :=
  { fmt := .a, opc := 0x78, minors := [5], types := [.s32, .u32], ops := [{ slot := 0, cls := [.v, .s], dst := true, src := false }, { slot := 2, cls := [.v] }], lat := 10, iss := .alu, tim := .n }
/-- SCAN_ADD -/
def scanAdd : Form :=
  { fmt := .a, opc := 0x79, types := [.s32, .u32, .f32], ops := [{ slot := 0, cls := [.v], dst := true, src := false }, { slot := 2, cls := [.v] }], rnd := .f32, sat := true, den := .f32, lat := 12, iss := .alu, tim := .n }
/-- SCAN_MIN -/
def scanMin : Form :=
  { fmt := .a, opc := 0x79, minors := [1], types := [.s32, .u32, .f32], ops := [{ slot := 0, cls := [.v], dst := true, src := false }, { slot := 2, cls := [.v] }], den := .f32, lat := 12, iss := .alu, tim := .n }
/-- SCAN_MAX -/
def scanMax : Form :=
  { fmt := .a, opc := 0x79, minors := [2], types := [.s32, .u32, .f32], ops := [{ slot := 0, cls := [.v], dst := true, src := false }, { slot := 2, cls := [.v] }], den := .f32, lat := 12, iss := .alu, tim := .n }
/-- SCAN_AND -/
def scanAnd : Form :=
  { fmt := .a, opc := 0x79, minors := [3], types := [.s32, .u32], ops := [{ slot := 0, cls := [.v], dst := true, src := false }, { slot := 2, cls := [.v] }], lat := 12, iss := .alu, tim := .n }
/-- SCAN_OR -/
def scanOr : Form :=
  { fmt := .a, opc := 0x79, minors := [4], types := [.s32, .u32], ops := [{ slot := 0, cls := [.v], dst := true, src := false }, { slot := 2, cls := [.v] }], lat := 12, iss := .alu, tim := .n }
/-- SCAN_XOR -/
def scanXor : Form :=
  { fmt := .a, opc := 0x79, minors := [5], types := [.s32, .u32], ops := [{ slot := 0, cls := [.v], dst := true, src := false }, { slot := 2, cls := [.v] }], lat := 12, iss := .alu, tim := .n }
/-- LD -/
def ld : Form :=
  { fmt := .m, opc := 0x80, types := [.s32, .u32, .f32, .bf16, .f16, .s16, .u16, .s8, .u8], ops := [{ slot := 0, cls := [.v], cnt := .glen, dst := true, src := false }, { slot := 2, cls := [.v, .s], opt := true }], imm := .mem, glens := [0, 1, 3], brec := true, inter := true, iss := .mem, tim := .n }
/-- ST -/
def st : Form :=
  { fmt := .m, opc := 0x81, types := [.s32, .u32, .f32, .bf16, .f16, .s16, .u16, .s8, .u8], ops := [{ slot := 0, cls := [.v], cnt := .glen }, { slot := 2, cls := [.v, .s], opt := true }], imm := .mem, glens := [0, 1, 3], brec := true, iss := .mem, tim := .n }
/-- LDA -/
def lda : Form :=
  { fmt := .m, opc := 0x82, types := [.s32, .u32, .f32, .bf16, .f16, .s16, .u16, .s8, .u8], ops := [{ slot := 0, cls := [.v, .s], cnt := .glen, dst := true, src := false }, { slot := 2, cls := [.v, .s], opt := true }], imm := .mem, scope := some 4, rem := true, glens := [0, 1], brec := true, uni := true, inter := true, iss := .mem, tim := .n }
/-- STR -/
def str : Form :=
  { fmt := .m, opc := 0x83, types := [.s32, .u32, .f32, .bf16, .f16, .s16, .u16, .s8, .u8], ops := [{ slot := 0, cls := [.v, .s], cnt := .glen }, { slot := 2, cls := [.v, .s], opt := true }], imm := .mem, scope := some 4, glens := [0, 1], brec := true, uni := true, iss := .mem, tim := .n }
/-- LDFMT -/
def ldfmt : Form :=
  { fmt := .m, opc := 0x84, types := [.s32, .u32, .f32, .bf16, .f16, .s16, .u16, .s8, .u8], ops := [{ slot := 0, cls := [.v], dst := true, src := false }, { slot := 2, cls := [.v, .s], opt := true }], rnd := .yes, sat := true, den := .yes, imm := .mem, brec := true, inter := true, iss := .mem, tim := .n }
/-- LDU -/
def ldu : Form :=
  { fmt := .m, opc := 0x85, types := [.s32, .u32, .f32, .bf16, .f16, .s16, .u16, .s8, .u8], ops := [{ slot := 0, cls := [.s], cnt := .glen, dst := true, src := false }, { slot := 2, cls := [.s], opt := true }], imm := .mem, glens := [0, 1, 3], brec := true, inter := true, iss := .mem, tim := .n }
/-- STU -/
def stu : Form :=
  { fmt := .m, opc := 0x86, types := [.s32, .u32, .f32, .bf16, .f16, .s16, .u16, .s8, .u8], ops := [{ slot := 0, cls := [.s], cnt := .glen }, { slot := 2, cls := [.s], opt := true }], imm := .mem, glens := [0, 1, 3], brec := true, iss := .mem, tim := .n }
/-- STMC -/
def stmc : Form :=
  { fmt := .m, opc := 0x87, types := [.s32, .u32, .f32], ops := [{ slot := 0, cls := [.v], cnt := .glen }, { slot := 2, cls := [.v, .s], opt := true }, { slot := 3, cls := [.s] }], imm := .mem, glens := [0, 1, 3], brec := true, iss := .mem, tim := .n }
/-- STRED_ADD -/
def stredAdd : Form :=
  { fmt := .m, opc := 0x88, types := [.s32, .u32, .f32, .bf16, .f16], ops := [{ slot := 0, cls := [.v] }, { slot := 2, cls := [.v, .s], opt := true }, { slot := 3, cls := [.s] }], imm := .mem, scope := some 4, brec := true, iss := .mem, tim := .n }
/-- STRED_AND -/
def stredAnd : Form :=
  { fmt := .m, opc := 0x88, minors := [1], types := [.s32, .u32], ops := [{ slot := 0, cls := [.v] }, { slot := 2, cls := [.v, .s], opt := true }, { slot := 3, cls := [.s] }], imm := .mem, scope := some 4, brec := true, iss := .mem, tim := .n }
/-- STRED_OR -/
def stredOr : Form :=
  { fmt := .m, opc := 0x88, minors := [2], types := [.s32, .u32], ops := [{ slot := 0, cls := [.v] }, { slot := 2, cls := [.v, .s], opt := true }, { slot := 3, cls := [.s] }], imm := .mem, scope := some 4, brec := true, iss := .mem, tim := .n }
/-- STRED_XOR -/
def stredXor : Form :=
  { fmt := .m, opc := 0x88, minors := [3], types := [.s32, .u32], ops := [{ slot := 0, cls := [.v] }, { slot := 2, cls := [.v, .s], opt := true }, { slot := 3, cls := [.s] }], imm := .mem, scope := some 4, brec := true, iss := .mem, tim := .n }
/-- STRED_MIN -/
def stredMin : Form :=
  { fmt := .m, opc := 0x88, minors := [4], types := [.s32, .u32, .f32], ops := [{ slot := 0, cls := [.v] }, { slot := 2, cls := [.v, .s], opt := true }, { slot := 3, cls := [.s] }], imm := .mem, scope := some 4, brec := true, iss := .mem, tim := .n }
/-- STRED_MAX -/
def stredMax : Form :=
  { fmt := .m, opc := 0x88, minors := [5], types := [.s32, .u32, .f32], ops := [{ slot := 0, cls := [.v] }, { slot := 2, cls := [.v, .s], opt := true }, { slot := 3, cls := [.s] }], imm := .mem, scope := some 4, brec := true, iss := .mem, tim := .n }
/-- FENCE_ACQ -/
def fenceAcq : Form :=
  { fmt := .m, opc := 0x89, imm := .none, scope := some 4, iss := .mem, tim := .n }
/-- FENCE_REL -/
def fenceRel : Form :=
  { fmt := .m, opc := 0x89, minors := [1], imm := .none, scope := some 4, iss := .mem, tim := .n }
/-- FENCE_FULL -/
def fenceFull : Form :=
  { fmt := .m, opc := 0x89, minors := [2], imm := .none, scope := some 4, iss := .mem, tim := .n }
/-- LEA -/
def lea : Form :=
  { fmt := .m, opc := 0x94, ops := [{ slot := 0, cls := [.v, .s], cnt := .pair, dst := true, src := false }, { slot := 2, cls := [.v, .s], opt := true }, { slot := 3, cls := [.p], opt := true, dst := true, src := false }], imm := .mem, brec := true, uni := true, lat := 5, iss := .alu, tim := .f }
/-- ATOM_ADD -/
def atomAdd : Form :=
  { fmt := .m, opc := 0xA0, types := [.s32, .u32, .f32, .bf16, .f16], ops := [{ slot := 0, cls := [.v], dst := true, src := false }, { slot := 2, cls := [.v, .s], opt := true }, { slot := 3, cls := [.v, .s] }], imm := .mem, scope := some 4, rem := true, brec := true, inter := true, iss := .mem, tim := .n }
/-- ATOM_AND -/
def atomAnd : Form :=
  { fmt := .m, opc := 0xA0, minors := [1], types := [.s32, .u32], ops := [{ slot := 0, cls := [.v], dst := true, src := false }, { slot := 2, cls := [.v, .s], opt := true }, { slot := 3, cls := [.v, .s] }], imm := .mem, scope := some 4, rem := true, brec := true, inter := true, iss := .mem, tim := .n }
/-- ATOM_OR -/
def atomOr : Form :=
  { fmt := .m, opc := 0xA0, minors := [2], types := [.s32, .u32], ops := [{ slot := 0, cls := [.v], dst := true, src := false }, { slot := 2, cls := [.v, .s], opt := true }, { slot := 3, cls := [.v, .s] }], imm := .mem, scope := some 4, rem := true, brec := true, inter := true, iss := .mem, tim := .n }
/-- ATOM_XOR -/
def atomXor : Form :=
  { fmt := .m, opc := 0xA0, minors := [3], types := [.s32, .u32], ops := [{ slot := 0, cls := [.v], dst := true, src := false }, { slot := 2, cls := [.v, .s], opt := true }, { slot := 3, cls := [.v, .s] }], imm := .mem, scope := some 4, rem := true, brec := true, inter := true, iss := .mem, tim := .n }
/-- ATOM_MIN -/
def atomMin : Form :=
  { fmt := .m, opc := 0xA0, minors := [4], types := [.s32, .u32, .f32], ops := [{ slot := 0, cls := [.v], dst := true, src := false }, { slot := 2, cls := [.v, .s], opt := true }, { slot := 3, cls := [.v, .s] }], imm := .mem, scope := some 4, rem := true, brec := true, inter := true, iss := .mem, tim := .n }
/-- ATOM_MAX -/
def atomMax : Form :=
  { fmt := .m, opc := 0xA0, minors := [5], types := [.s32, .u32, .f32], ops := [{ slot := 0, cls := [.v], dst := true, src := false }, { slot := 2, cls := [.v, .s], opt := true }, { slot := 3, cls := [.v, .s] }], imm := .mem, scope := some 4, rem := true, brec := true, inter := true, iss := .mem, tim := .n }
/-- ATOM_XCHG -/
def atomXchg : Form :=
  { fmt := .m, opc := 0xA0, minors := [6], types := [.s32, .u32, .f32], ops := [{ slot := 0, cls := [.v], dst := true, src := false }, { slot := 2, cls := [.v, .s], opt := true }, { slot := 3, cls := [.v, .s] }], imm := .mem, scope := some 4, rem := true, brec := true, inter := true, iss := .mem, tim := .n }
/-- CAS -/
def cas : Form :=
  { fmt := .m, opc := 0xA1, types := [.s32, .u32], ops := [{ slot := 0, cls := [.v], dst := true }, { slot := 2, cls := [.v, .s], opt := true }, { slot := 3, cls := [.v, .s] }], imm := .mem, scope := some 4, rem := true, brec := true, inter := true, iss := .mem, tim := .n }
/-- ATOMN_ADD -/
def atomnAdd : Form :=
  { fmt := .m, opc := 0xA2, types := [.s32, .u32, .f32, .bf16, .f16], ops := [{ slot := 0, cls := [.v, .s] }, { slot := 2, cls := [.v, .s], opt := true }], imm := .mem, scope := some 4, brec := true, uni := true, iss := .mem, tim := .n }
/-- ATOMN_AND -/
def atomnAnd : Form :=
  { fmt := .m, opc := 0xA2, minors := [1], types := [.s32, .u32], ops := [{ slot := 0, cls := [.v, .s] }, { slot := 2, cls := [.v, .s], opt := true }], imm := .mem, scope := some 4, brec := true, uni := true, iss := .mem, tim := .n }
/-- ATOMN_OR -/
def atomnOr : Form :=
  { fmt := .m, opc := 0xA2, minors := [2], types := [.s32, .u32], ops := [{ slot := 0, cls := [.v, .s] }, { slot := 2, cls := [.v, .s], opt := true }], imm := .mem, scope := some 4, brec := true, uni := true, iss := .mem, tim := .n }
/-- ATOMN_XOR -/
def atomnXor : Form :=
  { fmt := .m, opc := 0xA2, minors := [3], types := [.s32, .u32], ops := [{ slot := 0, cls := [.v, .s] }, { slot := 2, cls := [.v, .s], opt := true }], imm := .mem, scope := some 4, brec := true, uni := true, iss := .mem, tim := .n }
/-- ATOMN_MIN -/
def atomnMin : Form :=
  { fmt := .m, opc := 0xA2, minors := [4], types := [.s32, .u32, .f32], ops := [{ slot := 0, cls := [.v, .s] }, { slot := 2, cls := [.v, .s], opt := true }], imm := .mem, scope := some 4, brec := true, uni := true, iss := .mem, tim := .n }
/-- ATOMN_MAX -/
def atomnMax : Form :=
  { fmt := .m, opc := 0xA2, minors := [5], types := [.s32, .u32, .f32], ops := [{ slot := 0, cls := [.v, .s] }, { slot := 2, cls := [.v, .s], opt := true }], imm := .mem, scope := some 4, brec := true, uni := true, iss := .mem, tim := .n }
/-- LDW_E -/
def ldwE : Form :=
  { fmt := .m, opc := 0xA3, types := [.s32, .u32, .f32], ops := [{ slot := 0, cls := [.v], dst := true, src := false }, { slot := 2, cls := [.v, .s], opt := true }, { slot := 3, cls := [.s], imm := some .zx, opt := true }], imm := .ldwe, scope := some 2, rem := true, brec := true, inter := true, iss := .mem, tim := .n }
/-- LDF -/
def ldf : Form :=
  { fmt := .m, opc := 0xA4, types := [.s32, .u32, .f32], ops := [{ slot := 0, cls := [.v], dst := true, src := false }, { slot := 2, cls := [.v, .s], opt := true }], imm := .mem, scope := some 2, rem := true, brec := true, inter := true, iss := .mem, tim := .n }
/-- FILL -/
def fill : Form :=
  { fmt := .m, opc := 0xA5, types := [.s32, .u32, .f32], ops := [{ slot := 0, cls := [.v] }, { slot := 2, cls := [.v, .s], opt := true }], imm := .mem, scope := some 2, brec := true, iss := .mem, tim := .n }
/-- EMPTY -/
def empty : Form :=
  { fmt := .m, opc := 0xA6, types := [.s32, .u32, .f32], ops := [{ slot := 0, cls := [.v], dst := true, src := false }, { slot := 2, cls := [.v, .s], opt := true }], imm := .mem, scope := some 2, rem := true, brec := true, inter := true, iss := .mem, tim := .n }
/-- FEGET -/
def feget : Form :=
  { fmt := .m, opc := 0xA7, types := [.s32, .u32, .f32], ops := [{ slot := 0, cls := [.p], dst := true, src := false }, { slot := 2, cls := [.v, .s], opt := true }], imm := .mem, brec := true, inter := true, iss := .mem, tim := .n }
/-- CPYK -/
def cpyk : Form :=
  { fmt := .m, opc := 0xB1, ops := [{ slot := 0, cls := [.s] }], imm := .cpyk, scope := some 2, iss := .engine, tim := .n }
/-- BRMAKE -/
def brmake : Form :=
  { fmt := .x, opc := 0x90, ops := [{ slot := 0, cls := [.b], dst := true, src := false }, { slot := 2, cls := [.s], cnt := .pair }, { slot := 3, cls := [.s] }, { slot := 4, cls := [.s], imm := some .zx }], iss := .alu, tim := .f }
/-- BRSET_BASE -/
def brsetBase : Form :=
  { fmt := .x, opc := 0x91, ops := [{ slot := 0, cls := [.b], dst := true, src := false }, { slot := 2, cls := [.b] }, { slot := 3, cls := [.s], cnt := .pair }], iss := .alu, tim := .f }
/-- BRSET_STRIDE -/
def brsetStride : Form :=
  { fmt := .x, opc := 0x91, minors := [1], ops := [{ slot := 0, cls := [.b], dst := true, src := false }, { slot := 2, cls := [.b] }, { slot := 3, cls := [.s], imm := some .zx }], iss := .alu, tim := .f }
/-- BRSET_EXTENT -/
def brsetExtent : Form :=
  { fmt := .x, opc := 0x91, minors := [2], ops := [{ slot := 0, cls := [.b], dst := true, src := false }, { slot := 2, cls := [.b] }, { slot := 3, cls := [.s], imm := some .zx }], iss := .alu, tim := .f }
/-- BRSET_SWZ -/
def brsetSwz : Form :=
  { fmt := .x, opc := 0x91, minors := [3], ops := [{ slot := 0, cls := [.b], dst := true, src := false }, { slot := 2, cls := [.b] }, { slot := 3, cls := [.s], imm := some .zx }], iss := .alu, tim := .f }
/-- BRSET_ESZ -/
def brsetEsz : Form :=
  { fmt := .x, opc := 0x91, minors := [4], ops := [{ slot := 0, cls := [.b], dst := true, src := false }, { slot := 2, cls := [.b] }, { slot := 3, cls := [.s], imm := some .zx }], iss := .alu, tim := .f }
/-- BRSET_OOBF -/
def brsetOobf : Form :=
  { fmt := .x, opc := 0x91, minors := [5], ops := [{ slot := 0, cls := [.b], dst := true, src := false }, { slot := 2, cls := [.b] }, { slot := 3, cls := [.s], imm := some .zx }], iss := .alu, tim := .f }
/-- BRGET_BASE -/
def brgetBase : Form :=
  { fmt := .x, opc := 0x92, ops := [{ slot := 0, cls := [.v, .s], cnt := .pair, dst := true, src := false }, { slot := 2, cls := [.b] }], lat := 5, iss := .alu, tim := .f }
/-- BRGET_STRIDE -/
def brgetStride : Form :=
  { fmt := .x, opc := 0x92, minors := [1], ops := [{ slot := 0, cls := [.v, .s], dst := true, src := false }, { slot := 2, cls := [.b] }], lat := 5, iss := .alu, tim := .f }
/-- BRGET_EXTENT -/
def brgetExtent : Form :=
  { fmt := .x, opc := 0x92, minors := [2], ops := [{ slot := 0, cls := [.v, .s], dst := true, src := false }, { slot := 2, cls := [.b] }], lat := 5, iss := .alu, tim := .f }
/-- BRGET_SWZ -/
def brgetSwz : Form :=
  { fmt := .x, opc := 0x92, minors := [3], ops := [{ slot := 0, cls := [.v, .s], dst := true, src := false }, { slot := 2, cls := [.b] }], lat := 5, iss := .alu, tim := .f }
/-- BRGET_ESZ -/
def brgetEsz : Form :=
  { fmt := .x, opc := 0x92, minors := [4], ops := [{ slot := 0, cls := [.v, .s], dst := true, src := false }, { slot := 2, cls := [.b] }], lat := 5, iss := .alu, tim := .f }
/-- BRGET_OOBF -/
def brgetOobf : Form :=
  { fmt := .x, opc := 0x92, minors := [5], ops := [{ slot := 0, cls := [.v, .s], dst := true, src := false }, { slot := 2, cls := [.b] }], lat := 5, iss := .alu, tim := .f }
/-- BRADV -/
def bradv : Form :=
  { fmt := .x, opc := 0x93, ops := [{ slot := 0, cls := [.b], dst := true, src := false }, { slot := 2, cls := [.b] }, { slot := 3, cls := [.s], imm := some .zx }], iss := .alu, tim := .f }
/-- CPYB -/
def cpyb : Form :=
  { fmt := .x, opc := 0xB0, ops := [{ slot := 0, cls := [.s], dst := true, src := false }, { slot := 2, cls := [.b] }, { slot := 3, cls := [.b] }, { slot := 4, cls := [.s], imm := some .zx }], inter := true, iss := .engine, tim := .n }
/-- CPYW -/
def cpyw : Form :=
  { fmt := .x, opc := 0xB2, ops := [{ slot := 2, cls := [.s], imm := some .zx, lim := 63 }], iss := .engine, tim := .n }
/-- CPYQ -/
def cpyq : Form :=
  { fmt := .x, opc := 0xB3, ops := [{ slot := 0, cls := [.s], dst := true, src := false }, { slot := 2, cls := [.s], imm := some .zx, lim := 63 }], inter := true, iss := .engine, tim := .f }
/-- JOB -/
def job : Form :=
  { fmt := .x, opc := 0xC0, ops := [{ slot := 0, cls := [.s], dst := true, src := false }, { slot := 2, cls := [.s], cnt := .pair }], inter := true, iss := .engine, tim := .n }
/-- JOBP -/
def jobp : Form :=
  { fmt := .x, opc := 0xC1, ops := [{ slot := 0, cls := [.s], dst := true, src := false }, { slot := 2, cls := [.s], cnt := .pair }], inter := true, iss := .engine, tim := .n }
/-- FENCE_OPR -/
def fenceOpr : Form :=
  { fmt := .x, opc := 0xC2, iss := .engine, tim := .n }
/-- JWAIT -/
def jwait : Form :=
  { fmt := .x, opc := 0xC3, ops := [{ slot := 2, cls := [.s], imm := some .zx }], iss := .engine, tim := .n }
/-- JSTAT -/
def jstat : Form :=
  { fmt := .x, opc := 0xC4, ops := [{ slot := 0, cls := [.s], dst := true, src := false }, { slot := 2, cls := [.s], imm := some .zx }], inter := true, iss := .engine, tim := .n }
/-- TDSET -/
def tdset : Form :=
  { fmt := .x, opc := 0xC5, minors := [0, 1, 2, 3, 4, 5, 6, 7], ops := [{ slot := 0, cls := [.t], dst := true, src := false }, { slot := 2, cls := [.s], imm := some .zx }], iss := .engine, tim := .n }
/-- TDGET -/
def tdget : Form :=
  { fmt := .x, opc := 0xC6, minors := [0, 1, 2, 3, 4, 5, 6, 7], ops := [{ slot := 0, cls := [.s], dst := true, src := false }, { slot := 2, cls := [.t] }], lat := 5, iss := .engine, tim := .n }
/-- BSLD -/
def bsld : Form :=
  { fmt := .x, opc := 0xC7, ops := [{ slot := 0, cls := [.t] }, { slot := 2, cls := [.b] }, { slot := 3, cls := [.s], imm := some .zx }], iss := .engine, tim := .n }
/-- ACCRD -/
def accrd : Form :=
  { fmt := .x, opc := 0xC8, ops := [{ slot := 0, cls := [.v], dst := true, src := false }, { slot := 2, cls := [.a] }, { slot := 3, cls := [.s], imm := some .zx }], inter := true, iss := .engine, tim := .n }
/-- ACCWR -/
def accwr : Form :=
  { fmt := .x, opc := 0xC9, ops := [{ slot := 0, cls := [.a], dst := true, src := false }, { slot := 2, cls := [.v] }, { slot := 3, cls := [.s], imm := some .zx }], iss := .engine, tim := .n }
/-- ACCZ -/
def accz : Form :=
  { fmt := .x, opc := 0xCA, ops := [{ slot := 0, cls := [.a], dst := true, src := false }], iss := .engine, tim := .n }
/-- JCHK -/
def jchk : Form :=
  { fmt := .x, opc := 0xCB, ops := [{ slot := 2, cls := [.s], imm := some .zx }], iss := .engine, tim := .n }
/-- EMIT -/
def emit : Form :=
  { fmt := .x, opc := 0xD0, noPfx := true, ops := [{ slot := 2, cls := [.s], imm := some .zx }, { slot := 3, cls := [.v] }, { slot := 4, cls := [.v], cnt := .len }], imm := .emit, iss := .engine, tim := .n }
/-- TAKE -/
def take : Form :=
  { fmt := .x, opc := 0xD1, noPfx := true, ops := [{ slot := 0, cls := [.p], dst := true, src := false }], inter := true, iss := .engine, tim := .n }
/-- DONE -/
def done : Form :=
  { fmt := .x, opc := 0xD2, noPfx := true, ops := [{ slot := 2, cls := [.p] }], iss := .engine, tim := .n }
/-- TRET -/
def tret : Form :=
  { fmt := .c, opc := 0xD3, noPfx := true, iss := .control, tim := .n }
/-- TRET_W -/
def tretW : Form :=
  { fmt := .c, opc := 0xD4, noPfx := true, iss := .control, tim := .n }
/-- SYSCALL -/
def syscall : Form :=
  { fmt := .x, opc := 0xE0, noPfx := true, ops := [{ slot := 0, cls := [.s], cnt := .pair, dst := true, src := false }, { slot := 2, cls := [.s], imm := some .zx }, { slot := 3, cls := [.s], opt := true, cnt := .args }], inter := true, iss := .control, tim := .n }
/-- BREAK -/
def brk : Form :=
  { fmt := .x, opc := 0xE1, noPfx := true, ops := [{ slot := 2, cls := [.s], imm := some .zx }], iss := .control, tim := .n }
/-- TIMERARM -/
def timerarm : Form :=
  { fmt := .x, opc := 0xE2, noPfx := true, ops := [{ slot := 2, cls := [.s], cnt := .pair }, { slot := 3, cls := [.s], imm := some .zx }], iss := .alu, tim := .n }
/-- RDSR -/
def rdsr : Form :=
  { fmt := .x, opc := 0xE3, noPfx := true, ops := [{ slot := 0, cls := [.v, .s], cnt := .wbit, dst := true, src := false }, { slot := 3, cls := [.s], opt := true }], imm := .sr, lat := 5, iss := .alu, tim := .n }
/-- WRSR -/
def wrsr : Form :=
  { fmt := .x, opc := 0xE4, noPfx := true, ops := [{ slot := 2, cls := [.s], cnt := .wbit }, { slot := 3, cls := [.s], opt := true }], imm := .sr, iss := .alu, tim := .n }
/-- RDCNT -/
def rdcnt : Form :=
  { fmt := .x, opc := 0xE5, noPfx := true, ops := [{ slot := 0, cls := [.v, .s], cnt := .pair, dst := true, src := false }], imm := .cnt, lat := 5, iss := .alu, tim := .n }
/-- CKPT -/
def ckpt : Form :=
  { fmt := .x, opc := 0xE6, noPfx := true, iss := .control, tim := .n }
/-- HINT_CLASS -/
def hintClass : Form :=
  { fmt := .x, opc := 0xE7, noPfx := true, ops := [{ slot := 2, cls := [], imm := some .zx, lim := 3 }], iss := .alu, tim := .f }
/-- HINT_IDLE -/
def hintIdle : Form :=
  { fmt := .x, opc := 0xE7, noPfx := true, minors := [1], ops := [{ slot := 2, cls := [.s], imm := some .zx }], iss := .alu, tim := .f }

end Forms

/-! ## Selectors and fields -/

/-- The ten bits of a selector (08 R193). -/
def Sel.code : Sel → BitVec 10
  | .v n => 0#2 ++ n
  | .s n => 0b0100#4 ++ n
  | .p n => 0b1000000#7 ++ n
  | .m n => 0b1000100#7 ++ n
  | .b n => 0b100100#6 ++ n
  | .w n => 0b100110#6 ++ n
  | .t n => 0b1010000#7 ++ n
  | .a n => 0b1010100#7 ++ n
  | .imm => 0x300#10
  | .none => 0x3FF#10

/-- The selector of ten bits; `none` where R193 makes them ILLEGAL. -/
def Sel.ofCode (c : BitVec 10) : Option Sel :=
  match (c.extractLsb' 8 2).toNat with
  | 0 => some (.v (c.extractLsb' 0 8))
  | 1 => if c.extractLsb' 6 2 = 0#2 then some (.s (c.extractLsb' 0 6)) else Option.none
  | 2 =>
    match (c.extractLsb' 5 3).toNat with
    | 0 => if c.extractLsb' 3 2 = 0#2 then some (.p (c.extractLsb' 0 3)) else Option.none
    | 1 => if c.extractLsb' 3 2 = 0#2 then some (.m (c.extractLsb' 0 3)) else Option.none
    | 2 => if c.extractLsb' 4 1 = 0#1 then some (.b (c.extractLsb' 0 4)) else Option.none
    | 3 => if c.extractLsb' 4 1 = 0#1 then some (.w (c.extractLsb' 0 4)) else Option.none
    | 4 => if c.extractLsb' 3 2 = 0#2 then some (.t (c.extractLsb' 0 3)) else Option.none
    | 5 => if c.extractLsb' 3 2 = 0#2 then some (.a (c.extractLsb' 0 3)) else Option.none
    | _ => Option.none
  | _ => if c = 0x300#10 then some .imm else if c = 0x3FF#10 then some .none else Option.none

/-- The register class of a selector. -/
def Sel.cls? : Sel → Option Cls
  | .v _ => some .v | .s _ => some .s | .p _ => some .p | .m _ => some .m
  | .b _ => some .b | .w _ => some .w | .t _ => some .t | .a _ => some .a
  | .imm => Option.none | .none => Option.none

/-- The register number of a selector. -/
def Sel.num : Sel → Nat
  | .v n => n.toNat | .s n => n.toNat | .p n => n.toNat | .m n => n.toNat
  | .b n => n.toNat | .w n => n.toNat | .t n => n.toNat | .a n => n.toNat
  | .imm => 0 | .none => 0

/-- The four bits of a TYPE code (09 R211). -/
def TyCode.code : TyCode → BitVec 4
  | .dflt => 0 | .f32 => 1 | .bf16 => 2 | .f16 => 3 | .s32 => 4 | .u32 => 5 | .s16 => 6 | .u16 => 7 | .s8 => 8 | .u8 => 9

/-- The TYPE of a code (09 R211). -/
def TyCode.ofCode (c : BitVec 4) : Option TyCode :=
  match c.toNat with
  | 0 => some .dflt | 1 => some .f32 | 2 => some .bf16 | 3 => some .f16 | 4 => some .s32 | 5 => some .u32
  | 6 => some .s16 | 7 => some .u16 | 8 => some .s8 | 9 => some .u8 | _ => none

/-- Width in bytes of a type (09 R211); the default counts as 32 bits. -/
def TyCode.bytes : TyCode → Nat
  | .bf16 | .f16 | .s16 | .u16 => 2
  | .s8 | .u8 => 1
  | .dflt | .f32 | .s32 | .u32 => 4

/-- Floating-point types. -/
def TyCode.isFloat : TyCode → Bool
  | .f32 | .bf16 | .f16 => true
  | _ => false

/-- Signed integer types. -/
def TyCode.isSigned : TyCode → Bool
  | .s32 | .s16 | .s8 => true
  | _ => false

/-- The MINOR of an element format (09 R219). -/
def EFmt.code : EFmt → Nat
  | .bf16 => 2 | .f16 => 3 | .e4m3 => 4 | .e5m2 => 5 | .e3m2 => 6 | .e2m3 => 7 | .e2m1 => 8 | .int8 => 9 | .uint8 => 10
  | .int4 => 11 | .uint4 => 12

/-- The element format of a MINOR. -/
def EFmt.ofCode : Nat → EFmt
  | 3 => .f16 | 4 => .e4m3 | 5 => .e5m2 | 6 => .e3m2 | 7 => .e2m3 | 8 => .e2m1 | 9 => .int8 | 10 => .uint8
  | 11 => .int4 | 12 => .uint4 | _ => .bf16

/-- Width in bits of an element (10 R224, R225). -/
def EFmt.bits : EFmt → Nat
  | .bf16 | .f16 => 16
  | .e4m3 | .e5m2 | .int8 | .uint8 => 8
  | .e3m2 | .e2m3 => 6
  | .e2m1 | .int4 | .uint4 => 4

/-- Elements per register (13 R289). -/
def EFmt.perReg : EFmt → Nat
  | .bf16 | .f16 => 2
  | .e4m3 | .e5m2 | .int8 | .uint8 | .e3m2 | .e2m3 => 4
  | .e2m1 | .int4 | .uint4 => 8

/-- The MINOR of a barrier level (09 R219). -/
def BarLvl.code : BarLvl → Nat
  | .grp => 0 | .blk => 1 | .nbh => 2 | .grid => 3

/-- The barrier level of a MINOR. -/
def BarLvl.ofCode : Nat → BarLvl
  | 0 => .grp | 1 => .blk | 2 => .nbh | _ => .grid

/-- Source type of CVT from its MINOR (09 R219). -/
def TyCode.ofMinor (n : Nat) : TyCode := (TyCode.ofCode (BitVec.ofNat 4 n)).getD .dflt

/-! ## The operands of an instruction, whatever its format -/

/-- The operand fields of one of the four formats. -/
inductive Op where
  | a (o : OpA)
  | m (o : OpM)
  | c (o : OpC)
  | x (o : OpX)
  deriving DecidableEq, Repr

namespace Op

/-- The modifying slot, if the instruction has one. -/
def pfx : Op → Option Pfx
  | .a o => o.pfx | .m o => o.pfx | .c o => o.pfx | .x o => o.pfx

/-- TYPE as encoded. -/
def ty : Op → TyCode
  | .a o => o.ty | .m o => o.ty | .c _ => .dflt | .x _ => .dflt

/-- The selector that stands in an operand slot of 23 R401 (7, BREC, names a buffer record). -/
def sel : Op → Nat → Sel
  | .a o, 0 => o.dst | .a o, 2 => o.sa | .a o, 3 => o.sb | .a o, 4 => o.sc | .a _, _ => .none
  | .m o, 0 => o.data | .m o, 2 => o.index | .m o, 3 => o.aux | .m o, 7 => .b o.brec | .m _, _ => .none
  | .c o, 0 => o.d1 | .c o, 1 => o.d2 | .c o, 2 => o.sa | .c o, 5 => o.carry | .c _, _ => .none
  | .x o, 0 => o.dst | .x o, 2 => o.sa | .x o, 3 => o.sb | .x o, 4 => o.sc | .x _, _ => .none

/-- The operand slots that the format has. -/
def slots : Op → List Nat
  | .a _ => [0, 2, 3, 4] | .m _ => [0, 2, 3] | .c _ => [0, 1, 2, 5] | .x _ => [0, 2, 3, 4]

/-- IMX of the modifying slot. -/
def imx (o : Op) : Bool := match o.pfx with | some p => p.imx | none => false

/-- The immediate before extension: IMM32 under IMX (08 R197), else IMM16, IMM32 of format X, or LDISP[15:0] (09 R218). -/
def immRaw (o : Op) : Nat :=
  match o with
  | .a q => if o.imx then (q.pfx.elim 0 (·.imm)).toNat else q.imm.toNat
  | .m q => if o.imx then (q.pfx.elim 0 (·.imm)).toNat else q.imm.toNat
  | .c q => (q.ldisp.extractLsb' 0 16).toNat
  | .x q => q.imm.toNat

/-- GLEN. -/
def glen : Op → Nat
  | .m o => o.glen.toNat | _ => 0

/-- IMM32 of format X. -/
def imm32 : Op → BitVec 32
  | .x o => o.imm | _ => 0

end Op

/-- How many registers an operand names (03 R76). -/
def Fld.count (f : Fld) (o : Op) : Nat :=
  match f.cnt with
  | .one => 1
  | .pair => 2
  | .glen => o.glen + 1
  | .clen => match o with | .c q => q.clen.toNat + 1 | _ => 1
  | .args => 8
  | .len => (o.imm32.extractLsb' 16 4).toNat + 1
  | .wbit => if o.imm32.getLsbD 12 then 2 else 1

/-- The alignment of the first register of an operand (03 R76). -/
def Fld.align (f : Fld) (o : Op) : Nat :=
  match f.cnt with
  | .pair | .glen | .wbit => f.count o
  | .args => 8
  | .one | .clen | .len => 1

/-- The TYPE that the instruction acts with: 0x0 is the form's default (09 R211). -/
def Form.effTy (f : Form) (o : Op) : TyCode :=
  if o.ty = .dflt then f.types.headD .s32 else o.ty

/-- The type of a source of CVT, whose MINOR names it. -/
def Form.srcTy (f : Form) (minor : Nat) (o : Op) : TyCode :=
  if f.opc = 0x70 then TyCode.ofMinor minor else f.effTy o

/-! ## The checks of order 5 and 6 of 08 R207 -/

/-- Why the decoder rejects: every one of them is the class 0 trap ILLEGAL. -/
inductive Reject where
  /-- fewer bytes than an instruction has -/
  | short
  /-- an empty slot holds no instruction -/
  | empty
  /-- no form has this OPC and MINOR (R210, R219) -/
  | opcode
  /-- a selector that R193 makes ILLEGAL -/
  | selector
  /-- a TYPE code that names none (R211) -/
  | typeCode
  /-- a reserved field of the op is not zero (R221) -/
  | reserved
  /-- a reserved field of the modifying slot is not zero (R198) -/
  | pfxReserved
  /-- RND, SEED, SAT, DEN or IMX of the modifying slot not admitted (R196, R198) -/
  | pfxField
  /-- TYPE outside the form's set (R211) -/
  | type
  /-- an operand of a kind or class that the form does not admit (R193) -/
  | operand
  /-- an operand the form has no use for is not 0x3FF (R221) -/
  | unusedOperand
  /-- a second immediate selector (R195) -/
  | twoImmediates
  /-- a v source under an s destination (R262, R278, R295) -/
  | uniform
  /-- RND or SAT on a form without the slot (R221) -/
  | modifier
  /-- an immediate field beyond what the form admits, or not zero where it has no use -/
  | immediate
  /-- SCOPE or REM (R194, R295) -/
  | scope
  /-- GLEN (R296) -/
  | glen
  /-- BREC not zero on a form without a record (R295) -/
  | brec
  /-- CLEN without CARRY (R221) -/
  | carry
  /-- a COP with no expansion (R222) -/
  | cop
  /-- a register number beyond its class in a compact op (R200) -/
  | compactNumber
  /-- a field that the expansion does not use (R200) -/
  | compactUnused
  deriving DecidableEq, Repr

/-- The operand of a form that stands in a slot. -/
def Form.fld? (f : Form) (k : Nat) : Option Fld := f.ops.find? (fun x => x.slot == k)

/-- One operand against its column (08 R193). -/
def Fld.admits (f : Fld) (s : Sel) : Bool :=
  match s with
  | .imm => f.imm.isSome
  | .none => f.opt
  | _ => match s.cls? with | some c => f.cls.contains c | none => false

/-- Has the instruction got an immediate selector? -/
def Op.immSel (o : Op) : Bool := o.slots.any (fun k => o.sel k == .imm)

/-- 08 R196, R198, 09 R221, 13 R280: the fields of the modifying slot, against the form; an IMM32 that is not used holds zero. -/
def Form.pfxOk (f : Form) (minor : Nat) (o : Op) : Bool :=
  match o.pfx with
  | none => true
  | some p =>
    let ty := f.effTy o
    let rnd := match f.rnd with | .no => false | .yes => true | .f32 => ty == .f32 | .cvt => true
    let den := match f.den with
      | .no => false | .yes => true | .f32 => ty == .f32
      | .cvt => (f.srcTy minor o).isFloat || ty.isFloat
    !f.noPfx && p.rnd != 7 && p.sat != 3 && p.den != 2 && p.den != 3
      && (rnd || (p.rnd == 0 && p.seed == 0)) && (p.seed == 0 || p.rnd == 6)
      && (f.sat || p.sat == 0) && (den || p.den == 0) && (p.imx || p.imm == 0)
      && (!p.imx ||
        match f.fmt with
        | .a => f.imm == .sel && f.ops.any (fun x => x.imm.isSome)
        | .m => f.imm == .mem || (f.imm == .ldwe && o.sel 3 != .imm)
        | .c | .x => false)

/-- 09 R211: the TYPE against the form's set. -/
def Form.tyOk (f : Form) (o : Op) : Bool := o.ty == .dflt || f.types.contains o.ty

/-- 08 R193: every operand against its column. -/
def Form.operandsOk (f : Form) (o : Op) : Bool :=
  f.ops.all (fun x => x.admits (o.sel x.slot))

/-- 09 R221: every operand field without a use holds 0x3FF (09 R218: D1 of a BAR holds its number). -/
def Form.unusedOk (f : Form) (o : Op) : Bool :=
  o.slots.all (fun k => (f.fld? k).isSome ||
    if f.bar && k == 0 then (match o.sel 0 with | .v n => n.toNat < 8 | _ => false) else o.sel k == .none)

/-- 08 R195: at most one immediate selector. -/
def Form.oneImm (o : Op) : Bool := (o.slots.filter (fun k => o.sel k == .imm)).length ≤ 1

/-- 12 R262, 13 R278, 14 R295: a uniform destination takes no vector source. -/
def Form.uniOk (f : Form) (o : Op) : Bool :=
  !f.uni || (o.sel 0).cls? != some .s ||
    match f.fmt with
    | .m => (o.sel 2).cls? != some .v
    | _ => [2, 3, 4].all (fun k => (o.sel k).cls? != some .v)

/-- 09 R221, 13 R280, R293: RND and SAT of the op itself. -/
def Form.modOk (f : Form) (o : Op) : Bool :=
  match o with
  | .a q =>
    (q.rnd == 0 || match f.rnd with | .no => false | .yes | .cvt => true | .f32 => f.effTy o == .f32) && (!q.sat || f.sat)
  | _ => true

/-- The immediate of an operand within its limit (12 R263, R273, 14 R311), and, for a 16-bit floating immediate, IMM32[31:16] zero (13 R279). -/
def Fld.immOk (x : Fld) (f : Form) (minor : Nat) (o : Op) : Bool :=
  o.sel x.slot != .imm ||
    (o.immRaw ≤ x.lim &&
      match x.imm with
      | some .fp => f.effTy o == .f32 || o.immRaw < 0x10000
      | some .fp2 => o.immRaw < 0x10000
      | some .srcTy => !((f.srcTy minor o) == .bf16 || (f.srcTy minor o) == .f16) || o.immRaw < 0x10000
      | _ => true)

/-- The numbers of the event counters (16 R358). -/
def counterNums : List Nat := [0, 1, 2, 3, 4, 0x10, 0x11, 0x12, 0x13]

/-- The immediate fields (08 R195, R197, 09 R218, R221, and each form's own). -/
def Form.immOk (f : Form) (minor : Nat) (o : Op) : Bool :=
  f.ops.all (fun x => x.immOk f minor o) &&
  match o with
  | .a q =>
    if o.imx then q.imm == 0 else
    match f.imm with
    | .mix3 => q.imm.toNat < 256
    | .elem => q.imm.toNat < (EFmt.ofCode minor).perReg && (f.opc == 0x72 || q.imm.toNat % 2 == 0)
    | _ => o.immSel || q.imm == 0
  | .m q =>
    if o.imx then q.imm == 0 else
    match f.imm with
    | .mem => true
    | .ldwe => o.sel 3 != .imm || q.imm.toNat < 16
    | .cpyk => q.imm.toNat < 2
    | _ => q.imm == 0
  | .c q =>
    match f.imm with
    | .target => q.tslot.toNat < 5
    | _ => q.tslot == 0 && (if o.immSel then q.ldisp.toNat < 0x10000 else q.ldisp == 0)
  | .x q =>
    match f.imm with
    | .emit => q.imm.extractLsb' 20 12 == 0 && q.imm.extractLsb' 8 8 == 0 && (o.immSel || q.imm.extractLsb' 0 8 == 0)
    | .sr => q.imm.extractLsb' 13 19 == 0
    | .cnt => counterNums.contains q.imm.toNat
    | _ => o.immSel || q.imm == 0

/-- SCOPE and REM (08 R194, 14 R295). -/
def Form.scopeOk (f : Form) (o : Op) : Bool :=
  match o with
  | .m q => (match f.scope with | none => q.scope == 0 | some _ => q.scope != 7) && (!q.rem || f.rem)
  | _ => true

/-- GLEN (14 R295, R296). -/
def Form.glenOk (f : Form) (o : Op) : Bool :=
  match o with
  | .m q => f.glens.contains q.glen.toNat && ((f.effTy o).bytes == 4 || q.glen == 0)
  | _ => true

/-- BREC (14 R295). -/
def Form.brecOk (f : Form) (o : Op) : Bool :=
  match o with
  | .m q => f.brec || q.brec == 0
  | _ => true

/-- CARRY and CLEN (08 R194, 09 R221). -/
def Form.carryOk (o : Op) : Bool :=
  match o with
  | .c q => q.carry != .none || q.clen == 0
  | _ => true

/-- The checks of order 5 and 6, each under its name. -/
def Form.checks (f : Form) (minor : Nat) (o : Op) : List (Reject × Bool) :=
  [(.opcode, f.minors.contains minor), (.pfxField, f.pfxOk minor o), (.type, f.tyOk o), (.operand, f.operandsOk o), (.unusedOperand, f.unusedOk o),
   (.twoImmediates, Form.oneImm o), (.uniform, f.uniOk o), (.modifier, f.modOk o), (.immediate, f.immOk minor o),
   (.scope, f.scopeOk o), (.glen, f.glenOk o), (.brec, f.brecOk o), (.carry, Form.carryOk o)]

/-- The first check that fails. -/
def firstReject : List (Reject × Bool) → Option Reject
  | [] => none
  | (_, true) :: l => firstReject l
  | (r, false) :: _ => some r

/-! ## Bits of the formats -/

/-- GUARD (08 R192). -/
def Hdr.bits (h : Hdr) : BitVec 8 := h.stall ++ BitVec.ofBool h.neg ++ h.p

/-- STALL and GUARD of eight bits. -/
def Hdr.ofBits (b : BitVec 8) : Hdr := { stall := b.extractLsb' 4 4, neg := b.getLsbD 3, p := b.extractLsb' 0 3 }

/-- A modifying slot (08 R196). -/
def Pfx.word (p : Pfx) : BitVec 96 :=
  0#16 ++ p.rnd ++ p.sat ++ p.den ++ p.seed ++ BitVec.ofBool p.imx ++ 0#38 ++ p.imm

/-- The fields of a modifying slot; its reserved fields must be zero (08 R198). -/
def Pfx.ofWord (w : BitVec 96) : Except Reject Pfx :=
  if w.extractLsb' 80 16 = 0#16 ∧ w.extractLsb' 32 38 = 0#38 then
    .ok { rnd := w.extractLsb' 77 3, sat := w.extractLsb' 75 2, den := w.extractLsb' 73 2, seed := w.extractLsb' 71 2,
          imx := w.getLsbD 70, imm := w.extractLsb' 0 32 }
  else .error .pfxReserved

/-- Format A (08 R194). -/
def OpA.word (h : Hdr) (opc minor : Nat) (o : OpA) : BitVec 96 :=
  BitVec.ofNat 8 opc ++ h.bits ++ BitVec.ofNat 8 minor ++ o.ty.code ++ o.dst.code ++ o.sa.code ++ o.sb.code ++ o.sc.code
    ++ o.rnd ++ BitVec.ofBool o.sat ++ 0#9 ++ o.imm

/-- The fields of format A. -/
def OpA.ofWord (p : Option Pfx) (w : BitVec 96) : Except Reject OpA :=
  match TyCode.ofCode (w.extractLsb' 68 4), Sel.ofCode (w.extractLsb' 58 10), Sel.ofCode (w.extractLsb' 48 10),
      Sel.ofCode (w.extractLsb' 38 10), Sel.ofCode (w.extractLsb' 28 10) with
  | some ty, some dst, some sa, some sb, some sc =>
    if w.extractLsb' 16 9 = 0#9 then
      .ok { pfx := p, ty, dst, sa, sb, sc, rnd := w.extractLsb' 26 2,
            sat := w.getLsbD 25, imm := w.extractLsb' 0 16 }
    else .error .reserved
  | none, _, _, _, _ => .error .typeCode
  | _, _, _, _, _ => .error .selector

/-- Format M (08 R194). -/
def OpM.word (h : Hdr) (opc minor : Nat) (o : OpM) : BitVec 96 :=
  BitVec.ofNat 8 opc ++ h.bits ++ BitVec.ofNat 8 minor ++ o.ty.code ++ o.data.code ++ o.brec ++ o.index.code ++ o.scope
    ++ BitVec.ofBool o.rem ++ o.aux.code ++ o.glen ++ 0#12 ++ o.imm

/-- The fields of format M. -/
def OpM.ofWord (p : Option Pfx) (w : BitVec 96) : Except Reject OpM :=
  match TyCode.ofCode (w.extractLsb' 68 4), Sel.ofCode (w.extractLsb' 58 10), Sel.ofCode (w.extractLsb' 44 10),
      Sel.ofCode (w.extractLsb' 30 10) with
  | some ty, some data, some index, some aux =>
    if w.extractLsb' 16 12 = 0#12 then
      .ok { pfx := p, ty, data, brec := w.extractLsb' 54 4, index,
            scope := w.extractLsb' 41 3, rem := w.getLsbD 40, aux, glen := w.extractLsb' 28 2, imm := w.extractLsb' 0 16 }
    else .error .reserved
  | none, _, _, _ => .error .typeCode
  | _, _, _, _ => .error .selector

/-- Format C (08 R194). -/
def OpC.word (h : Hdr) (opc minor : Nat) (o : OpC) : BitVec 96 :=
  BitVec.ofNat 8 opc ++ h.bits ++ BitVec.ofNat 8 minor ++ o.d1.code ++ o.d2.code ++ o.sa.code ++ o.carry.code
    ++ o.clen ++ o.tslot ++ o.ldisp

/-- The fields of format C. -/
def OpC.ofWord (p : Option Pfx) (w : BitVec 96) : Except Reject OpC :=
  match Sel.ofCode (w.extractLsb' 62 10), Sel.ofCode (w.extractLsb' 52 10), Sel.ofCode (w.extractLsb' 42 10),
      Sel.ofCode (w.extractLsb' 32 10) with
  | some d1, some d2, some sa, some carry =>
    .ok { pfx := p, d1, d2, sa, carry, clen := w.extractLsb' 30 2,
          tslot := w.extractLsb' 27 3, ldisp := w.extractLsb' 0 27 }
  | _, _, _, _ => .error .selector

/-- Format X (08 R194). -/
def OpX.word (h : Hdr) (opc minor : Nat) (o : OpX) : BitVec 96 :=
  BitVec.ofNat 8 opc ++ h.bits ++ BitVec.ofNat 8 minor ++ o.dst.code ++ o.sa.code ++ o.sb.code ++ o.sc.code ++ o.imm

/-- The fields of format X. -/
def OpX.ofWord (p : Option Pfx) (w : BitVec 96) : Except Reject OpX :=
  match Sel.ofCode (w.extractLsb' 62 10), Sel.ofCode (w.extractLsb' 52 10), Sel.ofCode (w.extractLsb' 42 10),
      Sel.ofCode (w.extractLsb' 32 10) with
  | some dst, some sa, some sb, some sc =>
    .ok { pfx := p, dst, sa, sb, sc, imm := w.extractLsb' 0 32 }
  | _, _, _, _ => .error .selector

/-- A compact op (08 R200). -/
def OpK.word (stall : BitVec 2) (cop : Nat) (o : OpK) : BitVec 48 :=
  BitVec.ofNat 6 cop ++ stall ++ o.dst ++ o.sa ++ o.sb ++ o.imm

/-- The fields of a compact op. -/
def OpK.ofWord (w : BitVec 48) : OpK :=
  { dst := w.extractLsb' 32 8, sa := w.extractLsb' 24 8, sb := w.extractLsb' 16 8,
    imm := w.extractLsb' 0 16 }

/-! ## Compact operations (08 R200, 09 R222) -/

/-- The format A expansion of a compact op. -/
def OpK.asA (o : OpK) (ty : TyCode) (dst sa sb : Sel) : OpA :=
  { pfx := none, ty, dst, sa, sb, sc := .none, rnd := 0, sat := false, imm := o.imm }

/-- The operand fields of a format A op that has no operands (09 R221). -/
def OpA.blank : OpA := { pfx := none, ty := .dflt, dst := .none, sa := .none, sb := .none, sc := .none, rnd := 0, sat := false, imm := 0 }
/-- The operand fields of a format C op that has no operands (09 R221). -/
def OpC.blank : OpC := { pfx := none, d1 := .none, d2 := .none, sa := .none, carry := .none, clen := 0, tslot := 0, ldisp := 0 }
/-- The operand fields of a format X op that has no operands (09 R221). -/
def OpX.blank : OpX := { pfx := none, dst := .none, sa := .none, sb := .none, sc := .none, imm := 0 }

/-- The format M expansion of a compact op. -/
def OpK.asM (o : OpK) (data : Sel) (brec : BitVec 8) (index : Sel) : OpM :=
  { pfx := none, ty := .dflt, data, brec := brec.setWidth 4, index, scope := 0, rem := false, aux := .none,
    glen := 0, imm := o.imm }

/-- `sn` of a compact op. -/
def kS (n : BitVec 8) : Sel := .s (n.setWidth 6)
/-- `pn` of a compact op. -/
def kP (n : BitVec 8) : Sel := .p (n.setWidth 3)

/-- A row of the compact table: the class of each field (`none`: unused), and whether IMM16 is used. -/
structure CForm where
  cop : Nat
  dst : Option Cls := none
  sa : Option Cls := none
  sb : Option Cls := none
  imm : Bool := false
  deriving DecidableEq, Repr

/-- How many registers of a class a compact field can name. -/
def Cls.size : Cls → Nat
  | .v => 256 | .s => 64 | .p => 8 | .m => 8 | .b => 16 | .w => 16 | .t => 8 | .a => 8

/-- 08 R200: a number within its class. -/
def CForm.numbersOk (f : CForm) (o : OpK) : Bool :=
  [(f.dst, o.dst), (f.sa, o.sa), (f.sb, o.sb)].all
    (fun x => match x.1 with | some c => x.2.toNat < c.size | none => true)

/-- 08 R200: every field that the expansion does not use is zero. -/
def CForm.unusedOk (f : CForm) (o : OpK) : Bool :=
  [(f.dst, o.dst), (f.sa, o.sa), (f.sb, o.sb)].all (fun x => x.1.isSome || x.2 == 0) && (f.imm || o.imm == 0)

namespace CForms
/-- COMPACT_ADD_V -/
def compactAddV : CForm := { cop := 0x01, dst := some .v, sa := some .v, sb := some .v }
/-- COMPACT_ADD_VI -/
def compactAddVi : CForm := { cop := 0x02, dst := some .v, sa := some .v, imm := true }
/-- COMPACT_SUB_V -/
def compactSubV : CForm := { cop := 0x03, dst := some .v, sa := some .v, sb := some .v }
/-- COMPACT_MUL_V -/
def compactMulV : CForm := { cop := 0x04, dst := some .v, sa := some .v, sb := some .v }
/-- COMPACT_MUL_VI -/
def compactMulVi : CForm := { cop := 0x05, dst := some .v, sa := some .v, imm := true }
/-- COMPACT_MIN -/
def compactMin : CForm := { cop := 0x06, dst := some .v, sa := some .v, sb := some .v }
/-- COMPACT_MAX -/
def compactMax : CForm := { cop := 0x07, dst := some .v, sa := some .v, sb := some .v }
/-- COMPACT_AND_V -/
def compactAndV : CForm := { cop := 0x08, dst := some .v, sa := some .v, sb := some .v }
/-- COMPACT_AND_VI -/
def compactAndVi : CForm := { cop := 0x09, dst := some .v, sa := some .v, imm := true }
/-- COMPACT_OR_V -/
def compactOrV : CForm := { cop := 0x0A, dst := some .v, sa := some .v, sb := some .v }
/-- COMPACT_OR_VI -/
def compactOrVi : CForm := { cop := 0x0B, dst := some .v, sa := some .v, imm := true }
/-- COMPACT_XOR_V -/
def compactXorV : CForm := { cop := 0x0C, dst := some .v, sa := some .v, sb := some .v }
/-- COMPACT_XOR_VI -/
def compactXorVi : CForm := { cop := 0x0D, dst := some .v, sa := some .v, imm := true }
/-- COMPACT_SHL_V -/
def compactShlV : CForm := { cop := 0x0E, dst := some .v, sa := some .v, sb := some .v }
/-- COMPACT_SHL_VI -/
def compactShlVi : CForm := { cop := 0x0F, dst := some .v, sa := some .v, imm := true }
/-- COMPACT_SHR_VI -/
def compactShrVi : CForm := { cop := 0x10, dst := some .v, sa := some .v, imm := true }
/-- COMPACT_SAR_VI -/
def compactSarVi : CForm := { cop := 0x11, dst := some .v, sa := some .v, imm := true }
/-- COMPACT_MOV_V -/
def compactMovV : CForm := { cop := 0x12, dst := some .v, sa := some .v }
/-- COMPACT_MOV_VI -/
def compactMovVi : CForm := { cop := 0x13, dst := some .v, imm := true }
/-- COMPACT_ADD_S -/
def compactAddS : CForm := { cop := 0x14, dst := some .s, sa := some .s, sb := some .s }
/-- COMPACT_ADD_SI -/
def compactAddSi : CForm := { cop := 0x15, dst := some .s, sa := some .s, imm := true }
/-- COMPACT_MOV_S -/
def compactMovS : CForm := { cop := 0x16, dst := some .s, sa := some .s }
/-- COMPACT_MOV_SI -/
def compactMovSi : CForm := { cop := 0x17, dst := some .s, imm := true }
/-- COMPACT_CMP_EQ -/
def compactCmpEq : CForm := { cop := 0x18, dst := some .p, sa := some .v, sb := some .v }
/-- COMPACT_CMP_LT -/
def compactCmpLt : CForm := { cop := 0x19, dst := some .p, sa := some .v, sb := some .v }
/-- COMPACT_CMP_LT_U32 -/
def compactCmpLtU32 : CForm := { cop := 0x1A, dst := some .p, sa := some .v, sb := some .v }
/-- COMPACT_CMP_LT_I -/
def compactCmpLtI : CForm := { cop := 0x1B, dst := some .p, sa := some .v, imm := true }
/-- COMPACT_FADD -/
def compactFadd : CForm := { cop := 0x1C, dst := some .v, sa := some .v, sb := some .v }
/-- COMPACT_FMUL -/
def compactFmul : CForm := { cop := 0x1D, dst := some .v, sa := some .v, sb := some .v }
/-- COMPACT_FMIN -/
def compactFmin : CForm := { cop := 0x1E, dst := some .v, sa := some .v, sb := some .v }
/-- COMPACT_FMAX -/
def compactFmax : CForm := { cop := 0x1F, dst := some .v, sa := some .v, sb := some .v }
/-- COMPACT_LD_V -/
def compactLdV : CForm := { cop := 0x20, dst := some .v, sa := some .b, sb := some .v, imm := true }
/-- COMPACT_LD_I -/
def compactLdI : CForm := { cop := 0x21, dst := some .v, sa := some .b, imm := true }
/-- COMPACT_ST -/
def compactSt : CForm := { cop := 0x22, dst := some .b, sa := some .v, sb := some .v, imm := true }
/-- COMPACT_LDU -/
def compactLdu : CForm := { cop := 0x23, dst := some .s, sa := some .b, sb := some .s, imm := true }
/-- COMPACT_POPC -/
def compactPopc : CForm := { cop := 0x24, dst := some .v, sa := some .v }
/-- COMPACT_SHFL_XOR -/
def compactShflXor : CForm := { cop := 0x25, dst := some .v, sa := some .v, imm := true }
/-- COMPACT_SHFL_IDX -/
def compactShflIdx : CForm := { cop := 0x26, dst := some .v, sa := some .v, sb := some .v }
/-- COMPACT_NOP -/
def compactNop : CForm := { cop := 0x27 }
/-- COMPACT_EXIT -/
def compactExit : CForm := { cop := 0x28 }
end CForms

/-- The 96-bit op that a compact op executes as (09 R222); every other instruction is its own. -/
def Instr.expand : Instr → Instr
  | .compactAddV o => .add (o.asA .dflt (.v o.dst) (.v o.sa) (.v o.sb))
  | .compactAddVi o => .add (o.asA .dflt (.v o.dst) (.v o.sa) .imm)
  | .compactSubV o => .sub (o.asA .dflt (.v o.dst) (.v o.sa) (.v o.sb))
  | .compactMulV o => .mul (o.asA .dflt (.v o.dst) (.v o.sa) (.v o.sb))
  | .compactMulVi o => .mul (o.asA .dflt (.v o.dst) (.v o.sa) .imm)
  | .compactMin o => .min (o.asA .dflt (.v o.dst) (.v o.sa) (.v o.sb))
  | .compactMax o => .max (o.asA .dflt (.v o.dst) (.v o.sa) (.v o.sb))
  | .compactAndV o => .and (o.asA .dflt (.v o.dst) (.v o.sa) (.v o.sb))
  | .compactAndVi o => .and (o.asA .dflt (.v o.dst) (.v o.sa) .imm)
  | .compactOrV o => .or (o.asA .dflt (.v o.dst) (.v o.sa) (.v o.sb))
  | .compactOrVi o => .or (o.asA .dflt (.v o.dst) (.v o.sa) .imm)
  | .compactXorV o => .xor (o.asA .dflt (.v o.dst) (.v o.sa) (.v o.sb))
  | .compactXorVi o => .xor (o.asA .dflt (.v o.dst) (.v o.sa) .imm)
  | .compactShlV o => .shl (o.asA .dflt (.v o.dst) (.v o.sa) (.v o.sb))
  | .compactShlVi o => .shl (o.asA .dflt (.v o.dst) (.v o.sa) .imm)
  | .compactShrVi o => .shr (o.asA .dflt (.v o.dst) (.v o.sa) .imm)
  | .compactSarVi o => .sar (o.asA .dflt (.v o.dst) (.v o.sa) .imm)
  | .compactMovV o => .mov (o.asA .dflt (.v o.dst) (.v o.sa) .none)
  | .compactMovVi o => .mov (o.asA .dflt (.v o.dst) .imm .none)
  | .compactAddS o => .add (o.asA .dflt (kS o.dst) (kS o.sa) (kS o.sb))
  | .compactAddSi o => .add (o.asA .dflt (kS o.dst) (kS o.sa) .imm)
  | .compactMovS o => .mov (o.asA .dflt (kS o.dst) (kS o.sa) .none)
  | .compactMovSi o => .mov (o.asA .dflt (kS o.dst) .imm .none)
  | .compactCmpEq o => .cmpEq (o.asA .dflt (kP o.dst) (.v o.sa) (.v o.sb))
  | .compactCmpLt o => .cmpLt (o.asA .dflt (kP o.dst) (.v o.sa) (.v o.sb))
  | .compactCmpLtU32 o => .cmpLt (o.asA .u32 (kP o.dst) (.v o.sa) (.v o.sb))
  | .compactCmpLtI o => .cmpLt (o.asA .dflt (kP o.dst) (.v o.sa) .imm)
  | .compactFadd o => .fadd (o.asA .dflt (.v o.dst) (.v o.sa) (.v o.sb))
  | .compactFmul o => .fmul (o.asA .dflt (.v o.dst) (.v o.sa) (.v o.sb))
  | .compactFmin o => .fmin (o.asA .dflt (.v o.dst) (.v o.sa) (.v o.sb))
  | .compactFmax o => .fmax (o.asA .dflt (.v o.dst) (.v o.sa) (.v o.sb))
  | .compactLdV o => .ld (o.asM (.v o.dst) o.sa (.v o.sb))
  | .compactLdI o => .ld (o.asM (.v o.dst) o.sa .none)
  | .compactSt o => .st (o.asM (.v o.sb) o.dst (.v o.sa))
  | .compactLdu o => .ldu (o.asM (kS o.dst) o.sa (kS o.sb))
  | .compactPopc o => .popc (o.asA .dflt (.v o.dst) (.v o.sa) .none)
  | .compactShflXor o => .shflXor (o.asA .dflt (.v o.dst) (.v o.sa) .imm)
  | .compactShflIdx o => .shflIdx (o.asA .dflt (.v o.dst) (.v o.sa) (.v o.sb))
  | .compactNop => .nop
  | .compactExit => .exit
  | i => i

/-- How an instruction is encoded: as a form with its MINOR and operands, as a compact op, or not at all (a step of the part). -/
inductive Coded where
  | op (f : Form) (minor : Nat) (o : Op)
  | half (c : CForm) (o : OpK)
  | event
  deriving DecidableEq, Repr

/-- The encoding of each constructor. -/
def Instr.coded : Instr → Coded
  | .nop => .op Forms.nop 0 (.a OpA.blank)
  | .bra o => .op Forms.bra 0 (.c o)
  | .brx o => .op Forms.brx 0 (.c o)
  | .call o => .op Forms.call 0 (.c o)
  | .callx o => .op Forms.callx 0 (.c o)
  | .ret => .op Forms.ret 0 (.c OpC.blank)
  | .join o => .op Forms.join 0 (.c o)
  | .mballot o => .op Forms.mballot 0 (.a o)
  | .mlogAnd o => .op Forms.mlogAnd 0 (.a o)
  | .mlogOr o => .op Forms.mlogOr 1 (.a o)
  | .mlogXor o => .op Forms.mlogXor 2 (.a o)
  | .mlogAndn o => .op Forms.mlogAndn 3 (.a o)
  | .mlogMov o => .op Forms.mlogMov 4 (.a o)
  | .mtest o => .op Forms.mtest 0 (.a o)
  | .mpop o => .op Forms.mpop 0 (.a o)
  | .voteAny o => .op Forms.voteAny 0 (.a o)
  | .voteAll o => .op Forms.voteAll 1 (.a o)
  | .voteBallot o => .op Forms.voteBallot 2 (.a o)
  | .brvAny o => .op Forms.brvAny 0 (.c o)
  | .brvAll o => .op Forms.brvAll 1 (.c o)
  | .brvNone o => .op Forms.brvNone 2 (.c o)
  | .pass o => .op Forms.pass 0 (.c o)
  | .passAny o => .op Forms.passAny 0 (.c o)
  | .park => .op Forms.park 0 (.c OpC.blank)
  | .exit => .op Forms.exit 0 (.c OpC.blank)
  | .barArrive lvl o => .op Forms.barArrive lvl.code (.c o)
  | .barWait lvl o => .op Forms.barWait lvl.code (.c o)
  | .barSync lvl o => .op Forms.barSync lvl.code (.c o)
  | .add o => .op Forms.add 0 (.a o)
  | .sub o => .op Forms.sub 0 (.a o)
  | .mul o => .op Forms.mul 0 (.a o)
  | .mulhi o => .op Forms.mulhi 0 (.a o)
  | .mad o => .op Forms.mad 0 (.a o)
  | .madhi o => .op Forms.madhi 0 (.a o)
  | .wmul o => .op Forms.wmul 0 (.a o)
  | .add64 o => .op Forms.add64 0 (.a o)
  | .min o => .op Forms.min 0 (.a o)
  | .max o => .op Forms.max 0 (.a o)
  | .absd o => .op Forms.absd 0 (.a o)
  | .neg o => .op Forms.neg 0 (.a o)
  | .divstep o => .op Forms.divstep 0 (.a o)
  | .divfix o => .op Forms.divfix 0 (.a o)
  | .and o => .op Forms.and 0 (.a o)
  | .or o => .op Forms.or 0 (.a o)
  | .xor o => .op Forms.xor 0 (.a o)
  | .andn o => .op Forms.andn 0 (.a o)
  | .mix3 o => .op Forms.mix3 0 (.a o)
  | .shl o => .op Forms.shl 0 (.a o)
  | .shr o => .op Forms.shr 0 (.a o)
  | .sar o => .op Forms.sar 0 (.a o)
  | .fshf o => .op Forms.fshf 0 (.a o)
  | .popc o => .op Forms.popc 0 (.a o)
  | .clz o => .op Forms.clz 0 (.a o)
  | .brev o => .op Forms.brev 0 (.a o)
  | .bfe o => .op Forms.bfe 0 (.a o)
  | .bfi o => .op Forms.bfi 0 (.a o)
  | .cmpEq o => .op Forms.cmpEq 0 (.a o)
  | .cmpNe o => .op Forms.cmpNe 1 (.a o)
  | .cmpLt o => .op Forms.cmpLt 2 (.a o)
  | .cmpLe o => .op Forms.cmpLe 3 (.a o)
  | .cmpGt o => .op Forms.cmpGt 4 (.a o)
  | .cmpGe o => .op Forms.cmpGe 5 (.a o)
  | .plogAnd o => .op Forms.plogAnd 0 (.a o)
  | .plogOr o => .op Forms.plogOr 1 (.a o)
  | .plogXor o => .op Forms.plogXor 2 (.a o)
  | .plogAndn o => .op Forms.plogAndn 3 (.a o)
  | .plogMov o => .op Forms.plogMov 4 (.a o)
  | .sel o => .op Forms.sel 0 (.a o)
  | .mov o => .op Forms.mov 0 (.a o)
  | .movxSv o => .op Forms.movxSv 0 (.a o)
  | .movxPv o => .op Forms.movxPv 1 (.a o)
  | .movxVp o => .op Forms.movxVp 2 (.a o)
  | .movxSw o => .op Forms.movxSw 3 (.a o)
  | .movxWs o => .op Forms.movxWs 4 (.a o)
  | .movxMs o => .op Forms.movxMs 5 (.a o)
  | .movxSm o => .op Forms.movxSm 6 (.a o)
  | .shflIdx o => .op Forms.shflIdx 0 (.a o)
  | .shflUp o => .op Forms.shflUp 1 (.a o)
  | .shflDown o => .op Forms.shflDown 2 (.a o)
  | .shflXor o => .op Forms.shflXor 3 (.a o)
  | .rdlane o => .op Forms.rdlane 0 (.a o)
  | .fadd o => .op Forms.fadd 0 (.a o)
  | .fmul o => .op Forms.fmul 0 (.a o)
  | .fma o => .op Forms.fma 0 (.a o)
  | .fnma o => .op Forms.fnma 0 (.a o)
  | .fmin o => .op Forms.fmin 0 (.a o)
  | .fmax o => .op Forms.fmax 0 (.a o)
  | .fabs o => .op Forms.fabs 0 (.a o)
  | .fneg o => .op Forms.fneg 0 (.a o)
  | .fcpsgn o => .op Forms.fcpsgn 0 (.a o)
  | .fcmpEq o => .op Forms.fcmpEq 0 (.a o)
  | .fcmpNe o => .op Forms.fcmpNe 1 (.a o)
  | .fcmpLt o => .op Forms.fcmpLt 2 (.a o)
  | .fcmpLe o => .op Forms.fcmpLe 3 (.a o)
  | .fcmpGt o => .op Forms.fcmpGt 4 (.a o)
  | .fcmpGe o => .op Forms.fcmpGe 5 (.a o)
  | .fcmpUn o => .op Forms.fcmpUn 6 (.a o)
  | .fcmpOrd o => .op Forms.fcmpOrd 7 (.a o)
  | .fclass o => .op Forms.fclass 0 (.a o)
  | .fscale o => .op Forms.fscale 0 (.a o)
  | .frnd o => .op Forms.frnd 0 (.a o)
  | .frcp o => .op Forms.frcp 0 (.a o)
  | .frsq o => .op Forms.frsq 0 (.a o)
  | .fsqrt o => .op Forms.fsqrt 0 (.a o)
  | .fex2 o => .op Forms.fex2 0 (.a o)
  | .flg2 o => .op Forms.flg2 0 (.a o)
  | .fsin o => .op Forms.fsin 0 (.a o)
  | .fcos o => .op Forms.fcos 0 (.a o)
  | .ftanh o => .op Forms.ftanh 0 (.a o)
  | .fadd2 o => .op Forms.fadd2 0 (.a o)
  | .fmul2 o => .op Forms.fmul2 0 (.a o)
  | .fma2 o => .op Forms.fma2 0 (.a o)
  | .fdot2 o => .op Forms.fdot2 0 (.a o)
  | .cvt src o => .op Forms.cvt src.code.toNat (.a o)
  | .cvtpk fmt o => .op Forms.cvtpk fmt.code (.a o)
  | .cvtwd fmt o => .op Forms.cvtwd fmt.code (.a o)
  | .qscaleE8m0 o => .op Forms.qscaleE8m0 0 (.a o)
  | .qscaleE4m3 o => .op Forms.qscaleE4m3 1 (.a o)
  | .qscaleF32 o => .op Forms.qscaleF32 2 (.a o)
  | .qscaleF16 o => .op Forms.qscaleF16 3 (.a o)
  | .redAdd o => .op Forms.redAdd 0 (.a o)
  | .redMin o => .op Forms.redMin 1 (.a o)
  | .redMax o => .op Forms.redMax 2 (.a o)
  | .redAnd o => .op Forms.redAnd 3 (.a o)
  | .redOr o => .op Forms.redOr 4 (.a o)
  | .redXor o => .op Forms.redXor 5 (.a o)
  | .scanAdd o => .op Forms.scanAdd 0 (.a o)
  | .scanMin o => .op Forms.scanMin 1 (.a o)
  | .scanMax o => .op Forms.scanMax 2 (.a o)
  | .scanAnd o => .op Forms.scanAnd 3 (.a o)
  | .scanOr o => .op Forms.scanOr 4 (.a o)
  | .scanXor o => .op Forms.scanXor 5 (.a o)
  | .ld o => .op Forms.ld 0 (.m o)
  | .st o => .op Forms.st 0 (.m o)
  | .lda o => .op Forms.lda 0 (.m o)
  | .str o => .op Forms.str 0 (.m o)
  | .ldfmt o => .op Forms.ldfmt 0 (.m o)
  | .ldu o => .op Forms.ldu 0 (.m o)
  | .stu o => .op Forms.stu 0 (.m o)
  | .stmc o => .op Forms.stmc 0 (.m o)
  | .stredAdd o => .op Forms.stredAdd 0 (.m o)
  | .stredAnd o => .op Forms.stredAnd 1 (.m o)
  | .stredOr o => .op Forms.stredOr 2 (.m o)
  | .stredXor o => .op Forms.stredXor 3 (.m o)
  | .stredMin o => .op Forms.stredMin 4 (.m o)
  | .stredMax o => .op Forms.stredMax 5 (.m o)
  | .fenceAcq o => .op Forms.fenceAcq 0 (.m o)
  | .fenceRel o => .op Forms.fenceRel 1 (.m o)
  | .fenceFull o => .op Forms.fenceFull 2 (.m o)
  | .brmake o => .op Forms.brmake 0 (.x o)
  | .brsetBase o => .op Forms.brsetBase 0 (.x o)
  | .brsetStride o => .op Forms.brsetStride 1 (.x o)
  | .brsetExtent o => .op Forms.brsetExtent 2 (.x o)
  | .brsetSwz o => .op Forms.brsetSwz 3 (.x o)
  | .brsetEsz o => .op Forms.brsetEsz 4 (.x o)
  | .brsetOobf o => .op Forms.brsetOobf 5 (.x o)
  | .brgetBase o => .op Forms.brgetBase 0 (.x o)
  | .brgetStride o => .op Forms.brgetStride 1 (.x o)
  | .brgetExtent o => .op Forms.brgetExtent 2 (.x o)
  | .brgetSwz o => .op Forms.brgetSwz 3 (.x o)
  | .brgetEsz o => .op Forms.brgetEsz 4 (.x o)
  | .brgetOobf o => .op Forms.brgetOobf 5 (.x o)
  | .bradv o => .op Forms.bradv 0 (.x o)
  | .lea o => .op Forms.lea 0 (.m o)
  | .atomAdd o => .op Forms.atomAdd 0 (.m o)
  | .atomAnd o => .op Forms.atomAnd 1 (.m o)
  | .atomOr o => .op Forms.atomOr 2 (.m o)
  | .atomXor o => .op Forms.atomXor 3 (.m o)
  | .atomMin o => .op Forms.atomMin 4 (.m o)
  | .atomMax o => .op Forms.atomMax 5 (.m o)
  | .atomXchg o => .op Forms.atomXchg 6 (.m o)
  | .cas o => .op Forms.cas 0 (.m o)
  | .atomnAdd o => .op Forms.atomnAdd 0 (.m o)
  | .atomnAnd o => .op Forms.atomnAnd 1 (.m o)
  | .atomnOr o => .op Forms.atomnOr 2 (.m o)
  | .atomnXor o => .op Forms.atomnXor 3 (.m o)
  | .atomnMin o => .op Forms.atomnMin 4 (.m o)
  | .atomnMax o => .op Forms.atomnMax 5 (.m o)
  | .ldwE o => .op Forms.ldwE 0 (.m o)
  | .ldf o => .op Forms.ldf 0 (.m o)
  | .fill o => .op Forms.fill 0 (.m o)
  | .empty o => .op Forms.empty 0 (.m o)
  | .feget o => .op Forms.feget 0 (.m o)
  | .cpyb o => .op Forms.cpyb 0 (.x o)
  | .cpyk o => .op Forms.cpyk 0 (.m o)
  | .cpyw o => .op Forms.cpyw 0 (.x o)
  | .cpyq o => .op Forms.cpyq 0 (.x o)
  | .job o => .op Forms.job 0 (.x o)
  | .jobp o => .op Forms.jobp 0 (.x o)
  | .fenceOpr => .op Forms.fenceOpr 0 (.x OpX.blank)
  | .jwait o => .op Forms.jwait 0 (.x o)
  | .jstat o => .op Forms.jstat 0 (.x o)
  | .tdset wd o => .op Forms.tdset wd.toNat (.x o)
  | .tdget wd o => .op Forms.tdget wd.toNat (.x o)
  | .bsld o => .op Forms.bsld 0 (.x o)
  | .accrd o => .op Forms.accrd 0 (.x o)
  | .accwr o => .op Forms.accwr 0 (.x o)
  | .accz o => .op Forms.accz 0 (.x o)
  | .jchk o => .op Forms.jchk 0 (.x o)
  | .emit o => .op Forms.emit 0 (.x o)
  | .take o => .op Forms.take 0 (.x o)
  | .done o => .op Forms.done 0 (.x o)
  | .tret => .op Forms.tret 0 (.c OpC.blank)
  | .tretW => .op Forms.tretW 0 (.c OpC.blank)
  | .syscall o => .op Forms.syscall 0 (.x o)
  | .brk o => .op Forms.brk 0 (.x o)
  | .timerarm o => .op Forms.timerarm 0 (.x o)
  | .rdsr o => .op Forms.rdsr 0 (.x o)
  | .wrsr o => .op Forms.wrsr 0 (.x o)
  | .rdcnt o => .op Forms.rdcnt 0 (.x o)
  | .ckpt => .op Forms.ckpt 0 (.x OpX.blank)
  | .hintClass o => .op Forms.hintClass 0 (.x o)
  | .hintIdle o => .op Forms.hintIdle 1 (.x o)
  | .compactAddV o => .half CForms.compactAddV o
  | .compactAddVi o => .half CForms.compactAddVi o
  | .compactSubV o => .half CForms.compactSubV o
  | .compactMulV o => .half CForms.compactMulV o
  | .compactMulVi o => .half CForms.compactMulVi o
  | .compactMin o => .half CForms.compactMin o
  | .compactMax o => .half CForms.compactMax o
  | .compactAndV o => .half CForms.compactAndV o
  | .compactAndVi o => .half CForms.compactAndVi o
  | .compactOrV o => .half CForms.compactOrV o
  | .compactOrVi o => .half CForms.compactOrVi o
  | .compactXorV o => .half CForms.compactXorV o
  | .compactXorVi o => .half CForms.compactXorVi o
  | .compactShlV o => .half CForms.compactShlV o
  | .compactShlVi o => .half CForms.compactShlVi o
  | .compactShrVi o => .half CForms.compactShrVi o
  | .compactSarVi o => .half CForms.compactSarVi o
  | .compactMovV o => .half CForms.compactMovV o
  | .compactMovVi o => .half CForms.compactMovVi o
  | .compactAddS o => .half CForms.compactAddS o
  | .compactAddSi o => .half CForms.compactAddSi o
  | .compactMovS o => .half CForms.compactMovS o
  | .compactMovSi o => .half CForms.compactMovSi o
  | .compactCmpEq o => .half CForms.compactCmpEq o
  | .compactCmpLt o => .half CForms.compactCmpLt o
  | .compactCmpLtU32 o => .half CForms.compactCmpLtU32 o
  | .compactCmpLtI o => .half CForms.compactCmpLtI o
  | .compactFadd o => .half CForms.compactFadd o
  | .compactFmul o => .half CForms.compactFmul o
  | .compactFmin o => .half CForms.compactFmin o
  | .compactFmax o => .half CForms.compactFmax o
  | .compactLdV o => .half CForms.compactLdV o
  | .compactLdI o => .half CForms.compactLdI o
  | .compactSt o => .half CForms.compactSt o
  | .compactLdu o => .half CForms.compactLdu o
  | .compactPopc o => .half CForms.compactPopc o
  | .compactShflXor o => .half CForms.compactShflXor o
  | .compactShflIdx o => .half CForms.compactShflIdx o
  | .compactNop => .half CForms.compactNop ⟨0, 0, 0, 0⟩
  | .compactExit => .half CForms.compactExit ⟨0, 0, 0, 0⟩
  | _ => .event

/-- How a row of the opcode map makes its instruction from MINOR and the operand fields. -/
inductive Mk where
  | a (f : Nat → OpA → Instr)
  | m (f : Nat → OpM → Instr)
  | c (f : Nat → OpC → Instr)
  | x (f : Nat → OpX → Instr)
  /-- a form without operand fields -/
  | z (i : Instr)

/-- A row of the opcode map. -/
structure Row where
  form : Form
  build : Mk

/-- Rows of the opcode map, part 0. -/
def opRows0 : List Row :=
  [⟨Forms.nop, .z .nop⟩,
   ⟨Forms.bra, .c fun _ o => .bra o⟩,
   ⟨Forms.brx, .c fun _ o => .brx o⟩,
   ⟨Forms.call, .c fun _ o => .call o⟩,
   ⟨Forms.callx, .c fun _ o => .callx o⟩,
   ⟨Forms.ret, .z .ret⟩,
   ⟨Forms.join, .c fun _ o => .join o⟩,
   ⟨Forms.mballot, .a fun _ o => .mballot o⟩,
   ⟨Forms.mlogAnd, .a fun _ o => .mlogAnd o⟩,
   ⟨Forms.mlogOr, .a fun _ o => .mlogOr o⟩,
   ⟨Forms.mlogXor, .a fun _ o => .mlogXor o⟩,
   ⟨Forms.mlogAndn, .a fun _ o => .mlogAndn o⟩,
   ⟨Forms.mlogMov, .a fun _ o => .mlogMov o⟩,
   ⟨Forms.mtest, .a fun _ o => .mtest o⟩,
   ⟨Forms.mpop, .a fun _ o => .mpop o⟩,
   ⟨Forms.voteAny, .a fun _ o => .voteAny o⟩,
   ⟨Forms.voteAll, .a fun _ o => .voteAll o⟩,
   ⟨Forms.voteBallot, .a fun _ o => .voteBallot o⟩,
   ⟨Forms.brvAny, .c fun _ o => .brvAny o⟩,
   ⟨Forms.brvAll, .c fun _ o => .brvAll o⟩,
   ⟨Forms.brvNone, .c fun _ o => .brvNone o⟩,
   ⟨Forms.pass, .c fun _ o => .pass o⟩,
   ⟨Forms.passAny, .c fun _ o => .passAny o⟩,
   ⟨Forms.park, .z .park⟩,
   ⟨Forms.exit, .z .exit⟩,
   ⟨Forms.barArrive, .c fun n o => .barArrive (BarLvl.ofCode n) o⟩,
   ⟨Forms.barWait, .c fun n o => .barWait (BarLvl.ofCode n) o⟩,
   ⟨Forms.barSync, .c fun n o => .barSync (BarLvl.ofCode n) o⟩,
   ⟨Forms.add, .a fun _ o => .add o⟩,
   ⟨Forms.sub, .a fun _ o => .sub o⟩,
   ⟨Forms.mul, .a fun _ o => .mul o⟩,
   ⟨Forms.mulhi, .a fun _ o => .mulhi o⟩,
   ⟨Forms.mad, .a fun _ o => .mad o⟩,
   ⟨Forms.madhi, .a fun _ o => .madhi o⟩,
   ⟨Forms.wmul, .a fun _ o => .wmul o⟩,
   ⟨Forms.add64, .a fun _ o => .add64 o⟩]

/-- Rows of the opcode map, part 1. -/
def opRows1 : List Row :=
  [⟨Forms.min, .a fun _ o => .min o⟩,
   ⟨Forms.max, .a fun _ o => .max o⟩,
   ⟨Forms.absd, .a fun _ o => .absd o⟩,
   ⟨Forms.neg, .a fun _ o => .neg o⟩,
   ⟨Forms.divstep, .a fun _ o => .divstep o⟩,
   ⟨Forms.divfix, .a fun _ o => .divfix o⟩,
   ⟨Forms.and, .a fun _ o => .and o⟩,
   ⟨Forms.or, .a fun _ o => .or o⟩,
   ⟨Forms.xor, .a fun _ o => .xor o⟩,
   ⟨Forms.andn, .a fun _ o => .andn o⟩,
   ⟨Forms.mix3, .a fun _ o => .mix3 o⟩,
   ⟨Forms.shl, .a fun _ o => .shl o⟩,
   ⟨Forms.shr, .a fun _ o => .shr o⟩,
   ⟨Forms.sar, .a fun _ o => .sar o⟩,
   ⟨Forms.fshf, .a fun _ o => .fshf o⟩,
   ⟨Forms.popc, .a fun _ o => .popc o⟩,
   ⟨Forms.clz, .a fun _ o => .clz o⟩,
   ⟨Forms.brev, .a fun _ o => .brev o⟩,
   ⟨Forms.bfe, .a fun _ o => .bfe o⟩,
   ⟨Forms.bfi, .a fun _ o => .bfi o⟩,
   ⟨Forms.cmpEq, .a fun _ o => .cmpEq o⟩,
   ⟨Forms.cmpNe, .a fun _ o => .cmpNe o⟩,
   ⟨Forms.cmpLt, .a fun _ o => .cmpLt o⟩,
   ⟨Forms.cmpLe, .a fun _ o => .cmpLe o⟩,
   ⟨Forms.cmpGt, .a fun _ o => .cmpGt o⟩,
   ⟨Forms.cmpGe, .a fun _ o => .cmpGe o⟩,
   ⟨Forms.plogAnd, .a fun _ o => .plogAnd o⟩,
   ⟨Forms.plogOr, .a fun _ o => .plogOr o⟩,
   ⟨Forms.plogXor, .a fun _ o => .plogXor o⟩,
   ⟨Forms.plogAndn, .a fun _ o => .plogAndn o⟩,
   ⟨Forms.plogMov, .a fun _ o => .plogMov o⟩,
   ⟨Forms.sel, .a fun _ o => .sel o⟩,
   ⟨Forms.mov, .a fun _ o => .mov o⟩,
   ⟨Forms.movxSv, .a fun _ o => .movxSv o⟩,
   ⟨Forms.movxPv, .a fun _ o => .movxPv o⟩,
   ⟨Forms.movxVp, .a fun _ o => .movxVp o⟩]

/-- Rows of the opcode map, part 2. -/
def opRows2 : List Row :=
  [⟨Forms.movxSw, .a fun _ o => .movxSw o⟩,
   ⟨Forms.movxWs, .a fun _ o => .movxWs o⟩,
   ⟨Forms.movxMs, .a fun _ o => .movxMs o⟩,
   ⟨Forms.movxSm, .a fun _ o => .movxSm o⟩,
   ⟨Forms.shflIdx, .a fun _ o => .shflIdx o⟩,
   ⟨Forms.shflUp, .a fun _ o => .shflUp o⟩,
   ⟨Forms.shflDown, .a fun _ o => .shflDown o⟩,
   ⟨Forms.shflXor, .a fun _ o => .shflXor o⟩,
   ⟨Forms.rdlane, .a fun _ o => .rdlane o⟩,
   ⟨Forms.fadd, .a fun _ o => .fadd o⟩,
   ⟨Forms.fmul, .a fun _ o => .fmul o⟩,
   ⟨Forms.fma, .a fun _ o => .fma o⟩,
   ⟨Forms.fnma, .a fun _ o => .fnma o⟩,
   ⟨Forms.fmin, .a fun _ o => .fmin o⟩,
   ⟨Forms.fmax, .a fun _ o => .fmax o⟩,
   ⟨Forms.fabs, .a fun _ o => .fabs o⟩,
   ⟨Forms.fneg, .a fun _ o => .fneg o⟩,
   ⟨Forms.fcpsgn, .a fun _ o => .fcpsgn o⟩,
   ⟨Forms.fcmpEq, .a fun _ o => .fcmpEq o⟩,
   ⟨Forms.fcmpNe, .a fun _ o => .fcmpNe o⟩,
   ⟨Forms.fcmpLt, .a fun _ o => .fcmpLt o⟩,
   ⟨Forms.fcmpLe, .a fun _ o => .fcmpLe o⟩,
   ⟨Forms.fcmpGt, .a fun _ o => .fcmpGt o⟩,
   ⟨Forms.fcmpGe, .a fun _ o => .fcmpGe o⟩,
   ⟨Forms.fcmpUn, .a fun _ o => .fcmpUn o⟩,
   ⟨Forms.fcmpOrd, .a fun _ o => .fcmpOrd o⟩,
   ⟨Forms.fclass, .a fun _ o => .fclass o⟩,
   ⟨Forms.fscale, .a fun _ o => .fscale o⟩,
   ⟨Forms.frnd, .a fun _ o => .frnd o⟩,
   ⟨Forms.frcp, .a fun _ o => .frcp o⟩,
   ⟨Forms.frsq, .a fun _ o => .frsq o⟩,
   ⟨Forms.fsqrt, .a fun _ o => .fsqrt o⟩,
   ⟨Forms.fex2, .a fun _ o => .fex2 o⟩,
   ⟨Forms.flg2, .a fun _ o => .flg2 o⟩,
   ⟨Forms.fsin, .a fun _ o => .fsin o⟩,
   ⟨Forms.fcos, .a fun _ o => .fcos o⟩]

/-- Rows of the opcode map, part 3. -/
def opRows3 : List Row :=
  [⟨Forms.ftanh, .a fun _ o => .ftanh o⟩,
   ⟨Forms.fadd2, .a fun _ o => .fadd2 o⟩,
   ⟨Forms.fmul2, .a fun _ o => .fmul2 o⟩,
   ⟨Forms.fma2, .a fun _ o => .fma2 o⟩,
   ⟨Forms.fdot2, .a fun _ o => .fdot2 o⟩,
   ⟨Forms.cvt, .a fun n o => .cvt (TyCode.ofMinor n) o⟩,
   ⟨Forms.cvtpk, .a fun n o => .cvtpk (EFmt.ofCode n) o⟩,
   ⟨Forms.cvtwd, .a fun n o => .cvtwd (EFmt.ofCode n) o⟩,
   ⟨Forms.qscaleE8m0, .a fun _ o => .qscaleE8m0 o⟩,
   ⟨Forms.qscaleE4m3, .a fun _ o => .qscaleE4m3 o⟩,
   ⟨Forms.qscaleF32, .a fun _ o => .qscaleF32 o⟩,
   ⟨Forms.qscaleF16, .a fun _ o => .qscaleF16 o⟩,
   ⟨Forms.redAdd, .a fun _ o => .redAdd o⟩,
   ⟨Forms.redMin, .a fun _ o => .redMin o⟩,
   ⟨Forms.redMax, .a fun _ o => .redMax o⟩,
   ⟨Forms.redAnd, .a fun _ o => .redAnd o⟩,
   ⟨Forms.redOr, .a fun _ o => .redOr o⟩,
   ⟨Forms.redXor, .a fun _ o => .redXor o⟩,
   ⟨Forms.scanAdd, .a fun _ o => .scanAdd o⟩,
   ⟨Forms.scanMin, .a fun _ o => .scanMin o⟩,
   ⟨Forms.scanMax, .a fun _ o => .scanMax o⟩,
   ⟨Forms.scanAnd, .a fun _ o => .scanAnd o⟩,
   ⟨Forms.scanOr, .a fun _ o => .scanOr o⟩,
   ⟨Forms.scanXor, .a fun _ o => .scanXor o⟩,
   ⟨Forms.ld, .m fun _ o => .ld o⟩,
   ⟨Forms.st, .m fun _ o => .st o⟩,
   ⟨Forms.lda, .m fun _ o => .lda o⟩,
   ⟨Forms.str, .m fun _ o => .str o⟩,
   ⟨Forms.ldfmt, .m fun _ o => .ldfmt o⟩,
   ⟨Forms.ldu, .m fun _ o => .ldu o⟩,
   ⟨Forms.stu, .m fun _ o => .stu o⟩,
   ⟨Forms.stmc, .m fun _ o => .stmc o⟩,
   ⟨Forms.stredAdd, .m fun _ o => .stredAdd o⟩,
   ⟨Forms.stredAnd, .m fun _ o => .stredAnd o⟩,
   ⟨Forms.stredOr, .m fun _ o => .stredOr o⟩,
   ⟨Forms.stredXor, .m fun _ o => .stredXor o⟩]

/-- Rows of the opcode map, part 4. -/
def opRows4 : List Row :=
  [⟨Forms.stredMin, .m fun _ o => .stredMin o⟩,
   ⟨Forms.stredMax, .m fun _ o => .stredMax o⟩,
   ⟨Forms.fenceAcq, .m fun _ o => .fenceAcq o⟩,
   ⟨Forms.fenceRel, .m fun _ o => .fenceRel o⟩,
   ⟨Forms.fenceFull, .m fun _ o => .fenceFull o⟩,
   ⟨Forms.brmake, .x fun _ o => .brmake o⟩,
   ⟨Forms.brsetBase, .x fun _ o => .brsetBase o⟩,
   ⟨Forms.brsetStride, .x fun _ o => .brsetStride o⟩,
   ⟨Forms.brsetExtent, .x fun _ o => .brsetExtent o⟩,
   ⟨Forms.brsetSwz, .x fun _ o => .brsetSwz o⟩,
   ⟨Forms.brsetEsz, .x fun _ o => .brsetEsz o⟩,
   ⟨Forms.brsetOobf, .x fun _ o => .brsetOobf o⟩,
   ⟨Forms.brgetBase, .x fun _ o => .brgetBase o⟩,
   ⟨Forms.brgetStride, .x fun _ o => .brgetStride o⟩,
   ⟨Forms.brgetExtent, .x fun _ o => .brgetExtent o⟩,
   ⟨Forms.brgetSwz, .x fun _ o => .brgetSwz o⟩,
   ⟨Forms.brgetEsz, .x fun _ o => .brgetEsz o⟩,
   ⟨Forms.brgetOobf, .x fun _ o => .brgetOobf o⟩,
   ⟨Forms.bradv, .x fun _ o => .bradv o⟩,
   ⟨Forms.lea, .m fun _ o => .lea o⟩,
   ⟨Forms.atomAdd, .m fun _ o => .atomAdd o⟩,
   ⟨Forms.atomAnd, .m fun _ o => .atomAnd o⟩,
   ⟨Forms.atomOr, .m fun _ o => .atomOr o⟩,
   ⟨Forms.atomXor, .m fun _ o => .atomXor o⟩,
   ⟨Forms.atomMin, .m fun _ o => .atomMin o⟩,
   ⟨Forms.atomMax, .m fun _ o => .atomMax o⟩,
   ⟨Forms.atomXchg, .m fun _ o => .atomXchg o⟩,
   ⟨Forms.cas, .m fun _ o => .cas o⟩,
   ⟨Forms.atomnAdd, .m fun _ o => .atomnAdd o⟩,
   ⟨Forms.atomnAnd, .m fun _ o => .atomnAnd o⟩,
   ⟨Forms.atomnOr, .m fun _ o => .atomnOr o⟩,
   ⟨Forms.atomnXor, .m fun _ o => .atomnXor o⟩,
   ⟨Forms.atomnMin, .m fun _ o => .atomnMin o⟩,
   ⟨Forms.atomnMax, .m fun _ o => .atomnMax o⟩,
   ⟨Forms.ldwE, .m fun _ o => .ldwE o⟩,
   ⟨Forms.ldf, .m fun _ o => .ldf o⟩]

/-- Rows of the opcode map, part 5. -/
def opRows5 : List Row :=
  [⟨Forms.fill, .m fun _ o => .fill o⟩,
   ⟨Forms.empty, .m fun _ o => .empty o⟩,
   ⟨Forms.feget, .m fun _ o => .feget o⟩,
   ⟨Forms.cpyb, .x fun _ o => .cpyb o⟩,
   ⟨Forms.cpyk, .m fun _ o => .cpyk o⟩,
   ⟨Forms.cpyw, .x fun _ o => .cpyw o⟩,
   ⟨Forms.cpyq, .x fun _ o => .cpyq o⟩,
   ⟨Forms.job, .x fun _ o => .job o⟩,
   ⟨Forms.jobp, .x fun _ o => .jobp o⟩,
   ⟨Forms.fenceOpr, .z .fenceOpr⟩,
   ⟨Forms.jwait, .x fun _ o => .jwait o⟩,
   ⟨Forms.jstat, .x fun _ o => .jstat o⟩,
   ⟨Forms.tdset, .x fun n o => .tdset (BitVec.ofNat 3 n) o⟩,
   ⟨Forms.tdget, .x fun n o => .tdget (BitVec.ofNat 3 n) o⟩,
   ⟨Forms.bsld, .x fun _ o => .bsld o⟩,
   ⟨Forms.accrd, .x fun _ o => .accrd o⟩,
   ⟨Forms.accwr, .x fun _ o => .accwr o⟩,
   ⟨Forms.accz, .x fun _ o => .accz o⟩,
   ⟨Forms.jchk, .x fun _ o => .jchk o⟩,
   ⟨Forms.emit, .x fun _ o => .emit o⟩,
   ⟨Forms.take, .x fun _ o => .take o⟩,
   ⟨Forms.done, .x fun _ o => .done o⟩,
   ⟨Forms.tret, .z .tret⟩,
   ⟨Forms.tretW, .z .tretW⟩,
   ⟨Forms.syscall, .x fun _ o => .syscall o⟩,
   ⟨Forms.brk, .x fun _ o => .brk o⟩,
   ⟨Forms.timerarm, .x fun _ o => .timerarm o⟩,
   ⟨Forms.rdsr, .x fun _ o => .rdsr o⟩,
   ⟨Forms.wrsr, .x fun _ o => .wrsr o⟩,
   ⟨Forms.rdcnt, .x fun _ o => .rdcnt o⟩,
   ⟨Forms.ckpt, .z .ckpt⟩,
   ⟨Forms.hintClass, .x fun _ o => .hintClass o⟩,
   ⟨Forms.hintIdle, .x fun _ o => .hintIdle o⟩]

/-- The opcode map (09 R210-R219). -/
def opRows : List Row := opRows0 ++ opRows1 ++ opRows2 ++ opRows3 ++ opRows4 ++ opRows5

/-- The compact table (09 R222). -/
def compactRows : List (CForm × (OpK → Instr)) :=
  [(CForms.compactAddV, .compactAddV),
   (CForms.compactAddVi, .compactAddVi),
   (CForms.compactSubV, .compactSubV),
   (CForms.compactMulV, .compactMulV),
   (CForms.compactMulVi, .compactMulVi),
   (CForms.compactMin, .compactMin),
   (CForms.compactMax, .compactMax),
   (CForms.compactAndV, .compactAndV),
   (CForms.compactAndVi, .compactAndVi),
   (CForms.compactOrV, .compactOrV),
   (CForms.compactOrVi, .compactOrVi),
   (CForms.compactXorV, .compactXorV),
   (CForms.compactXorVi, .compactXorVi),
   (CForms.compactShlV, .compactShlV),
   (CForms.compactShlVi, .compactShlVi),
   (CForms.compactShrVi, .compactShrVi),
   (CForms.compactSarVi, .compactSarVi),
   (CForms.compactMovV, .compactMovV),
   (CForms.compactMovVi, .compactMovVi),
   (CForms.compactAddS, .compactAddS),
   (CForms.compactAddSi, .compactAddSi),
   (CForms.compactMovS, .compactMovS),
   (CForms.compactMovSi, .compactMovSi),
   (CForms.compactCmpEq, .compactCmpEq),
   (CForms.compactCmpLt, .compactCmpLt),
   (CForms.compactCmpLtU32, .compactCmpLtU32),
   (CForms.compactCmpLtI, .compactCmpLtI),
   (CForms.compactFadd, .compactFadd),
   (CForms.compactFmul, .compactFmul),
   (CForms.compactFmin, .compactFmin),
   (CForms.compactFmax, .compactFmax),
   (CForms.compactLdV, .compactLdV),
   (CForms.compactLdI, .compactLdI),
   (CForms.compactSt, .compactSt),
   (CForms.compactLdu, .compactLdu),
   (CForms.compactPopc, .compactPopc),
   (CForms.compactShflXor, .compactShflXor),
   (CForms.compactShflIdx, .compactShflIdx),
   (CForms.compactNop, fun _ => .compactNop),
   (CForms.compactExit, fun _ => .compactExit)]

/-! ## Checks, decoder and encoder -/

/-- The checks of the fields of a compact op, those of its expansion among them. -/
def CForm.checks (c : CForm) (o : OpK) (i : Instr) : List (Reject × Bool) :=
  [(.compactNumber, c.numbersOk o), (.compactUnused, c.unusedOk o)] ++
    (match i.expand.coded with | .op f minor q => f.checks minor q | _ => [])

/-- The checks that an instruction must pass; a step of the part has none. -/
def Instr.checks (i : Instr) : List (Reject × Bool) :=
  match i.coded with
  | .op f minor o => f.checks minor o
  | .half c o =>
    c.checks o i
  | .event => []

/-- The first check that an instruction fails. -/
def Instr.reject? (i : Instr) : Option Reject := firstReject i.checks

/-- Has an instruction's constructor no operand fields, and may a modifying slot stand before it? -/
def Instr.bare (i : Instr) : Bool :=
  match i with
  | .nop | .park | .exit | .ret | .fenceOpr => true
  | _ => false

/-- STALL, GUARD and modifying slot that an instruction can be encoded with. -/
def Coding.fits (c : Coding) (i : Instr) : Bool :=
  match i.coded with
  | .op _ _ _ => !c.zeroPfx || i.bare
  | .half _ _ => !c.zeroPfx && !c.h.neg && c.h.p == 7 && c.h.stall.toNat < 4
  | .event => false

/-- An instruction that an encoding stands for: it passes every check. -/
def Instr.legal (c : Coding) (i : Instr) : Bool := i.reject?.isNone && c.fits i

/-- The words of one instruction: one 96-bit op, an op with a modifying slot before it, or half of a compact pair. -/
inductive Words where
  | one (w : BitVec 96)
  | two (pre w : BitVec 96)
  | half (w : BitVec 48)
  deriving DecidableEq, Repr

/-- The row of the opcode map with an OPC and MINOR (09 R210, R219). -/
def rowOf (opc minor : Nat) : Option Row :=
  opRows.find? (fun r => r.form.opc == opc && r.form.minors.contains minor)

/-- The instruction of a row, if its operand fields pass the checks of the form. -/
def Row.accept (r : Row) (h : Hdr) (minor : Nat) (o : Op) : Except Reject (Coding × Instr) :=
  match firstReject (r.form.checks minor o) with
  | some e => .error e
  | none =>
    match r.build, o with
    | .a f, .a q => .ok ({ h }, f minor q)
    | .m f, .m q => .ok ({ h }, f minor q)
    | .c f, .c q => .ok ({ h }, f minor q)
    | .x f, .x q => .ok ({ h }, f minor q)
    | .z i, o => .ok ({ h, zeroPfx := o.pfx.isSome }, i)
    | _, _ => .error .opcode

/-- The operand fields of a 96-bit op in a format. -/
def Op.ofWord (f : Fm) (p : Option Pfx) (w : BitVec 96) : Except Reject Op :=
  match f with
  | .a => match OpA.ofWord p w with | .ok o => .ok (.a o) | .error e => .error e
  | .m => match OpM.ofWord p w with | .ok o => .ok (.m o) | .error e => .error e
  | .c => match OpC.ofWord p w with | .ok o => .ok (.c o) | .error e => .error e
  | .x => match OpX.ofWord p w with | .ok o => .ok (.x o) | .error e => .error e

/-- A 96-bit op, with the fields of the modifying slot before it. -/
def decodeOp (p : Option Pfx) (w : BitVec 96) : Except Reject (Coding × Instr) :=
  let minor := (w.extractLsb' 72 8).toNat
  match rowOf (w.extractLsb' 88 8).toNat minor with
  | none => .error .opcode
  | some r =>
    match Op.ofWord r.form.fmt p w with
    | .ok o => r.accept (Hdr.ofBits (w.extractLsb' 80 8)) minor o
    | .error e => .error e

/-- Half of a compact pair (08 R200). -/
def decodeHalf (w : BitVec 48) : Except Reject (Coding × Instr) :=
  match compactRows.find? (fun r => r.1.cop == (w.extractLsb' 42 6).toNat) with
  | none => .error .cop
  | some r =>
    let o := OpK.ofWord w
    match firstReject (r.1.checks o (r.2 o)) with
    | some e => .error e
    | none => .ok ({ h := { neg := false, p := 7, stall := (w.extractLsb' 40 2).setWidth 4 } }, r.2 o)

/-- The instruction that words stand for, with its STALL and GUARD. -/
def decode : Words → Except Reject (Coding × Instr)
  | .one w => decodeOp none w
  | .two pre w => match Pfx.ofWord pre with | .ok p => decodeOp (some p) w | .error e => .error e
  | .half w => decodeHalf w

/-- The modifying slot of all zeros. -/
def Pfx.zero : Pfx := { rnd := 0, sat := 0, den := 0, seed := 0, imx := false, imm := 0 }

/-- The word of a 96-bit op. -/
def Op.word (h : Hdr) (f : Form) (minor : Nat) : Op → BitVec 96
  | .a q => q.word h f.opc minor | .m q => q.word h f.opc minor
  | .c q => q.word h f.opc minor | .x q => q.word h f.opc minor

/-- The words of an instruction (none for a step of the part, which no program encodes). -/
def encode (c : Coding) (i : Instr) : Option Words :=
  match i.coded with
  | .op f minor o =>
    match o.pfx with
    | some p => some (.two p.word (o.word c.h f minor))
    | none => some (if c.zeroPfx then .two Pfx.zero.word (o.word c.h f minor) else .one (o.word c.h f minor))
  | .half k o => some (.half (o.word (c.h.stall.setWidth 2) k.cop))
  | .event => none

/-! ## Bytes -/

/-- The little-endian number of bytes (00 R8). -/
def leNat : List Byte → Nat
  | [] => 0
  | b :: l => b.toNat + 256 * leNat l

/-- The `n` little-endian bytes of a number. -/
def leBytes : Nat → Nat → List Byte
  | 0, _ => []
  | n + 1, w => BitVec.ofNat 8 w :: leBytes n (w / 256)

/-- The templates of a slot (08 R184). -/
inductive Tpl where
  | op | pair | pfx | empty
  deriving DecidableEq, Repr

/-- The template of two bits. -/
def Tpl.ofCode (n : Nat) : Tpl := match n with | 0 => .op | 1 => .pair | 2 => .pfx | _ => .empty

/-- The first instruction of bytes that begin a slot of template `t` (`pair`: one half), with the bytes that follow. -/
def decodeBytes (t : Tpl) (bs : List Byte) : Except Reject (Coding × Instr × List Byte) :=
  let take (n : Nat) (k : Nat → Except Reject (Coding × Instr)) : Except Reject (Coding × Instr × List Byte) :=
    if bs.length < n then .error .short
    else match k (leNat (bs.take n)) with | .ok (c, i) => .ok (c, i, bs.drop n) | .error e => .error e
  match t with
  | .op => take 12 (fun w => decode (.one (BitVec.ofNat 96 w)))
  | .pair => take 6 (fun w => decode (.half (BitVec.ofNat 48 w)))
  | .pfx => take 24 (fun w => decode (.two (BitVec.ofNat 96 w) (BitVec.ofNat 96 (w / 2 ^ 96))))
  | .empty => .error .empty

/-- The template and the bytes of an instruction whose bits are `w`, `nbits` of them: 48 bits are half of a compact pair, up to 96
one op, more an op that follows its modifying slot. -/
def tableBytes (nbits w : Nat) : Tpl × List Byte :=
  if nbits = 48 then (.pair, leBytes 6 w)
  else if nbits ≤ 96 then (.op, leBytes 12 w)
  else (.pfx, leBytes 24 w)

/-- The instruction that the decoder reads from bits numbered as spec/opcode_table.json numbers them. -/
def decodeTableWord (nbits w : Nat) : Option Instr :=
  let b := tableBytes nbits w
  match decodeBytes b.1 b.2 with
  | .ok (_, i, _) => some i
  | .error _ => none

end Sys2Proof
end

