-- ==== Sys2Proof/Machine/Map.lean ====
section
/-! DEFINITION. Finite maps from numbers, as lists in one canonical form: keys strictly rising, one entry per key, and (for maps
with a default) no entry equal to what an unlisted key reads as. -/

namespace Sys2Proof.Machine

/-- A finite map from numbers. -/
abbrev SMap (α : Type) := List (Nat × α)

/-- The entry of a key. -/
def SMap.find? {α : Type} : SMap α → Nat → Option α
  | [], _ => none
  | (j, v) :: l, k => if j = k then some v else SMap.find? l k

/-- What a key reads as: its entry, or the default. -/
def SMap.get {α : Type} (d : α) (m : SMap α) (k : Nat) : α := (SMap.find? m k).getD d

/-- The map without a key. -/
def SMap.del {α : Type} : SMap α → Nat → SMap α
  | [], _ => []
  | (j, v) :: l, k => if j = k then SMap.del l k else (j, v) :: SMap.del l k

/-- An entry put before the first greater key. -/
def SMap.insert {α : Type} : SMap α → Nat → α → SMap α
  | [], k, v => [(k, v)]
  | (j, w) :: l, k, v => if k < j then (k, v) :: (j, w) :: l else (j, w) :: SMap.insert l k v

/-- The map with an entry for a key, whatever stood there. -/
def SMap.put {α : Type} (m : SMap α) (k : Nat) (v : α) : SMap α := (m.del k).insert k v

/-- A write to a map with a default: the default is never listed. -/
def SMap.set {α : Type} [DecidableEq α] (d : α) (m : SMap α) (k : Nat) (v : α) : SMap α :=
  if v = d then m.del k else m.put k v

/-- Keys strictly rising. -/
def SMap.sorted {α : Type} : SMap α → Bool
  | [] => true
  | [_] => true
  | (j, _) :: (k, w) :: l => j < k && SMap.sorted ((k, w) :: l)

/-- The canonical form of a map with a default. -/
def SMap.canon {α : Type} [DecidableEq α] (d : α) (m : SMap α) : Bool := m.sorted && m.all (fun c => c.2 ≠ d)

/-- An entry changed, if there is one. -/
def SMap.update {α : Type} (m : SMap α) (k : Nat) (f : α → α) : SMap α :=
  match m.find? k with
  | some v => m.put k (f v)
  | none => m

/-- The keys of a map. -/
def SMap.keys {α : Type} (m : SMap α) : List Nat := m.map (·.1)

/-- An element put before the first with a greater number. -/
def insertOn {α : Type} (f : α → Nat) (x : α) : List α → List α
  | [] => [x]
  | y :: l => if f x < f y then x :: y :: l else y :: insertOn f x l

/-- A list in the order of a number of each element; equals keep their order. -/
def sortOn {α : Type} (f : α → Nat) (l : List α) : List α := l.foldl (fun r x => insertOn f x r) []

/-! ## Memory -/

/-- Bytes by address (00 R8): the canonical list of (address, byte) pairs. -/
abbrev Mem := SMap Byte

/-- What a byte reads as that nothing has written. DESIGN CHOICE (log 1): the spec gives memory no contents at power-on. -/
def Mem.blank : Byte := 0

/-- One byte of memory. -/
def Mem.byte (m : Mem) (a : Nat) : Byte := SMap.get Mem.blank m a

/-- One byte written. -/
def Mem.setByte (m : Mem) (a : Nat) (b : Byte) : Mem := SMap.set Mem.blank m a b

/-- `n` bytes from an address. -/
def Mem.bytes (m : Mem) (a : Nat) : Nat → List Byte
  | 0 => []
  | n + 1 => m.byte a :: Mem.bytes m (a + 1) n

/-- Bytes written from an address up. -/
def Mem.setBytes (m : Mem) (a : Nat) : List Byte → Mem
  | [] => m
  | b :: l => Mem.setBytes (m.setByte a b) (a + 1) l

/-- Zeros written over `n` bytes from an address: every entry in the range is removed. -/
def Mem.clear (m : Mem) (a n : Nat) : Mem := m.filter (fun c => c.1 < a || a + n ≤ c.1)

/-- The canonical form of memory. -/
def Mem.wf (m : Mem) : Bool := SMap.canon Mem.blank m

/-! ## Sets of lanes -/

/-- The lanes of a mask, ascending. -/
def lanesOf (m : BitVec 32) : List Nat := (List.range 32).filter (fun l => m.getLsbD l)

/-- The mask of the lanes that satisfy a condition. -/
def maskOf (p : Nat → Bool) : BitVec 32 :=
  BitVec.ofNat 32 ((List.range 32).foldl (fun a l => if p l then a + 2 ^ l else a) 0)

/-- The lowest lane of a mask. -/
def lowest (m : BitVec 32) : Option Nat := (lanesOf m).head?

/-- The number of 1 bits of a word. -/
def popcount (m : BitVec 32) : Nat := (lanesOf m).length

/-- A list without its defaults, as a map. -/
def mapOf {α : Type} [DecidableEq α] (d : α) (l : List (Nat × α)) : SMap α := l.filter (fun x => x.2 ≠ d)

end Sys2Proof.Machine
end

