-- ==== Sys2Proof/Machine/State.lean ====
section
/-! DEFINITION. The state of the ND4 as plain data: everything the spec gives the machine, and the few fields of the model's own that
drive one step (agenda, due, turn, latch, cur, free, ans, uid). -/

namespace Sys2Proof.Machine

/-! ## Groups and lanes -/

/-- A 32-bit register value of a lane, with its poison tag: the index of a side-table entry (23 R396). -/
structure Val where
  bits : Word
  psn : Option Nat := none
  deriving DecidableEq, Repr

/-- A predicate of a lane, with its poison tag. -/
structure PVal where
  b : Bool
  psn : Option Nat := none
  deriving DecidableEq, Repr

/-- What a lane waits for (01 R19). -/
inductive Wait where
  | none
  /-- at a JOIN that names a mask register (06 R160) -/
  | join (m : Nat)
  /-- until a phase of a barrier completes (06 R158) -/
  | bar (lvl : BarLvl) (n phase : Nat)
  /-- asleep on an empty scratchpad word (06 R154, R164) -/
  | word
  /-- on a future (06 R163) -/
  | future
  /-- on a system call (16 R350) -/
  | call
  /-- under HINT.IDLE until a tick (16 R363) -/
  | idle (tick : Nat)
  deriving DecidableEq, Repr

/-- An agent of the memory model (05 R111, R112): a thread, by its core, group slot, lane, block and neighbourhood. A hart or a PCI Express
peer has a core number beyond every core. -/
structure Agent where
  core : Nat
  key : Nat := 0
  lane : Nat := 0
  blk : Nat := 0
  nbh : Nat := 0
  deriving DecidableEq, Repr

/-- A release record (05 R125): the scope of the last release (0 .thr to 6 .sys), and the releaser. -/
structure RelRec where
  scope : Nat
  by_ : Agent
  deriving DecidableEq, Repr

/-- A record (07 R168). -/
structure Rec where
  key : Word
  node : Nat
  donebits : Nat := 0
  psn : Option (DWord × Nat) := none
  pay : List Word := []
  deriving DecidableEq, Repr

/-- What is kept per lane. -/
structure Lane where
  pc : DWord
  exited : Bool := false
  parked : Bool := false
  wait : Wait := .none
  /-- the count of 01 R21 -/
  cnt : Nat := 0
  /-- the return stack, oldest entry first (11 R251) -/
  stk : List DWord := []
  /-- SPC (11 R251) -/
  spc : Nat := 0
  /-- the view the lane belongs to (03 R69) -/
  view : Nat := 0
  /-- written bits of s0 to s63 (03 R68) -/
  written : DWord := 0
  /-- the slice cycle before which the next instruction is not ready (08 R201) -/
  ready : Nat := 0
  /-- fixed-latency results not yet due: register and what is left of its stall sum (08 R202) -/
  haz : List (Nat × Nat) := []
  /-- registers with a fixed-latency result of the lane's last instruction, when a PAIR bit joins the next one to it, each with its latency (08 R204) -/
  pairs : List (Nat × Nat) := []
  /-- interlocked results not yet delivered (08 R201) -/
  pend : List Nat := []
  /-- the record that the lane holds (07 R174) -/
  held : Option Rec := none
  /-- release fences whose effect later relaxed atomic writes take, newest first: the scope, and the locations that have taken it (05 R119); a newer
  fence stands for the older ones of its scope or a narrower one -/
  fences : List (Nat × List Nat) := []
  /-- release records found by relaxed atomic reads, each once (05 R119, R126) -/
  seen : List RelRec := []
  deriving DecidableEq, Repr

/-- A lane beyond the group's threads: exited from the start (01 R14). -/
def Lane.out : Lane := { pc := 0, exited := true }

/-- What a trap records (23 R398). -/
structure Trap where
  cause : Nat
  pc : DWord
  addr : DWord := 0
  lanes : BitVec 32 := 0
  info : Word := 0
  cons : Bool := false
  /-- the copy tag, or the job, that the trap names (23 R399) -/
  tag : Option Nat := none
  job : Option Nat := none
  origpc : DWord := 0
  /-- the die on which an uncorrectable word was found (26 R450) -/
  die : Option Nat := none
  deriving DecidableEq, Repr

/-- A faulted group (06 R140): the trap, and whether its record has been written (23 R398). -/
structure Faulted where
  trap : Trap
  written : Bool := false
  deriving DecidableEq, Repr

/-- A trap record that waits for its place in a trap ring (23 R398): the slot, the trap, TIME, the core cycle, DISPO, and the launch's ticket, region and
queue. -/
structure TrapRec where
  key : Nat
  /-- the block, and the group's index in it: the record follows a group that is saved and restored -/
  blk : Nat := 0
  idx : Nat := 0
  trap : Trap
  time : Nat
  cyc : Nat := 0
  dispo : Nat := 0
  ticket : Nat := 0
  region : Nat := 0
  queue : Nat := 0
  deriving DecidableEq, Repr

/-- An entry of a group's poison side table (23 R396): POISONTAB, origin PC and cause. -/
structure PsnEntry where
  addr : DWord := 0
  origin : DWord := 0
  cause : Nat := 0
  /-- how often the entry has been taken -/
  serial : Nat := 0
  deriving DecidableEq, Repr

/-- A barrier: its phase, and the threads that have arrived in it (06 R157). -/
structure Bar where
  phase : Nat := 0
  arrived : List Nat := []
  /-- the phase of each member's latest arrival, plus one; 0 for none -/
  last : SMap Nat := []
  deriving DecidableEq, Repr

/-- A system call that a group's lanes wait on (16 R350). -/
structure Call where
  ticket : Nat
  lanes : BitVec 32
  dst : Sel
  deriving DecidableEq, Repr

/-! ## Memory requests -/

/-- An operation performed at memory (14 R306). -/
inductive AOp where
  | add | and | or | xor | min | max | xchg
  deriving DecidableEq, Repr

/-- What a request of a memory unit does where it is performed (14). -/
inductive MKind where
  | load
  /-- LDFMT: rounding code of the modifying slot, saturation, flush -/
  | fmt (mode : Nat) (sat ftz : Bool)
  | store
  | fill
  /-- ATOM, ATOMN and STRED -/
  | atom (op : AOp)
  | cas
  | empty
  | feget
  | ldwe
  /-- LDF: performed when it issues (log 25); only its reply is outstanding -/
  | ldf
  /-- FENCE: acquire, release (05 R119) -/
  | fence (acq rel : Bool)
  /-- the wait of TRET.W (06 R164) -/
  | tretw
  deriving DecidableEq, Repr

/-- Where one lane's access stands. -/
inductive AccSt where
  | todo
  /-- performed, or failed -/
  | done
  /-- suppressed: zeros (04 R87) -/
  | skip
  /-- asleep at its slice on an empty word (06 R154) -/
  | sleep
  deriving DecidableEq, Repr

/-- One lane's access: the generic address, the place of its bytes, their number, the data and the comparand of CAS; what it read, or the
cause of its failure (23 R396). -/
structure Acc where
  lane : Nat
  ga : DWord
  loc : Nat
  n : Nat
  data : List Byte := []
  cmp : List Byte := []
  /-- a store that travels as an inbound entry (04 R95) -/
  entry : Bool := false
  /-- the scope at which a write is a release, by its form or by a fence (05 R117, R119) -/
  rel : Option Nat := none
  /-- LDFMT: format code, bit offset of the element in its first byte; the generic address, place and bytes of its scale -/
  fmt : Nat := 0
  bit : Nat := 0
  sga : DWord := 0
  scale : Option (Nat × Nat) := none
  st : AccSt := .todo
  /-- of 16 bytes, the half performed first (true: the upper), and what it read (05 R114) -/
  half : Option (Bool × List Byte) := none
  res : List Byte := []
  sres : List Byte := []
  fail : Option Nat := none
  /-- the empty notice has returned, and the lane sleeps (06 R154) -/
  told : Bool := false
  /-- for an access asleep: its place in the order of arrival (06 R154) -/
  stamp : Nat := 0
  deriving DecidableEq, Repr

/-- Where a promotion demand stands (05 R127): on its way, met by its core, answered. -/
inductive PromoSt where
  | sent | met | back
  deriving DecidableEq, Repr

/-- Where a request stands. -/
inductive ReqSt where
  | queued
  /-- held until its signature has been compared (16 R360) -/
  | held
  /-- applied by the performing unit, its reply lost on the way (14 R308) -/
  | lost
  /-- performed, its answer on the way -/
  | done
  deriving DecidableEq, Repr

/-- A request of a core's memory unit. Loads and stores have one request per instruction and record, atomics one per place (14 R308). -/
structure Req where
  id : Nat
  key : Nat
  blk : Nat
  region : Nat
  /-- the launch and the neighbourhood of its block: issued writes are performed even when the block has been removed (23 R411) -/
  launch : Nat := 0
  nbh : Nat := 0
  pc : DWord
  kind : MKind
  ty : TyCode := .s32
  scope : Nat := 0
  acq : Bool := false
  /-- a relaxed atomic read (05 R119) -/
  relaxed : Bool := false
  rem : Bool := false
  /-- a relaxed atomic write, which takes the effect of a release fence (05 R119) -/
  relaxedW : Bool := false
  dst : Sel := .none
  /-- LDU: one access for all `lanes` -/
  once : Bool := false
  lanes : BitVec 32 := 0
  accs : List Acc
  /-- sequence number of an atomic (14 R308) -/
  seq : Option Nat := none
  st : ReqSt := .queued
  /-- the cores to which promotion demands went, and where each demand stands (05 R127) -/
  promo : List (Nat × PromoSt) := []
  /-- miss registers held (04 R91) -/
  miss : Nat := 0
  /-- the tick at which an atomic was last sent (14 R308, 26 R453) -/
  sentAt : Nat := 0
  /-- compared with the other copy's (16 R360) -/
  cmpd : Bool := false
  /-- compared, and its group put back to a checkpoint since: its results go to the log alone (16 R361) -/
  dead : Bool := false
  /-- the poison that an earlier answer of its instruction has given (23 R396) -/
  entry : Option Nat := none
  deriving DecidableEq, Repr

/-! ## Groups -/

/-- What is kept per group. -/
structure Group where
  /-- block, and index within the block -/
  blk : Nat
  idx : Nat
  /-- allocated vector registers (03 R64) -/
  nv : Nat
  lanes : SMap Lane := []
  /-- vN of lane l at 32 N + l -/
  v : SMap Val := []
  /-- sN of lane l at 64 l + N (03 R68) -/
  u : SMap Val := []
  /-- pN of lane l at 8 l + N -/
  p : SMap PVal := []
  m : SMap Word := []
  b : SMap (BitVec 128) := []
  t : SMap (BitVec 256) := []
  scopemiss : Bool := false
  rsspill : Bool := false
  /-- HEIR: VALID and GROUP (03 R80) -/
  heir : BitVec 5 := 0
  futh : DWord := 0
  futpc : DWord := 0
  futaddr : DWord := 0
  hlanes : BitVec 32 := 0
  /-- SEED[n] (10 R234) -/
  seed : SMap Word := []
  ptab : SMap PsnEntry := []
  pnext : Nat := 0
  /-- the baton held (06 R139) -/
  baton : Option Nat := none
  gissue : Nat := 0
  gcycle : Nat := 0
  ghold : Nat := 0
  gidle : Nat := 0
  gticks : Nat := 0
  /-- a trap raised in this slice cycle: the group becomes faulted at step 2 of 06 R148 -/
  trap : Option Trap := none
  fault : Option Faulted := none
  /-- group barriers 0 to 3 -/
  bars : SMap Bar := []
  /-- a FENCE.OPR since the last JOB, and what the group has written since its last FENCE.OPR: places and sizes, in rising order (15 R331) -/
  opFenced : Bool := false
  opWrote : List (Nat × Nat) := []
  /-- the CPYW (tag, PC, lanes) that holds later instructions (14 R317) -/
  cpyw : Option (Nat × DWord × BitVec 32) := none
  /-- the JWAIT (job id, PC, lanes) that holds later instructions (15 R333) -/
  jwait : Option (Nat × DWord × BitVec 32) := none
  calls : List Call := []
  /-- a SYSCALL whose draw found the ring full, and a ticket drawn for it since (24 R426) -/
  draw : Option DWord := none
  ticket : Option Nat := none
  /-- WRSR values and TIMERARM deadlines of this slice cycle, in order of application (16 R355, R357): register number and value -/
  wrs : List (Nat × DWord) := []
  /-- an EMIT that waits, and the core cycles it has waited (07 R171) -/
  emitWait : Option (DWord × Nat) := none
  /-- an over-class instruction and the slice cycle in which it was first presented (01 R27) -/
  overCls : Option (DWord × Nat) := none
  /-- registers carried by a PASS, each not ready before a slice cycle (06 R144) -/
  carried : List (Nat × Nat) := []
  /-- addresses of denied stores whose notices have arrived, oldest first (04 R98, R99) -/
  denied : List DWord := []
  /-- accesses withdrawn, to be presented again, each with its lanes and the addresses at which those go on (06 R155) -/
  withdrawn : List (Req × List (Nat × DWord)) := []
  /-- HINT.CLASS (16 R362) -/
  hint : Nat := 0
  /-- hand-offs to decide at a cycle's end (06 R154, R158): the request whose answers are awaited (0: none), the successor, and the slice
  cycle in which the form's E4 ends -/
  hands : List (Nat × Option Nat × Nat) := []
  /-- generation of the tables that the group's accesses need (23 R395) -/
  tgen : Word := 0
  /-- resumed or restored: the lanes whose PC has still to be found an instruction start, once the core has observed that generation (23 R395, R399) -/
  land : Option (BitVec 32) := none
  /-- graph to which EMIT sends (16 R347); node of a node group -/
  graph : Option Nat := none
  node : Option Nat := none
  /-- stage of a stage group -/
  stage : Option Nat := none
  /-- the twin pair that the group belongs to, and whether it is the leading copy (16 R360) -/
  twin : Option (Nat × Bool) := none
  /-- a PARK or TRET.W of this slice cycle: with no eligible thread at its end the baton becomes unheld (06 R153, R164) -/
  yielded : Bool := false
  /-- number of CKPTs issued (16 R359) -/
  ckpts : Nat := 0
  /-- a CKPT holds later instructions (16 R359) -/
  ckptWait : Bool := false
  /-- nothing has been issued since a CKPT whose comparison has completed (23 R414) -/
  atCkpt : Bool := false
  deriving DecidableEq, Repr
/-! ## Slices -/

/-- A baton (06 R139). -/
inductive BatonSt where
  | free
  | unheld (blk : Nat)
  | held (blk slot : Nat)
  deriving DecidableEq, Repr

/-- A collector (03 R66): the group and the addresses it gathers for, primary first; for each the vector registers still to read, the slice
cycle from which its stall count has elapsed, whether its operands are collected (03 R67), and the block-shared registers as its collecting finds them
(03 R73). -/
structure Coll where
  slot : Nat
  pcs : List DWord
  want : List (List Nat)
  since : List Nat
  done : List Bool
  ws : List (Option (SMap Word)) := []
  deriving DecidableEq, Repr

/-- A result on its way to a bank (03 R65, R67): the register, the slice cycle at whose end E4 ends, and the core cycle of its write once that is known;
a result delivered from outside the slice has its core cycle from the start, and with `out` its register is not ready before that has ended. -/
structure WB where
  slot : Nat
  reg : Nat
  due : Nat
  at_ : Option Nat := none
  out : Bool := false
  deriving DecidableEq, Repr

/-- What is kept per slice. -/
structure Slice where
  cyc : Nat := 0
  /-- the tick at which the slice's next cycle begins -/
  tick : Nat := 0
  /-- SLOTTAB[i] (01 R24) -/
  slottab : SMap Word := []
  /-- CLKRAT.K (01 R31) -/
  clkrat : BitVec 3 := 0
  /-- TOKBAL (25 R443) -/
  tokEn : Bool := false
  tokRate : BitVec 7 := 0
  tokCap : BitVec 8 := 0x10
  tokBal : Int := 0
  /-- core cycles that have refilled the bucket -/
  tokAt : Nat := 0
  /-- writes of TOKBAL, each with the core cycle from which it is in force (25 R443) -/
  tokNext : List (Nat × Word) := []
  /-- classes in E1 to E4, each with the slice cycles it still stands there (01 R29, R32) -/
  stages : List (Nat × Nat) := []
  /-- slice cycles in which E1 stays busy (01 R32) -/
  busy : Nat := 0
  batons : SMap BatonSt := []
  /-- batons made unheld in this cycle, each with its old holder's HEIR at the event and its slot (06 R150, R151) -/
  orphans : List (Nat × BitVec 5 × Nat) := []
  /-- region each baton is bound to (22 R389) -/
  bound : SMap Nat := []
  /-- bound batons of a withdrawn region that a block has still (22 R390) -/
  leaving : List Nat := []
  coll : SMap Coll := []
  /-- core cycles that the collectors have run -/
  collAt : Nat := 0
  wb : List WB := []
  /-- SGATE (25 R447) -/
  gated : Bool := false
  deriving DecidableEq, Repr
/-! ## Entries, notices, copies -/

/-- An entry of an inbound queue (04 R95). -/
structure InEntry where
  id : Nat
  src : Nat
  key : Nat
  blk : Nat
  launch : Nat
  region : Nat
  /-- 32-byte-aligned offset in the slice -/
  addr : Nat
  ga : DWord
  data : List (Option Byte)
  fill : Bool
  /-- the release record that each byte's write leaves (05 R125) -/
  rels : List (Option RelRec) := []
  /-- the tag and element of a copy that made it -/
  copy : Option (Nat × Nat) := none
  deriving DecidableEq, Repr

/-- A denial notice on its way to its source group (04 R99). -/
structure Notice where
  id : Nat
  key : Nat
  blk : Nat
  launch : Nat
  addr : DWord
  deriving DecidableEq, Repr

/-- A copy tag (14 R312). -/
inductive TagSt where
  | built | flight | done | fault
  deriving DecidableEq, Repr

/-- A copy (14 R312-R318). -/
structure Copy where
  blk : Nat
  src : BitVec 128
  dst : BitVec 128
  count : Nat
  st : TagSt := .built
  fe : Bool := false
  scope : Nat := 0
  /-- the group, address and lanes of its CPYK -/
  key : Nat := 0
  pc : DWord := 0
  lanes : BitVec 32 := 0
  /-- its spans in the range scoreboard: first byte and end, in generic form (04 R101) -/
  sspan : Option (Nat × Nat) := none
  dspan : Option (Nat × Nat) := none
  /-- elements performed, and elements whose entry is on its way -/
  did : List Nat := []
  flying : List Nat := []
  /-- the cause and lowest address of a fault (14 R316) -/
  flt : Option (Nat × DWord) := none
  /-- the owning block has ended (14 R312) -/
  orphan : Bool := false
  /-- the core and tag of the trailing copy of a twin, which has the same end (16 R360) -/
  pair : Option (Nat × Nat) := none
  /-- the table generation on which its accesses depend (23 R395) -/
  gen : Word := 0
  deriving DecidableEq, Repr

/-- A TLB entry (23 R393): its root, virtual page, leaf PTE, and level. -/
structure TlbEntry where
  root : DWord
  vpn : Nat
  level : Nat
  pte : DWord
  deriving DecidableEq, Repr

/-- A result of the performing unit (14 R308): source core, sequence number, result of each lane. -/
structure AtomRes where
  src : Nat
  seq : Nat
  res : List (List Byte)
  deriving DecidableEq, Repr
/-! ## Anvil -/

/-- The state of a job (15 R327). -/
inductive JobSt where
  | queued | run | done | fault | uncorr
  deriving DecidableEq, Repr

/-- A job: its queue entry and its progress (15 R326-R334). -/
structure Job where
  /-- queue entry (SLOT) and the full accepted-job number -/
  slot : Nat
  seq : Nat
  /-- the group, lanes and address of its JOB -/
  key : Nat
  blk : Nat
  pc : DWord
  lanes : BitVec 32
  cardVa : DWord
  card : BitVec 1024
  atd : BitVec 256
  btd : BitVec 256
  /-- JOBP: the follower's core and block (15 R332) -/
  follower : Option (Nat × Nat) := none
  st : JobSt := .queued
  /-- the block's last group has exited (15 R327) -/
  orphan : Bool := false
  corr : Nat := 0
  ckonly : Nat := 0
  skip : Nat := 0
  /-- next iteration of the nest, HEAD, and next drain element -/
  iter : Nat := 0
  head : Nat := 0
  drainAt : Nat := 0
  /-- HEAD has moved on for the next iteration -/
  turned : Bool := false
  /-- the operands are unpredictable (15 R336) -/
  wild : Bool := false
  /-- its JOB found no operand fence, and what its group has written unfenced: places and sizes (15 R331) -/
  unfenced : Bool := false
  wrote : List (Nat × Nat) := []
  /-- the tick at which it entered RUN, and the one from which its array is free for the next iteration (15 R329, 16 R358) -/
  since : Nat := 0
  next : Nat := 0
  flt : Option (Nat × DWord) := none
  /-- the table generation on which its accesses depend (23 R395) -/
  gen : Word := 0
  deriving DecidableEq, Repr

/-- A BSLD in flight (15 R323): where the tile goes in the core's B-store, its size in bytes and format, the elements in bounds, and where the
source pages stand. -/
structure Bsld where
  id : Nat
  key : Nat
  blk : Nat
  pc : DWord
  lanes : BitVec 32
  dst : Nat
  size : Nat
  code : Nat
  extent : Nat
  base : DWord
  pages : List Nat
  deriving DecidableEq, Repr

/-! ## Cores -/

/-- A write to a block-shared register that waits for its core cycle (03 R73, R74). -/
structure WWrite where
  blk : Nat
  reg : Nat
  bits : Word
  /-- slice, baton, secondary (0) before primary (1) -/
  slice : Nat
  baton : Nat
  prim : Nat
  /-- the slice cycle at whose end E4 ends, and the tick at which it has ended -/
  due : Nat
  ended : Option Nat := none
  deriving DecidableEq, Repr

/-- The owner of a granule (04 R93). -/
structure Gran where
  blk : Nat
  region : Nat
  deriving DecidableEq, Repr

/-- Idle states of a core (25 R447). -/
inductive CoreIdle where
  | on | cgate | coff
  deriving DecidableEq, Repr

/-- What is kept per core. -/
structure Core where
  /-- PASSCNT.N (25 R441) -/
  passcnt : BitVec 2 := 0
  /-- TMRCMP[n] (16 R355) -/
  tmrcmp : SMap Nat := []
  /-- of the latest TIMERARM applied to TMRCMP[n]: its core cycle, and its slice and baton (16 R355, 03 R74) -/
  tmrlast : SMap (Nat × Nat) := []
  clinereq : Nat := 0
  cinbound : Nat := 0
  cjobcyc : Nat := 0
  ccorr : Nat := 0
  wq : List WWrite := []
  tags : SMap Copy := []
  jobs : List Job := []
  /-- jobs accepted since cold reset (15 R326) -/
  accepted : Nat := 0
  /-- the core whose paired job runs on this core's array (15 R332) -/
  lent : Option Nat := none
  injector : Option Word := none
  bslds : List Bsld := []
  reqs : List Req := []
  /-- next sequence number of an atomic (14 R308) -/
  aseq : Nat := 0
  /-- results of atomics performed at this core's slice on behalf of the Eddy -/
  ares : List AtomRes := []
  inq : List InEntry := []
  inturn : Nat := 0
  /-- credits held for each target core (04 R96); reset 1 reserved credit each: held as spent and granted -/
  spent : SMap Nat := []
  granted : SMap Nat := []
  /-- for each target, the ticks since which the credits held are unused, newest first (04 R96) -/
  credAt : SMap (List Nat) := []
  gran : SMap Gran := []
  bgran : SMap Gran := []
  /-- accumulator tiles: tile k of the core at its owner block -/
  tiles : SMap Nat := []
  /-- words of tile k: element (r, c) at 16384 k + 128 r + c -/
  acc : SMap Word := []
  /-- block of each barrier slot in use (06 R156) -/
  slots : SMap Nat := []
  /-- first-level TLB of the memory unit, and second-level TLB (23 R393) -/
  tlb1 : List TlbEntry := []
  tlb : List TlbEntry := []
  observed : Word := 0
  /-- invalidations on their way (23 R394): generation and root, oldest first -/
  invals : List (Word × DWord) := []
  /-- instruction cache: root, line address, physical address, 64 bytes -/
  icache : List (DWord × Nat × Nat × List Byte) := []
  idle : CoreIdle := .on
  /-- the tick at which its last block left (25 R447) -/
  emptied : Nat := 0
  deriving DecidableEq, Repr

/-! ## Launches and blocks -/

/-- The effective fields of a region (22 R376, R377). -/
structure Eff where
  rid : Nat
  chain : List Nat := []
  cirq : Nat := 0
  tmrgrant : Nat := 0
  sysring : DWord := 0
  ceil : Nat := 0
  nbat : Nat := 0
  share : Nat := 0
  x0 : Nat := 0
  y0 : Nat := 0
  w : Nat := 0
  h : Nat := 0
  diemask : Nat := 0
  /-- budgets of each region of the chain: blocks, granules, tiles, B-store granules -/
  budgets : List (Nat × Nat × Nat × Nat × Nat) := []
  fdom : Nat := 0
  lattol : Nat := 0
  prio : Nat := 0
  inject : Bool := false
  check : Bool := false
  pin : Bool := false
  deriving DecidableEq, Repr

/-- A snapshot of a page (23 R408): the virtual page, its bytes (in die-local form from a base). -/
structure Snap where
  va : Nat
  base : Nat
  data : List Byte
  deriving DecidableEq, Repr

/-- A launch or graph accepted and not completed (22 R370-R374). -/
structure Launch where
  die : Nat
  queue : Nat
  ticket : Nat
  root : DWord
  desc : BitVec 1024
  eff : Eff
  /-- where its entry lies (22 R368) -/
  entry : DWord := 0
  tgen : Word := 0
  /-- blocks started -/
  started : Nat := 0
  replays : Nat := 0
  /-- an uncorrectable error consumed: its cause, until the rollback or kill (23 R411) -/
  unc : Option Nat := none
  /-- its blocks are gone, and writes that they issued have still to be performed before the pages are restored (23 R411) -/
  rolling : Bool := false
  /-- the launch can still be rolled back (23 R409) -/
  replayable : Bool := true
  /-- pages of the write set: first and number (23 R407) -/
  wset : List (Nat × Nat) := []
  snaps : List Snap := []
  /-- the graph it starts, for a GRAPH command -/
  isGraph : Bool := false
  /-- barriers of each neighbourhood and of the grid: neighbourhood n, number k at 16 n + k; grid number k at 16 * 2^32 + k -/
  bars : SMap Bar := []
  deriving DecidableEq, Repr

/-- A resident, saved or starting block (01 R13, 22 R380). -/
structure Block where
  launch : Nat
  /-- linear block index -/
  lin : Nat
  core : Nat
  region : Nat
  threads : Nat
  groups : Nat
  nv : Nat
  /-- scratchpad granules: first and count; B-store granules; accumulator tiles -/
  gran0 : Nat := 0
  grans : Nat := 0
  b0 : Nat := 0
  bgrans : Nat := 0
  tiles : List Nat := []
  /-- w0 to w15 -/
  w : SMap Word := []
  bars : SMap Bar := []
  /-- placement of each group: slice, slot -/
  place : List (Nat × Nat) := []
  batons : Nat := 1
  /-- position in the neighbourhood, its width and height, and the cores of its members -/
  nbh : Option (Nat × Nat × Nat × Nat) := none
  members : List Nat := []
  /-- the blocks of the neighbourhood, in member order, and the identity of the neighbourhood -/
  mblocks : List Nat := []
  nbhId : Nat := 0
  /-- twin: the identity of the pair, and whether this is the leading copy -/
  twin : Option (Nat × Bool) := none
  /-- issue stopped by a preemption order (23 R414) -/
  stopped : Bool := false
  /-- saved: its offset in the region's save area; what the area's records do not hold of its groups, copies and jobs stays here -/
  saved : Option Nat := none
  saveAt : Nat := 0
  sgroups : List Group := []
  stags : SMap Copy := []
  sjobs : List Job := []
  /-- checksum columns of its B-store, by offset in its grant -/
  sbck : SMap (List (Int × Int)) := []
  /-- batons of the block on each of its slices -/
  bats : List (Nat × List Nat) := []
  /-- all groups have exited -/
  ended : Bool := false
  /-- node group: graph, node, stack area -/
  graph : Option Nat := none
  area : Option Nat := none
  deriving DecidableEq, Repr

/-- A completion of a system call on its way, or recorded for a saved group (24 R427). -/
structure Completion where
  id : Nat
  region : Nat
  ticket : Nat
  value : DWord
  deriving DecidableEq, Repr

/-- A region being saved, saved, or being restored (23 R414, R417): the save area, the die of the request, whether it is restored, and what firmware has
recorded in the save area for saved groups that wait on a call: the completions (24 R427). -/
structure Susp where
  base : Nat
  die : Nat
  busy : Bool := true
  restore : Bool := false
  calls : List Completion := []
  deriving DecidableEq, Repr

/-! ## Vane -/

/-- A queue of a node: its bin, or the queue of a stage (07 R171, R172). -/
structure NQueue where
  recs : List Rec := []
  /-- the tick at which the timer started -/
  timer : Option Nat := none
  expired : Bool := false
  /-- finished and kept counts of the window, and pass rate (07 R179) -/
  fin : Nat := 0
  kept : Nat := 0
  prate : Nat := 512
  deriving DecidableEq, Repr

/-- A node of a running graph (07 R166, R182). -/
structure Node where
  desc : BitVec 512
  stages : List DWord := []
  queues : List NQueue
  /-- the overflow area: records with their queue -/
  ovf : List (Nat × Rec) := []
  gen : Word
  arrived : Nat := 0
  retired : Nat := 0
  launched : Nat := 0
  dropped : Nat := 0
  discpois : Nat := 0
  lost : Nat := 0
  windows : Nat := 0
  /-- join entries: key, arrivals, first arrival, poison of the earliest poisoned one (07 R177) -/
  joins : List (Word × Nat × Rec × Option (DWord × Nat)) := []
  deriving DecidableEq, Repr

/-- A running graph (07 R166). -/
structure Graph where
  launch : Nat
  /-- node array -/
  array : DWord
  nodes : List Node
  /-- stack areas in use -/
  areas : List Nat := []
  /-- arrivals that wait at Vane: node, the queue chosen, and the record (07 R171, R177) -/
  waiting : List (Nat × Option Nat × Rec) := []
  deriving DecidableEq, Repr

/-- Records sent by an EMIT and not yet arrived (07 R170): core cycle, source core, slice, lane, graph, record, group. -/
structure Emitted where
  graph : Nat
  cyc : Nat
  core : Nat
  slice : Nat
  lane : Nat
  key : Nat
  record : Rec
  deriving DecidableEq, Repr

/-- A lane's DONE or TAKE on its way to Vane (07 R174, R175): the graph, node and stage of its group, and the core cycle. -/
structure VOp where
  take : Bool
  graph : Nat
  node : Nat
  stage : Option Nat
  cyc : Nat
  key : Nat
  lane : Nat
  kept : Bool := true
  record : Option Rec := none
  dst : Nat := 0
  deriving DecidableEq, Repr

/-! ## Dies and the package -/

/-- A command consumed and not completed (22 R367, R368, R375): its number in order of consumption, its ticket, its entry and where that lies,
the root of its process, and whether its queue has been enabled ever since. -/
structure Cmd where
  id : Nat
  ticket : Nat
  entry : BitVec 1024
  va : DWord
  root : DWord
  now : Bool := true
  deriving DecidableEq, Repr

/-- A command queue (22 R365-R368). -/
structure Queue where
  base : DWord := 0
  root : DWord := 0
  en : Bool := false
  log2 : Nat := 4
  head : Nat := 0
  cons : Nat := 0
  tail : Nat := 0
  badentry : Bool := false
  badcfg : Bool := false
  badcommit : Bool := false
  /-- entries whose commit bit is set -/
  commits : List Nat := []
  /-- commands consumed and not completed, in order -/
  live : List Cmd := []
  /-- the command consumed and not yet passed on (22 R375) -/
  cur : Option Nat := none
  /-- the WAITMEM that holds the queue -/
  wait : Option Nat := none
  deriving DecidableEq, Repr

/-- The state of a migration (23 R405). -/
inductive MigSt where
  | idle | copy | freeze | done
  deriving DecidableEq, Repr

/-- A flit on its way: number, payload, the lanes whose share is damaged, the lanes in use when it was sent, and the tick until which an injector holds
it (26 R457). -/
structure Flit where
  num : Nat
  pay : DWord
  hurt : BitVec 8
  lanes : BitVec 8
  due : Nat
  deriving DecidableEq, Repr

/-- One direction of a fabric link: its sender and its receiver (26 R452). -/
structure LinkDir where
  /-- sender: next sequence number, unacknowledged flits (number, payload), and the tick of the latest acknowledgement or first send -/
  next : Nat := 0
  retry : List (Nat × DWord) := []
  heard : Nat := 0
  /-- flits in flight to the receiver -/
  wire : List Flit := []
  /-- the tick before which nothing more is put on the wire: a flit is held -/
  gate : Nat := 0
  /-- receiver: number expected, whether it discards until the replay, flits delivered, oldest first -/
  expect : Nat := 0
  discard : Bool := false
  delivered : List DWord := []
  /-- messages that wait for the link -/
  waiting : List DWord := []
  /-- acknowledgements and NAKs on their way back: next number expected -/
  acks : List Nat := []
  naks : List Nat := []
  deriving DecidableEq, Repr

/-- A fabric link (26 R452-R457): its registers, and its two directions, out of the package and into it. -/
structure Link where
  evt : Bool := false
  lanes : BitVec 8 := 0xFF
  width : BitVec 2 := 0
  down : Bool := false
  up : Bool := false
  crc : Nat := 0
  rply : Nat := 0
  shed : Nat := 0
  finjctl : DWord := 0
  finjcnt : BitVec 16 := 0
  out : LinkDir := {}
  into : LinkDir := {}
  /-- ticks of each lane's CRC errors, newest first (26 R454) -/
  errs : SMap (List Nat) := []
  training : Bool := false
  /-- lanes that no shed has given up (26 R454) -/
  good : BitVec 8 := 0xFF
  deriving DecidableEq, Repr

/-- One domain of a die's APLIC (24 R425, log 34): interrupts enabled; per source its configuration, whether it is pending, enabled, and its target. -/
structure Aplic where
  ie : Bool := false
  cfg : SMap Nat := []
  ip : List Nat := []
  en : List Nat := []
  target : SMap Word := []
  deriving DecidableEq, Repr

/-- An exception of a hart (24 R420, R421). -/
inductive HartExc where
  | illegalInstruction | virtualInstruction | accessFault
  deriving DecidableEq, Repr

/-- What the spec gives a control core (24 R419-R422, R433). -/
structure Hart where
  /-- the entry at which it was released, in M-mode; none while it is held -/
  entry : Option DWord := none
  /-- LQDEVATTR.IGN, and the value that governs the translations made since its last SFENCE.VMA -/
  ign : Bool := false
  ignOn : Bool := false
  /-- the exception that its latest access to a CSR or to memory raised -/
  exc : Option HartExc := none
  deriving DecidableEq, Repr

/-- What is kept per die. -/
structure Die where
  queues : SMap Queue := []
  trbase : DWord := 0
  trEn : Bool := false
  trLog2 : Nat := 6
  trhead : Word := 0
  trtail : Word := 0
  trpc : DWord := 0
  /-- records that wait to be written, in order (23 R398) -/
  traps : List TrapRec := []
  migsrc : DWord := 0
  migdst : DWord := 0
  migst : MigSt := .idle
  /-- lines of the frame still to copy or copied and written since (23 R405) -/
  migdirty : List Nat := []
  /-- the remap table (23 R406): source frame, destination frame -/
  remap : List (Nat × Nat) := []
  introute : SMap Word := []
  intpend : BitVec 8 := 0
  /-- the wired sources asserted, and the two domains of the APLIC, M-level and S-level (24 R425) -/
  aplic : List Nat := []
  domM : Aplic := {}
  domS : Aplic := {}
  scval : SMap DWord := []
  tmrpend : List Nat := []
  fwreq : SMap DWord := []
  fwstatus : BitVec 8 := 0
  fwbusy : Bool := false
  /-- BOOTSTAT[31:16] and LINKCFG configured and in force (24 R431, R433) -/
  bootstat : BitVec 16 := 0
  linkcfg : BitVec 2 := 0
  linkcfgOn : BitVec 2 := 0
  /-- reliability counters (26 R450) and request counters (26 R462), by number -/
  rc : SMap Nat := []
  dc : SMap Nat := []
  links : SMap Link := []
  colldesc : DWord := 0
  collbusy : Bool := false
  /-- dies whose part of this die's failed collective is still to end with the error (26 R459) -/
  collOwes : List Nat := []
  attbuf : DWord := 0
  attbusy : Bool := false
  attdone : Bool := false
  /-- lines of the die cache: line number, whether prefetched and not yet demanded, whether its fill is outstanding -/
  cache : List (Nat × Bool × Bool) := []
  /-- Front's next-core pointer (22 R382) -/
  nextCore : Nat
  /-- tick from which Front may start the next block (22 R385) -/
  frontAt : Nat := 0
  /-- the firmware core: the lease word its last successful exchange wrote while it leads (22 R387), and whether it yields -/
  lead : Option DWord := none
  yielding : Bool := false
  /-- a boot failure has stopped the firmware core (24 R433) -/
  fwstop : Bool := false
  /-- results of atomics performed at this die's Eddy -/
  ares : List AtomRes := []
  /-- the walk cache: non-leaf entries (23 R393) -/
  wcache : List TlbEntry := []
  deriving DecidableEq, Repr

/-- An address chosen in a slice cycle: as secondary, with the lanes eligible at it at the start of the cycle (01 R23, R25), or as the second of a pair
(08 R204). -/
structure Pick where
  pc : DWord
  sec : Bool := false
  second : Bool := false
  at_ : BitVec 32 := 0
  deriving DecidableEq, Repr

/-- A group, its core and its slice as they stand at the start of a slice cycle (01 R25). -/
structure Start where
  group : Group
  core : Core
  slice : Slice
  deriving DecidableEq, Repr

/-- The instruction being executed: who issues it, where it stands, and which lanes execute it. The model's own. -/
structure Cur where
  core : Nat := 0
  slice : Nat := 0
  slot : Nat := 0
  /-- address of the instruction, and of the one that follows it by 08 R187 -/
  pc : DWord := 0
  npc : DWord := 0
  /-- the number of its form: opcode, minor opcode, TYPE (16 R360) -/
  form : Nat := 0
  /-- lanes that issue it, and lanes that execute it (guard true): 03 R63 -/
  at_ : BitVec 32 := 0
  lanes : BitVec 32 := 0
  sec : Bool := false
  stall : Nat := 0
  /-- (lane, register) pairs whose read is unpredictable (08 R202) -/
  wild : List (Nat × Nat) := []
  /-- (lane, register) pairs whose value after the instruction is unpredictable (08 R202) -/
  spoilt : List (Nat × Nat) := []
  /-- lanes whose guard is poisoned, with its poison (23 R397) -/
  psn : List (Nat × Nat) := []
  /-- lanes whose destinations take poison because a guard is poisoned, with it (23 R397, 13 R294) -/
  marred : List (Nat × Nat) := []
  /-- block-shared registers as its collecting found them (03 R73) -/
  ws : Option (SMap Word) := none
  /-- the baton under which it issues (03 R74) -/
  baton : Nat := 0
  /-- for a second instruction of a cycle, the group, core and slice at its start (16 R356, R358) -/
  start : Option Start := none
  /-- reads that the instruction performs as it issues: a RET's fills, an LDF's words (log 25) -/
  probe : Option Req := none
  deriving DecidableEq, Repr

/-- A slice cycle in progress (01 R25): the slice, its baton, what is still to issue and for which group, the timing classes issued, the lanes eligible at
its start and those whose address is chosen (01 R21), the row's CEIL, the groups that held a baton at its start, and the one the row names; the group,
core and slice as they stood at the start, and the group-held registers that the first instruction writes (03 R72). The model's own. -/
structure Latch where
  slice : Nat
  baton : Nat := 0
  todo : List Pick := []
  group : Option Nat := none
  issued : List Nat := []
  elig : BitVec 32 := 0
  chosen : BitVec 32 := 0
  ceil : Nat := 3
  holders : List Nat := []
  named : Option Nat := none
  start : Option Start := none
  first : List Nat := []
  deriving DecidableEq, Repr

/-- Work that the part has in hand, oldest first. The model's own. -/
inductive Work where
  | serve (core id : Nat)
  | reply (core id : Nat)
  | perform (core id : Nat)
  | answer (core id : Nat)
  | wake (core id : Nat)
  | drain (core : Nat)
  | ack (src tgt : Nat)
  | credit (src tgt : Nat)
  | notice (id : Nat)
  | demand (core id : Nat)
  | promoted (core id : Nat)
  | copy (core tag : Nat)
  | bsld (core id : Nat)
  | anvil (core : Nat)
  | vane (die : Nat)
  | trap (die : Nat)
  | wapply (core : Nat)
  | fill (core : Nat) (root va : DWord)
  | timer (core n : Nat)
  | twin (t : Nat)
  | barrier (blk : Nat) (lvl : BarLvl) (n : Nat)
  | inval (core : Nat)
  | consume (die q : Nat)
  | command (die q : Nat)
  | waitmem (die q : Nat)
  | writemem (die q : Nat)
  | start (launch : Nat)
  | complete (launch : Nat)
  | release (blk : Nat)
  | sysdone (id : Nat)
  | rollback (launch cause : Nat)
  | preempt (blk : Nat)
  | restore (blk : Nat)
  | mail (die : Nat)
  | migrate (die : Nat)
  | collective (die : Nat)
  | quote (die : Nat)
  | unit (core : Nat)
  | parked
  deriving DecidableEq, Repr

/-- What an instruction of a twin copy does once its signature has been compared (16 R360). -/
inductive TwinOp where
  /-- requests of the core's memory unit, and whether they give a result -/
  | req (ids : List Nat) (result : Bool)
  | copy (tag : Nat)
  | emit (l : List Emitted)
  | timer (n deadline : Nat)
  /-- a system call, with the ticket that stands for it in its group until one is drawn -/
  | call (num : Word) (args : List Word) (time : Nat) (pc : DWord) (id : Nat)
  deriving DecidableEq, Repr

/-- An instruction of a twin copy not yet compared: its signature and what it does. -/
structure TwinEntry where
  sig : List Nat
  op : TwinOp
  /-- the instruction that made it: its requests stand in one entry; 0 for one that makes none -/
  inst : Nat := 0
  /-- an LDW.E whose words have still to be found empty or full -/
  wait : Bool := false
  deriving DecidableEq, Repr

/-- What a lane's access read, or the cause of its failure. -/
structure LaneRes where
  lane : Nat
  res : List Byte
  fail : Option Nat := none
  deriving DecidableEq, Repr

/-- An entry of the atomic log (16 R360): the instruction's address, whether it is an LDW.E, its lanes, and their results once they are there. -/
structure TwinLog where
  pc : DWord
  ldwe : Bool
  lanes : BitVec 32
  res : Option (List LaneRes) := none
  deriving DecidableEq, Repr

/-- Requests of a pair that agree and are under way: those of the leading copy still to be performed, those of the trailing one, what has been read, and
the number of its entry in the log; none without a result, or from before the checkpoint. -/
structure Flight where
  lead : List Nat
  trail : List Nat
  result : Bool
  res : List LaneRes := []
  log : Option Nat := none
  deriving DecidableEq, Repr

/-- A group of a twin launch with its copy (16 R359-R361): the two slots, the slack, and for each copy the entries not compared, oldest first. -/
structure Twin where
  lead : Nat
  trail : Nat
  slack : Nat
  lq : List TwinEntry := []
  tq : List TwinEntry := []
  /-- requests compared and under way -/
  flights : List Flight := []
  /-- the atomic log: results since the checkpoint, in order -/
  log : List TwinLog := []
  /-- the checkpoints, and the first identity of a request made after them -/
  ckptL : Option Group := none
  ckptT : Option Group := none
  ckptAt : Nat := 0
  /-- how many instructions with results each copy has come to since the checkpoint, and the latest of them -/
  takenL : Nat := 0
  takenT : Nat := 0
  lastL : Nat := 0
  lastT : Nat := 0
  /-- requests of a rerun that wait for a result of the log: whether the leading copy's, the request, the number of the entry -/
  takers : List (Bool × Nat × Nat) := []
  deriving DecidableEq, Repr

/-- The state of the machine. -/
structure State where
  /-- ticks since cold reset -/
  now : Nat
  dram : Mem
  sram : Mem
  /-- scratchpad words whose full/empty bit is empty (04 R100) -/
  emptyw : List Nat
  bst : Mem
  /-- checksum column of each tile that a BSLD has formed, by the tile's place in the B-store: exact numbers, mantissa and exponent (15 R323, R339) -/
  bck : SMap (List (Int × Int))
  /-- DRAM places that hold an uncorrectable error (23 R410) -/
  ecc : List Nat
  groups : SMap Group
  slices : SMap Slice
  cores : SMap Core
  dies : SMap Die
  blocks : SMap Block
  launches : SMap Launch
  graphs : SMap Graph
  twins : SMap Twin
  tgen : Word
  /-- the region table (22 R376): identifier, RCB address; and the regions admitted with their slots (22 R389) -/
  regtab : SMap DWord
  admitted : SMap Eff
  rspace : Option DWord
  /-- regions suspended by a preemption order -/
  susp : SMap Susp
  lease : DWord
  handover : DWord
  curalm : BitVec 5
  boosten : Bool
  boost : Bool
  boostGrant : Bool
  pwrLimit : Word
  pwrAvg : Word
  diePwr : DWord
  temp : DWord
  dramWin : DWord
  energy : DWord
  /-- the control cores -/
  harts : SMap Hart
  /-- the identities pending in each IMSIC file, by its address (24 R424) -/
  imsic : SMap (List Nat)
  /-- messages sent to IMSIC files: address, identity; oldest first -/
  irqs : List (Nat × Nat)
  /-- accesses of harts and peers that wait for a frame in FREEZE, and those behind them of the same hart or port (23 R405, 24 R432) -/
  parked : List Access
  emitted : List Emitted
  vops : List VOp
  notices : List Notice
  completions : List Completion
  /-- records of Eddy-held variables and scratchpad words (05 R125), by the place of their word -/
  rels : SMap RelRec
  /-- interleave ranges reserved at boot (04 R107): first and end of the local offsets -/
  il4 : Nat × Nat
  il64 : Nat × Nat
  /-- frames left in the snapshot pool (23 R408) -/
  pool : Nat
  -- the model's own
  agenda : List Instr
  due : List Work
  turn : Bool
  latch : Option Latch
  cur : Cur
  free : Nat
  /-- what the latest read by a hart or a peer was answered with; none for a refusal -/
  ans : Option (List Byte)
  uid : Nat
  deriving DecidableEq, Repr

/-- Why the machine stops with a fault: the model has no such stop, since every trap of the spec is taken as a next state. -/
inductive Fault where
  /-- never raised: kept for the interface; safe -/
  | none
  deriving DecidableEq, Repr

/-- Why a step is refused. -/
inductive Refusal where
  /-- an instruction whose meaning is not written; raised by no meaning; safe -/
  | notModelled (mnemonic : String)
  deriving DecidableEq, Repr

/-- A die right after cold reset. -/
def Die.reset (d : Nat) : Die := { nextCore := 96 * d }

/-- The machine right after cold reset: every field at the value the spec states; where it states none, the value that
notes/assumptions names (2). -/
def State.reset : State :=
  { now := 0, dram := [], sram := [], emptyw := [], bst := [], bck := [], ecc := [], groups := [], slices := [], cores := [],
    dies := [(0, Die.reset 0), (1, Die.reset 1), (2, Die.reset 2), (3, Die.reset 3)],
    blocks := [], launches := [], graphs := [], twins := [], tgen := 0, regtab := [], admitted := [], rspace := none, susp := [],
    lease := 0, handover := 0, curalm := 0, boosten := false, boost := false, boostGrant := false,
    pwrLimit := 2400000, pwrAvg := 0, diePwr := 0, temp := 0, dramWin := 0x03E803E803E803E8, energy := 0,
    harts := [], imsic := [], irqs := [], parked := [], emitted := [], vops := [], notices := [], completions := [], rels := [],
    il4 := (0, 0), il64 := (0, 0), pool := 0, agenda := [], due := [], turn := false, latch := none, cur := {},
    free := 0, ans := none, uid := 0 }

end Sys2Proof.Machine
end

