-- ==== Sys2Proof/Machine/Ops.lean ====
section
/-! DEFINITION. Named operations over the state: units and registers, lanes and views, taking a trap, and resuming from one. -/

namespace Sys2Proof.Machine

open Sys2Proof

/-! ## Units -/

/-- The number of a slice of the package. -/
def sliceKey (core slice : Nat) : Nat := core * 6 + slice
/-- The number of a group slot of the package. -/
def groupKey (core slice slot : Nat) : Nat := (core * 6 + slice) * 16 + slot
/-- The slice of a group, as a number of the package. -/
def sliceOf (key : Nat) : Nat := key / 16
/-- The core of a group. -/
def coreOf (key : Nat) : Nat := key / 96
/-- The slot of a group. -/
def slotOf (key : Nat) : Nat := key % 16
/-- The die of a core. -/
def dieOf (core : Nat) : Nat := core / 96
/-- A core id from die, column and row: 96 die + 8 row + column (00 R4). -/
def coreId (die x y : Nat) : Nat := 96 * die + 8 * y + x

/-- The group in a slot. -/
def State.group? (s : State) (key : Nat) : Option Group := s.groups.find? key
/-- A group put in a slot. -/
def State.putGroup (s : State) (key : Nat) (g : Group) : State := { s with groups := s.groups.put key g }
/-- A slice. -/
def State.slice (s : State) (sl : Nat) : Slice := SMap.get {} s.slices sl
/-- A slice replaced. -/
def State.putSlice (s : State) (sl : Nat) (x : Slice) : State := { s with slices := s.slices.put sl x }
/-- A core. -/
def State.core (s : State) (c : Nat) : Core := SMap.get {} s.cores c
/-- A core replaced. -/
def State.putCore (s : State) (c : Nat) (x : Core) : State := { s with cores := s.cores.put c x }
/-- A die. -/
def State.die (s : State) (d : Nat) : Die := SMap.get (Die.reset d) s.dies d
/-- A die replaced. -/
def State.putDie (s : State) (d : Nat) (x : Die) : State := { s with dies := s.dies.put d x }
/-- A block. -/
def State.block? (s : State) (b : Nat) : Option Block := s.blocks.find? b
/-- A block replaced. -/
def State.putBlock (s : State) (b : Nat) (x : Block) : State := { s with blocks := s.blocks.put b x }
/-- A launch. -/
def State.launch? (s : State) (i : Nat) : Option Launch := s.launches.find? i
/-- A launch replaced. -/
def State.putLaunch (s : State) (i : Nat) (x : Launch) : State := { s with launches := s.launches.put i x }
/-- A fresh identity. -/
def State.fresh (s : State) : Nat × State := (s.uid, { s with uid := s.uid + 1 })
/-- Work taken in hand, after what is in hand already. -/
def State.addDue (s : State) (w : List Work) : State := { s with due := s.due ++ w }

/-- The launch of a block. -/
def State.launchOf? (s : State) (b : Nat) : Option Launch :=
  match s.block? b with
  | some x => s.launch? x.launch
  | none => none

/-- Bits `[hi:lo]` of a launch descriptor. -/
def Launch.field (l : Launch) (hi lo : Nat) : Nat := (l.desc.toNat / 2 ^ lo) % 2 ^ (hi + 1 - lo)

/-- TIME of a die at a tick: 0 at cold reset, and on the other dies up to 14 ticks behind die 0 (01 R34, R35). -/
def timeAt (die tick : Nat) : Nat := (tick - (if die = 0 then 0 else Config.skew die % 15)) % 2 ^ 64

/-- TIME of a slice at the start of its cycle. -/
def State.timeOf (s : State) (sl : Nat) : Nat := timeAt (dieOf (sl / 6)) (s.slice sl).tick

/-- The pass count of a core (25 R441). -/
def Core.passes (c : Core) : Nat := match c.passcnt.toNat with | 1 => 2 | 2 => 4 | _ => 1

/-! ## Registers of a group -/

/-- A lane; a lane never set is exited (01 R14). -/
def Group.lane (g : Group) (l : Nat) : Lane := SMap.get Lane.out g.lanes l
/-- A lane replaced. -/
def Group.setLane (g : Group) (l : Nat) (x : Lane) : Group := { g with lanes := g.lanes.set Lane.out l x }
/-- `vN` of a lane. -/
def Group.vAt (g : Group) (n l : Nat) : Val := SMap.get ⟨0, none⟩ g.v (32 * n + l)
/-- `sN` of a lane's copy (03 R68). -/
def Group.uAt (g : Group) (n l : Nat) : Val := SMap.get ⟨0, none⟩ g.u (64 * l + n)
/-- `pN` of a lane; p7 is true (03 R63). -/
def Group.pAt (g : Group) (n l : Nat) : PVal := if n = 7 then ⟨true, none⟩ else SMap.get ⟨false, none⟩ g.p (8 * l + n)
/-- `mN`. -/
def Group.mAt (g : Group) (n : Nat) : Word := SMap.get 0 g.m n
/-- `bN`. -/
def Group.bAt (g : Group) (n : Nat) : BitVec 128 := SMap.get 0 g.b n
/-- `tN`. -/
def Group.tAt (g : Group) (n : Nat) : BitVec 256 := SMap.get 0 g.t n
/-- A vector register of a lane written. -/
def Group.setV (g : Group) (n l : Nat) (x : Val) : Group := { g with v := g.v.set ⟨0, none⟩ (32 * n + l) x }
/-- A lane's copy of a uniform register written, with its written bit (03 R68). -/
def Group.setU (g : Group) (n l : Nat) (x : Val) : Group :=
  let g := { g with u := g.u.set ⟨0, none⟩ (64 * l + n) x }
  g.setLane l { g.lane l with written := (g.lane l).written ||| (1 <<< n) }
/-- A predicate of a lane written; a write to p7 has no effect (03 R63). -/
def Group.setP (g : Group) (n l : Nat) (x : PVal) : Group :=
  if n = 7 then g else { g with p := g.p.set ⟨false, none⟩ (8 * l + n) x }
/-- A mask register written. -/
def Group.setM (g : Group) (n : Nat) (x : Word) : Group := { g with m := g.m.set 0 n x }
/-- A buffer record register written. -/
def Group.setB (g : Group) (n : Nat) (x : BitVec 128) : Group := { g with b := g.b.set 0 n x }
/-- A tile descriptor register written. -/
def Group.setT (g : Group) (n : Nat) (x : BitVec 256) : Group := { g with t := g.t.set 0 n x }
/-- SEED[n] (10 R234): n + 1 at the group's first instruction. -/
def Group.seedAt (g : Group) (n : Nat) : Word := SMap.get (BitVec.ofNat 32 (n + 1)) g.seed n

/-! ## Lanes -/

/-- 01 R19: may the lane issue? -/
def Lane.eligible (x : Lane) : Bool := !x.exited && !x.parked && x.wait == .none

/-- The lanes that have not exited. -/
def Group.live (g : Group) : BitVec 32 := maskOf (fun l => !(g.lane l).exited)
/-- The eligible lanes. -/
def Group.eligible (g : Group) : BitVec 32 := maskOf (fun l => (g.lane l).eligible)
/-- The eligible lanes at an address. -/
def Group.atPc (g : Group) (pc : DWord) : BitVec 32 := maskOf (fun l => (g.lane l).eligible && (g.lane l).pc == pc)
/-- The group has exited: no live lane. -/
def Group.exited (g : Group) : Bool := g.live == 0
/-- A change of each lane of a mask. -/
def Group.onLanes (g : Group) (m : BitVec 32) (f : Nat → Lane → Lane) : Group :=
  (lanesOf m).foldl (fun g l => g.setLane l (f l (g.lane l))) g

/-- The views that hold a live lane (03 R69). -/
def Group.views (g : Group) : List Nat :=
  ((lanesOf g.live).map (fun l => (g.lane l).view)).foldl (fun a v => if a.contains v then a else a ++ [v]) []

/-- The live lanes of a view. -/
def Group.viewLanes (g : Group) (v : Nat) : BitVec 32 := maskOf (fun l => !(g.lane l).exited && (g.lane l).view == v)

/-- A view split by a write of some of its lanes: they take the lowest free number (03 R69); none when a ninth view would arise (R70). -/
def Group.split (g : Group) (lanes : BitVec 32) (v : Nat) : Option Group :=
  let all := g.viewLanes v
  let part := all &&& lanes
  if part == 0 || part == all then some g
  else match (List.range 8).find? (fun k => !(g.views.contains k)) with
    | some k => some (g.onLanes part (fun _ x => { x with view := k }))
    | none => none

/-- The views after a uniform write by the lanes given (03 R69, R70). -/
def Group.splitViews (g : Group) (lanes : BitVec 32) : Option Group :=
  g.views.foldl (fun r v => match r with | some g => g.split lanes v | none => none) (some g)

/-- GSTAT (03 R80). -/
def Group.gstat (g : Group) (key : Nat) : Word :=
  BitVec.ofNat 32 ((if g.scopemiss then 2 ^ 15 else 0) + (if g.rsspill then 2 ^ 14 else 0) + 1024 * (g.views.length - 1)
    + (match g.baton with | some b => 512 + 128 * b | none => 0) + 8 * slotOf key + (sliceOf key) % 6)

/-! ## Cause codes (23 R400-R403) -/

namespace Cause
def illegal : Nat := 0x001
def linepar : Nat := 0x002
def badtgt : Nat := 0x003
def orphan : Nat := 0x004
def stallshort : Nat := 0x005
def rsempty : Nat := 0x006
def ceiling : Nat := 0x007
def uview : Nat := 0x041
def srnum : Nat := 0x042
def srwrite : Nat := 0x043
def succ : Nat := 0x044
def vrange (s : Nat) : Nat := 0x048 + s
def galign (s : Nat) : Nat := 0x050 + s
def overlap (s : Nat) : Nat := 0x058 + s
def arange (s : Nat) : Nat := 0x060 + s
/-- Class 2: detail 4 f + a. -/
def access (f : Nat) (a : AccKind) : Nat :=
  0x080 + 4 * f + (match a with | .read => 0 | .write => 1 | .rmw => 2 | .fetch => 3)
def tag := access 1
def addrform := access 2
def window := access 3
def global := access 4
def bounds := access 5
def align := access 6
def format := access 7
def fespace := access 8
def pteattr := access 9
def place := access 10
def page := access 11
def perm := access 12
def barnum : Nat := 0x0C1
def bartwice : Nat := 0x0C2
def nodedesc : Nat := 0x101
def nodenum : Nat := 0x102
def binfull : Nat := 0x103
def stagefx : Nat := 0x104
def nograph : Nat := 0x105
def notnode : Nat := 0x106
def cpytag : Nat := 0x108
def cpydesc : Nat := 0x109
def jobcard : Nat := 0x110
def jobtd : Nat := 0x111
def jobid : Nat := 0x112
def pairnone : Nat := 0x113
def nofence : Nat := 0x114
def early : Nat := 0x115
def inject : Nat := 0x116
def twineng : Nat := 0x117
def ldesc : Nat := 0x118
def region : Nat := 0x119
def nofit : Nat := 0x11A
def gridbar : Nat := 0x11B
def recslots : Nat := 0x11C
def brk : Nat := 0x181
def futnoh : Nat := 0x182
def futnest : Nat := 0x183
def tretnone : Nat := 0x184
def nosysring : Nat := 0x185
def timer : Nat := 0x186
def memunc : Nat := 0x1C1
def anvunc : Nat := 0x1C2
def saveimg : Nat := 0x1C3
def noreplay : Nat := 0x1C4
def replaymax : Nat := 0x1C5
end Cause

/-! ## Poison (23 R396, R397) -/

/-- A side-table entry taken: the group, and the poison tag (the index, with how often the entry has been taken above it). -/
def Group.takeEntry (g : Group) (addr origin : DWord) (cause : Nat) : Nat × Group :=
  let i := g.pnext
  let e := SMap.get {} g.ptab i
  (i + 8 * (e.serial + 1),
   { g with ptab := g.ptab.put i { addr, origin, cause, serial := e.serial + 1 }, pnext := (i + 1) % 8 })

/-- The trap of a consumption of poison (23 R397). -/
def Group.consumed (g : Group) (pc : DWord) (lanes : BitVec 32) (psn : Nat) : Trap :=
  let e := SMap.get {} g.ptab (psn % 8)
  { cause := e.cause, pc, addr := e.addr, lanes, cons := true, origpc := e.origin,
    info := BitVec.ofNat 32 (psn % 8 + (if e.serial = psn / 8 then 0 else 8)) }

/-! ## Taking a trap, and resuming -/

/-- A trap raised by a group in this slice cycle. Nothing of the instruction has an effect; its lanes keep their addresses. The group
becomes faulted at step 2 of 06 R148; a faulted group raises no second trap (23 R398). -/
def Group.raise (g : Group) (t : Trap) : Group :=
  if g.trap.isSome || g.fault.isSome then g else { g with trap := some t }

/-- A trap raised by the group in a slot. -/
def State.raiseAt (s : State) (key : Nat) (t : Trap) : State :=
  match s.group? key with
  | some g => s.putGroup key (g.raise t)
  | none => s

/-- The slot of the group that issues the instruction being executed. -/
def Cur.key (c : Cur) : Nat := groupKey c.core c.slice c.slot

/-- A trap of the instruction being executed. -/
def State.trapOf (s : State) (cause : Nat) (addr : DWord := 0) : Trap :=
  { cause, pc := s.cur.pc, addr, lanes := s.cur.lanes }

/-- The lanes of a list, as a mask. -/
def maskIn (l : List Nat) : BitVec 32 := maskOf (fun i => l.contains i)

/-- A trap that a check of each lane raises: its record names the lanes that raised it (23 R398). -/
def State.trapIn (s : State) (l : List Nat) (cause : Nat) (addr : DWord) : Trap := { s.trapOf cause addr with lanes := maskIn l }

/-- A consumption by the lanes of a list (23 R397, R398). -/
def State.consumedIn (s : State) (g : Group) (l : List Nat) (psn : Nat) : Trap := g.consumed s.cur.pc (maskIn l) psn

/-- A consumption of an operand read in the view of the lowest executing lane: that lane raises it. -/
def State.consumedOf (s : State) (g : Group) (psn : Nat) : Trap := s.consumedIn g ((lanesOf s.cur.lanes).take 1) psn

/-- An uncorrectable error consumed (23 R410). -/
def isUnc (cause : Nat) : Bool := cause == Cause.memunc || cause == Cause.anvunc

/-- Is a launch rolled back by a consumption (23 R411)? -/
def Launch.rollsBack (l : Launch) : Bool := l.replayable && l.replays < 3

/-- A reliability counter of a die raised (26 R450). -/
def State.countR (s : State) (d k : Nat) : State :=
  let x := s.die d
  s.putDie d { x with rc := x.rc.set 0 k ((SMap.get 0 x.rc k + 1) % 2 ^ 64) }

/-- A trap record taken in hand for the ring of the group's die; an uncorrectable error leads to rollback or kill (23 R398, R411), and one that is consumed
where it strikes is counted on the die where it is found (26 R450). `id`: the launch. -/
def State.pushTrap (s : State) (key id : Nat) (t : Trap) (tick : Nat) : State :=
  let d := dieOf (coreOf key)
  let time := timeAt d tick
  let r : TrapRec := { key, trap := t, time, cyc := tick / 10 }
  let r : TrapRec := match s.group? key with | some g => { r with blk := g.blk, idx := g.idx } | none => r
  let r : TrapRec := match s.launch? id with
    | some l => { r with dispo := if isUnc t.cause then (if l.rollsBack then 1 else 2) else 0, ticket := l.ticket, region := l.eff.rid, queue := l.queue }
    | none => r
  let s := if isUnc t.cause then { s with launches := s.launches.update id (fun l => { l with unc := l.unc <|> some t.cause }) } else s
  let s := if t.cause == Cause.memunc && !t.cons then s.countR (t.die.getD d) 5 else s
  (s.putDie d { s.die d with traps := (s.die d).traps ++ [r] }).addDue (.trap d :: if isUnc t.cause then [.rollback id t.cause] else [])

/-- The launch of a block, by its number. -/
def State.launchId (s : State) (blk : Nat) : Nat := match s.block? blk with | some b => b.launch | none => 0

/-- A pending trap makes the group faulted (06 R140), and its record waits for the trap ring of the die (23 R398). -/
def State.becomeFaulted (s : State) (key : Nat) : State :=
  match s.group? key with
  | some g =>
    match g.trap with
    | some t => (s.putGroup key { g with trap := none, fault := some { trap := t }, overCls := none }).pushTrap key (s.launchId g.blk) t (s.slice (sliceOf key)).tick
    | none => s
  | none => s

/-- An error strikes a request of a block's group: its trap, or, when the group has gone or has trapped already, the record alone (23 R410). `id`: the
launch. -/
def State.strike (s : State) (key blk id : Nat) (t : Trap) : State :=
  match s.group? key with
  | some g => if g.blk = blk && g.trap.isNone && g.fault.isNone then s.putGroup key (g.raise t) else s.pushTrap key id t s.now
  | none => s.pushTrap key id t s.now

/-- A faulted group resumed at an address (23 R399): its LANES take it as their PC, and the group is no longer faulted. Lanes sent elsewhere do not come to
the second of a PAIR (08 R204). -/
def State.resumeAt (s : State) (key : Nat) (pc : DWord) : State :=
  match s.group? key with
  | some g =>
    match g.fault with
    | some f =>
      s.putGroup key { (g.onLanes f.trap.lanes (fun _ x => { x with pc := pc, pairs := if x.pc = pc then x.pairs else [] })) with fault := none, tgen := s.tgen }
    | none => s
  | none => s

/-! ## Completing an instruction -/

/-- The lanes that issued the instruction go on to the next one by 08 R187. -/
def Group.advance (g : Group) (c : Cur) : Group := g.onLanes c.at_ (fun _ x => { x with pc := c.npc })

/-- The free counter moves on. -/
def State.tickFree (s : State) : State := { s with free := s.free + 1 }

/-- An instruction that acts on its group alone: `f` gives the group after it (its lanes already at the next instruction), or the trap. -/
def onGroup (s : State) (f : Group → Except Trap Group) : Host.Outcome State Fault Refusal :=
  match s.group? s.cur.key with
  | none => .next s
  | some g =>
    match f (g.advance s.cur) with
    | .ok g' => .next (s.putGroup s.cur.key g').tickFree
    | .error t => .next (s.putGroup s.cur.key (g.raise t)).tickFree

/-- An instruction that acts beyond its group: `f` gives the state after it from the state whose group stands at the next instruction. -/
def onState (s : State) (f : Group → State → Except Trap State) : Host.Outcome State Fault Refusal :=
  match s.group? s.cur.key with
  | none => .next s
  | some g =>
    match f (g.advance s.cur) (s.putGroup s.cur.key (g.advance s.cur)) with
    | .ok t => .next t.tickFree
    | .error t => .next (s.putGroup s.cur.key (g.raise t)).tickFree

/-- The group of the instruction being executed changed. -/
def State.setCur (s : State) (g : Group) : State := s.putGroup s.cur.key g

end Sys2Proof.Machine
end

