-- ==== Sys2Proof/Machine/Memory.lean ====
section
/-! DEFINITION. Bytes by place: homes, frames that have moved, granules, full/empty bits, release records, snapshots, and the one way in
which a byte of memory is read or written (spec 04, 05, 23 R405-R409). A place below 2^37 is DRAM (home die and offset), a place from
2^40 up is scratchpad (core and offset). -/

namespace Sys2Proof.Machine

open Sys2Proof

/-! ## Places -/

/-- The place of a scratchpad byte. -/
def sramLoc (core off : Nat) : Nat := Config.sramPlace + core * Config.sramBytes + off
/-- Is a place in scratchpad? -/
def isSram (loc : Nat) : Bool := loc ≥ Config.sramPlace
/-- The core of a scratchpad place. -/
def sramCore (loc : Nat) : Nat := (loc - Config.sramPlace) / Config.sramBytes
/-- The offset of a scratchpad place within its slice. -/
def sramOff (loc : Nat) : Nat := (loc - Config.sramPlace) % Config.sramBytes

/-- The home die of a byte (04 R106), from its physical address and the PLACE of the mapping. -/
def homeOf (place pa : Nat) : Nat :=
  let f (lo : Nat) : Nat := pa / 2 ^ lo % 4
  match place with
  | 1 => (f 35 ^^^ f 12) ^^^ (f 16 ^^^ f 20)
  | 2 => (f 35 ^^^ f 16) ^^^ (f 20 ^^^ f 24)
  | _ => f 35

/-- The place of a DRAM byte: its home die, and PA[34:0] there (04 R106). -/
def dramLoc (place pa : Nat) : Nat := homeOf place pa * 2 ^ 35 + pa % 2 ^ 35
/-- The die of a DRAM place. -/
def dramDie (loc : Nat) : Nat := loc / 2 ^ 35

/-- The die of a place: the home die, or that of the scratchpad's core. -/
def placeDie (loc : Nat) : Nat := if isSram loc then dieOf (sramCore loc) else dramDie loc

/-- Where the byte of a place stands after the migrations that are DONE (23 R405, R406). -/
def State.moved (s : State) (loc : Nat) : Nat :=
  if isSram loc then loc
  else match (s.die (dramDie loc)).remap.find? (fun x => x.1 = loc / 4096 * 4096) with
    | some x => x.2 + loc % 4096
    | none => loc

/-! ## Raw bytes -/

/-- One byte of memory. -/
def State.byteAt (s : State) (loc : Nat) : Byte :=
  if isSram loc then s.sram.byte (loc - Config.sramPlace) else s.dram.byte (s.moved loc)

/-- `n` bytes from a place up. -/
def State.bytesAt (s : State) (loc : Nat) : Nat → List Byte
  | 0 => []
  | n + 1 => s.byteAt loc :: s.bytesAt (loc + 1) n

/-- One byte written, with no other effect. -/
def State.setByteAt (s : State) (loc : Nat) (b : Byte) : State :=
  if isSram loc then { s with sram := s.sram.setByte (loc - Config.sramPlace) b }
  else { s with dram := s.dram.setByte (s.moved loc) b }

/-- Bytes written from a place up, with no other effect. -/
def State.setBytesAt (s : State) (loc : Nat) : List Byte → State
  | [] => s
  | b :: l => (s.setByteAt loc b).setBytesAt (loc + 1) l

/-- A little-endian number in memory. -/
def State.numAt (s : State) (loc n : Nat) : Nat := leNat (s.bytesAt loc n)

/-! ## Granules and full/empty bits (04 R93, R100) -/

/-- The owner of the granule of a scratchpad place. -/
def State.granAt (s : State) (loc : Nat) : Option Gran := (s.core (sramCore loc)).gran.find? (sramOff loc / 4096)

/-- Is a request of a region denied at a scratchpad place (04 R93)? -/
def State.denied (s : State) (region loc : Nat) : Bool :=
  isSram loc && match s.granAt loc with | some g => g.region != region | none => true

/-- The word of a place. -/
def wordLoc (loc : Nat) : Nat := loc / 4 * 4

/-- Is the scratchpad word of a place full? -/
def State.isFull (s : State) (loc : Nat) : Bool := !s.emptyw.contains (wordLoc loc)

/-- Numbers kept in rising order, without repeats. -/
def insertNat : List Nat → Nat → List Nat
  | [], x => [x]
  | y :: l, x => if x < y then x :: y :: l else if x = y then y :: l else y :: insertNat l x

/-- A scratchpad word set full or empty. -/
def State.setFull (s : State) (loc : Nat) (full : Bool) : State :=
  let w := wordLoc loc
  { s with emptyw := if full then s.emptyw.filter (· != w) else insertNat s.emptyw w }

/-! ## Release records (05 R120, R125, R126) -/

/-- Front and Vane of a die as an agent: they have a core number beyond the harts' and peers' (05 R111). -/
def dieAgent (d : Nat) : Agent := { core := Config.numCores + 1 + d }

/-- The die that an agent belongs to: that of its core, or its own for Front and Vane; none for a hart or a peer. -/
def Agent.die? (a : Agent) : Option Nat :=
  if a.core < Config.numCores then some (dieOf a.core)
  else if Config.numCores < a.core then some (a.core - Config.numCores - 1) else none

/-- Is an agent a compute agent, of a thread or of a core's engines? -/
def Agent.compute (a : Agent) : Bool := a.core < Config.numCores

/-- Do two agents belong to one instance of a scope (05 R111)? -/
def sameInstance (scope : Nat) (a b : Agent) : Bool :=
  match scope with
  | 0 => a == b
  | 1 => a.compute && b.compute && a.key == b.key && a.blk == b.blk
  | 2 => a.compute && b.compute && a.blk == b.blk
  | 3 => a.compute && b.compute && a.nbh == b.nbh
  | 4 => a.die?.isSome && a.die? == b.die?
  | 5 => a.die?.isSome && b.die?.isSome
  | _ => true

/-- Does the release of a record synchronise with an acquire (05 R120)? -/
def RelRec.syncs (r : RelRec) (scope : Nat) (b : Agent) : Bool := sameInstance (Nat.min r.scope scope) r.by_ b

/-- The record of a place. -/
def State.relAt (s : State) (loc : Nat) : Option RelRec := s.rels.find? (wordLoc loc)

/-- The words that `n` bytes from a place touch. -/
def wordsOf (loc n : Nat) : List Nat :=
  (List.range (n / 4 + 2)).filterMap (fun i => let w := wordLoc loc + 4 * i; if w < loc + n then some w else none)

/-- A release leaves its record on every word that it writes; any other write that is no read-modify-write clears it (05 R125). -/
def State.setRel (s : State) (loc n : Nat) (r : Option RelRec) : State :=
  { s with rels := (wordsOf loc n).foldl (fun m w => match r with | some x => m.put w x | none => m.del w) s.rels }

/-! ## What a group has written since its last FENCE.OPR (15 R331) -/

/-- The place of a byte of the B-stores, beyond every other. -/
def bstLoc (off : Nat) : Nat := 2 ^ 50 + off
/-- The place of an element of a core's accumulator tile, beyond every other. -/
def accPlace (core tile i : Nat) : Nat := 2 ^ 51 + 2 ^ 17 * core + 16384 * tile + i

/-- A span joined to a list of disjoint spans in rising order. -/
def addSpan (x : Nat × Nat) : List (Nat × Nat) → List (Nat × Nat)
  | [] => [x]
  | y :: l =>
    if x.1 + x.2 < y.1 then x :: y :: l
    else if y.1 + y.2 < x.1 then y :: addSpan x l
    else addSpan (min x.1 y.1, max (x.1 + x.2) (y.1 + y.2) - min x.1 y.1) l

/-- Does a list of spans hold a place? -/
def inSpans (l : List (Nat × Nat)) (loc : Nat) : Bool := l.any (fun x => x.1 ≤ loc && loc < x.1 + x.2)

/-- A group has written spans: they are noted for its next JOB, and for its jobs that found no operand fence. -/
def State.noteWrote (s : State) (key : Nat) (l : List (Nat × Nat)) : State :=
  let add (m : List (Nat × Nat)) : List (Nat × Nat) := l.foldl (fun m x => addSpan x m) m
  let c := s.core (coreOf key)
  let s := { s with groups := s.groups.update key (fun g => { g with opWrote := add g.opWrote }) }
  if c.jobs.any (fun j => j.unfenced && j.key == key) then
    s.putCore (coreOf key) { c with jobs := c.jobs.map (fun j => if j.unfenced && j.key == key then { j with wrote := add j.wrote } else j) }
  else s

/-! ## Writes (05 R116, 23 R405, R408, R409) -/

/-- The source frame of a die's migration. -/
def Die.migFrame (x : Die) (d : Nat) : Nat := d * 2 ^ 35 + x.migsrc.toNat % 2 ^ 35 / 4096 * 4096

/-- Does a place stand, by whatever name, in the frame that its die is migrating (23 R405, R406)? -/
def State.migrating (s : State) (loc : Nat) : Bool :=
  s.moved loc / 4096 == s.moved ((s.die (dramDie loc)).migFrame (dramDie loc)) / 4096

/-- The frame of a place is being copied: its line is dirty (23 R405). -/
def State.dirty (s : State) (loc : Nat) : State :=
  if isSram loc then s
  else
    let d := s.die (dramDie loc)
    if d.migst == .copy && s.migrating loc then
      s.putDie (dramDie loc) { d with migdirty := insertNat d.migdirty ((d.migFrame (dramDie loc) + loc % 4096) / 256) }
    else s

/-- A place is in a frame whose writes wait (23 R405, FREEZE). -/
def State.frozen (s : State) (loc : Nat) : Bool :=
  !isSram loc && (s.die (dramDie loc)).migst == .freeze && s.migrating loc

/-- Bytes written where they are performed, in order from a place up: dirty lines, errors and records follow. -/
def State.writeAt (s : State) (loc : Nat) (bs : List Byte) (rel : Option RelRec) : State :=
  let t := (s.setBytesAt loc bs).setRel loc bs.length rel
  { t.dirty loc with ecc := t.ecc.filter (fun e => !(loc ≤ e && e < loc + bs.length)) }

/-- Is an uncorrectable error in the bytes (23 R410)? -/
def State.eccIn (s : State) (loc n : Nat) : Bool := s.ecc.any (fun e => loc ≤ e && e < loc + n)

/-- Before a launch's first write to a page of its write set, the home takes a snapshot; a write outside it, or a pool without a frame,
ends its replayability (23 R408, R409). `va` is the virtual address. -/
def State.beforeWrite (s : State) (launch : Nat) (va : DWord) (loc : Nat) : State :=
  if isSram loc then s
  else match s.launch? launch with
    | none => s
    | some l =>
      let page := va.toNat % 2 ^ 48 / 4096
      if !l.replayable then s
      else if !(l.wset.any (fun x => x.1 ≤ page && page < x.1 + x.2)) then s.putLaunch launch { l with replayable := false }
      else if l.snaps.any (fun x => x.va = page) then s
      else if s.pool = 0 then s.putLaunch launch { l with replayable := false }
      else
        let base := loc / 4096 * 4096
        { s.putLaunch launch { l with snaps := l.snaps ++ [{ va := page, base, data := s.bytesAt base 4096 }] } with pool := s.pool - 1 }

/-- A launch can no longer be rolled back (23 R409). -/
def State.notReplayable (s : State) (launch : Nat) : State :=
  { s with launches := s.launches.update launch (fun l => { l with replayable := false }) }

/-! ## Counters (26 R450, R462) -/

/-- A request counter of a die raised. -/
def State.countD (s : State) (d k n : Nat) : State :=
  let x := s.die d
  s.putDie d { x with dc := x.dc.set 0 k ((SMap.get 0 x.dc k + n) % 2 ^ 64) }

/-- Lines of a die cache: 64 MiB of 256 bytes (00 R1, 04 R108). -/
def cacheLines : Nat := 262144

/-- A line put into a die cache: in a full one the line that came first is evicted (log 74). -/
def cacheAdd (l : List (Nat × Bool × Bool)) (x : Nat × Bool × Bool) : List (Nat × Bool × Bool) := (l ++ [x]).drop (l.length + 1 - cacheLines)

/-- A line request served at its home for a requester of a die (26 R462): the counters, and the line now in the die cache. A prefetched line counts at its
first demand request, by whether its fill is outstanding. -/
def State.lineServed (s : State) (reqDie loc : Nat) : State :=
  if isSram loc then s
  else
    let d := dramDie loc
    let line := loc / 256
    let s := s.countD d (if reqDie = d then 0 else 1) 1
    match (s.die d).cache.find? (fun c => c.1 = line) with
    | some (_, pre, out) =>
      let s := if out then s else s.countD d 2 1
      let s := if pre then s.countD d (if out then 5 else 4) 1 else s
      s.putDie d { s.die d with cache := (s.die d).cache.map (fun c => if c.1 = line then (line, false, out) else c) }
    | none => s.putDie d { s.die d with cache := cacheAdd (s.die d).cache (line, false, false) }

/-- The line requests of one access served, each once: those of the lines that its spans touch (04 R89, 26 R462). -/
def State.linesServed (s : State) (reqDie : Nat) (spans : List (Nat × Nat)) : State :=
  ((spans.flatMap (fun x => (List.range (if x.2 = 0 then 0 else (x.1 + x.2 - 1) / 256 + 1 - x.1 / 256)).map (fun i => (x.1 / 256 + i) * 256))).eraseDups).foldl
    (fun s l => s.lineServed reqDie l) s

/-! ## Agents -/

/-- The thread of a lane of a group. -/
def State.agentOf (s : State) (key blk lane : Nat) : Agent :=
  { core := coreOf key, key, lane, blk, nbh := match s.block? blk with | some b => b.nbhId | none => 0 }

/-- The copy request engine or the Anvil array of a core, acting for a block: no thread, and of no group (05 R111, R133). -/
def State.engineOf (s : State) (core blk : Nat) : Agent :=
  { core, key := 2 ^ 40, blk, nbh := match s.block? blk with | some b => b.nbhId | none => 0 }

/-- The records of the words that `n` bytes from a place touch. -/
def State.relsIn (s : State) (loc n : Nat) : List RelRec := (wordsOf loc n).filterMap s.relAt

/-- SCOPEMISS in a group (03 R80). -/
def State.scopeMiss (s : State) (key : Nat) : State := { s with groups := s.groups.update key (fun g => { g with scopemiss := true }) }

/-- An acquire of a lane that reads `n` bytes from a place: SCOPEMISS where a record names a release it does not synchronise with (05 R126).
`promoted`: the scope to which a demand has promoted a core's releases, which an acquire of a narrower scope does not take (05 R127). -/
def State.acquireAt (s : State) (key blk lane scope loc n : Nat) (promoted : Nat → Option Nat) : State :=
  if (s.relsIn loc n).all (fun r => r.syncs scope (s.agentOf key blk lane) && (match promoted r.by_.core with | some p => p ≤ scope | none => true))
  then s else s.scopeMiss key

/-- A relaxed atomic read remembers the records it found, for a later acquire fence (05 R119, R126). -/
def State.seenAt (s : State) (key lane loc n : Nat) : State :=
  match s.relsIn loc n, s.group? key with
  | r :: l, some g => s.putGroup key (g.setLane lane { g.lane lane with seen := ((g.lane lane).seen ++ (r :: l)).eraseDups })
  | _, _ => s

end Sys2Proof.Machine
end

