-- ==== Sys2Proof/Machine/Translate.lean ====
section
/-! DEFINITION. Compute translation: the Sv48 walk with the order of its failures, TLBs and walk caches (spec 23 R392-R395, R463). -/

namespace Sys2Proof.Machine

open Sys2Proof

/-- A bit field of a number. -/
def field (x hi lo : Nat) : Nat := x / 2 ^ lo % 2 ^ (hi + 1 - lo)

/-- How a walk ends: a failure (the detail f of 23 R402), an uncorrectable error, or the leaf and its level. -/
inductive WalkEnd where
  | fail (f : Nat)
  | ecc
  | leaf (level pte : Nat)
  deriving DecidableEq, Repr

/-- Details of failures (23 R402). -/
def fPteattr : Nat := 9
def fPlace : Nat := 10
def fPage : Nat := 11
def fPerm : Nat := 12

/-- Is a PTE a pointer to the next table? -/
def pteNonLeaf (pte : Nat) : Bool := field pte 3 1 == 0

/-- Orders 2 and 3 of 23 R463 for one PTE of a level: V = 0, W without R, and in a non-leaf PTE: A, D or U, N or PBMT nonzero, level 0, a
next table in no DRAM; then its bits [60:54]. -/
def pteFault (level pte : Nat) : Option Nat :=
  if field pte 0 0 = 0 || field pte 2 1 = 2 then some fPage
  else if pteNonLeaf pte then
    if level = 0 || field pte 4 4 = 1 || field pte 7 6 ≠ 0 || field pte 63 61 ≠ 0 || field pte 53 10 ≥ 2 ^ 25 then some fPage
    else if field pte 60 54 ≠ 0 then some fPteattr
    else none
  else none

/-- The virtual page number above a level: the index of an entry of 23 R393. -/
def vpnAt (va level : Nat) : Nat := va % 2 ^ 48 / 2 ^ (12 + 9 * level)

/-- The PTE of a level: from the walk cache of the die, else from memory, whose tables lie at their die-local places. -/
def State.pteAt (s : State) (die : Nat) (root : DWord) (va level table : Nat) : Option Nat :=
  match (s.die die).wcache.find? (fun e => e.root == root && e.level == level && e.vpn == vpnAt va level) with
  | some e => some e.pte.toNat
  | none =>
    let loc := dramLoc 0 (table + 8 * (vpnAt va level % 512))
    if s.eccIn loc 8 then none else some (s.numAt loc 8)

/-- The walk from a table of level `level` down. -/
def State.walkFrom (s : State) (die : Nat) (root : DWord) (va : Nat) : Nat → Nat → WalkEnd
  | level, table =>
    match s.pteAt die root va level table with
    | none => .ecc
    | some pte =>
      match pteFault level pte with
      | some f => .fail f
      | none =>
        if pteNonLeaf pte then
          match level with
          | 0 => .fail fPage
          | l + 1 => s.walkFrom die root va l (field pte 53 10 * 4096)
        else .leaf level pte

/-- The walk of a virtual address: order 1, then from the root (23 R463). -/
def State.walk (s : State) (die : Nat) (root : DWord) (va : Nat) : WalkEnd :=
  if field root.toNat 63 60 ≠ 9 || field root.toNat 43 0 ≥ 2 ^ 25 then .fail fPage
  else s.walkFrom die root va 3 (field root.toNat 43 0 * 4096)

/-- Does a leaf lack a permission of the access (order 6 of 23 R463)? -/
def leafPerm (pte : Nat) (k : AccKind) : Bool :=
  let r := field pte 1 1 = 1
  let w := field pte 2 2 = 1
  let x := field pte 3 3 = 1
  let u := field pte 4 4 = 1
  !(u && match k with | .read => r | .write => w | .rmw => r && w | .fetch => x)

/-- Does the access write? -/
def accWrites : AccKind → Bool
  | .write => true | .rmw => true | _ => false

/-- The physical address that a leaf gives, with a superpage's and a 64 KiB NAPOT leaf's low bits from the address. -/
def leafPa (level pte va : Nat) : Nat :=
  let ppn := field pte 53 10
  let low := if level = 0 then (if field pte 63 63 = 1 then 16 else 12) else 12 + 9 * level
  ppn * 4096 / 2 ^ low * 2 ^ low + va % 2 ^ low

/-- Is the placement of a mapping within its range (04 R107)? -/
def State.placeOk (s : State) (place pa : Nat) : Bool :=
  let off := pa % 2 ^ 35
  let in4 := s.il4.1 ≤ off && off < s.il4.2
  let in64 := s.il64.1 ≤ off && off < s.il64.2
  match place with | 0 => !in4 && !in64 | 1 => in4 | _ => in64

/-- Orders 4 to 7 of 23 R463 for a leaf, whatever it names: the detail of the failure. -/
def leafFault (level pte : Nat) (k : AccKind) : Option Nat :=
  let ppn := field pte 53 10
  let napot := field pte 63 63 = 1
  if ppn % 2 ^ (9 * level) ≠ 0 || (napot && (level ≠ 0 || ppn % 16 ≠ 8)) then some fPage
  else if field pte 60 59 = 3 || field pte 58 54 > 24 then some fPteattr
  else if leafPerm pte k then some fPerm
  else if field pte 6 6 = 0 || (accWrites k && field pte 7 7 = 0) then some fPage
  else none

/-- Orders 4 to 9 of 23 R463 for a leaf: the physical address, or the detail of the failure. -/
def State.leafCheck (s : State) (level pte va : Nat) (k : AccKind) : Except Nat Nat :=
  match leafFault level pte k with
  | some f => .error f
  | none =>
    let pa := leafPa level pte va
    if pa ≥ 2 ^ 37 then .error fPage
    else if !s.placeOk (field pte 60 59) pa then .error fPlace
    else .ok pa

/-- A translation: where the byte lies, the FORMAT of its page, and the physical address. -/
structure Xlate where
  loc : Nat
  format : Nat
  pa : Nat
  deriving DecidableEq, Repr

/-- The non-leaf entries that a walk reads, for the walk cache: from a table of level `level` down. -/
def State.walkNodes (s : State) (die : Nat) (root : DWord) (va : Nat) : Nat → Nat → List TlbEntry
  | level, table =>
    match s.pteAt die root va level table with
    | none => []
    | some pte =>
      if pteNonLeaf pte && (pteFault level pte).isNone then
        { root, vpn := vpnAt va level, level, pte := BitVec.ofNat 64 pte } ::
          match level with
          | 0 => []
          | l + 1 => s.walkNodes die root va l (field pte 53 10 * 4096)
      else []

/-- The places of the PTEs that a walk reads from memory: line requests at their homes (26 R462). -/
def State.walkReads (s : State) (die : Nat) (root : DWord) (va : Nat) : Nat → Nat → List (Nat × Nat)
  | level, table =>
    let here := if (s.die die).wcache.any (fun e => e.root == root && e.level == level && e.vpn == vpnAt va level) then []
      else [(dramLoc 0 (table + 8 * (vpnAt va level % 512)), 8)]
    match s.pteAt die root va level table with
    | some pte =>
      here ++ (if pteNonLeaf pte && (pteFault level pte).isNone then
        (match level with | 0 => [] | l + 1 => s.walkReads die root va l (field pte 53 10 * 4096)) else [])
    | none => here

/-- The line requests of a walk counted. -/
def State.countWalk (s : State) (die : Nat) (root : DWord) (va : Nat) : State :=
  if field root.toNat 63 60 ≠ 9 || field root.toNat 43 0 ≥ 2 ^ 25 then s
  else (s.walkReads die root va 3 (field root.toNat 43 0 * 4096)).foldl (fun s x => s.linesServed die [x]) s

/-- Entries put at the front of a cache of a capacity. -/
def cachePut (l : List TlbEntry) (e : TlbEntry) (cap : Nat) : List TlbEntry := (e :: l.filter (· != e)).take cap

/-- An entry put at the front of its set in a cache of 128 sets of 8 ways (log 72). -/
def cachePutSet (l : List TlbEntry) (e : TlbEntry) : List TlbEntry :=
  let mine (x : TlbEntry) : Bool := x.vpn % 128 == e.vpn % 128
  cachePut (l.filter mine) e 8 ++ l.filter (fun x => !mine x)

/-- Does a TLB entry translate an address? -/
def TlbEntry.hit (e : TlbEntry) (root : DWord) (va : Nat) : Bool :=
  e.root == root && e.vpn == vpnAt va (if e.level = 0 then 0 else e.level)

/-- A translation on a core: an entry of the first-level TLB, which the memory unit has and fetch has not, or of the second-level one, or a walk whose
entries are kept when it succeeds (23 R393). The failure is a cause code. -/
def State.translate (s : State) (core : Nat) (root : DWord) (va : Nat) (k : AccKind) : Except Nat Xlate × State :=
  let done (level pte : Nat) : Except Nat Xlate :=
    match s.leafCheck level pte va k with
    | .ok pa => .ok { loc := dramLoc (field pte 60 59) pa, format := field pte 58 54, pa }
    | .error f => .error (Cause.access f k)
  let c := s.core core
  let first (c : Core) (e : TlbEntry) : Core := if k == .fetch then c else { c with tlb1 := cachePut c.tlb1 e 64 }
  match (if k == .fetch then none else c.tlb1.find? (fun e => e.hit root va)), c.tlb.find? (fun e => e.hit root va) with
  | some e, _ => (done e.level e.pte.toNat, s)
  | none, some e => (done e.level e.pte.toNat, s.putCore core (first c e))
  | none, none =>
    let d := dieOf core
    let t := s.countWalk d root va
    match s.walk d root va with
    | .fail f => (.error (Cause.access f k), t)
    | .ecc => (.error Cause.memunc, t)
    | .leaf level pte =>
      match done level pte with
      | .error e => (.error e, t)
      | .ok x =>
        let e : TlbEntry := { root, vpn := vpnAt va level, level, pte := BitVec.ofNat 64 pte }
        let nodes := s.walkNodes d root va 3 (field root.toNat 43 0 * 4096)
        let s := t
        let die := s.die d
        let s := s.putDie d { die with wcache := nodes.foldl (fun l e => cachePut l e 256) die.wcache }
        (.ok x, s.putCore core (first { c with tlb := cachePutSet c.tlb e } e))

/-- The root of a launch's tables: the QROOT of its queue (23 R392). -/
def State.rootOf (s : State) (launch : Nat) : DWord := match s.launch? launch with | some l => l.root | none => 0

/-- Has a core observed a generation (modulo 2^32, over a window of 2^31: 23 R395)? -/
def genSeen (observed needed : Word) : Bool := (observed - needed).toNat < 2 ^ 31

/-- Entries of a root removed; root 0 stands for every root (23 R394). -/
def dropRoot (l : List TlbEntry) (root : DWord) : List TlbEntry := if root = 0 then [] else l.filter (fun e => e.root != root)

end Sys2Proof.Machine
end

