-- ==== Sys2Proof/Machine/Fetch.lean ====
section
/-! DEFINITION. Fetch lines: templates, parity, the order of execution, legal targets, and the instruction that an address names
(spec 08 R183-R191, R199, R207). -/

namespace Sys2Proof.Machine

open Sys2Proof

/-! ## Lines (08 R183-R185) -/

/-- The line word of 64 bytes. -/
def lineWord (bs : List Byte) : Nat := leNat ((bs.drop 60).take 4)
/-- The template of a slot. -/
def tplOf (bs : List Byte) (i : Nat) : Tpl := Tpl.ofCode (field (lineWord bs) (6 + 2 * i) (5 + 2 * i))
/-- The BTM bit of a slot. -/
def btmOf (bs : List Byte) (i : Nat) : Bool := (lineWord bs).testBit i
/-- The PAIR bit of a slot. -/
def pairOf (bs : List Byte) (i : Nat) : Bool := (lineWord bs).testBit (15 + i)
/-- The bytes of a slot. -/
def slotOf' (bs : List Byte) (i : Nat) : List Byte := (bs.drop (12 * i)).take 12

/-- The XOR of the sixteen words of a line, nibble by nibble: zero when the parity holds (08 R185). -/
def lineParityOk (bs : List Byte) : Bool :=
  bs.length == 64 && bs.foldl (fun x b => (x ^^^ b.extractLsb' 0 4) ^^^ b.extractLsb' 4 4) (0 : BitVec 4) == 0

/-- The address of the line that holds an address. -/
def lineBase (pc : DWord) : DWord := BitVec.ofNat 64 (pc.toNat / 64 * 64)

/-! ## Instruction starts and targets (08 R189, R190) -/

/-- Is an offset within a line an instruction start (08 R190)? -/
def isStart (bs : List Byte) (off : Nat) : Bool :=
  let i := off / 12
  i < 5 && match tplOf bs i with
    | .op => off % 12 == 0 | .pfx => off % 12 == 0 | .pair => off % 6 == 0 | .empty => false

/-- Is an offset a legal branch target (08 R189)? -/
def isTarget (bs : List Byte) (off : Nat) : Bool := off % 12 == 0 && off / 12 < 5 && btmOf bs (off / 12) && tplOf bs (off / 12) != .empty

/-- Are bits [63:48] of an address equal to bit 47? -/
def goodPc (a : DWord) : Bool := field a.toNat 63 47 == 0 || field a.toNat 63 47 == 2 ^ 17 - 1

/-- The line of an address as a core holds it, else as memory has it. -/
def State.lineOf (s : State) (core : Nat) (root pc : DWord) : Option (List Byte) :=
  match (s.core core).icache.find? (fun x => x.1 == root && x.2.1 == (lineBase pc).toNat) with
  | some x => some x.2.2.2
  | none =>
    match (s.translate core root (lineBase pc).toNat .fetch).1 with
    | .ok x => some (s.bytesAt x.loc 64)
    | .error _ => none

/-- May a transfer set a PC (08 R191)? Of a line that does not translate only
the offset is checked, and the rest is left to the fetch (log 21). -/
def State.targetOk (s : State) (core : Nat) (root : DWord) (btm : Bool) (pc : DWord) : Bool :=
  goodPc pc && match s.lineOf core root pc with
    | some bs => if btm then isTarget bs (pc.toNat % 64) else isStart bs (pc.toNat % 64)
    | none => pc.toNat % 64 < 60 && (if btm then pc.toNat % 64 % 12 == 0 else pc.toNat % 64 % 6 == 0)

/-- The lanes, of several, whose new PC is bad: BADTGT, with the first one's target (08 R191). -/
def State.badTargets (s : State) (core : Nat) (root : DWord) (btm : Bool) (lanes : List Nat) (pc : Nat → DWord) : List Nat :=
  lanes.filter (fun l => !s.targetOk core root btm (pc l))

/-! ## The path through slots (08 R187) -/

/-- The first slot at or after slot `i` that is not empty, as an address; past slot 4 the next line. -/
def skipEmpty (bs : List Byte) (base : DWord) (i : Nat) : DWord :=
  match (List.range 5).find? (fun k => i ≤ k && tplOf bs k != .empty) with
  | some k => base + BitVec.ofNat 64 (12 * k)
  | none => base + 64

/-- Does a path at an address pass over empty slots? Where it then stands. -/
def passOver (bs : List Byte) (pc : DWord) : DWord :=
  let off := pc.toNat % 64
  if off % 12 = 0 && off / 12 < 5 && tplOf bs (off / 12) == .empty then skipEmpty bs (lineBase pc) (off / 12) else pc

/-- Where a path at an address stands once it has passed over empty slots, line after line, as far as lines can be read. -/
def State.firstSlot (s : State) (core : Nat) (root pc : DWord) : Nat → DWord
  | 0 => pc
  | n + 1 =>
    match s.lineOf core root pc with
    | some bs => if lineParityOk bs && passOver bs pc != pc then s.firstSlot core root (passOver bs pc) n else pc
    | none => pc

/-- Is the modifying slot at slot `i` orphaned (08 R199)? -/
def orphaned (bs : List Byte) (i : Nat) : Bool := i ≥ 4 || tplOf bs (i + 1) != .op || btmOf bs (i + 1)

/-- Checks 2 to 6 of 08 R207 for an address of a line: the cause, or the instruction and the address that follows it. -/
def reach (bs : List Byte) (pc : DWord) : Except Nat (Coding × Instr × DWord) :=
  let off := pc.toNat % 64
  let i := off / 12
  let base := lineBase pc
  let after (b : DWord) (d : Except Reject (Coding × Instr × List Byte)) : Except Nat (Coding × Instr × DWord) :=
    match d with
    | .ok (c, x, _) => .ok (c, x, b)
    | .error _ => .error Cause.illegal
  if !lineParityOk bs then .error Cause.linepar
  else if field (lineWord bs) 27 20 ≠ 0 then .error Cause.illegal
  else if !isStart bs off then .error Cause.badtgt
  else match tplOf bs i with
    | .op => after (skipEmpty bs base (i + 1)) (decodeBytes .op (slotOf' bs i))
    | .pair =>
      if off % 12 = 0 then after (pc + 6) (decodeBytes .pair (slotOf' bs i))
      else after (skipEmpty bs base (i + 1)) (decodeBytes .pair ((slotOf' bs i).drop 6))
    | .pfx =>
      if orphaned bs i then .error Cause.orphan
      else after (skipEmpty bs base (i + 2)) (decodeBytes .pfx (slotOf' bs i ++ slotOf' bs (i + 1)))
    | .empty => .error Cause.badtgt

/-! ## The instruction cache (08 R186) -/

/-- The cached line of an address. -/
def Core.cached (c : Core) (root pc : DWord) : Option (List Byte) :=
  (c.icache.find? (fun x => x.1 == root && x.2.1 == (lineBase pc).toNat)).map (·.2.2.2)

/-- INSTRUCTION_LINE_FILL: the line comes from memory, with its parity as memory has it; a soft error in the cache is counted, and the line is
fetched again once. -/
def execInstructionLineFill (core : Nat) (root va : DWord) (soft : Bool) (s : State) : Host.Outcome State Fault Refusal :=
  .next (match s.translate core root (lineBase va).toNat .fetch with
    | (.ok x, t) =>
      let t := (if soft then t.countR (dieOf core) 0 else t).linesServed (dieOf core) [(x.loc, 64)]
      let c := t.core core
      let rest := c.icache.filter (fun y => !(y.1 == root && y.2.1 == (lineBase va).toNat))
      t.putCore core { c with icache := rest ++ [(root, (lineBase va).toNat, x.loc, t.bytesAt x.loc 64)] }
    | (.error _, t) => t)

/-- TABLE_WALK: a walk of a core completes, with its entries kept, or fails and leaves none (23 R392, R393). -/
def execTableWalk (core : Nat) (root va : DWord) (k : AccKind) (s : State) : Host.Outcome State Fault Refusal :=
  .next (s.translate core root va.toNat k).2

end Sys2Proof.Machine
end

