-- ==== Sys2Proof/Machine/Operands.lean ====
section
/-! DEFINITION. Every operand form: sources of a lane, immediates, destinations, and the register limits and overlap of check 7. -/

namespace Sys2Proof.Machine

open Sys2Proof

/-! ## Immediates (12 R263, 13 R279, 11 R245, 09 R218) -/

/-- A 16-bit number sign-extended. -/
def sext16 (n : Nat) : Word := (BitVec.ofNat 16 n).signExtend 32

/-- The immediate of an operand, extended as its form says. -/
def immWord (f : Form) (minor : Nat) (o : Op) (e : Ext) : Word :=
  let raw := o.immRaw
  let wide := o.imx
  let sx : Word := if wide then BitVec.ofNat 32 raw else sext16 raw
  let zx : Word := BitVec.ofNat 32 raw
  let hi : Word := if wide then BitVec.ofNat 32 raw else BitVec.ofNat 32 (raw * 65536)
  let flt (t : TyCode) : Word := if t = .f32 then hi else zx
  match e with
  | .sx => sx
  | .zx => zx
  | .byTy => if (f.effTy o).isSigned then sx else zx
  | .fp => flt (f.effTy o)
  | .fp2 => BitVec.ofNat 32 (raw % 65536 * 65537)
  | .f32 => hi
  | .srcTy =>
    let t := f.srcTy minor o
    if t.isFloat then flt t else if t.isSigned then sx else zx

/-! ## Register numbers of interlocks and hazards -/

/-- `vN` -/
def rkV (n : Nat) : Nat := n
/-- `sN` -/
def rkS (n : Nat) : Nat := 256 + n
/-- `pN` -/
def rkP (n : Nat) : Nat := 320 + n
/-- `mN` -/
def rkM (n : Nat) : Nat := 328 + n
/-- `bN` -/
def rkB (n : Nat) : Nat := 336 + n
/-- `tN` -/
def rkT (n : Nat) : Nat := 352 + n

/-- The registers that an operand names, but for block-shared ones and accumulator tiles. -/
def regsOf (s : Sel) (n : Nat) : List Nat :=
  match s with
  | .v r => (List.range n).map (fun i => rkV (r.toNat + i))
  | .s r => (List.range n).map (fun i => rkS (r.toNat + i))
  | .p r => [rkP r.toNat]
  | .m r => (List.range n).map (fun i => rkM (r.toNat + i))
  | .b r => (List.range n).map (fun i => rkB (r.toNat + i))
  | .t r => (List.range n).map (fun i => rkT (r.toNat + i))
  | _ => []

/-- An unpredictable value of a register held per group (08 R202): word `j` of it. -/
def freeWord (free k j : Nat) : Word := Config.word free (16384 + 8 * k + j)

/-- A mask, buffer-record or tile-descriptor register, by its number among interlocks and hazards, with an unpredictable value. -/
def Group.loosen (g : Group) (free k : Nat) : Group :=
  if k < 328 then g
  else if k < 336 then g.setM (k - 328) (freeWord free k 0)
  else if k < 352 then g.setB (k - 336) (freeWord free k 3 ++ freeWord free k 2 ++ freeWord free k 1 ++ freeWord free k 0)
  else g.setT (k - 352) (freeWord free k 7 ++ freeWord free k 6 ++ freeWord free k 5 ++ freeWord free k 4
    ++ freeWord free k 3 ++ freeWord free k 2 ++ freeWord free k 1 ++ freeWord free k 0)

/-- Such a register as another group has it. -/
def Group.likeIn (g was : Group) (k : Nat) : Group :=
  if k < 328 then g
  else if k < 336 then g.setM (k - 328) (was.mAt (k - 328))
  else if k < 352 then g.setB (k - 336) (was.bAt (k - 336))
  else g.setT (k - 352) (was.tAt (k - 352))

/-! ## Sources -/

/-- Is the read of a register by a lane unpredictable in this instruction (08 R202)? -/
def Cur.isWild (c : Cur) (l rk : Nat) : Bool := c.wild.contains (l, rk)

/-- A vector register as the instruction reads it. -/
def State.readV (s : State) (g : Group) (n l : Nat) : Val :=
  if s.cur.isWild l (rkV n) then ⟨Config.word s.free (512 * l + rkV n), (g.vAt n l).psn⟩ else g.vAt n l

/-- A lane's copy of a uniform register as the instruction reads it; the lanes of a view read one value (03 R69). -/
def State.readU (s : State) (g : Group) (n l : Nat) : Val :=
  if s.cur.isWild l (rkS n) then ⟨Config.word s.free (512 * (g.lane l).view + rkS n), (g.uAt n l).psn⟩ else g.uAt n l

/-- A predicate as the instruction reads it. -/
def State.readP (s : State) (g : Group) (n l : Nat) : PVal :=
  if s.cur.isWild l (rkP n) then ⟨Config.bit s.free (512 * l + rkP n), (g.pAt n l).psn⟩ else g.pAt n l

/-- Register `i` of a vector or uniform operand, in a lane; anything else reads zero. -/
def State.readSel (s : State) (g : Group) (x : Sel) (i l : Nat) : Val :=
  match x with
  | .v n => s.readV g (n.toNat + i) l
  | .s n => s.readU g (n.toNat + i) l
  | .p n => let p := s.readP g n.toNat l; ⟨if p.b then 1 else 0, p.psn⟩
  | _ => ⟨0, none⟩

/-- The source in an operand slot of an instruction, in a lane: a register, or the immediate extended as the form says. -/
def State.source (s : State) (g : Group) (f : Form) (minor : Nat) (o : Op) (k l : Nat) : Val :=
  match o.sel k with
  | .imm => match f.fld? k with
    | some x => match x.imm with | some e => ⟨immWord f minor o e, none⟩ | none => ⟨0, none⟩
    | none => ⟨0, none⟩
  | x => s.readSel g x 0 l

/-- A source pair as 64 bits, the first register low; an immediate is sign-extended (12 R263). -/
def State.sourcePair (s : State) (g : Group) (f : Form) (minor : Nat) (o : Op) (k l : Nat) : DWord × Option Nat :=
  match o.sel k with
  | .imm => ((s.source g f minor o k l).bits.signExtend 64, none)
  | x =>
    let a := s.readSel g x 0 l
    let b := s.readSel g x 1 l
    (b.bits ++ a.bits, a.psn <|> b.psn)

/-- The predicate that an operand names, in a lane. -/
def State.sourceP (s : State) (g : Group) (x : Sel) (l : Nat) : PVal :=
  match x with
  | .p n => s.readP g n.toNat l
  | _ => ⟨false, none⟩

/-- The value a once-per-group form takes: in the view of the lowest-numbered executing lane (12 R272, 16 R346). -/
def State.low (s : State) (g : Group) (f : Form) (minor : Nat) (o : Op) (k : Nat) : Val :=
  match lowest s.cur.lanes with
  | some l => s.source g f minor o k l
  | none => ⟨0, none⟩

/-- The pair a once-per-group form takes. -/
def State.lowPair (s : State) (g : Group) (f : Form) (minor : Nat) (o : Op) (k : Nat) : DWord × Option Nat :=
  match lowest s.cur.lanes with
  | some l => s.sourcePair g f minor o k l
  | none => (0, none)

/-! ## Destinations -/

/-- Register `i` of a destination written in a lane; anything but v, s and p is no destination of a lane. -/
def Group.write (g : Group) (d : Sel) (i l : Nat) (x : Val) : Group :=
  match d with
  | .v n => g.setV (n.toNat + i) l x
  | .s n => g.setU (n.toNat + i) l x
  | .p n => g.setP n.toNat l ⟨x.bits != 0, x.psn⟩
  | _ => g

/-- Registers of a destination written in a lane, from the first. -/
def Group.writeAll (g : Group) (d : Sel) (l : Nat) (xs : List Val) : Group :=
  (xs.zipIdx).foldl (fun g x => g.write d x.2 l x.1) g

/-- Is a destination uniform? -/
def isUniform : Sel → Bool
  | .s _ => true
  | _ => false

/-- The views that a write of a destination leaves, or UVIEW before any effect (03 R69, R70). -/
def State.viewsFor (s : State) (g : Group) (d : Sel) : Except Trap Group :=
  if isUniform d then
    match g.splitViews s.cur.lanes with
    | some g => .ok g
    | none => .error (s.trapOf Cause.uview)
  else .ok g

/-- A destination written in every executing lane: `f` gives each lane's registers, read from the group before the write (03 R63, R68). -/
def State.writeLanes (s : State) (g : Group) (d : Sel) (f : Nat → List Val) : Except Trap Group :=
  match s.viewsFor g d with
  | .ok h => .ok ((lanesOf s.cur.lanes).foldl (fun h l => h.writeAll d l (f l)) h)
  | .error t => .error t

/-- A value with the poison of the first poisoned source (12 R264, 13 R281). -/
def Val.with (b : Word) (psns : List (Option Nat)) : Val := ⟨b, psns.foldl (fun a x => a <|> x) none⟩

/-- One result per lane of a form with sources in SA, SB and SC. -/
def State.alu (s : State) (g : Group) (f : Form) (minor : Nat) (o : OpA) (op : Nat → Word → Word → Word → Word) : Except Trap Group :=
  s.writeLanes g o.dst (fun l =>
    let a := s.source g f minor (.a o) 2 l
    let b := s.source g f minor (.a o) 3 l
    let c := s.source g f minor (.a o) 4 l
    [Val.with (op l a.bits b.bits c.bits) [a.psn, b.psn, c.psn]])

/-- An arithmetic instruction of the group: one result per lane. -/
def execAlu (f : Form) (minor : Nat) (o : OpA) (op : Nat → Word → Word → Word → Word) (s : State) : Host.Outcome State Fault Refusal :=
  onGroup s (fun g => s.alu g f minor o op)

/-! ## Register limits and overlap: order 7 of 08 R207 -/

/-- First register and count of an operand of a form, if it names a register. -/
def groupOf (f : Fld) (o : Op) : Option (Cls × Nat × Nat) :=
  match (o.sel f.slot).cls? with
  | some c => some (c, (o.sel f.slot).num, f.count o)
  | none => none

/-- VRANGE and ARANGE of one operand (03 R64, R75): `nv` vector registers, `m` tiles. -/
def rangeFault (nv m : Nat) (o : Op) (f : Fld) : Option Nat :=
  match groupOf f o with
  | some (.v, r, n) => if r + n > nv || r + n > 256 then some (Cause.vrange f.slot) else none
  | some (.a, r, _) => if r ≥ m then some (Cause.arange f.slot) else none
  | _ => none

/-- GALIGN of one operand (03 R76). -/
def alignFault (o : Op) (f : Fld) : Option Nat :=
  match groupOf f o with
  | some (_, r, _) => if r % f.align o = 0 then none else some (Cause.galign f.slot)
  | none => none

/-- Do two operands share a register of one class, without being identical groups (03 R77)? -/
def shares (o : Op) (a b : Fld) : Bool × Bool :=
  match groupOf a o, groupOf b o with
  | some (c, r, n), some (d, q, k) => (c == d && r < q + k && q < r + n, c == d && r == q && n == k)
  | _, _ => (false, false)

/-- OVERLAP of a destination with a source or with another destination (03 R77). -/
def overlapFault (f : Form) (o : Op) (d : Fld) : Option Nat :=
  if d.dst && f.ops.any (fun x =>
      x.slot != d.slot && ((x.src && (shares o d x).1 && !(shares o d x).2) || (x.dst && (shares o d x).1)))
  then some (Cause.overlap d.slot) else none

/-- The operands of a form in ascending operand slot. -/
def bySlot (f : Form) : List Fld := [0, 1, 2, 3, 4, 5].filterMap (fun k => f.fld? k)

/-- Check 7 of 08 R207: the range checks over all operands, then GALIGN, then OVERLAP. -/
def formLimits (f : Form) (nv m : Nat) (o : Op) : Option Nat :=
  ((bySlot f).findSome? (rangeFault nv m o)) <|> ((bySlot f).findSome? (alignFault o)) <|> ((bySlot f).findSome? (overlapFault f o))

/-! ## What an instruction reads and writes, for readiness and hazards -/

/-- Registers that an instruction reads. -/
def formReads (f : Form) (o : Op) : List Nat :=
  (f.ops.filter (·.src)).flatMap (fun x => regsOf (o.sel x.slot) (x.count o))

/-- Registers that an instruction writes. -/
def formWrites (f : Form) (o : Op) : List Nat :=
  (f.ops.filter (·.dst)).flatMap (fun x => regsOf (o.sel x.slot) (x.count o))

/-- The form and operands that an instruction acts with: a compact op acts as its expansion (08 R200). -/
def formOf (i : Instr) : Option (Form × Nat × Op) :=
  match i.expand.coded with
  | .op f n o => some (f, n, o)
  | _ => none

end Sys2Proof.Machine
end

