-- ==== Sys2Proof/Machine/Flags.lean ====
section
/-! DEFINITION. The results that decide a truth value or a range: saturation, comparisons, predicate logic (10 R237, 12 R265, R271). The
ND4 has no condition flags; its truth values are predicates. -/

namespace Sys2Proof.Machine

open Sys2Proof

/-- A word as the number its type reads (10 R237). -/
def asInt (sg : Bool) (w : Word) : Int := if sg then w.toInt else (w.toNat : Int)

/-- The least and greatest value of a 32-bit integer type. -/
def range32 (sg : Bool) : Int × Int := if sg then (-(2 ^ 31), 2 ^ 31 - 1) else (0, 2 ^ 32 - 1)

/-- A number clamped to a range. -/
def clampInt (lo hi x : Int) : Int := if x < lo then lo else if hi < x then hi else x

/-- The 32-bit result of an exact number: wrapped, or clamped under .sat (12 R265). -/
def narrow (sg sat : Bool) (x : Int) : Word :=
  BitVec.ofInt 32 (if sat then clampInt (range32 sg).1 (range32 sg).2 x else x)

/-- The members of CMP and FCMP (09 R219). -/
inductive Cmp where
  | eq | ne | lt | le | gt | ge
  deriving DecidableEq, Repr

/-- `a cc b` of two numbers (12 R271). -/
def Cmp.holds (c : Cmp) (a b : Int) : Bool :=
  match c with
  | .eq => a = b | .ne => a ≠ b | .lt => a < b | .le => a ≤ b | .gt => b < a | .ge => b ≤ a

/-- The members of MLOG and PLOG (11 R255, 12 R271). -/
inductive Logic where
  | and | or | xor | andn | mov
  deriving DecidableEq, Repr

/-- A member on two truth values. -/
def Logic.bool (o : Logic) (a b : Bool) : Bool :=
  match o with
  | .and => a && b | .or => a || b | .xor => a ^^ b | .andn => a && !b | .mov => a

/-- A member on two words, bit by bit. -/
def Logic.word (o : Logic) (a b : Word) : Word :=
  match o with
  | .and => a &&& b | .or => a ||| b | .xor => a ^^^ b | .andn => a &&& ~~~ b | .mov => a

/-- A truth value as a word: what a predicate destination takes. -/
def truth (b : Bool) : Word := if b then 1 else 0

/-- A code of the op, or of the modifying slot when that is not zero (08 R197): saturation. -/
def satOf (o : OpA) : Bool :=
  match o.pfx with
  | some p => if p.sat = 2 then true else if p.sat = 1 then false else o.sat
  | none => o.sat

/-- !ftz of the modifying slot (08 R196). -/
def ftzOf (p : Option Pfx) : Bool := match p with | some p => p.den == 1 | none => false

end Sys2Proof.Machine
end

