-- ==== Sys2Proof/Machine/Float.lean ====
section
/-! DEFINITION. Number formats and the arithmetic rules (spec 10): exact values, rounding, overflow, conversions. -/

namespace Sys2Proof.Machine

open Sys2Proof

/-! ## Formats (10 R224-R226) -/

/-- What an all-ones exponent encodes. -/
inductive Special where
  /-- infinity and NaN -/
  | ieee
  /-- only S.1111.111 is NaN (E4M3) -/
  | e4m3
  /-- neither infinity nor NaN -/
  | none
  deriving DecidableEq, Repr

/-- A floating-point format: exponent and mantissa bits, bias, what stands above the finite values, the largest finite code. -/
structure FFmt where
  eb : Nat
  mb : Nat
  bias : Int
  special : Special
  maxCode : Nat
  nan : Nat
  deriving DecidableEq, Repr

namespace FFmt
def f32 : FFmt := ⟨8, 23, 127, .ieee, 0x7F7FFFFF, 0x7FC00000⟩
def bf16 : FFmt := ⟨8, 7, 127, .ieee, 0x7F7F, 0x7FC0⟩
def f16 : FFmt := ⟨5, 10, 15, .ieee, 0x7BFF, 0x7E00⟩
def e4m3 : FFmt := ⟨4, 3, 7, .e4m3, 0x7E, 0x7F⟩
def e5m2 : FFmt := ⟨5, 2, 15, .ieee, 0x7B, 0x7E⟩
def e3m2 : FFmt := ⟨3, 2, 3, .none, 0x1F, 0⟩
def e2m3 : FFmt := ⟨2, 3, 1, .none, 0x1F, 0⟩
def e2m1 : FFmt := ⟨2, 1, 1, .none, 0x7, 0⟩
end FFmt

/-- Width of a format without its sign. -/
def FFmt.signBit (f : FFmt) : Nat := f.eb + f.mb

/-- An exact value: NaN, an infinity (negative?), or (-1)^neg × m × 2^e. -/
inductive FV where
  | nan
  | inf (neg : Bool)
  | fin (neg : Bool) (m : Nat) (e : Int)
  deriving DecidableEq, Repr

/-- The value of an encoding (10 R224), with a subnormal taken as zero of its sign under a flush (10 R232). -/
def FFmt.value (f : FFmt) (ftz : Bool) (bits : Nat) : FV :=
  let neg := bits.testBit f.signBit
  let e := bits / 2 ^ f.mb % 2 ^ f.eb
  let m := bits % 2 ^ f.mb
  let fin : FV :=
    if e = 0 then .fin neg (if ftz then 0 else m) (1 - f.bias - (f.mb : Int))
    else .fin neg (2 ^ f.mb + m) ((e : Int) - f.bias - (f.mb : Int))
  if e = 2 ^ f.eb - 1 then
    match f.special with
    | .ieee => if m = 0 then .inf neg else .nan
    | .e4m3 => if m = 2 ^ f.mb - 1 then .nan else fin
    | .none => fin
  else fin

/-- The encoding with a sign. -/
def FFmt.signed (f : FFmt) (neg : Bool) (code : Nat) : Nat := if neg then code + 2 ^ f.signBit else code

/-- The canonical NaN; +0 in a format without NaN (10 R231). -/
def FFmt.canonNan (f : FFmt) : Nat := f.nan

/-- The code of infinity, where the format has one. -/
def FFmt.infCode (f : FFmt) : Nat := (2 ^ f.eb - 1) * 2 ^ f.mb

/-- Rounding modes (10 R233). -/
inductive RMode where
  | rne | rtz | rdn | rup | rna | sr
  deriving DecidableEq, Repr

/-! ## Rounding (10 R233) -/

/-- `m × 2^(-k)` rounded to an integer: the whole part, then up or not by the mode and the discarded part. -/
def roundShift (mode : RMode) (draw : Nat) (neg : Bool) (m k : Nat) : Nat :=
  if k > m.log2 + 30 then
    -- the value lies strictly between 0 and 2^(-29)
    if m = 0 then 0 else match mode with
      | .rdn => if neg then 1 else 0
      | .rup => if neg then 0 else 1
      | .rne | .rna | .rtz | .sr => 0
  else
    let lo := m / 2 ^ k
    let rest := m % 2 ^ k
    if rest = 0 then lo
    else
      let up := match mode with
        | .rne => 2 * rest > 2 ^ k || (2 * rest == 2 ^ k && lo % 2 == 1)
        | .rna => 2 * rest ≥ 2 ^ k
        | .rtz => false
        | .rdn => neg
        | .rup => !neg
        | .sr => draw < rest * 2 ^ 24 / 2 ^ k
      if up then lo + 1 else lo

/-- An overflow (10 R235). -/
def FFmt.overflow (f : FFmt) (mode : RMode) (sat neg : Bool) : Nat :=
  let big := f.signed neg f.maxCode
  if sat then big
  else
    let away := match mode with
      | .rne | .rna | .sr => true
      | .rtz => false
      | .rdn => neg
      | .rup => !neg
    if !away then big
    else match f.special with
      | .ieee => f.signed neg f.infCode
      | .e4m3 => f.nan
      | .none => big

/-- One rounded result (10 R232, R235, R236): the encoding of an exact value. -/
def FFmt.round (f : FFmt) (mode : RMode) (draw : Nat) (sat ftz : Bool) (v : FV) : Nat :=
  match v with
  | .nan => f.canonNan
  | .inf neg =>
    match f.special with
    | .ieee => if sat then f.signed neg f.maxCode else f.signed neg f.infCode
    | _ => f.overflow mode sat neg
  | .fin neg m e =>
    if m = 0 then f.signed neg 0
    else
      let emin : Int := 1 - f.bias
      let top : Int := e + m.log2
      let q : Int := (if top < emin then emin else top) - f.mb
      let n := if q ≤ e then m * 2 ^ (e - q).toNat else roundShift mode draw neg m (q - e).toNat
      -- the magnitude is n × 2^q; its code follows from the exponent that q stands for
      let code := if n < 2 ^ f.mb then n else (((q + f.mb + f.bias).toNat : Nat) - 1) * 2 ^ f.mb + n
      if code > f.maxCode then f.overflow mode sat neg
      else if ftz && code < 2 ^ f.mb then f.signed neg 0
      else f.signed neg code

/-! ## Exact operations (10 R232, R236) -/

/-- The sign of a value; NaN has none. -/
def FV.neg? : FV → Bool
  | .nan => false | .inf n => n | .fin n _ _ => n

/-- A value with its sign inverted. -/
def FV.negate : FV → FV
  | .nan => .nan | .inf n => .inf !n | .fin n m e => .fin (!n) m e

/-- Is the value a zero? -/
def FV.isZero : FV → Bool
  | .fin _ m _ => m = 0 | _ => false

/-- An exact integer as a value; zero is +0 (10 R236). -/
def FV.ofInt (x : Int) : FV := .fin (x < 0) x.natAbs 0

/-- The signed mantissa at an exponent not above the value's. -/
def FV.at (m : Nat) (neg : Bool) (e lo : Int) : Int :=
  let x : Int := (m * 2 ^ (e - lo).toNat : Nat)
  if neg then -x else x

/-- An exact sum; the sign of a zero sum follows 10 R236. -/
def FV.add (mode : RMode) : FV → FV → FV
  | .nan, _ => .nan
  | _, .nan => .nan
  | .inf a, .inf b => if a = b then .inf a else .nan
  | .inf a, .fin _ _ _ => .inf a
  | .fin _ _ _, .inf b => .inf b
  | .fin a m e, .fin b n k =>
    if m = 0 ∧ n = 0 then (if a = b then .fin a 0 0 else .fin (mode == .rdn) 0 0)
    else if m = 0 then .fin b n k
    else if n = 0 then .fin a m e
    else
      let lo := if e ≤ k then e else k
      let x := FV.at m a e lo + FV.at n b k lo
      if x = 0 then .fin (mode == .rdn) 0 0 else .fin (x < 0) x.natAbs lo

/-- An exact product. -/
def FV.mul : FV → FV → FV
  | .nan, _ => .nan
  | _, .nan => .nan
  | .inf a, .inf b => .inf (a != b)
  | .inf a, .fin b m _ => if m = 0 then .nan else .inf (a != b)
  | .fin a m _, .inf b => if m = 0 then .nan else .inf (a != b)
  | .fin a m e, .fin b n k => .fin (a != b) (m * n) (e + k)

/-- Comparison of two values that are not NaN: -1, 0 or 1; -0 equals +0 (13 R284). -/
def FV.cmp : FV → FV → Int
  | .inf a, .inf b => if a = b then 0 else if a then -1 else 1
  | .inf a, _ => if a then -1 else 1
  | _, .inf b => if b then 1 else -1
  | .fin a m e, .fin b n k =>
    let lo := if e ≤ k then e else k
    let x := FV.at m a e lo
    let y := FV.at n b k lo
    if x < y then -1 else if x = y then 0 else 1
  | _, _ => 0

/-- Integer square root by bits, from the top. -/
def isqrtBits : Nat → Nat → Nat → Nat
  | 0, _, r => r
  | b + 1, n, r => let t := r + 2 ^ b; if t * t ≤ n then isqrtBits b n t else isqrtBits b n r

/-- √(m × 2^e) with 64 bits below those of any format, and a sticky last bit (13 R282). -/
def sqrtFin (m : Nat) (e : Int) : FV :=
  if m = 0 then .fin false 0 0
  else
    let (m, e) := if e % 2 = 0 then (m, e) else (2 * m, e - 1)
    let n := m * 2 ^ 256
    let r := isqrtBits (n.log2 / 2 + 1) n 0
    .fin false (2 * r + (if r * r = n then 0 else 1)) (e / 2 - 128 - 1)

/-- √a (13 R282). -/
def FV.sqrt : FV → FV
  | .nan => .nan
  | .inf n => if n then .nan else .inf false
  | .fin n m e => if m = 0 then .fin n 0 0 else if n then .nan else sqrtFin m e

/-- A value rounded to an integer by a mode (10 R238): the signed integer; `none` for NaN, infinities to the sign. -/
def FV.toInt (mode : RMode) (draw : Nat) (lo hi : Int) : FV → Int
  | .nan => 0
  | .inf n => if n then lo else hi
  | .fin n m e =>
    let mag : Nat := if 0 ≤ e then m * 2 ^ (min e.toNat 200) else roundShift mode draw n m (-e).toNat
    clampInt lo hi (if n then -(mag : Int) else mag)

/-- A finite value rounded to an integral value (13 R282, FRND): a zero keeps its sign. -/
def FV.toIntegral (mode : RMode) (draw : Nat) : FV → FV
  | .fin n m e => if 0 ≤ e then .fin n m e else .fin n (roundShift mode draw n m (-e).toNat) 0
  | v => v

/-! ## Modes and draws (10 R234, 08 R196) -/

/-- The rounding mode of a modifying slot's code; none for 0 (08 R196). -/
def rmodeOf (code : Nat) : Option RMode :=
  match code with | 1 => some .rne | 2 => some .rtz | 3 => some .rdn | 4 => some .rup | 5 => some .rna | 6 => some .sr | _ => none

/-- The rounding mode of an instruction: that of the modifying slot when it is not zero, else RND (08 R197). -/
def modeOf (p : Option Pfx) (rnd : BitVec 2) : RMode :=
  let own : RMode := match rnd.toNat with | 1 => .rtz | 2 => .rdn | 3 => .rup | _ => .rne
  match p with
  | some q => (rmodeOf q.rnd.toNat).getD own
  | none => own

/-- The three shift steps of a generator (10 R234, 07 R180). -/
def xorshift (v : Word) : Word :=
  let v := v ^^^ (v <<< 13)
  let v := v ^^^ (v >>> 17)
  v ^^^ (v <<< 5)

/-- The 24-bit draw of a lane and element (10 R234). -/
def drawOf (z : Word) (l e : Nat) : Nat := (xorshift (z ^^^ BitVec.ofNat 32 (0x9E3779B9 * (32 * e + l + 1)))).toNat / 256

/-- The seed an instruction draws on. -/
def seedOf (p : Option Pfx) : Nat := match p with | some q => q.seed.toNat | none => 0

/-- The seed advances once after an instruction written with .sr that at least one lane executes (10 R234). -/
def Group.advanceSeed (g : Group) (p : Option Pfx) (rnd : BitVec 2) (lanes : BitVec 32) : Group :=
  if modeOf p rnd = .sr ∧ lanes ≠ 0 then
    { g with seed := g.seed.set (BitVec.ofNat 32 (seedOf p + 1)) (seedOf p) (xorshift (g.seedAt (seedOf p))) }
  else g

/-! ## Register types (10 R223) -/

/-- The format of a floating register type. -/
def fmtOf : TyCode → FFmt
  | .bf16 => .bf16 | .f16 => .f16 | _ => .f32

/-- The bits of a register that a type reads. -/
def lowBits (t : TyCode) (w : Word) : Nat := w.toNat % 2 ^ (8 * t.bytes)

/-- The number that an integer type reads (10 R223). -/
def intOf (t : TyCode) (w : Word) : Int :=
  let n := lowBits t w
  if t.isSigned && n.testBit (8 * t.bytes - 1) then (n : Int) - 2 ^ (8 * t.bytes) else n

/-- The register of an integer result: extended by its signedness (10 R223). -/
def intReg (t : TyCode) (x : Int) : Word :=
  let n := (x % 2 ^ (8 * t.bytes)).toNat
  if t.isSigned && n.testBit (8 * t.bytes - 1) then BitVec.ofInt 32 ((n : Int) - 2 ^ (8 * t.bytes)) else BitVec.ofNat 32 n

/-- The range of an integer type. -/
def rangeOf (t : TyCode) : Int × Int :=
  if t.isSigned then (-(2 ^ (8 * t.bytes - 1)), 2 ^ (8 * t.bytes - 1) - 1) else (0, 2 ^ (8 * t.bytes) - 1)

/-- The value of a register in a floating type. -/
def floatOf (t : TyCode) (ftz : Bool) (w : Word) : FV := (fmtOf t).value ftz (lowBits t w)

/-! ## Conversions (10 R238) -/

/-- Between two register types. A floating type that holds every value of the source takes an infinity as it is, .sat or not. -/
def convert (src dst : TyCode) (mode : RMode) (draw : Nat) (sat ftz : Bool) (w : Word) : Word :=
  match src.isFloat, dst.isFloat with
  | true, true =>
    BitVec.ofNat 32 ((fmtOf dst).round mode draw (sat && fmtOf dst != .f32 && fmtOf src != fmtOf dst) ftz (floatOf src ftz w))
  | true, false => intReg dst ((floatOf src ftz w).toInt mode draw (rangeOf dst).1 (rangeOf dst).2)
  | false, true => BitVec.ofNat 32 ((fmtOf dst).round mode draw sat ftz (FV.ofInt (intOf src w)))
  | false, false =>
    let x := intOf src w
    intReg dst (if sat then clampInt (rangeOf dst).1 (rangeOf dst).2 x else x)

/-- The format of a narrow floating element; none for an integer one. -/
def EFmtF : EFmt → Option FFmt
  | .bf16 => some .bf16 | .f16 => some .f16 | .e4m3 => some .e4m3 | .e5m2 => some .e5m2 | .e3m2 => some .e3m2
  | .e2m3 => some .e2m3 | .e2m1 => some .e2m1 | .int8 | .uint8 | .int4 | .uint4 => none

/-- Signedness of a narrow integer element. -/
def EFmtSigned : EFmt → Bool
  | .int8 | .int4 => true | _ => false

/-- The value of an element of a format (10 R224, R225). -/
def elemValue (f : EFmt) (ftz : Bool) (n : Nat) : FV :=
  match EFmtF f with
  | some x => x.value ftz n
  | none => FV.ofInt (if EFmtSigned f && n.testBit (f.bits - 1) then (n : Int) - 2 ^ f.bits else n)

/-- A value converted to an element of a format (10 R238). -/
def elemOf (f : EFmt) (mode : RMode) (draw : Nat) (sat ftz : Bool) (v : FV) : Nat :=
  match EFmtF f with
  | some x => x.round mode draw sat ftz v
  | none =>
    let lo : Int := if EFmtSigned f then -(2 ^ (f.bits - 1)) else 0
    let hi : Int := if EFmtSigned f then 2 ^ (f.bits - 1) - 1 else 2 ^ f.bits - 1
    (v.toInt mode draw lo hi % 2 ^ f.bits).toNat

/-! ## FMIN, FMAX and single additions (13 R283, 14 R306) -/

/-- FMIN and FMAX: the bits of the result (13 R283): -0 is less than +0; one NaN gives the other source. -/
def fminmax (f : FFmt) (ftz mx : Bool) (a b : Nat) : Nat :=
  let x := f.value ftz a
  let y := f.value ftz b
  let keep (v : FV) : Nat := f.round .rne 0 false false v
  match x, y with
  | .nan, .nan => f.canonNan
  | .nan, _ => keep y
  | _, .nan => keep x
  | _, _ =>
    let c := x.cmp y
    let less := c < 0 || (c == 0 && x.neg? && !y.neg?)
    keep (if less != mx then x else y)

/-- An addition rounded to nearest, ties to even, without flush or saturation (14 R306, 10 R241). -/
def faddRne (f : FFmt) (a b : Nat) : Nat := f.round .rne 0 false false (FV.add .rne (f.value false a) (f.value false b))

end Sys2Proof.Machine
end

