-- ==== Sys2Proof/Machine/Integer.lean ====
section
/-! DEFINITION. Integer, logic, predicate and address instructions (spec 12), but for LEA, which stands with the memory forms. -/

namespace Sys2Proof.Machine

open Sys2Proof

/-- Is the TYPE of an instruction signed? -/
def signedOf (f : Form) (o : OpA) : Bool := (f.effTy (.a o)).isSigned

/-! ## Single-result arithmetic (12 R265) -/

/-- An arithmetic form from its exact result. -/
def execExact (f : Form) (o : OpA) (op : Int → Int → Int → Int) (s : State) : Host.Outcome State Fault Refusal :=
  let sg := signedOf f o
  execAlu f 0 o (fun _ a b c => narrow sg (satOf o) (op (asInt sg a) (asInt sg b) (asInt sg c))) s

def execAdd (o : OpA) (s : State) : Host.Outcome State Fault Refusal := execExact Forms.add o (fun a b _ => a + b) s
def execSub (o : OpA) (s : State) : Host.Outcome State Fault Refusal := execExact Forms.sub o (fun a b _ => a - b) s
def execMul (o : OpA) (s : State) : Host.Outcome State Fault Refusal := execExact Forms.mul o (fun a b _ => a * b) s
def execMad (o : OpA) (s : State) : Host.Outcome State Fault Refusal := execExact Forms.mad o (fun a b c => a * b + c) s
/-- Bits [63:32] of the exact value (12 R265). -/
def execMulhi (o : OpA) (s : State) : Host.Outcome State Fault Refusal :=
  execExact Forms.mulhi o (fun a b _ => (a * b) / 2 ^ 32) s
def execMadhi (o : OpA) (s : State) : Host.Outcome State Fault Refusal :=
  execExact Forms.madhi o (fun a b c => (a * b + c) / 2 ^ 32) s
def execMin (o : OpA) (s : State) : Host.Outcome State Fault Refusal :=
  execExact Forms.min o (fun a b _ => if a ≤ b then a else b) s
def execMax (o : OpA) (s : State) : Host.Outcome State Fault Refusal :=
  execExact Forms.max o (fun a b _ => if a ≤ b then b else a) s
/-- |a - b| as an unsigned 32-bit value (12 R265). -/
def execAbsd (o : OpA) (s : State) : Host.Outcome State Fault Refusal :=
  execExact Forms.absd o (fun a b _ => if a ≤ b then b - a else a - b) s
def execNeg (o : OpA) (s : State) : Host.Outcome State Fault Refusal := execExact Forms.neg o (fun a _ _ => 0 - a) s

/-! ## Pairs (12 R266-R268) -/

/-- The two registers of a 64-bit result, low first. -/
def pairVals (x : DWord) (psns : List (Option Nat)) : List Val :=
  [Val.with (x.extractLsb' 0 32) psns, Val.with (x.extractLsb' 32 32) psns]

def execWmul (o : OpA) (s : State) : Host.Outcome State Fault Refusal :=
  onGroup s (fun g => s.writeLanes g o.dst (fun l =>
    let a := s.source g Forms.wmul 0 (.a o) 2 l
    let b := s.source g Forms.wmul 0 (.a o) 3 l
    let sg := signedOf Forms.wmul o
    pairVals (BitVec.ofInt 64 (asInt sg a.bits * asInt sg b.bits)) [a.psn, b.psn]))

def execAdd64 (o : OpA) (s : State) : Host.Outcome State Fault Refusal :=
  onGroup s (fun g => s.writeLanes g o.dst (fun l =>
    let a := s.sourcePair g Forms.add64 0 (.a o) 2 l
    let b := s.sourcePair g Forms.add64 0 (.a o) 3 l
    pairVals (a.1 + b.1) [a.2, b.2]))

/-- `n` steps of division (12 R267): quotient and remainder. -/
def divSteps (dv : Nat) : Nat → Nat → Nat → Nat × Nat
  | 0, q, r => (q, r)
  | n + 1, q, r =>
    let t := 2 * r + q / 2 ^ 31
    let q := (2 * q) % 2 ^ 32
    if t ≥ dv then divSteps dv n (q + 1) ((t - dv) % 2 ^ 32) else divSteps dv n q (t % 2 ^ 32)

def execDivstep (o : OpA) (s : State) : Host.Outcome State Fault Refusal :=
  onGroup s (fun g => s.writeLanes g o.dst (fun l =>
    let a := s.sourcePair g Forms.divstep 0 (.a o) 2 l
    let b := s.source g Forms.divstep 0 (.a o) 3 l
    let dv := if signedOf Forms.divstep o then b.bits.toInt.natAbs else b.bits.toNat
    let r := divSteps dv 8 (a.1.extractLsb' 0 32).toNat (a.1.extractLsb' 32 32).toNat
    pairVals (BitVec.ofNat 32 r.2 ++ BitVec.ofNat 32 r.1) [a.2, b.psn]))

/-- The result of DIVFIX (12 R268): quotient and remainder. -/
def divFix (sg : Bool) (q r b x : Word) : Word × Word :=
  if !sg then (q, r)
  else if b = 0 then (0xFFFFFFFF, x)
  else (if x.msb != b.msb then 0 - q else q, if x.msb then 0 - r else r)

def execDivfix (o : OpA) (s : State) : Host.Outcome State Fault Refusal :=
  onGroup s (fun g => s.writeLanes g o.dst (fun l =>
    let a := s.sourcePair g Forms.divfix 0 (.a o) 2 l
    let b := s.source g Forms.divfix 0 (.a o) 3 l
    let x := s.source g Forms.divfix 0 (.a o) 4 l
    let r := divFix (signedOf Forms.divfix o) (a.1.extractLsb' 0 32) (a.1.extractLsb' 32 32) b.bits x.bits
    pairVals (r.2 ++ r.1) [a.2, b.psn, x.psn]))

/-! ## Logic, shifts and bit fields (12 R269, R270) -/

def execAnd (o : OpA) (s : State) : Host.Outcome State Fault Refusal := execAlu Forms.and 0 o (fun _ a b _ => Logic.and.word a b) s
def execOr (o : OpA) (s : State) : Host.Outcome State Fault Refusal := execAlu Forms.or 0 o (fun _ a b _ => Logic.or.word a b) s
def execXor (o : OpA) (s : State) : Host.Outcome State Fault Refusal := execAlu Forms.xor 0 o (fun _ a b _ => Logic.xor.word a b) s
def execAndn (o : OpA) (s : State) : Host.Outcome State Fault Refusal := execAlu Forms.andn 0 o (fun _ a b _ => Logic.andn.word a b) s

/-- A word from its bits. -/
def wordOf (p : Nat → Bool) : Word := maskOf p

/-- MIX3: the three source bits at a position select one of the eight table bits (12 R269). -/
def mix3 (tbl : Nat) (a b c : Word) : Word :=
  wordOf (fun i => tbl.testBit ((a.getLsbD i).toNat + 2 * (b.getLsbD i).toNat + 4 * (c.getLsbD i).toNat))

def execMix3 (o : OpA) (s : State) : Host.Outcome State Fault Refusal :=
  execAlu Forms.mix3 0 o (fun _ a b c => mix3 o.imm.toNat a b c) s

def execShl (o : OpA) (s : State) : Host.Outcome State Fault Refusal := execAlu Forms.shl 0 o (fun _ a b _ => if b.toNat < 32 then a <<< b.toNat else 0) s
def execShr (o : OpA) (s : State) : Host.Outcome State Fault Refusal := execAlu Forms.shr 0 o (fun _ a b _ => a >>> b.toNat) s
def execSar (o : OpA) (s : State) : Host.Outcome State Fault Refusal := execAlu Forms.sar 0 o (fun _ a b _ => a.sshiftRight b.toNat) s

/-- Bits [n + 31:n] of b:a with n = min(c, 32) (12 R269). -/
def fshf (a b c : Word) : Word := ((b ++ a : DWord) >>> (min c.toNat 32)).setWidth 32

def execFshf (o : OpA) (s : State) : Host.Outcome State Fault Refusal := execAlu Forms.fshf 0 o (fun _ a b c => fshf a b c) s

def execPopc (o : OpA) (s : State) : Host.Outcome State Fault Refusal :=
  execAlu Forms.popc 0 o (fun _ a _ _ => BitVec.ofNat 32 (popcount a)) s

/-- The number of leading 0 bits; 32 for 0 (12 R269). -/
def clz (a : Word) : Nat :=
  match (List.range 32).find? (fun i => a.getLsbD (31 - i)) with
  | some i => i
  | none => 32

def execClz (o : OpA) (s : State) : Host.Outcome State Fault Refusal := execAlu Forms.clz 0 o (fun _ a _ _ => BitVec.ofNat 32 (clz a)) s
def execBrev (o : OpA) (s : State) : Host.Outcome State Fault Refusal :=
  execAlu Forms.brev 0 o (fun _ a _ _ => wordOf (fun i => a.getLsbD (31 - i))) s

/-- BFE (12 R270): position and length from the control. -/
def bfe (sg : Bool) (a ctl : Word) : Word :=
  let pos := ctl.toNat % 256
  let len := min (ctl.toNat / 256 % 256) 32
  if len = 0 then 0
  else
    let f := (asInt sg a / 2 ^ pos) % 2 ^ len
    BitVec.ofInt 32 (if sg && (f / 2 ^ (len - 1)) % 2 == 1 then f - 2 ^ len else f)

def execBfe (o : OpA) (s : State) : Host.Outcome State Fault Refusal :=
  execAlu Forms.bfe 0 o (fun _ a b _ => bfe (signedOf Forms.bfe o) a b) s

/-- BFI (12 R270). -/
def bfi (a b ctl : Word) : Word :=
  let pos := ctl.toNat % 256
  let len := min (ctl.toNat / 256 % 256) 32
  wordOf (fun i => if pos ≤ i ∧ i < pos + len then a.getLsbD (i - pos) else b.getLsbD i)

def execBfi (o : OpA) (s : State) : Host.Outcome State Fault Refusal := execAlu Forms.bfi 0 o (fun _ a b c => bfi a b c) s

/-! ## Compare, predicate and select (12 R271) -/

/-- A member of CMP. -/
def execCmp (f : Form) (cc : Cmp) (o : OpA) (s : State) : Host.Outcome State Fault Refusal :=
  let sg := signedOf f o
  execAlu f 0 o (fun _ a b _ => truth (cc.holds (asInt sg a) (asInt sg b))) s

def execCmpEq (o : OpA) (s : State) : Host.Outcome State Fault Refusal := execCmp Forms.cmpEq .eq o s
def execCmpNe (o : OpA) (s : State) : Host.Outcome State Fault Refusal := execCmp Forms.cmpNe .ne o s
def execCmpLt (o : OpA) (s : State) : Host.Outcome State Fault Refusal := execCmp Forms.cmpLt .lt o s
def execCmpLe (o : OpA) (s : State) : Host.Outcome State Fault Refusal := execCmp Forms.cmpLe .le o s
def execCmpGt (o : OpA) (s : State) : Host.Outcome State Fault Refusal := execCmp Forms.cmpGt .gt o s
def execCmpGe (o : OpA) (s : State) : Host.Outcome State Fault Refusal := execCmp Forms.cmpGe .ge o s

/-- A member of PLOG. -/
def execPlog (f : Form) (op : Logic) (o : OpA) (s : State) : Host.Outcome State Fault Refusal :=
  execAlu f 0 o (fun _ a b _ => truth (op.bool (a != 0) (b != 0))) s

def execPlogAnd (o : OpA) (s : State) : Host.Outcome State Fault Refusal := execPlog Forms.plogAnd .and o s
def execPlogOr (o : OpA) (s : State) : Host.Outcome State Fault Refusal := execPlog Forms.plogOr .or o s
def execPlogXor (o : OpA) (s : State) : Host.Outcome State Fault Refusal := execPlog Forms.plogXor .xor o s
def execPlogAndn (o : OpA) (s : State) : Host.Outcome State Fault Refusal := execPlog Forms.plogAndn .andn o s
def execPlogMov (o : OpA) (s : State) : Host.Outcome State Fault Refusal := execPlog Forms.plogMov .mov o s

def execSel (o : OpA) (s : State) : Host.Outcome State Fault Refusal :=
  execAlu Forms.sel 0 o (fun _ a b c => if c != 0 then a else b) s

/-! ## Moves between classes (12 R272) -/

def execMov (o : OpA) (s : State) : Host.Outcome State Fault Refusal := execAlu Forms.mov 0 o (fun _ a _ _ => a) s

/-- Every executing lane takes one value: a move of the lowest value, a mask, a block-shared register. -/
def State.writeSame (s : State) (g : Group) (d : Sel) (xs : List Val) : Except Trap Group :=
  if s.cur.lanes == 0 then .ok g else s.writeLanes g d (fun _ => xs)

def execMovxSv (o : OpA) (s : State) : Host.Outcome State Fault Refusal :=
  onGroup s (fun g => s.writeSame g o.dst [s.low g Forms.movxSv 0 (.a o) 2])

def execMovxPv (o : OpA) (s : State) : Host.Outcome State Fault Refusal :=
  execAlu Forms.movxPv 0 o (fun _ a _ _ => truth (a != 0)) s

def execMovxVp (o : OpA) (s : State) : Host.Outcome State Fault Refusal := execAlu Forms.movxVp 0 o (fun _ a _ _ => a) s

/-- The value of a block-shared register as a read finds it: as it stood when the instruction's collecting began (03 R73). -/
def State.wAt (s : State) (blk n : Nat) : Word :=
  match s.cur.ws, s.block? blk with
  | some w, _ => SMap.get 0 w n
  | none, some b => SMap.get 0 b.w n
  | none, none => 0

def execMovxSw (o : OpA) (s : State) : Host.Outcome State Fault Refusal :=
  onGroup s (fun g => s.writeSame g o.dst [⟨s.wAt g.blk o.sa.num, none⟩])

/-- A write to a block-shared register waits for the core cycle of 03 R73. -/
def execMovxWs (o : OpA) (s : State) : Host.Outcome State Fault Refusal :=
  onState s (fun g t =>
    let x := s.low g Forms.movxWs 0 (.a o) 2
    if s.cur.lanes == 0 then .ok t
    else match x.psn with
      | some p => .error (s.consumedOf g p)
      | none =>
        let c := t.core s.cur.core
        let sl := s.slice (sliceKey s.cur.core s.cur.slice)
        let w : WWrite :=
          { blk := g.blk, reg := o.dst.num, bits := x.bits, slice := s.cur.slice, baton := s.cur.baton,
            prim := if s.cur.sec then 0 else 1, due := sl.cyc + 4 + c.passes - 1 }
        .ok ((t.putCore s.cur.core { c with wq := c.wq ++ [w] }).addDue [.wapply s.cur.core]))

/-- A move into a mask register: consumes the poison of the lowest value (12 R264). -/
def execMovxMs (o : OpA) (s : State) : Host.Outcome State Fault Refusal :=
  onGroup s (fun g =>
    let x := s.low g Forms.movxMs 0 (.a o) 2
    if s.cur.lanes == 0 then .ok g
    else match x.psn with
      | some p => .error (s.consumedOf g p)
      | none => .ok (g.setM o.dst.num x.bits))

def execMovxSm (o : OpA) (s : State) : Host.Outcome State Fault Refusal :=
  onGroup s (fun g => s.writeSame g o.dst [⟨g.mAt o.sa.num, none⟩])

/-! ## Exchanges between lanes (12 R273) -/

/-- The source lane of an exchange: none when it lies outside 0 to 31. -/
inductive Shuffle where
  | idx | up | down | xor
  deriving DecidableEq, Repr

def Shuffle.lane (x : Shuffle) (l n : Nat) : Option Nat :=
  match x with
  | .idx => some (n % 32)
  | .up => if n ≤ l then some (l - n) else none
  | .down => if l + n < 32 then some (l + n) else none
  | .xor => some (l ^^^ (n % 32))

/-- SHFL and RDLANE: SA is read from another lane as it stands, whatever that lane's state. -/
def execShfl (f : Form) (x : Shuffle) (o : OpA) (s : State) : Host.Outcome State Fault Refusal :=
  onGroup s (fun g => s.writeLanes g o.dst (fun l =>
    let n := s.source g f 0 (.a o) 3 l
    let a := match x.lane l n.bits.toNat with
      | some k => s.source g f 0 (.a o) 2 k
      | none => s.source g f 0 (.a o) 2 l
    [Val.with a.bits [a.psn, n.psn]]))

def execShflIdx (o : OpA) (s : State) : Host.Outcome State Fault Refusal := execShfl Forms.shflIdx .idx o s
def execShflUp (o : OpA) (s : State) : Host.Outcome State Fault Refusal := execShfl Forms.shflUp .up o s
def execShflDown (o : OpA) (s : State) : Host.Outcome State Fault Refusal := execShfl Forms.shflDown .down o s
def execShflXor (o : OpA) (s : State) : Host.Outcome State Fault Refusal := execShfl Forms.shflXor .xor o s
def execRdlane (o : OpA) (s : State) : Host.Outcome State Fault Refusal := execShfl Forms.rdlane .idx o s

/-! ## Buffer records (12 R274-R276) -/

/-- The fields of a buffer record (04 R85). -/
structure Brec where
  base : DWord
  stride : BitVec 24
  extent : BitVec 32
  swz : BitVec 3
  esz : BitVec 2
  oobf : BitVec 1
  res : BitVec 2
  deriving DecidableEq, Repr

/-- The fields of 128 bits. -/
def Brec.of (x : BitVec 128) : Brec :=
  { base := x.extractLsb' 64 64, stride := x.extractLsb' 40 24, extent := x.extractLsb' 8 32, swz := x.extractLsb' 5 3,
    esz := x.extractLsb' 3 2, oobf := x.extractLsb' 2 1, res := x.extractLsb' 0 2 }

/-- The 128 bits of a record. -/
def Brec.bits (r : Brec) : BitVec 128 := r.base ++ r.stride ++ r.extent ++ r.swz ++ r.esz ++ r.oobf ++ r.res

/-- A form that writes a buffer record: acts once, in the view of the lowest executing lane; consumes poison of its sources (12 R264). -/
def execBr (o : OpX) (psn : Group → Option Nat) (r : Group → Brec) (s : State) : Host.Outcome State Fault Refusal :=
  onGroup s (fun g =>
    if s.cur.lanes == 0 then .ok g
    else match psn g with
      | some p => .error (s.consumedOf g p)
      | none => .ok (g.setB o.dst.num (r g).bits))

def execBrmake (o : OpX) (s : State) : Host.Outcome State Fault Refusal :=
  execBr o
    (fun g => (s.lowPair g Forms.brmake 0 (.x o) 2).2 <|> (s.low g Forms.brmake 0 (.x o) 3).psn <|> (s.low g Forms.brmake 0 (.x o) 4).psn)
    (fun g =>
      let c := (s.low g Forms.brmake 0 (.x o) 4).bits
      { base := (s.lowPair g Forms.brmake 0 (.x o) 2).1, stride := c.extractLsb' 8 24, extent := (s.low g Forms.brmake 0 (.x o) 3).bits,
        swz := c.extractLsb' 5 3, esz := c.extractLsb' 3 2, oobf := c.extractLsb' 2 1, res := 0 }) s

/-- A member of BRSET: record SA with one field replaced. -/
def execBrset (f : Form) (o : OpX) (put : Brec → Word → Brec) (s : State) : Host.Outcome State Fault Refusal :=
  execBr o (fun g => (s.low g f 0 (.x o) 3).psn) (fun g => put (Brec.of (g.bAt o.sa.num)) (s.low g f 0 (.x o) 3).bits) s

def execBrsetBase (o : OpX) (s : State) : Host.Outcome State Fault Refusal :=
  execBr o (fun g => (s.lowPair g Forms.brsetBase 0 (.x o) 3).2)
    (fun g => { Brec.of (g.bAt o.sa.num) with base := (s.lowPair g Forms.brsetBase 0 (.x o) 3).1 }) s
def execBrsetStride (o : OpX) (s : State) : Host.Outcome State Fault Refusal :=
  execBrset Forms.brsetStride o (fun r x => { r with stride := x.setWidth 24 }) s
def execBrsetExtent (o : OpX) (s : State) : Host.Outcome State Fault Refusal :=
  execBrset Forms.brsetExtent o (fun r x => { r with extent := x }) s
def execBrsetSwz (o : OpX) (s : State) : Host.Outcome State Fault Refusal :=
  execBrset Forms.brsetSwz o (fun r x => { r with swz := x.setWidth 3 }) s
def execBrsetEsz (o : OpX) (s : State) : Host.Outcome State Fault Refusal :=
  execBrset Forms.brsetEsz o (fun r x => { r with esz := x.setWidth 2 }) s
def execBrsetOobf (o : OpX) (s : State) : Host.Outcome State Fault Refusal :=
  execBrset Forms.brsetOobf o (fun r x => { r with oobf := x.setWidth 1 }) s

/-- A member of BRGET: one field of record SA, zero-extended. -/
def execBrget (o : OpX) (get : Brec → List Word) (s : State) : Host.Outcome State Fault Refusal :=
  onGroup s (fun g => s.writeSame g o.dst ((get (Brec.of (g.bAt o.sa.num))).map (fun w => ⟨w, none⟩)))

def execBrgetBase (o : OpX) (s : State) : Host.Outcome State Fault Refusal :=
  execBrget o (fun r => [r.base.extractLsb' 0 32, r.base.extractLsb' 32 32]) s
def execBrgetStride (o : OpX) (s : State) : Host.Outcome State Fault Refusal := execBrget o (fun r => [r.stride.setWidth 32]) s
def execBrgetExtent (o : OpX) (s : State) : Host.Outcome State Fault Refusal := execBrget o (fun r => [r.extent]) s
def execBrgetSwz (o : OpX) (s : State) : Host.Outcome State Fault Refusal := execBrget o (fun r => [r.swz.setWidth 32]) s
def execBrgetEsz (o : OpX) (s : State) : Host.Outcome State Fault Refusal := execBrget o (fun r => [r.esz.setWidth 32]) s
def execBrgetOobf (o : OpX) (s : State) : Host.Outcome State Fault Refusal := execBrget o (fun r => [r.oobf.setWidth 32]) s

/-- A record advanced by n elements (12 R276). -/
def Brec.adv (r : Brec) (n : Word) : Brec :=
  { r with
    base := r.base.extractLsb' 60 4 ++ BitVec.ofNat 60 ((r.base.extractLsb' 0 60).toNat + n.toNat * r.stride.toNat)
    extent := if n.toNat ≤ r.extent.toNat then r.extent - n else 0 }

def execBradv (o : OpX) (s : State) : Host.Outcome State Fault Refusal :=
  execBrset Forms.bradv o (fun r n => r.adv n) s

end Sys2Proof.Machine
end

