-- ==== Sys2Proof/Machine/Access.lean ====
section
/-! DEFINITION. From a memory operand to checked accesses: address formation, the checks of 04 R88 in order, spaces, formats (04 R81-R88,
R105, 14 R302). -/

namespace Sys2Proof.Machine

open Sys2Proof

/-! ## Address formation (04 R86) -/

/-- Swizzle of an offset. -/
def swizzle (swz off : Nat) : Nat :=
  if swz = 0 then off else off ^^^ ((off / 2 ^ (6 + swz) % 8) * 16)

/-- A lane's address and whether it is in bounds: record, bytes per lane, index. -/
def Brec.addr (r : Brec) (n idx : Nat) : DWord × Bool :=
  let el := (n + 2 ^ r.esz.toNat - 1) / 2 ^ r.esz.toNat
  let off := swizzle r.swz.toNat (idx * r.stride.toNat)
  (r.base.extractLsb' 60 4 ++ BitVec.ofNat 60 ((r.base.extractLsb' 0 60).toNat + off), decide (idx + el - 1 < r.extent.toNat))

/-- The memory immediate: IMM16 sign-extended, or IMM32 (08 R194, R197). -/
def memImm (o : OpM) : Word :=
  if (Op.m o).imx then BitVec.ofNat 32 (Op.m o).immRaw else sext16 o.imm.toNat

/-- The index register of a memory operand in a lane; an absent one is 0. -/
def State.index (s : State) (g : Group) (o : OpM) (l : Nat) : Val := s.readSel g o.index 0 l

/-! ## Spaces (04 R81-R84) -/

/-- The place that a window or global SRAM address names, for a block on a core: none when it names none. The window of a member that has been released
names none (log 57). -/
def State.scratch (s : State) (b : Block) (ga : DWord) : Option Nat :=
  let a := ga.toNat
  if field a 63 60 = 8 then
    let off := field a 25 0
    match b.nbh with
    | none => if off < b.grans * 4096 then some (sramLoc b.core (b.gran0 * 4096 + off)) else none
    | some _ =>
      match (b.mblocks[off / Config.sramBytes]?).bind s.block? with
      | some m =>
        let o := off % Config.sramBytes
        if o < m.grans * 4096 then some (sramLoc m.core (m.gran0 * 4096 + o)) else none
      | none => none
  else if field a 24 21 < 12 && field a 20 0 < Config.sramBytes then
    some (sramLoc (coreId (field a 29 28) (field a 27 25) (field a 24 21)) (field a 20 0))
  else none

/-- An address in generic form, with window form rewritten into global form (04 R101). -/
def genericOf (ga : DWord) (loc : Nat) : Nat :=
  if isSram loc then
    let c := sramCore loc
    9 * 2 ^ 60 + (c / 96) * 2 ^ 28 + (c % 8) * 2 ^ 25 + (c % 96 / 8) * 2 ^ 21 + sramOff loc
  else ga.toNat

/-- A failed check: its order in 04 R88, the lane, the cause and the address named. -/
structure Bad where
  order : Nat
  lane : Nat
  cause : Nat
  addr : DWord
  deriving DecidableEq, Repr

/-- Checks 3 to 6 of 04 R88 for an address: alignment to the smaller of the bytes and 16, and at most 16 bytes under a swizzle; tag and, for a
full/empty form, space; form; window and global ranges. -/
def State.addrCheck (s : State) (b : Block) (swz : Nat) (k : AccKind) (fe : Bool) (n : Nat) (ga : DWord) : Option (Nat × Nat) :=
  let a := ga.toNat
  let tag := field a 63 60
  if a % min n 16 ≠ 0 || (swz ≠ 0 && n > 16) then some (3, Cause.align k)
  else if tag ≠ 0 && tag ≠ 8 && tag ≠ 9 then some (4, Cause.tag k)
  else if fe && tag = 0 then some (4, Cause.fespace k)
  else if tag = 0 then
    (if field a 59 47 = 0 || field a 59 47 = 2 ^ 13 - 1 then none else some (5, Cause.addrform k))
  else if (if tag = 8 then field a 59 26 else field a 59 30) ≠ 0 then some (5, Cause.addrform k)
  else if (s.scratch b ga).isNone then some (6, if tag = 8 then Cause.window k else Cause.global k)
  else none

/-- Checks 1 to 6 for a lane: out of bounds, the lane is suppressed or traps by OOBF (`oobf` overrides the record's). -/
def State.laneCheck (s : State) (b : Block) (r : Brec) (oobf : Bool) (k : AccKind) (fe : Bool) (n l idx : Nat) :
    Except Bad (Option DWord) :=
  let a := r.addr n idx
  if r.res ≠ 0 then .error { order := 1, lane := l, cause := Cause.illegal, addr := a.1 }
  else if !a.2 then
    if oobf then .error { order := 2, lane := l, cause := Cause.bounds k, addr := BitVec.ofNat 64 idx } else .ok none
  else match s.addrCheck b r.swz.toNat k fe n a.1 with
    | some (o, c) => .error { order := o, lane := l, cause := c, addr := a.1 }
    | none => .ok (some a.1)

/-- The failure that decides: the check that comes first, then the lowest lane (04 R88). -/
def worstBad (l : List Bad) : Option Bad :=
  l.foldl (fun m x => match m with
    | none => some x
    | some y => if x.order < y.order || (x.order == y.order && x.lane < y.lane) then some x else some y) none

/-- An access of a checked lane: a suppressed one, a scratchpad one, or a virtual one whose translation may fail. -/
def State.accOf (s : State) (core : Nat) (b : Block) (k : AccKind) (n l : Nat) : Option DWord → Acc × State
  | none => ({ lane := l, ga := 0, loc := 0, n, st := .skip, res := List.replicate n 0 }, s)
  | some ga =>
    if field ga.toNat 63 60 = 0 then
      match s.translate core (s.rootOf b.launch) ga.toNat k with
      | (.ok x, t) => ({ lane := l, ga, loc := x.loc, n, fmt := x.format }, t)
      | (.error c, t) => ({ lane := l, ga, loc := 0, n, st := .done, fail := some c }, t)
    else match s.scratch b ga with
      | some loc => ({ lane := l, ga, loc, n, entry := field ga.toNat 63 60 = 9 || sramCore loc != core }, s)
      | none => ({ lane := l, ga, loc := 0, n, st := .done, fail := some (Cause.window k) }, s)

/-- The accesses of an instruction: for each lane and index, checked, then translated; or every failed check. -/
def State.formAccs (s : State) (core : Nat) (b : Block) (r : Brec) (oobf : Bool) (k : AccKind) (fe : Bool) (n : Nat)
    (idxs : List (Nat × Nat)) : List Bad × List Acc × State :=
  let cs := idxs.map (fun x => (x.1, s.laneCheck b r oobf k fe n x.1 x.2))
  let bads := cs.filterMap (fun x => match x.2 with | .error e => some e | .ok _ => none)
  if bads ≠ [] then (bads, [], s)
  else
    let p := cs.foldl (fun (p : List Acc × State) x =>
      match x.2 with
      | .ok ga => let q := p.2.accOf core b k n x.1 ga; (p.1 ++ [q.1], q.2)
      | .error _ => p) ([], s)
    ([], p.1, p.2)

/-! ## Formats (04 R104, 10 R227-R230, 14 R302) -/

/-- The element format of a code; none for FP32 (code 1) and for codes that name none. -/
def fmtElem (code : Nat) : Option EFmt :=
  match code with
  | 2 => some .bf16 | 3 => some .f16 | 4 | 13 | 14 | 17 => some .e4m3 | 5 | 15 | 16 | 18 => some .e5m2 | 6 | 19 => some .e3m2
  | 7 | 20 => some .e2m3 | 8 | 21 | 22 => some .e2m1 | 9 | 23 => some .int8 | 10 => some .uint8 | 11 | 24 => some .int4
  | 12 => some .uint4 | _ => none

/-- Bits of an element of a code. -/
def fmtBits (code : Nat) : Nat := match fmtElem code with | some e => e.bits | none => 32

/-- Geometry of a format line (10 R229): elements and bytes of a block, blocks of a line, first scale byte, bytes of a scale. -/
def fmtLine (code : Nat) : Option (Nat × Nat × Nat × Nat × Nat) :=
  match code with
  | 17 | 18 => some (32, 32, 7, 224, 1)
  | 19 | 20 => some (32, 24, 10, 240, 1)
  | 21 => some (32, 16, 15, 240, 1)
  | 22 => some (16, 8, 28, 224, 1)
  | 24 => some (32, 16, 14, 224, 2)
  | _ => none

/-- Bit offset of element `n` of a formatted region, and the byte offset and size of its scale (14 R302). -/
def fmtPos (code n : Nat) : Nat × Option (Nat × Nat) :=
  match fmtLine code with
  | some (el, by_, blks, sc, sb) =>
    let line := n / (blks * el) * 256
    let j := n % (blks * el) / el
    (8 * (line + j * by_) + n % el * fmtBits code, some (line + sc + j * sb, sb))
  | none => (n * fmtBits code, none)

/-- The value of an element: its own value times its scale (10 R230); a subnormal of either is a zero under !ftz (10 R232). -/
def fmtValue (code : Nat) (ftz : Bool) (elem scale : Nat) : FV :=
  let v := match fmtElem code with
    | some e => elemValue e ftz elem
    | none => FFmt.f32.value ftz elem
  match code with
  | 17 | 18 | 19 | 20 | 21 => (if scale % 256 = 255 then FV.nan else .fin false 1 ((scale % 256 : Nat) - 127)).mul v
  | 22 => (FFmt.e4m3.value ftz scale).mul v
  | 24 => (FFmt.f16.value ftz scale).mul v
  | _ => v

end Sys2Proof.Machine
end

