-- ==== Sys2Proof/Machine/FloatOps.lean ====
section
/-! DEFINITION. Floating-point, conversion, reduction and scan instructions (spec 13). -/

namespace Sys2Proof.Machine

open Sys2Proof

/-! ## One rounded result (13 R282) -/

/-- What an instruction rounds with: its mode, its seed value, saturation and flush. -/
structure Rnd where
  mode : RMode
  seed : Word
  sat : Bool
  ftz : Bool
  deriving DecidableEq, Repr

/-- The rounding of an instruction of a group (08 R197, 10 R234). -/
def Group.rndOf (g : Group) (o : OpA) : Rnd := ⟨modeOf o.pfx o.rnd, g.seedAt (seedOf o.pfx), satOf o, ftzOf o.pfx⟩

/-- A value rounded to a format for element `e` of lane `l`. -/
def Rnd.to (r : Rnd) (f : FFmt) (l e : Nat) (v : FV) : Nat := f.round r.mode (drawOf r.seed l e) r.sat r.ftz v

/-- A form of one result per lane that draws on a seed: the op is told the rounding and the lane. -/
def execRounded (f : Form) (minor : Nat) (o : OpA) (op : Rnd → Nat → Word → Word → Word → Word) (s : State) :
    Host.Outcome State Fault Refusal :=
  onGroup s (fun g =>
    match s.alu g f minor o (op (g.rndOf o)) with
    | .ok h => .ok (h.advanceSeed o.pfx o.rnd s.cur.lanes)
    | .error t => .error t)

/-- A rounded form in its TYPE, from the exact result. -/
def execFp (f : Form) (o : OpA) (op : RMode → FV → FV → FV → FV) (s : State) : Host.Outcome State Fault Refusal :=
  let t := f.effTy (.a o)
  execRounded f 0 o (fun r l a b c =>
    BitVec.ofNat 32 (r.to (fmtOf t) l 0 (op r.mode (floatOf t r.ftz a) (floatOf t r.ftz b) (floatOf t r.ftz c)))) s

def execFadd (o : OpA) (s : State) : Host.Outcome State Fault Refusal := execFp Forms.fadd o (fun m a b _ => a.add m b) s
def execFmul (o : OpA) (s : State) : Host.Outcome State Fault Refusal := execFp Forms.fmul o (fun _ a b _ => a.mul b) s
def execFma (o : OpA) (s : State) : Host.Outcome State Fault Refusal := execFp Forms.fma o (fun m a b c => (a.mul b).add m c) s
def execFnma (o : OpA) (s : State) : Host.Outcome State Fault Refusal :=
  execFp Forms.fnma o (fun m a b c => (a.mul b).negate.add m c) s
def execFsqrt (o : OpA) (s : State) : Host.Outcome State Fault Refusal := execFp Forms.fsqrt o (fun _ a _ _ => a.sqrt) s

/-- a × 2^b with b a signed 32-bit integer. -/
def FV.scale (a : FV) (b : Int) : FV := match a with | .fin n m e => .fin n m (e + b) | v => v

def execFscale (o : OpA) (s : State) : Host.Outcome State Fault Refusal :=
  let t := Forms.fscale.effTy (.a o)
  execRounded Forms.fscale 0 o (fun r l a b _ => BitVec.ofNat 32 (r.to (fmtOf t) l 0 ((floatOf t r.ftz a).scale b.toInt))) s

def execFrnd (o : OpA) (s : State) : Host.Outcome State Fault Refusal :=
  let t := Forms.frnd.effTy (.a o)
  execRounded Forms.frnd 0 o (fun r l a _ _ =>
    BitVec.ofNat 32 ((fmtOf t).round .rne 0 false r.ftz ((floatOf t r.ftz a).toIntegral r.mode (drawOf r.seed l 0)))) s

/-! ## Minimum, maximum, signs, comparison, class (13 R283-R285) -/

/-- A form without rounding in its TYPE: the op is told the format and the flush. -/
def execFbits (f : Form) (o : OpA) (op : FFmt → Bool → Nat → Nat → Nat) (s : State) : Host.Outcome State Fault Refusal :=
  let t := f.effTy (.a o)
  execAlu f 0 o (fun _ a b _ => BitVec.ofNat 32 (op (fmtOf t) (ftzOf o.pfx) (lowBits t a) (lowBits t b))) s

def execFmin (o : OpA) (s : State) : Host.Outcome State Fault Refusal := execFbits Forms.fmin o (fun f z => fminmax f z false) s
def execFmax (o : OpA) (s : State) : Host.Outcome State Fault Refusal := execFbits Forms.fmax o (fun f z => fminmax f z true) s

/-- A source with the sign given; a NaN becomes the canonical NaN (13 R283). -/
def FFmt.withSign (f : FFmt) (ftz neg : Bool) (a : Nat) : Nat :=
  match f.value ftz a with
  | .nan => f.canonNan
  | .inf _ => f.signed neg f.infCode
  | .fin _ m e => f.round .rne 0 false false (.fin neg m e)

def execFabs (o : OpA) (s : State) : Host.Outcome State Fault Refusal :=
  execFbits Forms.fabs o (fun f z a _ => f.withSign z false a) s
def execFneg (o : OpA) (s : State) : Host.Outcome State Fault Refusal :=
  execFbits Forms.fneg o (fun f z a _ => f.withSign z (!a.testBit f.signBit) a) s
def execFcpsgn (o : OpA) (s : State) : Host.Outcome State Fault Refusal :=
  execFbits Forms.fcpsgn o (fun f z a b => f.withSign z (b.testBit f.signBit) a) s

/-- A member of FCMP: the truth value of two values that are not NaN, and the one when either is NaN. -/
def execFcmp (f : Form) (cc : Int → Bool) (un : Bool) (o : OpA) (s : State) : Host.Outcome State Fault Refusal :=
  execFbits f o (fun x z a b =>
    match x.value z a, x.value z b with
    | .nan, _ => un.toNat
    | _, .nan => un.toNat
    | v, w => (cc (v.cmp w)).toNat) s

def execFcmpEq (o : OpA) (s : State) : Host.Outcome State Fault Refusal := execFcmp Forms.fcmpEq (· = 0) false o s
def execFcmpNe (o : OpA) (s : State) : Host.Outcome State Fault Refusal := execFcmp Forms.fcmpNe (· ≠ 0) true o s
def execFcmpLt (o : OpA) (s : State) : Host.Outcome State Fault Refusal := execFcmp Forms.fcmpLt (· < 0) false o s
def execFcmpLe (o : OpA) (s : State) : Host.Outcome State Fault Refusal := execFcmp Forms.fcmpLe (· ≤ 0) false o s
def execFcmpGt (o : OpA) (s : State) : Host.Outcome State Fault Refusal := execFcmp Forms.fcmpGt (0 < ·) false o s
def execFcmpGe (o : OpA) (s : State) : Host.Outcome State Fault Refusal := execFcmp Forms.fcmpGe (0 ≤ ·) false o s
def execFcmpUn (o : OpA) (s : State) : Host.Outcome State Fault Refusal := execFcmp Forms.fcmpUn (fun _ => false) true o s
def execFcmpOrd (o : OpA) (s : State) : Host.Outcome State Fault Refusal := execFcmp Forms.fcmpOrd (fun _ => true) false o s

/-- The bit of FCLASS that is set (13 R285). -/
def FFmt.classBit (f : FFmt) (ftz : Bool) (a : Nat) : Nat :=
  let neg := a.testBit f.signBit
  match f.value ftz a with
  | .nan => if a.testBit (f.mb - 1) then 9 else 8
  | .inf _ => if neg then 0 else 7
  | .fin _ m _ =>
    if m = 0 then (if neg then 3 else 4)
    else if m < 2 ^ f.mb then (if neg then 2 else 5)
    else if neg then 1 else 6

def execFclass (o : OpA) (s : State) : Host.Outcome State Fault Refusal :=
  execFbits Forms.fclass o (fun f z a _ => 2 ^ f.classBit z a) s

/-! ## Approximations (13 R286) -/

/-- FP32 of an exact result that is not exact in `v` (a sticky bit stands last). -/
def toF32 (ftz : Bool) (v : FV) : Nat := FFmt.f32.round .rne 0 false ftz v

/-- The exponent of the ulp of an exact result whose leading bit stands at 2^t. -/
def ulpAt (t : Int) : Int := (if t < -126 then -126 else t) - 23

/-- |x| ≤ |y| of two finite values. -/
def FV.within (x y : FV) : Bool :=
  match x, y with
  | .fin _ m e, .fin _ n k => decide ((FV.fin false m e).cmp (.fin false n k) ≤ 0)
  | _, _ => false

/-- The magnitude that the part's fixed function gives a source (log 8), where it lies within the bound; else the nearest value.
A subnormal result is flushed under !ftz. -/
def approxIn (form : Nat) (w : Word) (ftz : Bool) (bound : FV → Bool) (near : FV) : Nat :=
  let c := (Config.approx form w ftz).toNat % 2 ^ 31
  let code := if c ≤ FFmt.f32.infCode && bound (FFmt.f32.value false c) then c else toF32 false near
  if ftz && code < 2 ^ 23 then 0 else code

/-- FRCP of a nonzero finite magnitude m × 2^e: exact for a power of two, else within 1 ulp of the exact result. -/
def frcpMag (w : Word) (ftz : Bool) (m : Nat) (e : Int) : Nat :=
  let j := m.log2
  if m = 2 ^ j then toF32 ftz (.fin false 1 (-e - j))
  else
    let q := 2 ^ (j + 64) / m
    approxIn 0 w ftz (fun c => ((c.mul (.fin false m e)).add .rne (.fin true 1 0)).within (.fin false m (e + ulpAt (-e - j - 1))))
      (.fin false (2 * q + 1) (-e - j - 65))

/-- FRSQ of a positive finite value m × 2^e: within 1 ulp. -/
def frsqMag (w : Word) (ftz : Bool) (m : Nat) (e : Int) : Nat :=
  let t := e + m.log2
  let u : FV := .fin false 1 (ulpAt (if m = 2 ^ m.log2 ∧ t % 2 = 0 then -(t / 2) else -(t / 2) - 1))
  let one : FV := .fin false 1 0
  let a : FV := .fin false m e
  let len : Nat := m.log2 + 200 + (if (e + m.log2) % 2 = 0 then 0 else 1)
  let r := isqrtBits (len / 2 + 1) (2 ^ len / m) 0
  approxIn 1 w ftz
    (fun c =>
      let lo := c.add .rne u.negate
      let hi := c.add .rne u
      (lo.neg? || decide (((lo.mul lo).mul a).cmp one ≤ 0)) && decide (one.cmp ((hi.mul hi).mul a) ≤ 0))
    (.fin false (2 * r + (if r * r * m = 2 ^ len then 0 else 1)) (-((e + len) / 2) - 1))

/-- A finite value as an integer, if it is one below 2^12. -/
def FV.asSmallInt : FV → Option Int
  | .fin n m e =>
    let k : Option Nat :=
      if 0 ≤ e then (if e ≤ 12 then some (m * 2 ^ e.toNat) else none)
      else if m % 2 ^ (-e).toNat = 0 then some (m / 2 ^ (-e).toNat) else none
    match k with
    | some k => if k < 4096 then some (if n then -(k : Int) else k) else none
    | none => none
  | _ => none

/-! Fixed-point work, in units of 2^-160: the exact functions, by their power series, far below an ulp. -/

/-- A finite magnitude in units of 2^-160. -/
def toFix (m : Nat) (e : Int) : Nat := if 0 ≤ e + 160 then m * 2 ^ (e + 160).toNat else m / 2 ^ (-(e + 160)).toNat
/-- e^x. -/
def expFix (x : Nat) : Nat :=
  ((List.range 150).foldl (fun (t : Nat × Nat) n => let y := t.1 * x / 2 ^ 160 / (n + 1); (y, t.2 + y)) (2 ^ 160, 2 ^ 160)).2
/-- The natural logarithm of m / 2^j, of at least 1 and below 2, by twice the inverse hyperbolic tangent of (m - 2^j) / (m + 2^j). -/
def lnFix (m j : Nat) : Nat :=
  let z := (m - 2 ^ j) * 2 ^ 160 / (m + 2 ^ j)
  2 * ((List.range 60).foldl (fun (t : Nat × Nat) n => (t.1 * z / 2 ^ 160 * z / 2 ^ 160, t.2 + t.1 / (2 * n + 1))) (z, 0)).2
/-- The natural logarithm of 2. -/
def ln2Fix : Nat := lnFix 2 0
/-- π. -/
def piFix : Nat := 0x3243F6A8885A308D313198A2E03707344A4093822
/-- The sine and cosine series of an angle below 2π: the terms whose exponent is odd, or even. -/
def sinFix (odd : Bool) (x : Nat) : Int :=
  ((List.range 40).foldl (fun (t : Nat × Int) n =>
    let k := 2 * n + (if odd then 1 else 0)
    (t.1 * x / 2 ^ 160 * x / 2 ^ 160 / ((k + 1) * (k + 2)), if n % 2 = 0 then t.2 + t.1 else t.2 - t.1)) (if odd then x else 2 ^ 160, 0)).2
/-- A number in fixed point as a value. -/
def ofFix (x : Int) : FV := .fin (decide (x < 0)) x.natAbs (-160)

/-- A value of either sign that the part's fixed function gives a source (log 8), where it lies within the bound of the exact result; else the nearest. -/
def approxNear (form : Nat) (w : Word) (ftz : Bool) (exact bound : FV) : Nat :=
  let c := (Config.approx form w ftz).toNat
  let v := if c % 2 ^ 31 = FFmt.f32.infCode then FV.fin (2 ^ 31 ≤ c) 1 128 else FFmt.f32.value false c
  let ok := match v with | .fin _ _ _ => (v.add .rne exact.negate).within bound | _ => false
  let code := if ok then c else toF32 false exact
  if ftz && code % 2 ^ 31 < 2 ^ 23 then code / 2 ^ 31 * 2 ^ 31 else code

/-- 2^a of a finite a that is no integer: within 2 ulp; beyond 2^±256 the nearest FP32 code of its sign is ∞ or 0. -/
def fex2Mag (w : Word) (ftz n : Bool) (m : Nat) (e : Int) : Nat :=
  if 8 ≤ e + m.log2 then (if n then 0 else FFmt.f32.infCode)
  else
    let x := toFix m e
    let k : Int := if n then -(x / 2 ^ 160 : Nat) - 1 else (x / 2 ^ 160 : Nat)
    let f := if n then 2 ^ 160 - x % 2 ^ 160 else x % 2 ^ 160
    approxNear 2 w ftz (.fin false (expFix (f * ln2Fix / 2 ^ 160)) (k - 160)) (.fin false 2 (ulpAt k))

/-- FEX2: 2^a of an integer is exact; else within 2 ulp. -/
def fex2 (w : Word) (ftz : Bool) (v : FV) : Nat :=
  match v with
  | .nan => FFmt.f32.canonNan
  | .inf n => if n then 0 else FFmt.f32.infCode
  | .fin n m e =>
    match v.asSmallInt with
    | some k => toF32 ftz (.fin false 1 k)
    | none => fex2Mag w ftz n m e

/-- FLG2 of a positive value that is no power of two: within 2^-22 between 0.5 and 2, else within 2 ulp. -/
def flg2Mag (w : Word) (ftz : Bool) (m : Nat) (e : Int) : Nat :=
  let j := m.log2
  let k := e + j
  let x : Int := k * 2 ^ 160 + (lnFix m j * 2 ^ 160 / ln2Fix : Nat)
  approxNear 3 w ftz (ofFix x) (if k = 0 ∨ k = -1 then .fin false 1 (-22) else .fin false 2 (ulpAt (x.natAbs.log2 - 160)))

/-- FLG2: a power of two gives its exponent. -/
def flg2 (w : Word) (ftz : Bool) (v : FV) : Nat :=
  match v with
  | .nan => FFmt.f32.canonNan
  | .inf n => if n then FFmt.f32.canonNan else FFmt.f32.infCode
  | .fin n m e =>
    if m = 0 then FFmt.f32.signed true FFmt.f32.infCode
    else if n then FFmt.f32.canonNan
    else if m = 2 ^ m.log2 then toF32 ftz (FV.ofInt (e + m.log2))
    else flg2Mag w ftz m e

/-- Is a magnitude below 2^k? -/
def FV.below (v : FV) (k : Int) : Bool := match v with | .fin _ m e => m == 0 || decide (e + m.log2 < k) | _ => false

/-- A fixed function's code kept within [-1, 1]. -/
def inUnit (w : Word) (ftz : Bool) : Nat :=
  let c := w.toNat % 2 ^ 31
  let c := if ftz && c < 2 ^ 23 then 0 else c
  FFmt.f32.signed w.msb (min c 0x3F800000)

/-- The bound of FSIN, FCOS and FTANH. -/
def unitBound : FV := .fin false 1 (-21)

/-- FSIN and FCOS of an angle: within 2^-21 up to 1,024, beyond it any value in [-1, 1]. -/
def trig (form : Nat) (odd : Bool) (w : Word) (ftz n : Bool) (m : Nat) (e : Int) : Nat :=
  if (FV.fin false m e).within (.fin false 1024 0) then
    let r := sinFix odd (toFix m e % (2 * piFix))
    approxNear form w ftz (ofFix (if odd && n then -r else r)) unitBound
  else inUnit (Config.approx form w ftz) ftz

/-- FSIN and FCOS. -/
def fsin (w : Word) (ftz : Bool) (v : FV) : Nat :=
  match v with
  | .fin n m e => if m = 0 || v.below (-12) then toF32 ftz (.fin n m e) else trig 4 true w ftz n m e
  | _ => FFmt.f32.canonNan
def fcos (w : Word) (ftz : Bool) (v : FV) : Nat :=
  match v with
  | .fin n m e => if m = 0 then 0x3F800000 else trig 5 false w ftz n m e
  | _ => FFmt.f32.canonNan

/-- The hyperbolic tangent of a magnitude below 10: (E - 1) / (E + 1) of E = e^2a. -/
def tanhFix (x : Nat) : Nat := (expFix (2 * x) - 2 ^ 160) * 2 ^ 160 / (expFix (2 * x) + 2 ^ 160)

/-- FTANH: ±1.0 from |a| = 10 on; else within 2^-21. -/
def ftanh (w : Word) (ftz : Bool) (v : FV) : Nat :=
  match v with
  | .nan => FFmt.f32.canonNan
  | .inf n => FFmt.f32.signed n 0x3F800000
  | .fin n m e =>
    if m = 0 || v.below (-12) then toF32 ftz (.fin n m e)
    else if (FV.fin false 10 0).within v then FFmt.f32.signed n 0x3F800000
    else approxNear 6 w ftz (ofFix (if n then -(tanhFix (toFix m e)) else tanhFix (toFix m e))) unitBound

/-- FRCP (13 R286). -/
def frcp (w : Word) (ftz : Bool) (v : FV) : Nat :=
  match v with
  | .nan => FFmt.f32.canonNan
  | .inf n => FFmt.f32.signed n 0
  | .fin n m e => FFmt.f32.signed n (if m = 0 then FFmt.f32.infCode else frcpMag w ftz m e)

/-- FRSQ (13 R286). -/
def frsq (w : Word) (ftz : Bool) (v : FV) : Nat :=
  match v with
  | .nan => FFmt.f32.canonNan
  | .inf n => if n then FFmt.f32.canonNan else 0
  | .fin n m e =>
    if m = 0 then FFmt.f32.signed n FFmt.f32.infCode else if n then FFmt.f32.canonNan else frsqMag w ftz m e

/-- A form whose result is a fixed function of the source and of !ftz. -/
def execApprox (f : Form) (o : OpA) (op : Word → Bool → FV → Nat) (s : State) : Host.Outcome State Fault Refusal :=
  execAlu f 0 o (fun _ a _ _ => BitVec.ofNat 32 (op a (ftzOf o.pfx) (FFmt.f32.value (ftzOf o.pfx) a.toNat))) s

def execFrcp (o : OpA) (s : State) : Host.Outcome State Fault Refusal := execApprox Forms.frcp o frcp s
def execFrsq (o : OpA) (s : State) : Host.Outcome State Fault Refusal := execApprox Forms.frsq o frsq s
def execFex2 (o : OpA) (s : State) : Host.Outcome State Fault Refusal := execApprox Forms.fex2 o fex2 s
def execFlg2 (o : OpA) (s : State) : Host.Outcome State Fault Refusal := execApprox Forms.flg2 o flg2 s
def execFsin (o : OpA) (s : State) : Host.Outcome State Fault Refusal := execApprox Forms.fsin o fsin s
def execFcos (o : OpA) (s : State) : Host.Outcome State Fault Refusal := execApprox Forms.fcos o fcos s
def execFtanh (o : OpA) (s : State) : Host.Outcome State Fault Refusal := execApprox Forms.ftanh o ftanh s

/-! ## Two-wide forms (13 R287) -/

/-- Element 0 or 1 of a register. -/
def half (e : Nat) (w : Word) : Nat := w.toNat / 2 ^ (16 * e) % 2 ^ 16

/-- A two-wide form from the exact result of one element. -/
def execTwo (f : Form) (o : OpA) (op : RMode → FV → FV → FV → FV) (s : State) : Host.Outcome State Fault Refusal :=
  let t := fmtOf (f.effTy (.a o))
  execRounded f 0 o (fun r l a b c =>
    let el (e : Nat) : Nat :=
      r.to t l e (op r.mode (t.value r.ftz (half e a)) (t.value r.ftz (half e b)) (t.value r.ftz (half e c)))
    BitVec.ofNat 32 (el 0 + 2 ^ 16 * el 1)) s

def execFadd2 (o : OpA) (s : State) : Host.Outcome State Fault Refusal := execTwo Forms.fadd2 o (fun m a b _ => a.add m b) s
def execFmul2 (o : OpA) (s : State) : Host.Outcome State Fault Refusal := execTwo Forms.fmul2 o (fun _ a b _ => a.mul b) s
def execFma2 (o : OpA) (s : State) : Host.Outcome State Fault Refusal :=
  execTwo Forms.fma2 o (fun m a b c => (a.mul b).add m c) s

def execFdot2 (o : OpA) (s : State) : Host.Outcome State Fault Refusal :=
  let t := fmtOf (Forms.fdot2.effTy (.a o))
  execRounded Forms.fdot2 0 o (fun r l a b c =>
    let p (e : Nat) : FV := (t.value r.ftz (half e a)).mul (t.value r.ftz (half e b))
    BitVec.ofNat 32 (r.to .f32 l 0 (((p 0).add r.mode (p 1)).add r.mode (FFmt.f32.value r.ftz c.toNat)))) s

/-! ## Conversions (13 R288-R291) -/

def execCvt (src : TyCode) (o : OpA) (s : State) : Host.Outcome State Fault Refusal :=
  let t := Forms.cvt.effTy (.a o)
  execRounded Forms.cvt src.code.toNat o (fun r l a _ _ => convert src t r.mode (drawOf r.seed l 0) r.sat r.ftz a) s

/-- A number with the element of width `w` at index `k` replaced. -/
def putElem (r w k x : Nat) : Nat :=
  r - (r / 2 ^ (w * k) % 2 ^ w) * 2 ^ (w * k) + (x % 2 ^ w) * 2 ^ (w * k)

/-- CVTPK of one lane (13 R289). -/
def cvtpk (f : EFmt) (r : Rnd) (k l : Nat) (a b c : Word) : Word :=
  let el (e : Nat) (x : Word) : Nat := elemOf f r.mode (drawOf r.seed l e) r.sat r.ftz (FFmt.f32.value r.ftz x.toNat)
  let d := putElem (putElem c.toNat f.bits k (el k a)) f.bits (k + 1) (el (k + 1) b)
  BitVec.ofNat 32 (if f.bits = 6 then d % 2 ^ 24 else d)

def execCvtpk (f : EFmt) (o : OpA) (s : State) : Host.Outcome State Fault Refusal :=
  execRounded Forms.cvtpk f.code o (fun r l a b c => cvtpk f r o.imm.toNat l a b c) s

/-- CVTWD of one lane (13 R290): exact; a subnormal element is flushed under !ftz. -/
def cvtwd (f : EFmt) (ftz : Bool) (k : Nat) (a : Word) : Word :=
  BitVec.ofNat 32 (toF32 ftz (elemValue f ftz (a.toNat / 2 ^ (f.bits * k) % 2 ^ f.bits)))

def execCvtwd (f : EFmt) (o : OpA) (s : State) : Host.Outcome State Fault Refusal :=
  execAlu Forms.cvtwd f.code o (fun _ a _ _ => cvtwd f (ftzOf o.pfx) o.imm.toNat a) s

/-- The value of an E8M0 scale (10 R226). -/
def e8m0 (n : Nat) : FV := if n % 256 = 255 then .nan else .fin false 1 ((n % 256 : Nat) - 127)

/-- A member of QSCALE, by the value of the scale operand. -/
def execQscale (f : Form) (minor : Nat) (o : OpA) (scale : Bool → Nat → FV) (s : State) : Host.Outcome State Fault Refusal :=
  execRounded f minor o (fun r l a b _ =>
    BitVec.ofNat 32 (r.to .f32 l 0 ((FFmt.f32.value r.ftz a.toNat).mul (scale r.ftz b.toNat)))) s

def execQscaleE8m0 (o : OpA) (s : State) : Host.Outcome State Fault Refusal :=
  execQscale Forms.qscaleE8m0 0 o (fun _ n => e8m0 n) s
def execQscaleE4m3 (o : OpA) (s : State) : Host.Outcome State Fault Refusal :=
  execQscale Forms.qscaleE4m3 1 o (fun z n => FFmt.e4m3.value z (n % 256)) s
def execQscaleF32 (o : OpA) (s : State) : Host.Outcome State Fault Refusal :=
  execQscale Forms.qscaleF32 2 o (fun z n => FFmt.f32.value z n) s
def execQscaleF16 (o : OpA) (s : State) : Host.Outcome State Fault Refusal :=
  execQscale Forms.qscaleF16 3 o (fun z n => FFmt.f16.value z (n % 65536)) s

/-! ## Reductions and scans (10 R243, R244, 13 R293, R294) -/

/-- The combinations. -/
inductive Comb where
  | add | min | max | and | or | xor
  deriving DecidableEq, Repr

/-- One combination of the tree, in a TYPE, with the draw of its place. -/
def Comb.op (k : Comb) (t : TyCode) (r : Rnd) (draw : Nat) (a b : Word) : Word :=
  match k with
  | .add =>
    if t.isFloat then BitVec.ofNat 32 (FFmt.f32.round r.mode draw r.sat r.ftz
      ((FFmt.f32.value r.ftz a.toNat).add r.mode (FFmt.f32.value r.ftz b.toNat)))
    else narrow t.isSigned r.sat (asInt t.isSigned a + asInt t.isSigned b)
  | .min =>
    if t.isFloat then BitVec.ofNat 32 (fminmax .f32 r.ftz false a.toNat b.toNat)
    else if asInt t.isSigned a ≤ asInt t.isSigned b then a else b
  | .max =>
    if t.isFloat then BitVec.ofNat 32 (fminmax .f32 r.ftz true a.toNat b.toNat)
    else if asInt t.isSigned a ≤ asInt t.isSigned b then b else a
  | .and => Logic.and.word a b
  | .or => Logic.or.word a b
  | .xor => Logic.xor.word a b

/-- The result of the subtree of `2^d` lanes from lane `j` (10 R243). -/
def treeOf (op : Nat → Nat → Word → Word → Word) (leaf : Nat → Option Word) : Nat → Nat → Option Word
  | 0, j => leaf j
  | d + 1, j =>
    match treeOf op leaf d j, treeOf op leaf d (j + 2 ^ d) with
    | some a, some b => some (op (d + 1) j a b)
    | some a, none => some a
    | none, b => b

/-- The reduction over the lanes of a mask, and the poison of the lowest poisoned one. -/
def State.reduce (s : State) (g : Group) (f : Form) (k : Comb) (o : OpA) (lanes : BitVec 32) : Option Val :=
  let r := g.rndOf o
  let src (l : Nat) : Val := s.source g f 0 (.a o) 2 l
  match treeOf (fun d j => k.op (f.effTy (.a o)) r (drawOf r.seed j d))
      (fun l => if lanes.getLsbD l then some (src l).bits else none) 5 0 with
  | some w => some ⟨w, (lanesOf lanes).findSome? (fun l => (src l).psn)⟩
  | none => none

/-- RED: one result in every executing lane; SCAN: lane i's result over the executing lanes up to i. -/
def execReduce (f : Form) (k : Comb) (scan : Bool) (o : OpA) (s : State) : Host.Outcome State Fault Refusal :=
  onGroup s (fun g =>
    match s.writeLanes g o.dst (fun l =>
        match s.reduce g f k o (if scan then s.cur.lanes &&& BitVec.ofNat 32 (2 ^ (l + 1) - 1) else s.cur.lanes) with
        | some x => [x]
        | none => []) with
    | .ok h => .ok (h.advanceSeed o.pfx o.rnd s.cur.lanes)
    | .error t => .error t)

def execRedAdd (o : OpA) (s : State) : Host.Outcome State Fault Refusal := execReduce Forms.redAdd .add false o s
def execRedMin (o : OpA) (s : State) : Host.Outcome State Fault Refusal := execReduce Forms.redMin .min false o s
def execRedMax (o : OpA) (s : State) : Host.Outcome State Fault Refusal := execReduce Forms.redMax .max false o s
def execRedAnd (o : OpA) (s : State) : Host.Outcome State Fault Refusal := execReduce Forms.redAnd .and false o s
def execRedOr (o : OpA) (s : State) : Host.Outcome State Fault Refusal := execReduce Forms.redOr .or false o s
def execRedXor (o : OpA) (s : State) : Host.Outcome State Fault Refusal := execReduce Forms.redXor .xor false o s
def execScanAdd (o : OpA) (s : State) : Host.Outcome State Fault Refusal := execReduce Forms.scanAdd .add true o s
def execScanMin (o : OpA) (s : State) : Host.Outcome State Fault Refusal := execReduce Forms.scanMin .min true o s
def execScanMax (o : OpA) (s : State) : Host.Outcome State Fault Refusal := execReduce Forms.scanMax .max true o s
def execScanAnd (o : OpA) (s : State) : Host.Outcome State Fault Refusal := execReduce Forms.scanAnd .and true o s
def execScanOr (o : OpA) (s : State) : Host.Outcome State Fault Refusal := execReduce Forms.scanOr .or true o s
def execScanXor (o : OpA) (s : State) : Host.Outcome State Fault Refusal := execReduce Forms.scanXor .xor true o s

end Sys2Proof.Machine
end

