-- ==== Sys2Proof/Machine/LoadStore.lean ====
section
/-! DEFINITION. Memory instructions: what each checks and consumes when it issues, and the requests it hands to the core's memory unit (spec 14,
12 R277). Requests are performed by the events of MemEvents. -/

namespace Sys2Proof.Machine

open Sys2Proof

/-! ## What every form takes from its operands -/

/-- Bytes that a lane moves (14 R296). -/
def memBytes (f : Form) (o : OpM) : Nat :=
  let t := f.effTy (.m o)
  if t.bytes = 4 then 4 * (o.glen.toNat + 1) else t.bytes

/-- Registers of the data group. -/
def memRegs (f : Form) (o : OpM) : Nat := (memBytes f o + 3) / 4

/-- The record of a memory operand. -/
def Group.brecAt (g : Group) (n : Nat) : Brec := Brec.of (g.bAt n)

/-- Lane and index, for each lane of a list. -/
def State.idxs (s : State) (g : Group) (o : OpM) (lanes : List Nat) : List (Nat × Nat) :=
  lanes.map (fun l => (l, ((s.index g o l).bits + memImm o).toNat))

/-- The bytes that a lane stores: the low bytes of its data group (14 R296). -/
def State.dataOf (s : State) (g : Group) (x : Sel) (n l : Nat) : List Byte :=
  ((List.range ((n + 3) / 4)).flatMap (fun i => leBytes 4 (s.readSel g x i l).bits.toNat)).take n

/-- The first poison that a lane's index, data or further operand holds (14 R298). -/
def State.memPoison (s : State) (g : Group) (o : OpM) (regs : Nat) (lanes : List Nat) : Option Nat :=
  lanes.findSome? (fun l =>
    (s.index g o l).psn <|> ((List.range regs).findSome? (fun i => (s.readSel g o.data i l).psn)) <|> (s.readSel g o.aux 0 l).psn)

/-- The lanes that hold it. -/
def State.poisoned (s : State) (g : Group) (o : OpM) (regs : Nat) (lanes : List Nat) : List Nat :=
  lanes.filter (fun l => (s.memPoison g o regs [l]).isSome)

/-- The trap of the check that decides: the lanes that fail that check raise it. -/
def State.badTrap (s : State) (bads : List Bad) (b : Bad) : Trap :=
  s.trapIn ((bads.filter (fun x => x.order == b.order)).map (·.lane)) b.cause b.addr

/-- The trap of an access: the lanes of the accesses that meet the condition raise it. -/
def State.accTrap (s : State) (accs : List Acc) (p : Acc → Bool) (cause : Nat) (addr : DWord) : Trap :=
  s.trapIn ((accs.filter p).map (·.lane)) cause addr

/-- The first failed translation of a list of accesses that write: it traps (14 R298). -/
def failedAcc (l : List Acc) : Option (Nat × DWord) := l.findSome? (fun a => match a.fail with | some c => some (c, a.ga) | none => none)

/-- The access with the lowest generic address among those that satisfy a condition. -/
def lowestAcc (l : List Acc) (p : Acc → Bool) : Option Acc :=
  (l.filter p).foldl (fun m a => match m with | none => some a | some b => if a.ga < b.ga then some a else some b) none

/-- The generic addresses of an access: its own bytes, and those of its scale. -/
def Acc.gaSpans (a : Acc) : List (DWord × Nat) := (a.ga, a.n) :: match a.scale with | some (_, n) => [(a.sga, n)] | none => []

/-- The segments of 256 bytes that a span touches. -/
def segments (a n : Nat) : List Nat := if a / 256 = (a + n - 1) / 256 then [a / 256] else [a / 256, (a + n - 1) / 256]

/-- Lines of 256 bytes that the virtual accesses touch (04 R89). -/
def linesOf (l : List Acc) : Nat :=
  (((l.filter (fun a => a.st == .todo && field a.ga.toNat 63 60 == 0)).flatMap Acc.gaSpans).flatMap (fun x => segments x.1.toNat x.2)).eraseDups.length

/-- The lanes of a list of accesses. -/
def accLanes (l : List Acc) : BitVec 32 := maskOf (fun i => l.any (fun a => a.lane == i))

/-- Is a group a stage group (07 R178, R181)? -/
def State.isStage (s : State) (g : Group) : Bool :=
  match g.graph.bind s.graphs.find?, g.node with
  | some gr, some n => match gr.nodes[n]? with | some x => x.stages != [] | none => false
  | _, _ => false

/-- Are the writes of a stage group private: through b15, or to words of its block's own reservation (07 R181)? -/
def privateAcc (core : Nat) (b : Block) (brec : Nat) (a : Acc) : Bool :=
  a.st != .todo || brec == 15 || (isSram a.loc && sramCore a.loc == core && b.gran0 * 4096 ≤ sramOff a.loc
    && sramOff a.loc < (b.gran0 + b.grans) * 4096)

/-! ## Handing requests to the memory unit -/

/-- The twin pair of a group, and whether it is the leading copy (16 R360). -/
def State.twinOf (s : State) (key : Nat) : Option (Nat × Bool) := (s.group? key).bind (·.twin)

/-- An instruction of a copy waits for its comparison (16 R360). -/
def State.pushTwin (s : State) (t : Nat) (lead : Bool) (e : TwinEntry) : State :=
  { s with twins := s.twins.update t (fun x => if lead then { x with lq := x.lq ++ [e] } else { x with tq := x.tq ++ [e] }) }.addDue [.twin t]

/-- What a signature holds of the accesses of a request: each lane's address, byte mask and data (16 R360). -/
def accSig (l : List Acc) : List Nat := l.flatMap (fun a => [a.lane, a.ga.toNat, a.n, leNat a.data, leNat a.cmp])

/-- Is a request compared in a twin launch, and does it give a result (16 R360)? -/
def Req.compared (r : Req) : Option Bool :=
  match r.kind with | .store | .fill => some false | .atom _ | .cas | .empty => some true | _ => none

/-- A request of an instruction of a copy waits for its comparison: the instruction's form and executing lanes, and the accesses of all its requests, are
one signature. -/
def State.pushReq (s : State) (t : Nat) (lead : Bool) (r : Req) (result : Bool) (sig : List Nat) : State :=
  let one : TwinEntry := { sig := s.cur.form :: s.cur.lanes.toNat :: sig, op := .req [r.id] result, inst := s.free + 1, wait := r.kind == .ldwe }
  let add (q : List TwinEntry) : List TwinEntry :=
    match q.getLast? with
    | some e => (match e.inst == s.free + 1, e.op with
      | true, .req ids w => q.dropLast ++ [{ e with sig := e.sig ++ sig, op := .req (ids ++ [r.id]) w }]
      | _, _ => q ++ [one])
    | none => [one]
  { s with twins := s.twins.update t (fun x => if lead then { x with lq := add x.lq } else { x with tq := add x.tq }) }.addDue [.twin t]

/-- An instruction with results reached by a copy, once however many requests it makes. -/
def Twin.take (t : Twin) (lead : Bool) (inst : Nat) : Twin :=
  if lead then (if t.lastL = inst then t else { t with takenL := t.takenL + 1, lastL := inst })
  else if t.lastT = inst then t else { t with takenT := t.takenT + 1, lastT := inst }

/-- The place in the log of the instruction that a copy has come to. -/
def Twin.at_ (t : Twin) (lead : Bool) : Nat := (if lead then t.takenL else t.takenT) - 1

/-- An access takes its lane's logged result; the value of a lane that the log does not hold is left open (log 28). -/
def Acc.takeRes (free : Nat) (l : List LaneRes) (a : Acc) : Acc :=
  if a.st == .todo || a.st == .sleep then
    match l.find? (fun x => x.lane == a.lane) with
    | some x => { a with st := .done, res := x.res, fail := x.fail }
    | none => { a with st := .done, res := leBytes a.n (Config.word free (64 * 32 + a.lane)).toNat }
  else a

/-- The answer that a request with all its results awaits. -/
def Req.answer (core : Nat) (r : Req) : Work := match r.kind with | .empty | .ldwe => .answer core r.id | _ => .reply core r.id

/-- A request of a rerun takes its results from the log; while they are not there it waits for them (16 R361). -/
def State.fromLog (s : State) (core t : Nat) (lead : Bool) (k : Nat) (y : TwinLog) (r : Req) : State :=
  let c := s.core core
  match y.res with
  | some l => (s.putCore core { c with reqs := c.reqs ++ [{ r with accs := r.accs.map (Acc.takeRes s.free l), st := .done }] }).addDue [r.answer core]
  | none =>
    { s.putCore core { c with reqs := c.reqs ++ [{ r with st := .held }] } with
      twins := s.twins.update t (fun x => { x with takers := x.takers ++ [(lead, r.id, k)] }) }

/-- A twin copy's request: within the log of a rerun it takes the logged result, else it is held for its comparison (16 R360, R361). -/
def State.addTwin (s : State) (core : Nat) (t : Nat) (lead result : Bool) (r : Req) : State :=
  match s.twins.find? t with
  | none => s
  | some x =>
    let hold (s : State) : State :=
      let c := s.core core
      (s.putCore core { c with reqs := c.reqs ++ [{ r with st := .held }] }).pushReq t lead r result (accSig r.accs)
    if !result then hold s
    else
      let x := x.take lead (s.free + 1)
      let s : State := { s with twins := s.twins.put t x }
      match x.log[x.at_ lead]? with
      | some y => s.fromLog core t lead (x.at_ lead) y r
      | none => hold s

/-- A twin copy's LDW.E: in a rerun the lanes whose empty word the log's next entry answered take its results; the words of the others are found in turn,
and those found empty are then compared (16 R360, R361). -/
def State.addLdwe (s : State) (core : Nat) (t : Nat) (lead : Bool) (r : Req) : State :=
  match s.twins.find? t with
  | none => s
  | some x =>
    let own (s : State) (r : Req) : State :=
      let c := s.core core
      ((s.putCore core { c with reqs := c.reqs ++ [r] }).pushReq t lead r true []).addDue [.serve core r.id]
    let y := x.take lead (s.free + 1)
    match y.log[y.at_ lead]? with
    | some e =>
      if e.ldwe && e.pc == r.pc then
        let mine := r.accs.filter (fun a => e.lanes.getLsbD a.lane)
        let rest := r.accs.filter (fun a => !e.lanes.getLsbD a.lane)
        let s := ({ s with twins := s.twins.put t y } : State).fromLog core t lead (y.at_ lead) e { r with accs := mine, lanes := accLanes mine }
        if rest = [] then s else own { s with uid := s.uid + 1 } { r with id := s.uid, accs := rest, lanes := accLanes rest }
      else own s r
    | none => own s r

/-- A request put in the core's memory unit: it is served in its turn; with nothing left to perform, it is answered. -/
def State.addReq (s : State) (core : Nat) (r : Req) : State :=
  let wrote : List (Nat × Nat) := (r.accs.filter (fun (a : Acc) => a.st == .todo)).map (fun (a : Acc) => (a.loc, a.n))
  let s : State := match r.kind with
    | .store | .fill | .atom _ | .cas | .empty => s.noteWrote r.key wrote
    | _ => s
  let id := s.uid
  let c := s.core core
  let n := linesOf r.accs
  let open_ := r.accs.any (fun a => a.st == .todo)
  let fence := match r.kind with | .fence _ _ => true | .tretw => true | _ => false
  let s := { s with uid := id + 1 }
  if !open_ && !fence then
    (s.putCore core { c with reqs := c.reqs ++ [{ r with id, st := .done }] }).addDue [.reply core id]
  else match s.twinOf r.key, r.compared with
    | some (t, lead), some result => s.addTwin core t lead result { r with id, miss := n }
    | tw, _ =>
      match tw, r.kind with
      | some (t, lead), .ldwe => s.addLdwe core t lead { r with id, miss := n }
      | _, _ => (s.putCore core { c with reqs := c.reqs ++ [{ r with id, miss := n }], clinereq := (c.clinereq + n) % 2 ^ 64 }).addDue
        [match r.kind with | .atom _ => .perform core id | .cas => .perform core id | _ => .serve core id]

/-- Registers of a destination are outstanding in the lanes of a mask (08 R201). -/
def Group.addPend (g : Group) (lanes : BitVec 32) (regs : List Nat) : Group :=
  g.onLanes lanes (fun _ x => { x with pend := x.pend ++ regs })

/-- A lane's destinations poisoned: the value is left open (log 4); of a uniform one it is one for a view (03 R69). -/
def State.poisonLane (s : State) (g : Group) (d : Sel) (regs l psn : Nat) : Group :=
  let j := if isUniform d then (g.lane l).view else l
  g.writeAll d l ((List.range regs).map (fun i => ⟨Config.word s.free (64 * j + i), some psn⟩))

/-- The request fields common to every form. -/
def State.reqOf (s : State) (g : Group) (b : Block) (kind : MKind) (accs : List Acc) : Req :=
  { id := 0, key := s.cur.key, blk := g.blk, region := b.region, launch := b.launch, nbh := b.nbhId, pc := s.cur.pc, kind, lanes := accLanes accs, accs }

/-- A form that reads (14 R298, R300, R301): `once` for LDU. An LDA at .thr is a relaxed atomic (14 R297); a full/empty form is an acquire at every scope. -/
def execRead (f : Form) (o : OpM) (kind : MKind) (acq fe once : Bool) (s : State) : Host.Outcome State Fault Refusal :=
  onState s (fun g t =>
    match t.block? g.blk with
    | none => .ok t
    | some b =>
      let n := if kind == .feget then 4 else memBytes f o
      let regs := if kind == .feget then 1 else memRegs f o
      let all := lanesOf s.cur.lanes
      let acting := if once then all.take 1 else all
      let psn (l : Nat) : Option Nat := (s.index g o l).psn
      let (bads, accs, t) := t.formAccs s.cur.core b (g.brecAt o.brec.toNat) ((g.brecAt o.brec.toNat).oobf == 1) .read fe n
        (s.idxs g o (acting.filter (fun l => (psn l).isNone)))
      match worstBad bads with
      | some x => .error (s.badTrap bads x)
      | none =>
        match accs.find? (fun a => a.fail == some Cause.memunc) with
        | some a => .error (s.accTrap accs (fun a => a.fail == some Cause.memunc) Cause.memunc a.ga)
        | none =>
          match s.viewsFor g o.data with
          | .error e => .error e
          | .ok g =>
            let hit := all.filter (fun l => (psn (if once then acting.headD 0 else l)).isSome)
            let g := hit.foldl (fun g l =>
              match psn (if once then acting.headD 0 else l) with
              | some p => s.poisonLane g o.data regs l p
              | none => g) g
            if accs = [] then .ok (t.setCur g)
            else
              let r := { s.reqOf g b kind accs with
                ty := f.effTy (.m o), scope := o.scope.toNat, acq := acq && (fe || o.scope != 0), relaxed := acq && !fe && o.scope == 0, rem := o.rem, dst := o.data, once }
              let r := if once then { r with lanes := s.cur.lanes } else r
              .ok ((t.setCur (g.addPend r.lanes (regsOf o.data regs))).addReq s.cur.core r))

def execLd (o : OpM) (s : State) : Host.Outcome State Fault Refusal := execRead Forms.ld o .load false false false s
def execLda (o : OpM) (s : State) : Host.Outcome State Fault Refusal := execRead Forms.lda o .load true false false s
def execLdu (o : OpM) (s : State) : Host.Outcome State Fault Refusal := execRead Forms.ldu o .load false false true s
def execFeget (o : OpM) (s : State) : Host.Outcome State Fault Refusal := execRead Forms.feget o .feget false true false s

/-! ## LEA (12 R277) -/

/-- Addresses only: check 1 of 04 R88, whose trap names the lowest lane's address, the pair, and inb to the predicate. -/
def execLea (o : OpM) (s : State) : Host.Outcome State Fault Refusal :=
  onGroup s (fun g =>
    let r := g.brecAt o.brec.toNat
    if s.cur.lanes == 0 then .ok g
    else if r.res ≠ 0 then
      .error (s.trapOf Cause.illegal (((lowest s.cur.lanes).map (fun l => (r.addr 1 ((s.index g o l).bits + memImm o).toNat).1)).getD 0))
    else
      let at_ (l : Nat) : (DWord × Bool) × Option Nat :=
        (r.addr (2 ^ r.esz.toNat) ((s.index g o l).bits + memImm o).toNat, (s.index g o l).psn)
      match s.writeLanes g o.data (fun l => pairVals (at_ l).1.1 [(at_ l).2]) with
      | .ok h => s.writeLanes h o.aux (fun l => [Val.with (truth (at_ l).1.2) [(at_ l).2]])
      | .error e => .error e)

/-! ## LDFMT (14 R302, 04 R105) -/

/-- Is a virtual address in canonical form (04 R82)? -/
def canonical (a : Nat) : Bool := field a 59 47 == 0 || field a 59 47 == 2 ^ 13 - 1

/-- An address of a formatted region: a base and an offset, modulo 2^60 (04 R86). -/
def fmtAddr (base : DWord) (off : Nat) : DWord := base.extractLsb' 60 4 ++ BitVec.ofNat 60 ((base.extractLsb' 0 60).toNat + off)

/-- What is wrong with a lane of a formatted load before its translation (04 R88, rows 1 to 7, 14 R302): the lane's address is that of 04 R86. -/
def State.fmtCheck (s : State) (b : Block) (r : Brec) (l idx : Nat) : Option Bad :=
  let a := (r.addr 1 idx).1
  let tag := field a.toNat 63 60
  let bad (o c : Nat) (x : DWord) : Option Bad := some { order := o, lane := l, cause := c, addr := x }
  if r.res ≠ 0 then bad 1 Cause.illegal a
  else if !(idx < r.extent.toNat) then (if r.oobf = 1 then bad 2 (Cause.bounds .read) (BitVec.ofNat 64 idx) else none)
  else if r.base.toNat % 256 ≠ 0 then bad 3 (Cause.align .read) a
  else if tag ≠ 0 && tag ≠ 8 && tag ≠ 9 then bad 4 (Cause.tag .read) a
  else if !(if tag = 0 then canonical a.toNat else field a.toNat 59 (if tag = 8 then 26 else 30) = 0) then bad 5 (Cause.addrform .read) a
  else if tag ≠ 0 && (s.scratch b a).isNone then bad 6 (if tag = 8 then Cause.window .read else Cause.global .read) a
  else if tag ≠ 0 || r.stride ≠ 0 || r.swz ≠ 0 || r.esz ≠ 0 then bad 7 (Cause.format .read) a
  else none

/-- One lane of a formatted load from a base: its element and scale, translated; ADDRFORM where an address leaves the canonical range, FORMAT where
pages differ. -/
def State.fmtAcc (s : State) (core : Nat) (b : Block) (base : DWord) (code : Nat) (l idx : Nat) : Except Bad Acc × State :=
  let root := s.rootOf b.launch
  let (bit, sc) := fmtPos code idx
  let first := fmtAddr base (bit / 8)
  let n := (bit % 8 + fmtBits code + 7) / 8
  let last := fmtAddr base (bit / 8 + n - 1)
  let bad (o c : Nat) : Except Bad Acc := .error { order := o, lane := l, cause := c, addr := first }
  -- a second place: the scale, or the last byte of an element that crosses a page
  let second : Option (DWord × Nat) := match sc with
    | some (off, sb) => some (fmtAddr base off, sb)
    | none => if first.toNat % 4096 + n ≤ 4096 then none else some (last, 1)
  let n := if sc.isNone && second.isSome then n - 1 else n
  if !(canonical first.toNat && canonical last.toNat && second.all (fun x => canonical x.1.toNat)) then (bad 5 (Cause.addrform .read), s)
  else match s.translate core root first.toNat .read with
    | (.error c, t) => (.ok { lane := l, ga := first, loc := 0, n, st := .done, fail := some c }, t)
    | (.ok x, t) =>
      if x.format != code then (bad 7 (Cause.format .read), t)
      else
        let acc : Acc := { lane := l, ga := first, loc := x.loc, n, fmt := code, bit := bit % 8 }
        match second with
        | none => (.ok acc, t)
        | some (a, k) =>
          match t.translate core root a.toNat .read with
          | (.error c, u) => (.ok { acc with st := .done, fail := some c }, u)
          | (.ok y, u) => if y.format != code then (bad 7 (Cause.format .read), u) else (.ok { acc with sga := a, scale := some (y.loc, k) }, u)

/-- LDFMT: every lane checked, the page of BASE gives the format, then each lane's element; its draws are those of the seed as it issues (10 R234). -/
def execLdfmt (o : OpM) (s : State) : Host.Outcome State Fault Refusal :=
  onState s (fun g t =>
    match t.block? g.blk with
    | none => .ok t
    | some b =>
      let r := g.brecAt o.brec.toNat
      let all := lanesOf s.cur.lanes
      let at_ := s.idxs g o (all.filter (fun l => (s.index g o l).psn.isNone))
      let inb := at_.filter (fun x => x.2 < r.extent.toNat)
      let bads := at_.filterMap (fun x => t.fmtCheck b r x.1 x.2)
      match worstBad bads with
      | some x => .error (s.badTrap bads x)
      | none =>
        let skips : List Acc := (at_.filter (fun x => !(x.2 < r.extent.toNat))).map (fun x =>
          { lane := x.1, ga := 0, loc := 0, n := 4, st := .skip, res := [0, 0, 0, 0] })
        let (hd, t) : Except Nat (Option Nat) × State :=
          if inb = [] then (.ok none, t)
          else match t.translate s.cur.core (t.rootOf b.launch) r.base.toNat .read with
            | (.ok x, t) => (.ok (some x.format), t)
            | (.error c, t) => (.error c, t)
        let (bads, accs, t) : List Bad × List Acc × State :=
          match hd with
          | .ok none => ([], [], t)
          | .ok (some code) =>
            if code = 0 then (inb.map (fun x => { order := 7, lane := x.1, cause := Cause.format .read, addr := r.base }), [], t)
            else inb.foldl (fun p x =>
              match p.2.2.fmtAcc s.cur.core b r.base code x.1 x.2 with
              | (.ok a, u) => (p.1, p.2.1 ++ [a], u)
              | (.error e, u) => (p.1 ++ [e], p.2.1, u)) ([], [], t)
          | .error c => ([], inb.map (fun x => { lane := x.1, ga := r.base, loc := 0, n := 4, st := .done, fail := some c }), t)
        match worstBad bads with
        | some x => .error (s.badTrap bads x)
        | none =>
          match accs.find? (fun a => a.fail == some Cause.memunc) with
          | some a => .error (s.accTrap accs (fun a => a.fail == some Cause.memunc) Cause.memunc a.ga)
          | none =>
            let z := g.seedAt (seedOf o.pfx)
            let accs := (accs ++ skips).map (fun a => { a with cmp := leBytes 3 (drawOf z a.lane 0) })
            let g := all.foldl (fun g l => match (s.index g o l).psn with | some p => s.poisonLane g o.data 1 l p | none => g) g
            let g := g.advanceSeed o.pfx 0 s.cur.lanes
            if accs = [] then .ok (t.setCur g)
            else
              let mode := match o.pfx with | some p => p.rnd.toNat | none => 0
              let sat := match o.pfx with | some p => p.sat == 2 | none => false
              let r := { s.reqOf g b (.fmt mode sat (ftzOf o.pfx)) accs with ty := Forms.ldfmt.effTy (.m o), dst := o.data }
              .ok ((t.setCur (g.addPend r.lanes (regsOf o.data 1))).addReq s.cur.core r))

/-! ## Stores (14 R298, R300, R301, R303) -/

/-- The release scope of a lane's relaxed atomic write to a place: the widest of the release fences before it whose effect the place has not taken
(05 R119). -/
def Lane.fenced (x : Lane) (loc : Nat) : Option Nat :=
  x.fences.foldl (fun m f => if f.2.contains loc then m else some (max f.1 (m.getD 0))) none

/-- The place has taken the effect of every fence so far. -/
def Lane.takeFences (x : Lane) (loc : Nat) : Lane :=
  { x with fences := x.fences.map (fun f => if f.2.contains loc then f else (f.1, f.2 ++ [loc])) }

/-- The effect taken at a scope by a write that then did not take place is given back (14 R297). -/
def Lane.giveFences (x : Lane) (loc scope : Nat) : Lane :=
  { x with fences := x.fences.map (fun f => if f.1 ≤ scope then (f.1, f.2.filter (· != loc)) else f) }

/-- A release fence: it stands for the older ones of its scope or a narrower one. -/
def Lane.addFence (x : Lane) (scope : Nat) : Lane := { x with fences := (scope, []) :: x.fences.filter (fun f => scope < f.1) }

/-- Accesses of an atomic write given their release scope: the form's own, or that of a fence; and the fences' effects taken. -/
def withRel (g : Group) (own : Option Nat) (accs : List Acc) : List Acc × Group :=
  accs.foldl (fun p a =>
    if a.st != .todo then (p.1 ++ [a], p.2)
    else match own with
      | some sc => (p.1 ++ [{ a with rel := some sc }], p.2)
      | none => (p.1 ++ [{ a with rel := (p.2.lane a.lane).fenced a.loc }], p.2.setLane a.lane ((p.2.lane a.lane).takeFences a.loc))) ([], g)

/-- ST, STR, STU and FILL: `own` the release scope of the form, `atomic` whether it is an atomic write. -/
def execWrite (f : Form) (o : OpM) (kind : MKind) (own : Option Nat) (atomic once : Bool) (s : State) : Host.Outcome State Fault Refusal :=
  onState s (fun g t =>
    match t.block? g.blk with
    | none => .ok t
    | some b =>
      let n := memBytes f o
      let all := if once then (lanesOf s.cur.lanes).take 1 else lanesOf s.cur.lanes
      match s.memPoison g o (memRegs f o) all with
      | some p => .error (s.consumedIn g (s.poisoned g o (memRegs f o) all) p)
      | none =>
        let (bads, accs, t) := t.formAccs s.cur.core b (g.brecAt o.brec.toNat) ((g.brecAt o.brec.toNat).oobf == 1) .write (kind == .fill) n
          (s.idxs g o all)
        match worstBad bads with
        | some x => .error (s.badTrap bads x)
        | none =>
          match failedAcc accs with
          | some (c, a) => .error (s.accTrap accs (·.fail.isSome) c a)
          | none =>
            if s.isStage g && !accs.all (privateAcc s.cur.core b o.brec.toNat) then .error (s.trapOf Cause.stagefx)
            else
              let accs := (accs.filter (fun a => a.st == .todo)).map (fun a => { a with data := s.dataOf g o.data n a.lane })
              let (accs, g) := if atomic then withRel g own accs else (accs, g)
              if accs = [] then .ok (t.setCur g)
              else .ok ((t.setCur g).addReq s.cur.core { s.reqOf g b kind accs with
                ty := f.effTy (.m o), scope := o.scope.toNat, relaxedW := atomic && own.isNone }))

def execSt (o : OpM) (s : State) : Host.Outcome State Fault Refusal := execWrite Forms.st o .store none false false s
def execStr (o : OpM) (s : State) : Host.Outcome State Fault Refusal :=
  execWrite Forms.str o .store (if o.scope = 0 then none else some o.scope.toNat) true false s
def execStu (o : OpM) (s : State) : Host.Outcome State Fault Refusal := execWrite Forms.stu o .store none false true s
def execFill (o : OpM) (s : State) : Host.Outcome State Fault Refusal := execWrite Forms.fill o .fill (some o.scope.toNat) true false s

/-! ## Atomics (14 R305-R308) -/

/-- The unit that performs an access: a line of virtual memory, or a scratchpad slice. -/
def unitOf (a : Acc) : Nat := if isSram a.loc then 2 ^ 60 + sramCore a.loc else a.ga.toNat / 256

/-- The accesses of an atomic, one request for each performing unit, numbered consecutively (14 R308). -/
def splitUnits : List Acc → List (List Acc)
  | [] => []
  | a :: l =>
    let rest := splitUnits l
    if rest.any (fun x => match x with | b :: _ => unitOf b == unitOf a | [] => false) then
      rest.map (fun x => match x with | b :: _ => if unitOf b == unitOf a then a :: x else x | [] => x)
    else [a] :: rest

/-- The requests of an atomic put in the memory unit. -/
def State.addAtomics (s : State) (core : Nat) (r : Req) (accs : List Acc) : State :=
  (splitUnits accs).foldl (fun s l =>
    let c := s.core core
    (s.putCore core { c with aseq := (c.aseq + 1) % 4096 }).addReq core { r with accs := l, lanes := accLanes l, seq := some c.aseq, sentAt := s.now }) s

/-- Is an access to be made to scratchpad denied to the region of a block? -/
def State.deniedTo (s : State) (b : Block) (a : Acc) : Bool := a.st == .todo && s.denied b.region a.loc

/-- The first denied scratchpad access: the lowest denied address (14 R303, R305). -/
def State.deniedAcc (s : State) (b : Block) (accs : List Acc) : Option Acc := lowestAcc accs (s.deniedTo b)

/-- ATOM, ATOMN, CAS and EMPTY: `dst` the register that takes the old value, `arg` the operand, `cmp` the comparand. -/
def execRmw (f : Form) (o : OpM) (kind : MKind) (dst : Bool) (arg cmp : Sel) (acqrel fe stage : Bool) (s : State) :
    Host.Outcome State Fault Refusal :=
  onState s (fun g t =>
    match t.block? g.blk with
    | none => .ok t
    | some b =>
      let n := memBytes f o
      let all := lanesOf s.cur.lanes
      let regs := if dst && arg != o.data then 0 else 1
      match s.memPoison g o regs all with
      | some p => .error (s.consumedIn g (s.poisoned g o regs all) p)
      | none =>
        let (bads, accs, t) := t.formAccs s.cur.core b (g.brecAt o.brec.toNat) ((g.brecAt o.brec.toNat).oobf == 1) .rmw fe n (s.idxs g o all)
        match worstBad bads with
        | some x => .error (s.badTrap bads x)
        | none =>
          match failedAcc accs with
          | some (c, a) => .error (s.accTrap accs (·.fail.isSome) c a)
          | none =>
            match t.deniedAcc b accs with
            | some a => .error (s.accTrap accs (t.deniedTo b) (Cause.global .rmw) a.ga)
            | none =>
              if s.isStage g && s.cur.lanes != 0 && (stage || (kind == .empty && !accs.all (privateAcc s.cur.core b o.brec.toNat))) then
                .error (s.trapOf Cause.stagefx)
              else
                let todo := (accs.filter (fun a => a.st == .todo)).map (fun a =>
                  { a with data := s.dataOf g arg n a.lane, cmp := s.dataOf g cmp n a.lane })
                let skip := accs.filter (fun a => a.st == .skip)
                let (todo, g) := withRel g (if acqrel && o.scope != 0 then some o.scope.toNat else none) todo
                let r := { s.reqOf g b kind [] with
                  ty := f.effTy (.m o), scope := o.scope.toNat, acq := acqrel && o.scope != 0, relaxed := !acqrel || o.scope == 0,
                  relaxedW := !acqrel || o.scope == 0, rem := o.rem, dst := if dst then o.data else .none }
                let t := t.setCur (if dst then g.addPend (accLanes (todo ++ skip)) (regsOf o.data 1) else g)
                let t := if skip = [] || !dst then t else t.addReq s.cur.core { r with kind := .load, accs := skip, lanes := accLanes skip, acq := false }
                if todo = [] then .ok t
                else if kind == .empty then .ok (t.addReq s.cur.core { r with accs := todo, lanes := accLanes todo })
                else .ok (t.addAtomics s.cur.core r todo))

/-- Is the TYPE of an atomic floating (07 R181)? -/
def floatRmw (f : Form) (o : OpM) : Bool := (f.effTy (.m o)).isFloat

/-- A member of ATOM. -/
def execAtom (f : Form) (op : AOp) (o : OpM) (s : State) : Host.Outcome State Fault Refusal :=
  execRmw f o (.atom op) true o.aux .none true false (op == .xchg || floatRmw f o) s
/-- A member of ATOMN: its operand stands in DATA. -/
def execAtomn (f : Form) (op : AOp) (o : OpM) (s : State) : Host.Outcome State Fault Refusal :=
  execRmw f o (.atom op) false o.data .none false false (floatRmw f o) s

def execAtomAdd (o : OpM) (s : State) : Host.Outcome State Fault Refusal := execAtom Forms.atomAdd .add o s
def execAtomAnd (o : OpM) (s : State) : Host.Outcome State Fault Refusal := execAtom Forms.atomAnd .and o s
def execAtomOr (o : OpM) (s : State) : Host.Outcome State Fault Refusal := execAtom Forms.atomOr .or o s
def execAtomXor (o : OpM) (s : State) : Host.Outcome State Fault Refusal := execAtom Forms.atomXor .xor o s
def execAtomMin (o : OpM) (s : State) : Host.Outcome State Fault Refusal := execAtom Forms.atomMin .min o s
def execAtomMax (o : OpM) (s : State) : Host.Outcome State Fault Refusal := execAtom Forms.atomMax .max o s
def execAtomXchg (o : OpM) (s : State) : Host.Outcome State Fault Refusal := execAtom Forms.atomXchg .xchg o s
def execCas (o : OpM) (s : State) : Host.Outcome State Fault Refusal :=
  execRmw Forms.cas o .cas true o.data o.aux true false true s
def execAtomnAdd (o : OpM) (s : State) : Host.Outcome State Fault Refusal := execAtomn Forms.atomnAdd .add o s
def execAtomnAnd (o : OpM) (s : State) : Host.Outcome State Fault Refusal := execAtomn Forms.atomnAnd .and o s
def execAtomnOr (o : OpM) (s : State) : Host.Outcome State Fault Refusal := execAtomn Forms.atomnOr .or o s
def execAtomnXor (o : OpM) (s : State) : Host.Outcome State Fault Refusal := execAtomn Forms.atomnXor .xor o s
def execAtomnMin (o : OpM) (s : State) : Host.Outcome State Fault Refusal := execAtomn Forms.atomnMin .min o s
def execAtomnMax (o : OpM) (s : State) : Host.Outcome State Fault Refusal := execAtomn Forms.atomnMax .max o s
def execEmpty (o : OpM) (s : State) : Host.Outcome State Fault Refusal :=
  execRmw Forms.empty o .empty true .none .none true true false s

/-! ## Multicast (14 R303, R304) -/

/-- Accesses of one instruction as requests of at most 64 lines each; what lies in one line stands in one request (04 R89, R91, log 52). -/
def lineBatches (l : List Acc) : List (List Acc) :=
  let segs := ((l.filter (fun a => field a.ga.toNat 63 60 == 0)).map (fun a => a.ga.toNat / 256)).eraseDups
  if segs.length ≤ 64 then [l]
  else (List.range ((segs.length + 63) / 64)).map (fun k => l.filter (fun a =>
    (if field a.ga.toNat 63 60 == 0 then segs.idxOf (a.ga.toNat / 256) / 64 else 0) == k))

/-- STMC and STRED: every lane's accesses in every destination record, checked, translated and probed before any write. -/
def execMulti (f : Form) (o : OpM) (red : Option AOp) (s : State) : Host.Outcome State Fault Refusal :=
  onState s (fun g t =>
    match t.block? g.blk with
    | none => .ok t
    | some b =>
      let n := memBytes f o
      let k : AccKind := if red.isSome then .rmw else .write
      let all := lanesOf s.cur.lanes
      match s.memPoison g o (memRegs f o) all with
      | some p => .error (s.consumedIn g (s.poisoned g o (memRegs f o) all) p)
      | none =>
        let dests := (List.range 16).map (fun j =>
          (j, all.filter (fun l => j == o.brec.toNat || (s.readSel g o.aux 0 l).bits.getLsbD j)))
        let p : List Bad × List (Nat × List Acc) × State := dests.foldl (fun p d =>
          let (bads, accs, t) := p.2.2.formAccs s.cur.core b (g.brecAt d.1) ((g.brecAt d.1).oobf == 1) k false n (s.idxs g o d.2)
          (p.1 ++ bads, p.2.1 ++ [(d.1, accs)], t)) ([], [], t)
        let accs := p.2.1.flatMap (·.2)
        -- the kind of check that comes first, then the lowest failing address or index
        match p.1.foldl (fun (m : Option Bad) x => match m with
            | none => some x
            | some y => if x.order < y.order || (x.order == y.order && x.addr < y.addr) then some x else some y) none with
        | some x => .error (s.badTrap p.1 x)
        | none =>
          match lowestAcc accs (fun a => a.fail.isSome) with
          | some a => .error (s.accTrap accs (·.fail.isSome) (a.fail.getD 0) a.ga)
          | none =>
            match p.2.2.deniedAcc b accs with
            | some a => .error (s.accTrap accs (p.2.2.deniedTo b) (Cause.global k) a.ga)
            | none =>
              if s.isStage g && (match red with
                  | some _ => s.cur.lanes != 0 && floatRmw f o
                  | none => !p.2.1.all (fun d => d.2.all (privateAcc s.cur.core b d.1))) then .error (s.trapOf Cause.stagefx)
              else
                -- one instruction: in ascending lane order, whatever the destination record (04 R89, 14 R304)
                let l : List Acc := ((List.range 32).flatMap (fun k => accs.filter (fun a => a.lane == k && a.st == .todo))).map (fun a =>
                  { a with data := s.dataOf g o.data n a.lane })
                if l = [] then .ok p.2.2
                else match red with
                  | none => .ok ((lineBatches l).foldl (fun (t : State) l => t.addReq s.cur.core { s.reqOf g b .store l with ty := f.effTy (.m o) }) p.2.2)
                  | some op =>
                    let (l, g) := withRel g none l
                    .ok ((lineBatches l).foldl (fun (t : State) l => t.addAtomics s.cur.core
                      { s.reqOf g b (.atom op) [] with ty := f.effTy (.m o), scope := o.scope.toNat, relaxed := true, relaxedW := true } l) (p.2.2.setCur g)))

def execStmc (o : OpM) (s : State) : Host.Outcome State Fault Refusal := execMulti Forms.stmc o none s
def execStredAdd (o : OpM) (s : State) : Host.Outcome State Fault Refusal := execMulti Forms.stredAdd o (some .add) s
def execStredAnd (o : OpM) (s : State) : Host.Outcome State Fault Refusal := execMulti Forms.stredAnd o (some .and) s
def execStredOr (o : OpM) (s : State) : Host.Outcome State Fault Refusal := execMulti Forms.stredOr o (some .or) s
def execStredXor (o : OpM) (s : State) : Host.Outcome State Fault Refusal := execMulti Forms.stredXor o (some .xor) s
def execStredMin (o : OpM) (s : State) : Host.Outcome State Fault Refusal := execMulti Forms.stredMin o (some .min) s
def execStredMax (o : OpM) (s : State) : Host.Outcome State Fault Refusal := execMulti Forms.stredMax o (some .max) s

/-! ## Fences (05 R119, 14 R311) -/

/-- A fence: release effect for later relaxed atomic writes, and, for an acquire or full fence, a request that holds later accesses. -/
def execFence (o : OpM) (acq rel full : Bool) (s : State) : Host.Outcome State Fault Refusal :=
  onState s (fun g t =>
    if s.cur.lanes == 0 then .ok t
    else
      let g := if rel then g.onLanes s.cur.lanes (fun _ x => x.addFence o.scope.toNat) else g
      if acq then
        match t.block? g.blk with
        | none => .ok (t.setCur g)
        | some b => .ok ((t.setCur g).addReq s.cur.core
            { s.reqOf g b (.fence acq full) [] with scope := o.scope.toNat, acq := true, lanes := s.cur.lanes })
      else .ok (t.setCur g))

def execFenceAcq (o : OpM) (s : State) : Host.Outcome State Fault Refusal := execFence o true false false s
def execFenceRel (o : OpM) (s : State) : Host.Outcome State Fault Refusal := execFence o false true false s
def execFenceFull (o : OpM) (s : State) : Host.Outcome State Fault Refusal := execFence o true true true s

/-! ## Waiting on words (06 R154, R163) -/

/-- The slice cycle in which E4 of the instruction being executed ends (01 R29, R32). -/
def State.e4 (s : State) : Nat := (s.slice (sliceKey s.cur.core s.cur.slice)).cyc + 4 + (s.core s.cur.core).passes - 1

/-- A successor operand as PASS reads it (06 R142): none, poison, or its value in the lowest lane's view. -/
def State.successor (s : State) (g : Group) (x : Sel) (imm : Nat) : Option Val :=
  match x with
  | .none => none
  | .imm => some ⟨BitVec.ofNat 32 imm, none⟩
  | _ => match lowest s.cur.lanes with
    | some l => some (s.readSel g x 0 l)
    | none => none

/-- The trap of a successor operand, if any: consumed poison, or SUCC where bits above the width are set. -/
def State.succTrap (s : State) (g : Group) (v : Option Val) (width : Nat) : Option Trap :=
  match v with
  | none => none
  | some v =>
    match v.psn with
    | some p => some (s.consumedOf g p)
    | none => if v.bits.toNat ≥ 2 ^ width then some (s.trapOf Cause.succ) else none

def execLdwE (o : OpM) (s : State) : Host.Outcome State Fault Refusal :=
  if s.cur.lanes == 0 then onGroup s (fun g => .ok g)
  else match s.group? s.cur.key with
    | none => .next s
    | some g =>
      let v := s.successor g o.aux (if o.aux = .imm then o.imm.toNat % 16 else 0)
      match s.succTrap g v 4 with
      | some t => onGroup s (fun _ => .error t)
      | none =>
        match execRead Forms.ldwE (if o.aux = .imm then { o with imm := 0 } else o) .ldwe true true false s with
        | .next t =>
          .next (match t.group? s.cur.key with
            | some h =>
              if h.trap.isSome && g.trap.isNone then t
              else t.putGroup s.cur.key { h with hands := h.hands ++
                [(if t.uid = s.uid then 0 else s.uid, v.map (fun v => v.bits.toNat), s.e4)] }
            | none => t)
        | x => x

end Sys2Proof.Machine
end

