-- ==== Sys2Proof/Machine/MemEvents.lean ====
section
/-! DEFINITION. What happens to a memory request after its instruction: serving and performing, replies, inbound queues and credits, full/empty
answers and wakes, promotion, atomics performed and replayed (spec 04, 05, 06 R154, 14 R305-R310). -/

namespace Sys2Proof.Machine

open Sys2Proof

/-! ## Requests of a core -/

/-- A request of a core's memory unit. -/
def State.req? (s : State) (core id : Nat) : Option Req := (s.core core).reqs.find? (fun r => r.id = id)
/-- A request changed. -/
def State.putReq (s : State) (core : Nat) (r : Req) : State :=
  let c := s.core core
  s.putCore core { c with reqs := c.reqs.map (fun q => if q.id = r.id then r else q) }
/-- A request gone. -/
def State.delReq (s : State) (core id : Nat) : State :=
  let c := s.core core
  s.putCore core { c with reqs := c.reqs.filter (fun q => q.id != id) }

/-- Does a request read memory for its thread? -/
def Req.reads (r : Req) : Bool := match r.kind with | .store | .fill | .fence _ _ | .tretw => false | _ => true
/-- Does a request write memory? -/
def Req.writes (r : Req) : Bool := match r.kind with | .store | .fill | .atom _ | .cas | .empty => true | _ => false
/-- Its accesses not yet performed. -/
def Req.open_ (r : Req) : List Acc := r.accs.filter (fun a => a.st == .todo)

/-- The places of an access: its own bytes, and those of its scale. -/
def Acc.spans (a : Acc) : List (Nat × Nat) := (a.loc, a.n) :: match a.scale with | some x => [x] | none => []
/-- Do `n` bytes from a place meet an access? -/
def Acc.covers (a : Acc) (loc n : Nat) : Bool := a.spans.any (fun x => x.1 < loc + n && loc < x.1 + x.2)
/-- Do two accesses share a byte? -/
def Acc.meets (a b : Acc) : Bool := b.spans.any (fun x => a.covers x.1 x.2)

/-- Do two requests share a lane of one group? -/
def sameThread (q r : Req) : Bool := q.key == r.key && q.blk == r.blk && q.lanes &&& r.lanes != 0

/-- Is a request not yet performed? -/
def Req.pending (q : Req) : Bool := q.st == .queued || q.st == .held

/-- Has a lane of a group an acquire that has not returned, or an acquire fence without effect yet (05 R118, R119)? -/
def Core.acquiring (c : Core) (key blk : Nat) (lanes : BitVec 32) : Bool :=
  c.reqs.any (fun q => q.key == key && q.blk == blk && q.lanes &&& lanes != 0 && q.acq)

/-- Has a core sent inbound entries to a slice that have not drained (04 R97, 14 R305, R310)? -/
def State.undrained (s : State) (src tgt : Nat) : Bool := (s.core tgt).inq.any (fun e => e.src = src)

/-- Has every inbound entry of a core been acknowledged (04 R96)? -/
def Core.acked (c : Core) : Bool := c.spent.all (fun x => x.2 = 0)

/-- Have `n` bytes from a place writes of a core before them still queued (05 R115, R122)? `mine`: the requests that count in any case; a
read-modify-write of another thread happens before nothing until it has returned. -/
def unwritten (before : List Req) (mine : Req → Bool) (loc n : Nat) : Bool :=
  before.any (fun q => q.writes && q.pending && (mine q || !q.reads) && q.open_.any (fun a => a.covers loc n))

/-- Has an inbound entry of a core still to write any of `n` bytes from a place (05 R115)? -/
def State.undrainedAt (s : State) (core loc n : Nat) : Bool :=
  isSram loc && (s.core (sramCore loc)).inq.any (fun e =>
    e.src = core && sramLoc (sramCore loc) e.addr < loc + n && loc < sramLoc (sramCore loc) e.addr + 32)

/-- Has a release at a scope nothing left to wait for, at a request that follows `before` (05 R117)? Writes wait with every thread of the core,
since a release is cumulative; a release wider than a block waits for every write (log 26), and any for the block-shared registers (14 R311). -/
def Core.relReady (c : Core) (before : List Req) (r : Req) (scope : Nat) : Bool :=
  if scope = 0 then true
  else !(before.any (fun q => sameThread q r && q.reads)) && !(c.wq.any (fun w => w.blk = r.blk))
    && (scope ≤ 2 || (!(before.any (fun q => q.writes && !q.reads)) && c.acked))

/-- The sequence number of the oldest atomic of a core that awaits a reply, as its distance behind the next one (14 R308). -/
def Core.oldestSeq (c : Core) : Nat := (c.reqs.filterMap (·.seq)).foldl (fun m q => max m ((c.aseq + 4096 - q) % 4096)) 0

/-- May an atomic be sent: is its number within 63 of the oldest (14 R308)? -/
def Core.inWindow (c : Core) (r : Req) : Bool :=
  match r.seq with | some q => c.oldestSeq - (c.aseq + 4096 - q) % 4096 ≤ 63 | none => true

/-- Does a form that is sent to a slice follow every earlier entry of its core there (14 R305, R310)? -/
def State.followsEntries (s : State) (core : Nat) (before : List Req) (r : Req) : Bool :=
  match r.kind with
  | .atom _ | .cas | .empty | .feget | .ldwe | .ldf | .tretw => r.open_.all (fun a => !isSram a.loc ||
      (!s.undrained core (sramCore a.loc) && !(before.any (fun q =>
        q.writes && q.open_.any (fun b => b.entry && sramCore b.loc = sramCore a.loc)))))
  | _ => true

/-- Is a request there only for the demands of an LDF.rem that has not issued (05 R127)? -/
def Req.asks (r : Req) : Bool := r.kind == .ldf && r.st == .queued

/-- The miss registers that requests hold (04 R91). -/
def missOf (l : List Req) : Nat := l.foldl (fun n r => n + r.miss) 0

/-- The miss registers of a core in use: those of its requests, and one for each BSLD in flight (04 R91, 15 R323, log 52). -/
def Core.missUsed (c : Core) : Nat := missOf c.reqs + c.bslds.length

/-- May a request be performed now (05 R115, R117-R119, R123, 14 R305, R308, R310)? -/
def State.mayPerform (s : State) (core : Nat) (r : Req) : Bool :=
  let c := s.core core
  let before := c.reqs.takeWhile (fun q => q.id != r.id)
  -- no write before an earlier read of the thread has returned, and no read of a byte before an earlier read of it has performed
  (!r.writes || !(before.any (fun q => sameThread q r && q.reads)))
  && (!r.reads || !(before.any (fun q => sameThread q r && q.reads && q.pending && q.open_.any (fun a => r.open_.any a.meets))))
  -- bytes that an earlier write of the core has still to write; what travels as an entry follows the entries before it
  && r.open_.all (fun a => a.spans.all (fun x =>
      !unwritten before (sameThread · r) x.1 x.2 && ((a.entry && !r.reads) || !s.undrainedAt core x.1 x.2)))
  -- releases
  && r.open_.all (fun a => match a.rel with | some sc => c.relReady before r sc | none => true)
  && s.followsEntries core before r
  && c.inWindow r
  -- a miss register for each line (04 R91, log 52)
  && (r.miss = 0 || missOf before + r.miss + c.bslds.length ≤ 128)
  -- fences
  && (match r.kind with
      | .fence _ full => !(before.any (fun q => sameThread q r && q.reads)) && (!full || c.relReady before r r.scope)
      | _ => true)
  -- a frame in FREEZE
  && (!r.writes || r.open_.all (fun a => !s.frozen a.loc))
  -- a .rem acquire waits for its promotions
  && r.promo.all (fun p => p.2 == .back)

/-! ## Fills -/

/-- A number put in its place among pairs in rising order of their first parts. -/
def insertKey (x : Nat × Nat × Nat) : List (Nat × Nat × Nat) → List (Nat × Nat × Nat)
  | [] => [x]
  | y :: l => if x.1 < y.1 then x :: y :: l else y :: insertKey x l

/-- The requests with an access asleep on a word, in the order in which those arrived (06 R154): arrival, core, request. -/
def State.sleepersOn (s : State) (loc : Nat) : List (Nat × Nat × Nat) :=
  (s.cores.flatMap (fun c => c.2.reqs.filterMap (fun r =>
    ((r.accs.find? (fun a => a.st == .sleep && wordLoc a.loc == wordLoc loc)).map (fun a => (a.stamp, c.1, r.id)))))).foldl
      (fun l x => insertKey x l) []

/-- A scratchpad word becomes full: accesses asleep on it are woken (06 R154, R164). -/
def State.fillWord (s : State) (loc : Nat) : State :=
  let s := s.setFull loc true
  s.addDue ((s.sleepersOn loc).map (fun x => .wake x.2.1 x.2.2))

/-- Accesses that sleep at a slice (06 R154: 256 each). -/
def State.sleepersAt (s : State) (core : Nat) : Nat :=
  s.cores.foldl (fun n c => n + (c.2.reqs.foldl (fun n r =>
    n + (r.accs.filter (fun a => a.st == .sleep && sramCore a.loc == core)).length) 0)) 0

/-! ## Performing reads and writes -/

/-- The scope to which a request's demand has promoted the releases of a core (05 R127). -/
def Req.promoted (core : Nat) (r : Req) (by_ : Nat) : Option Nat :=
  if r.promo.any (fun p => p.1 == by_ && p.2 == .back) then some (if dieOf by_ = dieOf core then 4 else 5) else none

/-- What an acquire or a relaxed atomic read of a lane does with the records of the words it reads. -/
def State.observe (s : State) (core : Nat) (r : Req) (a : Acc) : State :=
  if r.acq then s.acquireAt r.key r.blk a.lane r.scope a.loc a.n (r.promoted core)
  else if r.relaxed then s.seenAt r.key a.lane a.loc a.n else s

/-- Of an access of 16 bytes, the half that a request performs first: no order is given (05 R114). -/
def State.upperFirst (s : State) (r : Req) : Bool := Config.bit s.free r.id

/-- The place and size of what an access performs next: all of it, or of 16 bytes one half (05 R114). -/
def Acc.next (a : Acc) (upper : Bool) : Nat × Nat :=
  if a.n != 16 then (a.loc, a.n)
  else match a.half with
    | none => (a.loc + (if upper then 8 else 0), 8)
    | some (u, _) => (a.loc + (if u then 0 else 8), 8)

/-- A read of one access: denied, erroneous, or its bytes (04 R98, 23 R396); of 16 bytes one half at a time (05 R114). -/
def State.readAcc (s : State) (core : Nat) (r : Req) (a : Acc) : Acc × State :=
  if a.st != .todo then (a, s)
  else if s.denied r.region a.loc then ({ a with st := .done, fail := some (Cause.global .read) }, s)
  else if a.spans.any (fun x => s.eccIn x.1 x.2) then ({ a with st := .done, fail := some Cause.memunc }, s)
  else
    let upper := s.upperFirst r
    let bs := s.bytesAt (a.next upper).1 (a.next upper).2
    if a.n == 16 && a.half.isNone then ({ a with half := some (upper, bs) }, s)
    else
      ({ a with
          st := .done
          res := match a.half with | some (u, x) => if u then bs ++ x else x ++ bs | none => bs
          sres := match a.scale with | some (l, n) => s.bytesAt l n | none => [] }, s.observe core r a)

/-- Uncorrectable words that have just poisoned accesses of a request, counted once each where they were found (26 R450). -/
def State.countBad (s : State) (before after : List Acc) : State :=
  let bad := (after.filter (fun a => a.fail == some Cause.memunc && !before.contains a)).flatMap Acc.spans
  (((s.ecc.filter (fun e => bad.any (fun x => x.1 ≤ e && e < x.1 + x.2))).map wordLoc).eraseDups).foldl (fun s e => s.countR (placeDie e) 5) s

/-- Each access of a list taken in order, in the state that those before it leave. -/
def State.eachAcc (s : State) (f : State → Acc → Acc × State) : List Acc → List Acc × State
  | [] => ([], s)
  | a :: l =>
    let p := f s a
    let q := p.2.eachAcc f l
    (p.1 :: q.1, q.2)

/-- The release record that a write of an access leaves. -/
def Req.recOf (r : Req) (a : Acc) : Option RelRec :=
  a.rel.map (fun sc => { scope := sc, by_ := { core := coreOf r.key, key := r.key, lane := a.lane, blk := r.blk, nbh := r.nbh } })

/-- A write performed at its place; of 16 bytes one half at a time (05 R114). -/
def State.writeAcc (s : State) (r : Req) (a : Acc) : State :=
  let p := a.next (s.upperFirst r)
  let s := (s.beforeWrite r.launch a.ga a.loc).writeAt p.1 ((a.data.drop (p.1 - a.loc)).take p.2) (r.recOf a)
  if r.kind == .fill then (wordsOf p.1 p.2).foldl (fun s w => s.fillWord w) s else s

/-- Line requests of a request served at their homes: once each, when it is first performed. -/
def State.countLines (s : State) (core : Nat) (accs : List Acc) : State :=
  s.linesServed (dieOf core) ((accs.filter (fun a => a.st == .todo && a.half.isNone && !isSram a.loc)).flatMap (·.spans))

/-! ## Inbound entries (04 R95-R97) -/

/-- The values that an access leaves within a 32-byte entry, laid over what the entry holds: `f` gives that of its i-th byte. -/
def overlay {α : Type} (base : Nat) (old : List (Option α)) (loc n : Nat) (f : Nat → Option α) : List (Option α) :=
  (List.range 32).map (fun i => if loc ≤ base + i && base + i < loc + n then f (base + i - loc) else (old[i]?).getD none)

/-- An access laid over an entry: its bytes, and the records that they leave (05 R125). -/
def InEntry.lay (e : InEntry) (a : Acc) (rel : Option RelRec) : InEntry :=
  { e with
    data := overlay e.addr e.data (sramOff a.loc) a.data.length (fun i => a.data[i]?)
    rels := overlay e.addr e.rels (sramOff a.loc) a.data.length (fun _ => rel) }

/-- The entries that a request's remote accesses make, packed by 32-byte address; later lanes stand over earlier ones. `mk` gives the entry that an
access begins, `rel` the record that it leaves. -/
def packEntries (mk : Acc → Nat → InEntry) (rel : Acc → Option RelRec) (l : List Acc) : List (Nat × InEntry) :=
  l.foldl (fun (es : List (Nat × InEntry)) a =>
    let c := sramCore a.loc
    let base := sramOff a.loc / 32 * 32
    if es.any (fun x => x.1 == c && x.2.addr == base) then
      es.map (fun x => if x.1 == c && x.2.addr == base then (c, x.2.lay a (rel a)) else x)
    else es ++ [(c, (mk a base).lay a (rel a))]) []

/-- Credits that a core has for a slice: one reserved, those granted, less those spent (04 R96). -/
def Core.credits (c : Core) (tgt : Nat) : Nat := 1 + SMap.get 0 c.granted tgt - SMap.get 0 c.spent tgt

/-- The ticks since which the credits that a core holds for a slice are unused, newest first: the reserved one since reset (04 R96). -/
def Core.unused (c : Core) (tgt : Nat) : List Nat := SMap.get [0] c.credAt tgt

/-- An entry sent: a credit is spent, the one unused for the shortest time (log 53), and the entry waits at the target slice. -/
def State.sendEntry (s : State) (core tgt : Nat) (e : InEntry) : State :=
  let c := s.core core
  let s := s.putCore core { c with
    spent := c.spent.set 0 tgt (SMap.get 0 c.spent tgt + 1), cinbound := (c.cinbound + 1) % 2 ^ 64
    credAt := c.credAt.set [0] tgt ((c.unused tgt).drop 1) }
  let t := s.core tgt
  ({ s.putCore tgt { t with inq := t.inq ++ [{ e with id := s.uid }] } with uid := s.uid + 1 }).addDue [.drain tgt]

/-- The entry that one access begins: its generic address is aligned to 32 bytes (04 R95, R98). -/
def Req.entryOf (core : Nat) (r : Req) (a : Acc) (base : Nat) : InEntry :=
  { id := 0, src := core, key := r.key, blk := r.blk, launch := r.launch,
    region := r.region, addr := base, ga := a.ga &&& ~~~31, data := [], fill := r.kind == .fill }

/-- A store served: writes in place and at homes in ascending lane order, then its entries as far as credits reach; what is left is served again. -/
def State.serveStore (s : State) (core : Nat) (r : Req) : State :=
  let here := r.open_.filter (fun a => !a.entry)
  let upper := s.upperFirst r
  let s := here.foldl (fun s a => if s.denied r.region a.loc then s else s.writeAcc r a) (s.countLines core here)
  let halves := (here.filter (fun a => a.n == 16 && a.half.isNone)).map (fun a => { a with half := some (upper, []) })
  let es := packEntries (r.entryOf core) r.recOf (r.open_.filter (·.entry))
  let p : List (Nat × InEntry) × State := es.foldl (fun p e =>
    if (p.2.core core).credits e.1 = 0 then (p.1 ++ [e], p.2) else (p.1, p.2.sendEntry core e.1 e.2)) ([], s)
  if p.1 = [] && halves = [] then p.2.delReq core r.id
  else
    let left := r.open_.filter (fun a => a.entry && p.1.any (fun e => e.1 == sramCore a.loc && e.2.addr == sramOff a.loc / 32 * 32))
    (p.2.putReq core { r with accs := halves ++ left }).addDue [.serve core r.id]

/-! ## MEMORY_REQUEST_SERVE (05 R116, R122, R127) -/

/-- The cores that a .rem acquire must send demands to: those that a record names with a release at block scope or narrower, made by another core. -/
def State.demandOf (s : State) (core : Nat) (r : Req) : List Nat :=
  if r.acq && r.rem then
    ((r.open_.flatMap (fun a => s.relsIn a.loc a.n)).filterMap (fun x =>
      if x.scope ≤ 2 && x.by_.core != core && x.by_.compute then some x.by_.core else none)).eraseDups
  else []

/-- Demands sent to cores, on behalf of a request (05 R127). -/
def Req.demand (r : Req) (l : List Nat) : Req :=
  { r with promo := r.promo.filter (fun p => !l.contains p.1) ++ l.map (fun c => (c, .sent)) }

/-- An access of LDW.E or TRET.W tested at its slice: performed when the word is full, else it sleeps while a waiting place is free. -/
def State.testWord (s : State) (core : Nat) (r : Req) (a : Acc) : Acc × State :=
  if a.st != .todo then (a, s)
  else if s.denied r.region a.loc then ({ a with st := .done, fail := some (Cause.global .read) }, s)
  else if s.isFull a.loc then s.readAcc core r a
  else if s.sleepersAt (sramCore a.loc) < 256 then ({ a with st := .sleep, stamp := s.uid }, { s with uid := s.uid + 1 })
  else (a, s)

/-- The entries of a copy's compare queue changed. -/
def State.onQueue (s : State) (t : Nat) (lead : Bool) (f : List TwinEntry → List TwinEntry) : State :=
  ({ s with twins := s.twins.update t (fun x => if lead then { x with lq := f x.lq } else { x with tq := f x.tq }) } : State).addDue [.twin t]

/-- Is an entry that of an LDW.E's request? -/
def TwinEntry.isLdwe (e : TwinEntry) (id : Nat) : Bool := e.wait && e.op == .req [id] true

/-- A copy's LDW.E has found every word full: nothing of it is compared. -/
def State.noLdwe (s : State) (t : Nat) (lead : Bool) (id : Nat) : State := s.onQueue t lead (fun q => q.filter (fun e => !e.isLdwe id))

/-- A copy's LDW.E has found words empty: the accesses to them are compared, and it counts among the instructions with results. -/
def State.foundEmpty (s : State) (t : Nat) (lead : Bool) (id : Nat) (sig : List Nat) : State :=
  let inst := (s.twins.find? t).elim 0 (fun x => (((if lead then x.lq else x.tq).find? (fun e => e.isLdwe id)).map (·.inst)).getD 0)
  ({ s with twins := s.twins.update t (fun x => x.take lead inst) } : State).onQueue t lead (fun q => q.map (fun e =>
    if e.isLdwe id then { e with sig := e.sig ++ sig, wait := false } else e))

/-- A read, a write or a word test of a core's memory unit performed at its home or slice. -/
def State.serve (s : State) (core : Nat) (r : Req) : State :=
  match s.demandOf core r with
  | c :: l => (s.putReq core (r.demand (c :: l))).addDue ((c :: l).map (fun _ => .demand core r.id) ++ [.serve core r.id])
  | [] =>
    match r.kind with
    | .store | .fill => s.serveStore core r
    | .load | .fmt _ _ _ | .ldf | .feget =>
      let s := s.countLines core r.accs
      let p := s.eachAcc (fun s a =>
        let q := s.readAcc core r a
        if r.kind == .feget && a.st == .todo && q.1.fail.isNone then
          ({ q.1 with res := [if s.isFull a.loc then 1 else 0, 0, 0, 0] }, q.2) else q) r.accs
      let p := (p.1, p.2.countBad r.accs p.1)
      if p.1.any (fun a => a.st == .todo) then (p.2.putReq core { r with accs := p.1 }).addDue [.serve core r.id]
      else (p.2.putReq core { r with accs := p.1, st := .done }).addDue [if r.kind == .feget then .answer core r.id else .reply core r.id]
    | .empty =>
      -- an error in a word is consumed where it strikes (23 R410)
      let bad := r.open_.filter (fun a => s.eccIn a.loc a.n)
      if let a :: _ := bad then
        (s.delReq core r.id).strike r.key r.blk r.launch { cause := Cause.memunc, pc := r.pc, addr := a.ga, lanes := accLanes bad, die := some (placeDie a.loc) }
      else
      let p := s.eachAcc (fun s a =>
        if a.st != .todo then (a, s)
        else
          let s := s.observe core r a
          ({ a with st := .done, res := s.bytesAt a.loc a.n },
           let s := match a.rel with | some _ => s.setRel a.loc a.n (r.recOf a) | none => s
           s.setFull a.loc false)) r.accs
      (p.2.putReq core { r with accs := p.1, st := .done }).addDue [.answer core r.id]
    | .ldwe | .tretw =>
      let p := s.eachAcc (fun s a => s.testWord core r a) r.accs
      let p := (p.1, p.2.countBad r.accs p.1)
      let t := p.2.putReq core { r with accs := p.1 }
      if r.kind == .ldwe && !r.cmpd && (s.twinOf r.key).isSome then
        -- a twin copy's access to an empty word is held for its comparison; one of full words is its own (16 R360)
        let accs := p.1.map (fun a => if a.st == .todo then { a with st := .sleep } else a)
        let asleep := accs.filter (fun (a : Acc) => a.st == .sleep)
        match s.twinOf r.key with
        | some (tw, lead) =>
          if asleep = [] then (t.noLdwe tw lead r.id).addDue [.answer core r.id]
          else ((p.2.putReq core { r with accs, st := .held }).foundEmpty tw lead r.id (accSig asleep)).addDue [.answer core r.id]
        | none => t
      else if p.1.any (fun a => a.st == .todo) then t.addDue [.answer core r.id, .serve core r.id] else t.addDue [.answer core r.id]
    | .fence acq _ =>
      -- acquire effect for every earlier relaxed atomic read: the check of the record each found (05 R126)
      let t := s.delReq core r.id
      (match t.group? r.key with
       | none => t
       | some g =>
         if !acq then t
         else
           let miss := (lanesOf r.lanes).any (fun l => (g.lane l).seen.any (fun x => !x.syncs r.scope (t.agentOf r.key r.blk l)))
           t.putGroup r.key { g with scopemiss := g.scopemiss || miss })
    | .atom _ | .cas => s

/-- What ECC finds in the first word that a request meets: a corrected one is counted where it was found (26 R450), another holds an uncorrectable error
(23 R410). -/
def State.markErr (s : State) (r : Req) (e : Ecc) : State :=
  match e, r.open_ with
  | .corr, a :: _ => s.countR (placeDie a.loc) 4
  | .unc, a :: _ => { s with ecc := insertNat s.ecc a.loc }
  | _, _ => s

/-- A request of a core's memory unit served, with what ECC finds. -/
def State.serveCore (s : State) (c id : Nat) (err : Ecc) : State :=
  match s.req? c id with
  | some r =>
    if r.st == .queued && r.open_ != [] || (match r.kind with | .fence _ _ | .tretw => true | _ => false) then
      (if s.mayPerform c r then (s.markErr r err).serve c r else s)
    else s
  | none => s

/-! ## Replies (03 R67, 23 R396) -/

/-- Are the elements of a code integers, without a scale? -/
def intElem (code : Nat) : Bool := (fmtLine code).isNone && (fmtElem code).any (fun e => (EFmtF e).isNone)

/-- The registers that a lane receives from what its access read. -/
def replyVals (r : Req) (a : Acc) : List Val :=
  match r.kind with
  | .fmt mode sat ftz =>
    let code := a.fmt
    let tail := if (fmtLine code).isNone then leNat a.sres * 256 ^ a.n else 0
    let elem := (leNat a.res + tail) / 2 ^ a.bit % 2 ^ fmtBits code
    let v := fmtValue code ftz elem (leNat a.sres)
    let m := (rmodeOf mode).getD .rne
    if a.st == .skip then [⟨0, none⟩]
    else if r.ty.isFloat then
      let exact := (fmtLine code).isNone && (r.ty == .f32 || (match code with | 1 => false | 2 => r.ty == .bf16 | 3 => r.ty == .f16 | _ => true))
      [⟨BitVec.ofNat 32 ((fmtOf r.ty).round m (leNat a.cmp) (sat && !exact) ftz v), none⟩]
    -- of an integer element .nosat keeps the low bits (10 R238)
    else if intElem code && !sat then [⟨intReg r.ty (v.toInt m 0 (-(2 ^ 32)) (2 ^ 32)), none⟩]
    else [⟨intReg r.ty (v.toInt m (leNat a.cmp) (rangeOf r.ty).1 (rangeOf r.ty).2), none⟩]
  | _ =>
    if a.n < 4 then
      let w := BitVec.ofNat 32 (leNat a.res)
      [⟨if r.ty.isFloat then w else intReg r.ty (intOf r.ty w), none⟩]
    else (List.range (a.n / 4)).map (fun i => ⟨BitVec.ofNat 32 (leNat ((a.res.drop (4 * i)).take 4)), none⟩)

/-- Registers that an access of a request fills. -/
def Req.regs (r : Req) (a : Acc) : List Nat := regsOf r.dst ((a.n + 3) / 4)

/-- One register of a list of outstanding ones, once. -/
def dropOne : List Nat → Nat → List Nat
  | [], _ => []
  | x :: l, r => if x = r then l else x :: dropOne l r

/-- The side-table entry of a request's failed accesses: the one that an earlier answer of it has taken, or a new one (23 R396). -/
def Group.failEntry (g : Group) (r : Req) (accs : List Acc) : Option Nat × Group :=
  match r.entry, accs.find? (fun a => a.fail.isSome) with
  | some p, _ => (some p, g)
  | none, some a => let p := g.takeEntry a.ga r.pc (a.fail.getD 0); (some p.1, p.2)
  | none, none => (none, g)

/-- The results of performed accesses delivered to a group: values, or poison with one side-table entry (23 R396). A result of the lanes that asked for it
is theirs alone, whatever a JOIN has merged meanwhile (log 51). -/
def State.deliver (s : State) (g : Group) (r : Req) (accs : List Acc) : Group :=
  let (psn, g) := g.failEntry r accs
  accs.foldl (fun g a =>
    let lanes := if r.once then lanesOf r.lanes else [a.lane]
    lanes.foldl (fun g l =>
      if (g.lane l).exited then g
      else
        let g := g.setLane l { g.lane l with pend := (r.regs a).foldl dropOne (g.lane l).pend }
        if a.fail.isSome then s.poisonLane g r.dst ((a.n + 3) / 4) l (psn.getD 0) else g.writeAll r.dst l (replyVals r a)) g) g

/-- Is a bank written in a core cycle (03 R65: one write of a whole register)? -/
def bankTaken (l : List WB) (bank cc : Nat) : Bool := l.any (fun w => w.reg % 8 == bank && w.at_ == some cc)

/-- The registers that accesses of a request fill. -/
def Req.fills (r : Req) (accs : List Acc) : List Nat := (accs.flatMap r.regs).eraseDups

/-- Are the banks of a group's registers free in this core cycle? A result from E4 is written first (03 R67). -/
def State.banksFree (s : State) (key : Nat) (regs : List Nat) : Bool :=
  regs.all (fun r => 256 ≤ r || !bankTaken (s.slice (sliceOf key)).wb (r % 8) (s.now / 10))

/-- Registers of a group written in this core cycle from outside the slice (03 R67). -/
def State.noteBanks (s : State) (key : Nat) (regs : List Nat) : State :=
  let x := s.slice (sliceOf key)
  let l := (regs.filter (· < 256)).map (fun r => ({ slot := slotOf key, reg := r, due := 0, at_ := some (s.now / 10) } : WB))
  if l = [] then s else s.putSlice (sliceOf key) { x with wb := x.wb ++ l }

/-- The first core cycle, from a given one, in which a bank takes a write: one of as many as there are writes and one more. -/
def freeCycle (l : List WB) (bank cc : Nat) : Nat := ((List.range (l.length + 1)).find? (fun k => !bankTaken l bank (cc + k))).elim cc (cc + ·)

/-- Registers of a group delivered from outside the slice, each written in the first core cycle in which its bank takes it (03 R65, R67); the lanes that
receive a register before it has been written are written with it. -/
def State.arrive (s : State) (key : Nat) (regs : List Nat) : State :=
  let x := s.slice (sliceOf key)
  let slot := slotOf key
  let cc := x.tick / 10
  let wb := regs.foldl (fun (l : List WB) r =>
    if 256 ≤ r || l.any (fun w => w.out && w.slot == slot && w.reg == r && w.at_.any (cc ≤ ·)) then l
    else l ++ [{ slot, reg := r, due := 0, at_ := some (freeCycle l (r % 8) cc), out := true }]) x.wb
  if wb = x.wb then s else s.putSlice (sliceOf key) { x with wb }

/-- Does a register of a slot, delivered from outside the slice, still wait for its bank (03 R67)? -/
def Slice.arriving (x : Slice) (slot : Nat) (regs : List Nat) : Bool :=
  x.wb.any (fun w => w.out && w.slot == slot && regs.contains w.reg && w.at_.any (x.tick / 10 ≤ ·))

/-- What an answer makes of the group that asked, and of its checkpoint when the request is from before that (16 R359). -/
def State.onAsker (s : State) (r : Req) (f : Group → Group) : State :=
  match s.group? r.key with
  | some g =>
    if g.blk = r.blk then
      let s := (s.putGroup r.key (f g)).tickFree
      match g.twin with
      | some (t, lead) => { s with twins := s.twins.update t (fun x =>
          if x.ckptAt ≤ r.id then x else if lead then { x with ckptL := x.ckptL.map f } else { x with ckptT := x.ckptT.map f }) }
      | none => s
    else s
  | none => s

/-- Everything of a request delivered, and the request gone; a lane that slept on its word wakes. -/
def State.replyOne (s : State) (core : Nat) (r : Req) : State :=
  (s.delReq core r.id).onAsker r (fun g =>
    let g := s.deliver g r r.accs
    if r.kind == .ldwe then
      r.accs.foldl (fun g a => if (g.lane a.lane).wait == .word then g.setLane a.lane { g.lane a.lane with wait := .none } else g) g
    else g)

/-- What the accesses of a request have read. -/
def Req.results (r : Req) : List LaneRes := r.accs.map (fun a => { lane := a.lane, res := a.res, fail := a.fail })

/-- A request of one of a pair's copies answered with results that the other's have read. -/
def State.replyWith (s : State) (core : Nat) (l : List LaneRes) (id : Nat) : State :=
  match s.req? core id with
  | some q => s.replyOne core { q with accs := q.accs.map (Acc.takeRes s.free l) }
  | none => s

/-- The results of a flight are all there: they enter the log, and go to the trailing copy and to whoever waits for that entry of the log (16 R360, R361). -/
def State.endFlight (s : State) (t : Nat) (x : Twin) (f : Flight) : State :=
  let waits := x.takers.filter (fun w => f.log == some w.2.2)
  let log := match f.log with | some k => x.log.modify k (fun y => { y with res := some f.res }) | none => x.log
  let s : State := { s with twins := s.twins.put t { x with flights := x.flights.erase f, log, takers := x.takers.filter (fun w => !waits.contains w) } }
  let s := f.trail.foldl (fun s id => s.replyWith (coreOf x.trail) f.res id) s
  waits.foldl (fun s w => s.replyWith (coreOf (if w.1 then x.lead else x.trail)) f.res w.2.1) s

/-- Everything of a request delivered; the result of a leading copy's compared request goes to the trailing copy too, and into the log (16 R360). -/
def State.replyAll (s : State) (core : Nat) (r : Req) : State :=
  let s' := if r.dead then s.delReq core r.id else s.replyOne core r
  match s.twinOf r.key, r.cmpd with
  | some (tw, _), true =>
    (match s'.twins.find? tw with
     | some x =>
       (match x.flights.find? (fun f => f.lead.contains r.id) with
        | some f =>
          let g : Flight := { f with lead := f.lead.filter (· != r.id), res := f.res ++ r.results }
          let x : Twin := { x with flights := x.flights.map (fun y => if y = f then g else y) }
          if g.lead = [] then s'.endFlight tw x g else { s' with twins := s'.twins.put tw x }
        | none => s')
     | none => s')
  | _, _ => s'

def execLoadReply (core id : Nat) (s : State) : Host.Outcome State Fault Refusal :=
  .next (match s.req? core id with
    | some r => if r.st == .done && s.banksFree r.key (r.fills r.accs) then (s.replyAll core r).noteBanks r.key (r.fills r.accs) else s
    | none => s)

/-! ## Full/empty answers and wakes (06 R154, R164) -/

/-- The answers of a full/empty form that have come back: data for the lanes performed, a notice for those that sleep. -/
def execFullEmptyAnswer (core id : Nat) (s : State) : Host.Outcome State Fault Refusal :=
  .next (match s.req? core id with
    | none => s
    | some r =>
      match r.kind with
      | .ldwe | .tretw =>
        let ready := r.accs.filter (fun a => a.st == .done || a.st == .skip)
        -- a compared access gives its results together
        let now := if r.cmpd && ready.length < r.accs.length then [] else ready
        let rest := (r.accs.filter (fun a => !now.contains a)).map (fun a =>
          if a.st == .sleep then { a with told := true } else a)
        if r.kind == .ldwe && !s.banksFree r.key (r.fills now) then s
        else if r.cmpd && rest = [] then (s.replyAll core r).noteBanks r.key (r.fills r.accs) else
        let g0 := if r.dead then none else (s.group? r.key).filter (fun g => g.blk == r.blk)
        let entry := g0.bind (fun g => (g.failEntry r now).1)
        let t := if rest = [] then s.delReq core id
          else s.putReq core { r with accs := rest, lanes := if r.dead then 0 else accLanes rest, entry }
        let t := if r.kind == .ldwe then t.noteBanks r.key (r.fills now) else t
        if r.dead then t
        else t.onAsker r (fun g =>
          let g := s.deliver g { r with dst := if r.kind == .tretw then .none else r.dst } now
          -- a lane asleep wakes on its reply; a lane told of an empty word sleeps
          let g := now.foldl (fun g a => if (g.lane a.lane).wait == .word then g.setLane a.lane { g.lane a.lane with wait := .none } else g) g
          rest.foldl (fun g a => if a.st == .sleep && !(g.lane a.lane).exited then g.setLane a.lane { g.lane a.lane with wait := .word } else g) g)
      | .empty | .feget =>
        if r.st == .done && s.banksFree r.key (r.fills r.accs) then (s.replyAll core r).noteBanks r.key (r.fills r.accs) else s
      | _ => s)

/-- Is an access of a request asleep on a full word, with no access of another request that arrived there before it (06 R154)? -/
def State.wakes (s : State) (r : Req) (a : Acc) : Bool :=
  a.st == .sleep && s.isFull a.loc && (s.sleepersOn a.loc).all (fun x => x.2.2 == r.id || a.stamp < x.1)

/-- The accesses of a request that a full word wakes. -/
def State.woken (s : State) (r : Req) : List Acc := r.accs.filter (s.wakes r)

/-- A fill has left a word full: accesses asleep on it are performed; a .rem acquire's first send their demands, and wait for the answers (05 R127). -/
def execLdwEWake (core id : Nat) (s : State) : Host.Outcome State Fault Refusal :=
  .next (match s.req? core id with
    | none => s
    | some r =>
      if r.st == .held || s.woken r = [] then s
      else if !(r.promo.all (fun p => p.2 == .back)) then s
      else match s.demandOf core { r with accs := (s.woken r).map (fun a => { a with st := .todo }) } with
        | c :: l => (s.putReq core (r.demand (c :: l))).addDue ((c :: l).map (fun _ => .demand core id))
        | [] =>
          let p := s.eachAcc (fun s a =>
            if s.wakes r a then s.readAcc core r { a with st := .todo } else (a, s)) r.accs
          ((p.2.countBad r.accs p.1).putReq core { r with accs := p.1 }).addDue [.answer core id])

/-! ## INBOUND_DRAIN, acknowledgements and credits (04 R96-R98) -/

/-- The next source in rotating order among those that have an entry waiting. -/
def nextSource (q : List InEntry) (turn : Nat) : Option Nat :=
  let low (p : Nat → Bool) : Option Nat := (q.filter (fun e => p e.src)).foldl (fun m e =>
    match m with | none => some e.src | some x => some (min x e.src)) none
  match low (fun c => turn ≤ c) with
  | some c => some c
  | none => low (fun _ => true)

/-- The masked bytes of an entry written in rising order, each with the record that it leaves. -/
def State.writeMasked (s : State) (loc : Nat) (rels : List (Option RelRec)) : List (Option Byte) → State
  | [] => s
  | some b :: l => (s.writeAt loc [b] ((rels.head?).getD none)).writeMasked (loc + 1) rels.tail l
  | none :: l => s.writeMasked (loc + 1) rels.tail l

/-- A fault of a copy's element: the lowest address that the engine met (14 R316). -/
def Copy.fail (c : Copy) (cause : Nat) (a : DWord) : Copy :=
  { c with flt := match c.flt with | some (k, b) => if a < b then some (cause, a) else some (k, b) | none => some (cause, a) }

/-- An entry of a copy at its slice: its element is performed, or the copy meets a denial (14 R315, R316). -/
def State.copyDrain (s : State) (src core : Nat) (e : InEntry) : State :=
  let (tag, k) := e.copy.getD (0, 0)
  let loc := sramLoc core e.addr
  let bad := s.denied e.region loc
  let s := if bad then s else s.writeMasked loc e.rels e.data
  let c := s.core src
  s.putCore src { c with tags := c.tags.update tag (fun t =>
    if t.blk != e.blk then t else
    let t := { t with flying := t.flying.filter (· != k) }
    if bad then t.fail (Cause.global .write) e.ga else { t with did := t.did ++ [k] }) }

def execInboundDrain (core : Nat) (s : State) : Host.Outcome State Fault Refusal :=
  let c := s.core core
  .next (match nextSource c.inq c.inturn with
    | none => s
    | some src =>
      match c.inq.find? (fun e => e.src = src) with
      | none => s
      | some e =>
        let s := s.putCore core { c with inq := c.inq.filter (fun x => x.id != e.id), inturn := (src + 1) % Config.numCores }
        let loc := sramLoc core e.addr
        let s := s.addDue [.ack src core]
        if e.copy.isSome then s.copyDrain src core e
        else if s.denied e.region loc then
          ({ s with notices := s.notices ++ [{ id := e.id, key := e.key, blk := e.blk, launch := e.launch, addr := e.ga }] } : State).addDue [.notice e.id]
        else
          let s := s.writeMasked loc e.rels e.data
          if e.fill then
            (List.range 8).foldl (fun s w => if ((e.data.drop (4 * w)).take 4).any (·.isSome) then s.fillWord (loc + 4 * w) else s) s
          else s)

/-- Entries of a source that wait at a slice. -/
def State.entriesOf (s : State) (src tgt : Nat) : Nat := ((s.core tgt).inq.filter (fun e => e.src = src)).length

/-- Credits granted out of the shared entries of a slice (04 R96). -/
def State.grantedAt (s : State) (tgt : Nat) : Nat := s.cores.foldl (fun n c => n + SMap.get 0 c.2.granted tgt) 0

/-- An acknowledgement returns the credit; while the shared entries have room it grants one more, up to 8 in all (log 53). -/
def execCreditAcknowledge (src tgt : Nat) (s : State) : Host.Outcome State Fault Refusal :=
  let c := s.core src
  let sp := SMap.get 0 c.spent tgt
  .next (if sp ≤ s.entriesOf src tgt then s
    else
      let more := if s.grantedAt tgt < 128 && SMap.get 0 c.granted tgt < 7 then 1 else 0
      let s := s.putCore src { c with
        spent := c.spent.set 0 tgt (sp - 1), granted := c.granted.set 0 tgt (SMap.get 0 c.granted tgt + more)
        credAt := c.credAt.set [0] tgt (List.replicate (1 + more) s.now ++ c.unused tgt) }
      if more = 0 then s else s.addDue [.credit src tgt])

/-- A granted credit left unused for 1,024 core cycles goes back. -/
def execCreditReturn (src tgt : Nat) (s : State) : Host.Outcome State Fault Refusal :=
  let c := s.core src
  let gr := SMap.get 0 c.granted tgt
  .next (match (c.unused tgt).getLast? with
    | some t =>
      if gr = 0 || s.now < t + 10240 then s
      else s.putCore src { c with granted := c.granted.set 0 tgt (gr - 1), credAt := c.credAt.set [0] tgt (c.unused tgt).dropLast }
    | none => s)

/-! ## Promotion (05 R127) -/

/-- Where a request stands by its identity alone. -/
def State.reqAnywhere (s : State) (id : Nat) : Option (Nat × Req) :=
  s.cores.findSome? (fun c => (c.2.reqs.find? (fun r => r.id = id)).map (fun r => (c.1, r)))

/-- Has the demanded core completed the earlier writes that a release at .die or .pkg waits for? A read-modify-write under way comes after its releases. -/
def State.demandReady (s : State) (core : Nat) : Bool :=
  !((s.core core).reqs.any (fun r => r.writes && !r.reads)) && (s.core core).acked

/-- A core's releases at block scope or narrower become releases at a scope. -/
def State.promoteAll (s : State) (core scope : Nat) : State :=
  { s with rels := s.rels.map (fun x => if x.2.by_.core = core && x.2.scope ≤ 2 then (x.1, { x.2 with scope }) else x) }

/-- A demand of a request put on its next stand. -/
def Req.demandAt (r : Req) (c : Nat) (st : PromoSt) : Req := { r with promo := r.promo.map (fun p => if p.1 = c then (c, st) else p) }

/-- A demanded core's releases at block scope or narrower become releases at the promoted scope, and it answers. -/
def execPromotionDemand (id : Nat) (s : State) : Host.Outcome State Fault Refusal :=
  .next (match s.reqAnywhere id with
    | some (core, r) =>
      (match r.promo.find? (fun p => p.2 == .sent && s.demandReady p.1) with
       | some (c, _) =>
         ((s.promoteAll c (if dieOf c = dieOf core then 4 else 5)).putReq core (r.demandAt c .met)).addDue [.promoted core id]
       | none => s)
    | none => s)

/-- The answers to a request's demands come back. A request made only to demand, for an LDF that has gone with its group, ends. -/
def execPromotionAnswer (id : Nat) (s : State) : Host.Outcome State Fault Refusal :=
  .next (match s.reqAnywhere id with
    | some (core, r) =>
      (match r.promo.find? (fun p => p.2 == .met) with
       | some (c, _) =>
         if r.asks && !((s.group? r.key).any (fun g => g.blk = r.blk)) then s.delReq core id else s.putReq core (r.demandAt c .back)
       | none => s)
    | none => s)

/-! ## Atomics (14 R305-R308) -/

/-- The new value of a location (14 R306, R307). -/
def AOp.apply (op : AOp) (t : TyCode) (old x : Word) : Word :=
  match op with
  | .add =>
    if t.isFloat then BitVec.ofNat 32 (faddRne (fmtOf t) (lowBits t old) (lowBits t x)) else old + x
  | .and => old &&& x
  | .or => old ||| x
  | .xor => old ^^^ x
  | .min =>
    if t.isFloat then BitVec.ofNat 32 (fminmax (fmtOf t) false false (lowBits t old) (lowBits t x))
    else if asInt t.isSigned old ≤ asInt t.isSigned x then old else x
  | .max =>
    if t.isFloat then BitVec.ofNat 32 (fminmax (fmtOf t) false true (lowBits t old) (lowBits t x))
    else if asInt t.isSigned old ≤ asInt t.isSigned x then x else old
  | .xchg => x

/-- A CAS that a release fence would have made a release has not written: the fence's effect goes to the next relaxed atomic write of the lane to the
place, or stays to be taken (05 R119, 14 R297). -/
def State.passFence (s : State) (core : Nat) (r : Req) (a : Acc) : State :=
  match r.relaxedW, a.rel with
  | true, some sc =>
    let takes (q : Req) (x : Acc) : Bool := q.key == r.key && q.blk == r.blk && q.relaxedW && q.pending && x.lane == a.lane && x.loc == a.loc
    let later := ((s.core core).reqs.dropWhile (fun q => q.id != r.id)).drop 1
    (match later.find? (fun q => q.accs.any (takes q)) with
     | some q => s.putReq core { q with accs := q.accs.map (fun x => if takes q x then { x with rel := some (max sc (x.rel.getD 0)) } else x) }
     | none => { s with groups := s.groups.update r.key (fun g => g.setLane a.lane ((g.lane a.lane).giveFences a.loc sc)) })
  | _, _ => s

/-- One lane's application: the value that stood before, and the new one where it writes. -/
def State.rmwAcc (s : State) (core : Nat) (r : Req) (a : Acc) : Acc × State :=
  if a.st != .todo then (a, s)
  else
    let s := s.observe core r a
    let old := s.bytesAt a.loc a.n
    let w (b : List Byte) : Word := BitVec.ofNat 32 (leNat b)
    let new : Option (List Byte) := match r.kind with
      | .atom op => some (leBytes a.n (op.apply r.ty (w old) (w a.data)).toNat)
      | .cas => if old = a.cmp then some a.data else none
      | _ => none
    let done := { a with st := .done, res := old }
    match new with
    | none => (done, s.passFence core r a)
    | some b =>
      let s := s.beforeWrite r.launch a.ga a.loc
      -- a read-modify-write that is no release leaves the record
      let rec' := match a.rel with | some _ => r.recOf a | none => s.relAt a.loc
      (done, s.writeAt a.loc b rec')

/-- The results that a performing unit has kept: the Eddy of the home die, or the slice (14 R308). -/
def State.results (s : State) (a : Acc) : List AtomRes := if isSram a.loc then (s.core (sramCore a.loc)).ares else (s.die (dramDie a.loc)).ares
/-- A result kept: the 64 newest of each source core. -/
def State.keepResult (s : State) (a : Acc) (x : AtomRes) : State :=
  let cut (l : List AtomRes) : List AtomRes :=
    let mine := (l.filter (fun y => y.src = x.src && y.seq != x.seq)) ++ [x]
    (l.filter (fun y => y.src != x.src)) ++ mine.drop (mine.length - 64)
  if isSram a.loc then
    let c := s.core (sramCore a.loc)
    s.putCore (sramCore a.loc) { c with ares := cut c.ares }
  else
    let d := s.die (dramDie a.loc)
    s.putDie (dramDie a.loc) { d with ares := cut d.ares }

/-- An atomic request applied once, in ascending lane order; one sent again is answered from the stored results (14 R305, R308). -/
def State.perform (s : State) (core : Nat) (r : Req) (lost : Bool) : State :=
  match r.accs with
  | [] => s.delReq core r.id
  | a :: _ =>
    let fin (s : State) (accs : List Acc) : State :=
      let s := s.putReq core { r with accs, st := if lost then .lost else .done }
      if lost then s else s.addDue [.reply core r.id]
    match (if r.st == .lost then (s.results a).find? (fun x => x.src = core && some x.seq = r.seq) else none) with
    | some x => fin s ((r.accs.zip x.res).map (fun p => { p.1 with st := .done, res := p.2 }))
    | none =>
      let p := (s.countLines core r.accs).eachAcc (fun s a => s.rmwAcc core r a) r.accs
      fin (p.2.keepResult a { src := core, seq := r.seq.getD 0, res := p.1.map (·.res) }) p.1

def execAtomicPerform (core id : Nat) (lost : Bool) (err : Ecc) (s : State) : Host.Outcome State Fault Refusal :=
  .next (match s.req? core id with
    | none => s
    | some r =>
      match r.kind with
      | .atom _ | .cas =>
        if r.st == .done || (r.st == .queued && !s.mayPerform core r) then s
        else match s.demandOf core r with
          | c :: l => (s.putReq core (r.demand (c :: l))).addDue ((c :: l).map (fun _ => .demand core id) ++ [.perform core id])
          | [] =>
            -- an error in the word is consumed where it strikes (23 R410)
            let bad := r.open_.filter (fun a => err == .unc || s.eccIn a.loc a.n)
            if r.st != .queued then s.perform core r lost
            else match bad with
              | a :: _ => (s.delReq core id).strike r.key r.blk r.launch
                  { cause := Cause.memunc, pc := r.pc, addr := a.ga, lanes := accLanes bad, die := some (placeDie a.loc) }
              | [] => (if err == .corr then s.markErr r err else s).perform core r lost
      | _ => s)

/-- The reply has not come within 20 µs of the request's sending: it goes again with its tag (14 R308, 26 R453). -/
def execAtomicReplay (core id : Nat) (s : State) : Host.Outcome State Fault Refusal :=
  .next (match s.req? core id with
    | some r => if r.st == .lost && r.sentAt + 280000 ≤ s.now then (s.putReq core { r with sentAt := s.now }).addDue [.perform core id] else s
    | none => s)

/-- STREAM_PREFETCH: the prefetcher asks for a line that the die cache has not; and a fill that it has outstanding comes (04 R108, 26 R462). -/
def execStreamPrefetch (die line : Nat) (s : State) : Host.Outcome State Fault Refusal :=
  let d := s.die die
  .next (if line / 2 ^ 27 != die then s
    else match d.cache.find? (fun c => c.1 = line) with
      | none => s.putDie die { d with cache := cacheAdd d.cache (line, true, true) }
      | some (_, pre, true) =>
        let s := s.countD die 3 1
        s.putDie die { s.die die with cache := d.cache.map (fun c => if c.1 = line then (line, pre, false) else c) }
      | some _ => s)

end Sys2Proof.Machine
end

