-- ==== Sys2Proof/Machine/Batons.lean ====
section
/-! DEFINITION. Batons, barriers, exits: how a baton moves, when a phase completes, what an exit leaves (spec 06, 11 R259). -/

namespace Sys2Proof.Machine

open Sys2Proof

/-! ## Batons (06 R139-R141, R150-R152) -/

/-- The state of a baton of a slice. -/
def Slice.baton (x : Slice) (n : Nat) : BatonSt := SMap.get .free x.batons n
/-- The state of a baton replaced. -/
def State.setBaton (s : State) (sl n : Nat) (b : BatonSt) : State :=
  let x := s.slice sl
  s.putSlice sl { x with batons := x.batons.set .free n b }

/-- Is the group in a slot an acceptable successor for a baton of a block (06 R140)? -/
def State.acceptable (s : State) (sl slot blk : Nat) : Bool :=
  match s.group? (16 * sl + slot) with
  | some g => g.blk == blk && !g.exited && g.fault.isNone && g.baton.isNone
  | none => false

/-- A group takes a baton and unparks its lanes (06 R141). -/
def State.takeBaton (s : State) (sl slot n : Nat) : State :=
  match s.group? (16 * sl + slot) with
  | some g =>
    (s.putGroup (16 * sl + slot) { (g.onLanes g.live (fun _ x => { x with parked := false })) with baton := some n }).setBaton sl n (.held g.blk slot)
  | none => s

/-- A group's baton becomes unheld (06 R150); its heir is read now. -/
def State.dropBaton (s : State) (key : Nat) : State :=
  match s.group? key with
  | some g =>
    match g.baton with
    | some n =>
      let s := (s.putGroup key { g with baton := none, overCls := none }).setBaton (sliceOf key) n (.unheld g.blk)
      let x := s.slice (sliceOf key)
      s.putSlice (sliceOf key) { x with orphans := x.orphans ++ [(n, g.heir, key)] }
    | none => s
  | none => s

/-- A baton goes from its holder to a slot: the outcome code of PASS (06 R143). -/
def State.passCode (s : State) (key slot : Nat) : Nat :=
  match s.group? key with
  | none => 6
  | some g =>
    if g.baton.isNone then 6
    else if slot = slotOf key then 5
    else match s.group? (16 * sliceOf key + slot) with
      | none => 3
      | some h =>
        if h.exited then 3
        else if h.blk != g.blk then 4
        else if h.fault.isSome then 1
        else if h.baton.isSome then 2
        else 0

/-- The baton of a group moves to a slot. -/
def State.moveBaton (s : State) (key slot : Nat) : State :=
  match s.group? key with
  | some g =>
    match g.baton with
    | some n => (s.putGroup key { g with baton := none, overCls := none }).takeBaton (sliceOf key) slot n
    | none => s
  | none => s

/-- A hand-off without carry or status: to the successor, or else the baton is unheld (06 R154). -/
def State.handOn (s : State) (key slot : Nat) : State :=
  match s.group? key with
  | some g =>
    if g.baton.isNone then s
    else if s.passCode key slot = 0 then s.moveBaton key slot else s.dropBaton key
  | none => s

/-- The batons that a slice's table names, ascending. -/
def Slice.batonNums (x : Slice) : List Nat := x.batons.map (·.1)

/-- Step 2 of 06 R148: each baton made unheld in this cycle, in ascending number, goes to the heir where it can (R151). -/
def State.giveOrphans (s : State) (sl : Nat) : State :=
  let os := (s.slice sl).orphans
  let nums := (s.slice sl).batonNums
  let s := s.putSlice sl { s.slice sl with orphans := [] }
  nums.foldl (fun s n =>
    match os.find? (fun o => o.1 = n), (s.slice sl).baton n with
    | some (_, h, _), .unheld blk =>
      if h.getLsbD 4 && s.acceptable sl (h.toNat % 16) blk then s.takeBaton sl (h.toNat % 16) n else s
    | _, _ => s) s

/-- Step 3: every unheld baton is offered to the lowest acceptable group with an eligible thread (R152). -/
def State.reclaim (s : State) (sl : Nat) : State :=
  (s.slice sl).batonNums.foldl (fun s n =>
    match (s.slice sl).baton n with
    | .unheld blk =>
      (match (List.range 16).find? (fun slot => s.acceptable sl slot blk &&
          (match s.group? (16 * sl + slot) with | some g => g.eligible != 0 | none => false)) with
       | some slot => s.takeBaton sl slot n
       | none => s)
    | _ => s) s

/-! ## Barriers (06 R156-R159) -/

/-- The resident groups of a block, with their slots. -/
def State.groupsOf (s : State) (blk : Nat) : List (Nat × Group) := s.groups.filter (fun x => x.2.blk = blk)

/-- The number of a thread among a barrier's members: lane, thread of the or block and thread. -/
def threadNum (lvl : BarLvl) (b : Block) (idx lane : Nat) : Nat :=
  match lvl with
  | .grp => lane
  | .blk => 32 * idx + lane
  | .nbh | .grid => b.lin * 4096 + 32 * idx + lane

/-- Is a block the trailing copy of a twin pair? The copies have barriers of their own. -/
def Block.trails (b : Block) : Bool := match b.twin with | some (_, lead) => !lead | none => false

/-- The key of a barrier of a neighbourhood or of the grid in its launch. -/
def launchBar (lvl : BarLvl) (b : Block) (n : Nat) : Nat := if lvl == .grid then n + (if b.trails then 2 else 0) else 16 * (b.nbhId + 1) + n

/-- A barrier as it stands. -/
def State.bar (s : State) (lvl : BarLvl) (key blk n : Nat) : Bar :=
  match lvl with
  | .grp => match s.group? key with | some g => SMap.get {} g.bars n | none => {}
  | .blk => match s.block? blk with | some b => SMap.get {} b.bars n | none => {}
  | _ => match s.block? blk with
    | some b => (match s.launch? b.launch with | some l => SMap.get {} l.bars (launchBar lvl b n) | none => {})
    | none => {}

/-- A barrier replaced. -/
def State.putBar (s : State) (lvl : BarLvl) (key blk n : Nat) (x : Bar) : State :=
  match lvl with
  | .grp => match s.group? key with | some g => s.putGroup key { g with bars := g.bars.put n x } | none => s
  | .blk => match s.block? blk with | some b => s.putBlock blk { b with bars := b.bars.put n x } | none => s
  | _ => match s.block? blk with
    | some b => (match s.launch? b.launch with
      | some l => s.putLaunch b.launch { l with bars := l.bars.put (launchBar lvl b n) x }
      | none => s)
    | none => s

/-- Have all live threads of a block arrived? A saved block's have not (06 R159). -/
def State.blockArrived (s : State) (lvl : BarLvl) (blk : Nat) (x : Bar) : Bool :=
  match s.block? blk with
  | none => true
  | some b => b.ended || (b.saved.isNone && (s.groupsOf blk).all (fun y =>
      (lanesOf y.2.live).all (fun l => x.arrived.contains (threadNum lvl b y.2.idx l))))

/-- Has every member arrived in the current phase? -/
def State.barComplete (s : State) (lvl : BarLvl) (key blk : Nat) (x : Bar) : Bool :=
  match lvl with
  | .grp => match s.group? key with | some g => (lanesOf g.live).all x.arrived.contains | none => false
  | .blk => s.blockArrived .blk blk x
  | .nbh => match s.block? blk with
    | some b => (if b.mblocks = [] then [blk] else b.mblocks).all (fun m => s.blockArrived .nbh m x)
    | none => false
  | .grid => match s.launchOf? blk, s.block? blk with
    | some l, some b => l.started == l.field 335 320 * l.field 351 336 * l.field 367 352 &&
        (s.blocks.filter (fun y => y.2.launch == b.launch && y.2.trails == b.trails)).all (fun y => s.blockArrived .grid y.1 x)
    | _, _ => false

/-- A phase completes when its last member arrives; the next begins, and its waiters are to be released. -/
def State.settleBar (s : State) (lvl : BarLvl) (key blk n : Nat) : State :=
  let x := s.bar lvl key blk n
  if (x.arrived != [] || x.last != []) && s.barComplete lvl key blk x then
    (s.putBar lvl key blk n { x with phase := x.phase + 1, arrived := [] }).addDue [.barrier blk lvl n]
  else s

/-- The barriers of a level that have been used, for a group. -/
def State.barNums (s : State) (lvl : BarLvl) (key blk : Nat) : List Nat :=
  match lvl with
  | .grp => match s.group? key with | some g => g.bars.keys | none => []
  | .blk => match s.block? blk with | some b => b.bars.keys | none => []
  | .nbh => [0, 1, 2, 3]
  | .grid => [0, 1]

/-- Every barrier of which a group's threads are members settled. -/
def State.settleBars (s : State) (key blk : Nat) : State :=
  [BarLvl.grp, .blk, .nbh, .grid].foldl (fun s lvl => (s.barNums lvl key blk).foldl (fun s n => s.settleBar lvl key blk n) s) s

/-- BARRIER_RELEASE: lanes that wait on a completed phase become eligible. -/
def execBarrierRelease (blk : Nat) (lvl : BarLvl) (n : Nat) (s : State) : Host.Outcome State Fault Refusal :=
  .next (s.groups.foldl (fun s x =>
    match s.block? blk, s.block? x.2.blk, s.group? x.1 with
    | some b, some c, some g =>
      let same := match lvl with
        | .grp | .blk => g.blk == blk
        | .nbh => b.launch == c.launch && b.nbhId == c.nbhId
        | .grid => b.launch == c.launch && b.trails == c.trails
      if same then
        let ph := (s.bar lvl x.1 g.blk n).phase
        s.putGroup x.1 (g.onLanes g.live (fun _ y =>
          match y.wait with
          | .bar lv k p => if lv == lvl && k == n && p < ph then { y with wait := .none } else y
          | _ => y))
      else s
    | _, _, _ => s) s)

/-! ## Exits (11 R259) -/

/-- A follower's array free again (15 R332). -/
def State.unlend (s : State) (j : Job) : State :=
  match j.follower with
  | some (k, _) => s.putCore k { s.core k with lent := none }
  | none => s

/-- At the exit of a block's last group: jobs that are DONE or UNCORR leave their entries, UNCORR ones being consumed; one in FAULT is dropped, and its
arrays are free; the others run on (15 R327, R333). -/
def State.endJobs (s : State) (core blk : Nat) : State :=
  let mine := (s.core core).jobs.filter (fun j => j.blk == blk)
  let over_ := mine.filter (fun j => j.st == .done || j.st == .uncorr || j.st == .fault)
  let c := s.core core
  let s := s.putCore core { c with
    jobs := (c.jobs.filter (fun j => !(over_.any (fun x => x.slot == j.slot)))).map (fun j => if j.blk == blk then { j with orphan := true } else j) }
  let s := over_.foldl (fun (s : State) j =>
    match j.st with
    | .fault => s.unlend j
    | .uncorr => (s.unlend j).strike j.key j.blk (s.launchId j.blk) { cause := Cause.anvunc, pc := j.pc, lanes := j.lanes }
    | _ => s) s
  if over_ = [] then s else s.addDue [.anvil core]

/-- The batons of a block free again; one of a withdrawn region is then unbound (01 R17, 22 R390). -/
def Slice.freeBatons (x : Slice) (blk : Nat) : Slice :=
  let y := { x with batons := x.batons.filter (fun y => match y.2 with | .free => true | .unheld c => c != blk | .held c _ => c != blk) }
  { y with bound := y.bound.filter (fun b => !(y.leaving.contains b.1 && y.baton b.1 == .free)), leaving := y.leaving.filter (fun b => y.baton b != .free) }

/-- The home die of a graph (07 R166). -/
def State.graphDie (s : State) (gr : Nat) : Nat :=
  match s.graphs.find? gr with
  | some x => (match s.launch? x.launch with | some l => l.die | none => 0)
  | none => 0

/-- The stack area of a node group free again (22 R371). -/
def State.freeArea (s : State) (b : Block) : State :=
  match b.graph, b.area with
  | some gr, some a => ({ s with graphs := s.graphs.update gr (fun x => { x with areas := x.areas.filter (· != a) }) } : State).addDue [.vane (s.graphDie gr)]
  | _, _ => s

/-- What a group's end leaves to its block when it was the last: its batons free, its copies and jobs left to retire (11 R259, 14 R312,
15 R327). -/
def State.blockEnded (s : State) (blk : Nat) : State :=
  match s.block? blk with
  | none => s
  | some b =>
    -- the stack area of a node group is free when the group exits (22 R371)
    let s := (s.putBlock blk { b with ended := true, area := none }).freeArea b
    let sls := (List.range 6).map (fun i => sliceKey b.core i)
    let s := sls.foldl (fun s sl => s.putSlice sl ((s.slice sl).freeBatons blk)) s
    let c := s.core b.core
    let s := s.putCore b.core { c with
      tags := (c.tags.filter (fun t => !(t.2.blk == blk && (t.2.st == .built || t.2.st == .done || (t.2.st == .fault && t.2.flying == []))))).map (fun t =>
        if t.2.blk == blk then (t.1, { t.2 with orphan := true }) else t) }
    ((s.endJobs b.core blk).settleBars (groupKey b.core 0 0) blk).addDue [.release blk]

/-- A group with no live lane leaves its slot. -/
def State.reapOne (s : State) (key : Nat) : State :=
  match s.group? key with
  | some g =>
    if g.exited then
      let s := s.dropBaton key
      let s := { s with groups := s.groups.del key }
      if (s.groupsOf g.blk) = [] && !((s.block? g.blk).elim false (·.saved.isSome)) then s.blockEnded g.blk
      else s.settleBars key g.blk
    else s
  | none => s

/-- No live lane stands in a slot. -/
def State.goneAt (s : State) (key : Nat) : Bool := match s.group? key with | some g => g.exited | none => true

/-- A group with no live lane leaves its slot; one of a twin pair keeps its slot, without a baton, until the other copy has exited too and every
entry of the pair is compared, since a mismatch would restore it (16 R361). -/
def State.reap (s : State) (key : Nat) : State :=
  match (s.group? key).bind (fun g => g.twin.bind (fun t => (s.twins.find? t.1).map (fun x => (t.1, x)))) with
  | some (t, x) =>
    if s.goneAt x.lead && s.goneAt x.trail && x.lq.isEmpty && x.tq.isEmpty && x.flights.isEmpty then
      { (s.reapOne x.lead).reapOne x.trail with twins := s.twins.del t }
    else if s.goneAt key then s.dropBaton key else s
  | none => s.reapOne key

/-- A lane ends. -/
def Lane.exit (x : Lane) : Lane := { Lane.out with pc := x.pc, written := x.written, view := x.view }

/-- Lanes of a group end as by EXIT: arrivals, the records they hold, the future handler, what is owed to them. -/
def State.exitLanes (s : State) (key : Nat) (lanes : BitVec 32) : State :=
  match s.group? key with
  | none => s
  | some g =>
    let lanes := lanes &&& g.live
    -- a record held completes as DONE with pk true (07 R174)
    let dones : List VOp := match g.graph, g.node with
      | some gr, some n => (lanesOf lanes).filterMap (fun l => (g.lane l).held.map (fun r =>
          { take := false, graph := gr, node := n, stage := g.stage, cyc := (s.slice (sliceOf key)).tick / 10, key, lane := l, record := some r }))
      | _, _ => []
    let h := g.hlanes &&& ~~~lanes
    let act := g.futpc.getLsbD 0 && (h != 0 || g.hlanes &&& lanes == 0)
    let g := g.onLanes lanes (fun _ x => x.exit)
    -- lanes that wait for the handler's end present their LDF again when ACTIVE becomes 0 (06 R163)
    let g := if g.futpc.getLsbD 0 && !act then
        g.onLanes g.live (fun _ x => if x.wait == .future then { x with wait := .none } else x) else g
    let g := { g with hlanes := h, futpc := g.futpc &&& ~~~1 ||| (if act then 1 else 0) }
    let s := { s.putGroup key g with vops := s.vops ++ dones }
    let s := if dones = [] then s else s.addDue [.vane (s.graphDie (g.graph.getD 0))]
    s.settleBars key g.blk

end Sys2Proof.Machine
end

