-- ==== Sys2Proof/Machine/Control.lean ====
section
/-! DEFINITION. Control, baton, barrier and future instructions (spec 11, 06), with the JOIN test. -/

namespace Sys2Proof.Machine

open Sys2Proof

/-! ## NOP, transfers (11 R247-R250, R261) -/

def execNop (s : State) : Host.Outcome State Fault Refusal := onGroup s (fun g => .ok g)

/-- A lane's PC set by a transfer, with its redirect cycle (11 R247). -/
def Lane.jump (x : Lane) (pc : DWord) : Lane := { x with pc, ready := 1 }

/-- The direct target: line + 64 × LDISP + 12 × TSLOT (08 R194, 11 R248). -/
def directTarget (pc : DWord) (o : OpC) : DWord :=
  lineBase pc + (o.ldisp.signExtend 64) * 64 + BitVec.ofNat 64 (12 * o.tslot.toNat)

/-- The root of the tables that a group fetches through. -/
def State.fetchRoot (s : State) (g : Group) : DWord := match s.launchOf? g.blk with | some l => l.root | none => 0

/-- A bad target is BADTGT at the transfer (08 R191). -/
def State.checkTargets (s : State) (g : Group) (btm : Bool) (lanes : BitVec 32) (pc : Nat → DWord) : Except Trap Unit :=
  match s.badTargets s.cur.core (s.fetchRoot g) btm (lanesOf lanes) pc with
  | l :: rest => .error (s.trapIn (l :: rest) Cause.badtgt (pc l))
  | [] => .ok ()

/-- A transfer of the executing lanes to legal targets. -/
def State.transfer (s : State) (g : Group) (pc : Nat → DWord) : Except Trap Group :=
  match s.checkTargets g true s.cur.lanes pc with
  | .ok _ => .ok (g.onLanes s.cur.lanes (fun l x => x.jump (pc l)))
  | .error t => .error t

def execBra (o : OpC) (s : State) : Host.Outcome State Fault Refusal :=
  onGroup s (fun g => s.transfer g (fun _ => directTarget s.cur.pc o))

/-- The target pair of an indirect transfer, in a lane. -/
def State.targetPair (s : State) (g : Group) (x : Sel) (l : Nat) : DWord := (s.readSel g x 1 l).bits ++ (s.readSel g x 0 l).bits
/-- The first poison of a target pair in an executing lane: consumed by the transfer (23 R397). -/
def State.targetPsn (s : State) (g : Group) (x : Sel) : Option Nat :=
  (lanesOf s.cur.lanes).findSome? (fun l => (s.readSel g x 0 l).psn <|> (s.readSel g x 1 l).psn)
/-- The executing lanes whose target pair is poisoned. -/
def State.targetPsns (s : State) (g : Group) (x : Sel) : List Nat :=
  (lanesOf s.cur.lanes).filter (fun l => (s.readSel g x 0 l).psn.isSome || (s.readSel g x 1 l).psn.isSome)
/-- The executing lanes whose predicate operand is poisoned. -/
def State.predPsns (s : State) (g : Group) (x : Sel) : List Nat := (lanesOf s.cur.lanes).filter (fun l => (s.sourceP g x l).psn.isSome)

def execBrx (o : OpC) (s : State) : Host.Outcome State Fault Refusal :=
  onGroup s (fun g =>
    match s.targetPsn g o.sa with
    | some p => .error (s.consumedIn g (s.targetPsns g o.sa) p)
    | none => s.transfer g (s.targetPair g o.sa))

/-- BRV: one decision for all executing lanes, from how many hold the predicate (11 R250). -/
def execBrv (o : OpC) (take : Nat → Nat → Bool) (s : State) : Host.Outcome State Fault Refusal :=
  onGroup s (fun g =>
    let e := lanesOf s.cur.lanes
    match e.findSome? (fun l => (s.sourceP g o.sa l).psn) with
    | some p => .error (s.consumedIn g (s.predPsns g o.sa) p)
    | none =>
      if e ≠ [] && take (e.filter (fun l => (s.sourceP g o.sa l).b)).length e.length then
        s.transfer g (fun _ => directTarget s.cur.pc o)
      else .ok g)

def execBrvAny (o : OpC) (s : State) : Host.Outcome State Fault Refusal := execBrv o (fun n _ => n > 0) s
def execBrvAll (o : OpC) (s : State) : Host.Outcome State Fault Refusal := execBrv o (fun n e => n == e) s
def execBrvNone (o : OpC) (s : State) : Host.Outcome State Fault Refusal := execBrv o (fun n _ => n == 0) s

/-! ## Calls and returns (11 R251-R253) -/

/-- A call: targets, then spill accesses checked for every lane; then spills, pushes and transfers. -/
def execCallTo (psn : Group → Option (List Nat × Nat)) (pc : Group → Nat → DWord) (s : State) : Host.Outcome State Fault Refusal :=
  onState s (fun g t =>
    match psn g with
    | some (l, p) => .error (s.consumedIn g l p)
    | none =>
      match s.checkTargets g true s.cur.lanes (pc g), t.block? g.blk with
      | .error e, _ => .error e
      | .ok _, none => .ok t
      | .ok _, some b =>
        -- the return address: the instruction that follows on the path, be it on a later line (11 R252)
        let back := s.firstSlot s.cur.core (s.fetchRoot g) s.cur.npc (2 ^ 42)
        let full := (lanesOf s.cur.lanes).filter (fun l => (g.lane l).stk.length ≥ 16)
        let (bads, accs, t) := t.formAccs s.cur.core b (g.brecAt 15) true .write false 8 (full.map (fun l => (l, (32 * (g.lane l).spc + l) % 2 ^ 32)))
        match worstBad bads with
        | some x => .error (s.badTrap bads x)
        | none =>
          match failedAcc accs with
          | some (c, a) => .error (s.accTrap accs (·.fail.isSome) c a)
          | none =>
            -- of several denied lanes the lowest names the address (11 R252)
            match accs.find? (t.deniedTo b) with
            | some a => .error (s.accTrap accs (t.deniedTo b) (Cause.global .write) a.ga)
            | none =>
              let accs := accs.map (fun a => { a with data := leBytes 8 ((g.lane a.lane).stk.headD 0).toNat })
              let g := g.onLanes (accLanes accs) (fun _ x => { x with stk := x.stk.drop 1, spc := x.spc + 1 })
              let g := if full = [] then g else { g with rsspill := true }
              let g := g.onLanes s.cur.lanes (fun l x => { x.jump (pc g l) with stk := x.stk ++ [back] })
              .ok (if accs = [] then t.setCur g else (t.setCur g).addReq s.cur.core (s.reqOf g b .store accs)))

def execCall (o : OpC) (s : State) : Host.Outcome State Fault Refusal :=
  execCallTo (fun _ => none) (fun _ _ => directTarget s.cur.pc o) s
def execCallx (o : OpC) (s : State) : Host.Outcome State Fault Refusal :=
  execCallTo (fun g => (s.targetPsn g o.sa).map (fun p => (s.targetPsns g o.sa, p))) (fun g => s.targetPair g o.sa) s

/-- RET: its fills are performed as it issues, once they may be (11 R251, log 25); one that fails gives poison, which the RET consumes, and it takes its
side-table entry (11 R253, 23 R396). -/
def execRet (s : State) : Host.Outcome State Fault Refusal :=
  match s.group? s.cur.key with
  | none => .next s
  | some g0 =>
    let g := g0.advance s.cur
    let e := lanesOf s.cur.lanes
    let trap (h : Group) (t : Trap) : Host.Outcome State Fault Refusal := .next (s.putGroup s.cur.key (h.raise t)).tickFree
    let none_ := e.filter (fun l => (g.lane l).stk = [] && (g.lane l).spc = 0)
    if none_ ≠ [] then trap g0 (s.trapIn none_ Cause.rsempty 0)
    else match s.block? g.blk with
      | none => .next s
      | some b =>
        let low := e.filter (fun l => (g.lane l).stk = [])
        let (bads, accs, t) := s.formAccs s.cur.core b (g.brecAt 15) true .read false 8
          (low.map (fun l => (l, (32 * ((g.lane l).spc - 1) + l) % 2 ^ 32)))
        match worstBad bads, accs.find? (fun a => a.fail == some Cause.memunc) with
        | some x, _ => trap g0 (s.badTrap bads x)
        -- an error that a table walk meets is consumed there (23 R410)
        | none, some a => trap g0 (s.accTrap accs (fun a => a.fail == some Cause.memunc) Cause.memunc a.ga)
        | none, none =>
          let r := { s.reqOf g b .load accs with id := s.uid }
          let c := t.core s.cur.core
          let t := if accs = [] then t else
            { (t.putCore s.cur.core { c with clinereq := (c.clinereq + linesOf accs) % 2 ^ 64 }).countLines s.cur.core accs with
              cur := { t.cur with probe := some r } }
          let p := t.eachAcc (fun t a => t.readAcc s.cur.core r a) accs
          let p := (p.1, p.2.countBad accs p.1)
          match p.1.find? (fun a => a.fail.isSome) with
          | some a =>
            let q := g0.takeEntry a.ga s.cur.pc (a.fail.getD 0)
            .next (p.2.putGroup s.cur.key (q.2.raise (s.consumedIn q.2 ((p.1.filter (·.fail.isSome)).map (·.lane)) q.1))).tickFree
          | none =>
            let pc (l : Nat) : DWord :=
              match (g.lane l).stk.getLast? with
              | some a => a
              | none => (p.1.find? (fun a => a.lane == l)).elim 0 (fun a => BitVec.ofNat 64 (leNat a.res))
            match s.checkTargets g false s.cur.lanes pc with
            | .error x => .next (p.2.putGroup s.cur.key (g0.raise x)).tickFree
            | .ok _ =>
              .next (p.2.putGroup s.cur.key (g.onLanes s.cur.lanes (fun l x =>
                if x.stk = [] then { x.jump (pc l) with spc := x.spc - 1 } else { x.jump (pc l) with stk := x.stk.dropLast }))).tickFree

/-! ## Masks and votes (11 R255) -/

/-- A mask source: a mask register or the immediate. -/
def State.maskSrc (s : State) (g : Group) (f : Form) (o : OpA) (k : Nat) : Word :=
  match (Op.a o).sel k with
  | .m n => g.mAt n.toNat
  | .imm => (s.source g f 0 (.a o) k 0).bits
  | _ => 0

/-- A form that writes a mask register once, when a lane executes it. -/
def execMask (o : OpA) (op : Group → Word) (s : State) : Host.Outcome State Fault Refusal :=
  onGroup s (fun g => .ok (if s.cur.lanes == 0 then g else g.setM o.dst.num (op g)))

/-- The executing lanes in which a predicate holds. -/
def State.ballot (s : State) (g : Group) (x : Sel) : Word := maskOf (fun l => s.cur.lanes.getLsbD l && (s.sourceP g x l).b)
/-- The poison of the lowest executing lane whose predicate is poisoned. -/
def State.ballotPsn (s : State) (g : Group) (x : Sel) : Option Nat := (lanesOf s.cur.lanes).findSome? (fun l => (s.sourceP g x l).psn)

def execMballot (o : OpA) (s : State) : Host.Outcome State Fault Refusal :=
  onGroup s (fun g =>
    match s.ballotPsn g o.sa with
    | some p => .error (s.consumedIn g (s.predPsns g o.sa) p)
    | none => .ok (if s.cur.lanes == 0 then g else g.setM o.dst.num (s.ballot g o.sa)))

/-- A member of MLOG. -/
def execMlog (f : Form) (op : Logic) (o : OpA) (s : State) : Host.Outcome State Fault Refusal :=
  execMask o (fun g => op.word (s.maskSrc g f o 2) (s.maskSrc g f o 3)) s

def execMlogAnd (o : OpA) (s : State) : Host.Outcome State Fault Refusal := execMlog Forms.mlogAnd .and o s
def execMlogOr (o : OpA) (s : State) : Host.Outcome State Fault Refusal := execMlog Forms.mlogOr .or o s
def execMlogXor (o : OpA) (s : State) : Host.Outcome State Fault Refusal := execMlog Forms.mlogXor .xor o s
def execMlogAndn (o : OpA) (s : State) : Host.Outcome State Fault Refusal := execMlog Forms.mlogAndn .andn o s
def execMlogMov (o : OpA) (s : State) : Host.Outcome State Fault Refusal := execMlog Forms.mlogMov .mov o s

def execMtest (o : OpA) (s : State) : Host.Outcome State Fault Refusal :=
  onGroup s (fun g => s.writeLanes g o.dst (fun l => [⟨truth ((g.mAt o.sa.num).getLsbD l), none⟩]))
def execMpop (o : OpA) (s : State) : Host.Outcome State Fault Refusal :=
  onGroup s (fun g => s.writeSame g o.dst [⟨BitVec.ofNat 32 (popcount (g.mAt o.sa.num)), none⟩])

/-- A vote: one value in every executing lane, poisoned when a source is. -/
def execVote (o : OpA) (op : Word → Word) (s : State) : Host.Outcome State Fault Refusal :=
  onGroup s (fun g => s.writeSame g o.dst [⟨op (s.ballot g o.sa), s.ballotPsn g o.sa⟩])

def execVoteAny (o : OpA) (s : State) : Host.Outcome State Fault Refusal := execVote o (fun b => truth (b != 0)) s
def execVoteAll (o : OpA) (s : State) : Host.Outcome State Fault Refusal := execVote o (fun b => truth (b == s.cur.lanes)) s
def execVoteBallot (o : OpA) (s : State) : Host.Outcome State Fault Refusal := execVote o id s

/-! ## JOIN (06 R160, 03 R71) -/

def execJoin (o : OpC) (s : State) : Host.Outcome State Fault Refusal :=
  onGroup s (fun g =>
    let mk := o.sa.num
    .ok (g.onLanes (s.cur.lanes &&& g.mAt mk) (fun _ x => { x with wait := .join mk })))

/-- The lanes that wait at a JOIN that names a mask. -/
def Group.joiners (g : Group) (m : Nat) : BitVec 32 := maskOf (fun l => !(g.lane l).exited && (g.lane l).wait == .join m)

/-- Is every live lane of a mask waiting at a JOIN that names it? -/
def Group.joinReady (g : Group) (m : Nat) : Bool := g.joiners m != 0 && (g.mAt m &&& g.live) &&& ~~~(g.joiners m) == 0

/-- The merge of the uniform registers of released lanes (03 R71): one value, no written bit, one view; where the other live lanes have all eight views, view
0 (log 51). -/
def Group.merge (g : Group) (lanes : BitVec 32) : Group :=
  let ls := lanesOf lanes
  let others := (lanesOf (g.live &&& ~~~lanes)).map (fun l => (g.lane l).view)
  let view := ((List.range 8).find? (fun k => !others.contains k)).getD 0
  let vals := (List.range 64).map (fun n =>
    g.uAt n (match ls.find? (fun l => (g.lane l).written.getLsbD n) with | some l => l | none => ls.headD 0))
  let g := ls.foldl (fun g l => (vals.zipIdx).foldl (fun g x => g.setU x.2 l x.1) g) g
  g.onLanes lanes (fun _ x => { x with written := 0, view })

/-- JOIN_TEST: at the end of a core cycle, each waited-on mask. -/
def execJoinTest (key : Nat) (s : State) : Host.Outcome State Fault Refusal :=
  .next (match s.group? key with
    | none => s
    | some g => s.putGroup key ((List.range 8).foldl (fun g m =>
        if g.joinReady m then
          let r := g.joiners m
          (g.onLanes r (fun _ x => { x with wait := .none })).merge r
        else g) g))

/-! ## PASS (06 R142-R149) -/

/-- The codes of PASS. -/
def passNone : Nat := 7

/-- Registers carried into the successor, in the lanes that executed (06 R144): as the PASS reads them, unpredictable inside a latency (08 R202). In the
successor they are then within no latency of its own. -/
def State.carryInto (s : State) (g h : Group) (lanes : BitVec 32) (regs : List Nat) : Group :=
  ((lanesOf lanes).foldl (fun h l => regs.foldl (fun h r => h.setV r l (s.readV g r l)) h) h).onLanes lanes (fun _ x =>
    if x.exited then x else { x with haz := x.haz.filter (fun y => !regs.contains y.1), pairs := x.pairs.filter (fun y => !regs.contains y.1) })

/-- PASS and PASS.ANY: `pick` gives the outcome code and the slot, from the successor's value. A bad successor traps before the poison of a carried
register does (log 60). -/
def execPassTo (o : OpC) (width : Nat) (pick : Group → State → Nat → Nat × Nat) (s : State) : Host.Outcome State Fault Refusal :=
  onState s (fun g t =>
    if s.cur.lanes == 0 then .ok t
    else
      let v := s.successor g o.sa (o.ldisp.extractLsb' 0 16).toNat
      match s.succTrap g v width with
      | some e => .error e
      | none =>
        let regs := match o.carry with | .v n => (List.range (o.clen.toNat + 1)).map (n.toNat + ·) | _ => []
        match (lanesOf s.cur.lanes).findSome? (fun l => regs.findSome? (fun r => (s.readV g r l).psn)) with
        | some p => .error (s.consumedIn g ((lanesOf s.cur.lanes).filter (fun l => regs.any (fun r => (s.readV g r l).psn.isSome))) p)
        | none =>
          let (code, slot) := pick g t (v.elim 0 (·.bits.toNat))
          match s.writeSame g o.d2 [⟨BitVec.ofNat 32 code, none⟩] with
          | .error e => .error e
          | .ok h =>
            match s.writeSame h o.d1 [⟨truth (code == 0), none⟩] with
            | .error e => .error e
            | .ok h =>
              let t := t.setCur h
              if code = 0 then
                let t := t.moveBaton s.cur.key slot
                let key := groupKey s.cur.core s.cur.slice slot
                let cyc := (t.slice (sliceKey s.cur.core s.cur.slice)).cyc
                .ok (match t.group? key with
                  | some k => t.putGroup key { s.carryInto g k s.cur.lanes regs with
                      carried := k.carried.filter (fun y => cyc < y.2) ++ regs.map (fun r => (rkV r, cyc + 5 + (t.core s.cur.core).passes - 1)) }
                  | none => t)
              else .ok t)

def execPass (o : OpC) (s : State) : Host.Outcome State Fault Refusal :=
  execPassTo o 4 (fun _ t n => (t.passCode s.cur.key n, n)) s

/-- The candidate that PASS.ANY chooses: from the slot after the passer's own, an acceptable one with an eligible thread, else an acceptable one. -/
def State.candidate (s : State) (key blk set : Nat) : Option Nat :=
  let sl := sliceOf key
  let order := ((List.range 16).map (fun i => (slotOf key + 1 + i) % 16)).filter (fun k => set.testBit k && s.acceptable sl k blk)
  match order.find? (fun k => match s.group? (16 * sl + k) with | some h => h.eligible != 0 | none => false) with
  | some k => some k
  | none => order.head?

def execPassAny (o : OpC) (s : State) : Host.Outcome State Fault Refusal :=
  execPassTo o 16 (fun g t set =>
    if g.baton.isNone then (6, 0)
    else match t.candidate s.cur.key g.blk set with
      | some k => (0, k)
      | none => (passNone, 0)) s

/-! ## PARK, EXIT (06 R153, 11 R259) -/

/-- After a PARK or TRET.W: with no eligible thread left the baton becomes unheld, now or, when the cycle's other instruction takes the last one, at the
end of the cycle (06 R148, R150). -/
def State.yieldBaton (s : State) (key : Nat) : State :=
  match s.group? key with
  | some h => if h.eligible == 0 then s.dropBaton key else s.putGroup key { h with yielded := true }
  | none => s

def execPark (s : State) : Host.Outcome State Fault Refusal :=
  onState s (fun g t =>
    .ok (if s.cur.lanes == 0 then t
      else (t.setCur (g.onLanes s.cur.lanes (fun _ x => { x with parked := true }))).yieldBaton s.cur.key))

def execExit (s : State) : Host.Outcome State Fault Refusal :=
  onState s (fun _ t => .ok (t.exitLanes s.cur.key s.cur.lanes))

/-! ## Barriers (06 R156-R158, 11 R260) -/

/-- Barrier number of an instruction. -/
def barNum (o : OpC) : Nat := o.d1.num % 8

/-- The arrival of the executing lanes; a second one in a phase is BARTWICE. -/
def State.barArrive (s : State) (t : State) (g : Group) (b : Block) (lvl : BarLvl) (n : Nat) : Except Trap State :=
  let x := t.bar lvl s.cur.key g.blk n
  let ths := (lanesOf s.cur.lanes).map (threadNum lvl b g.idx)
  let twice := (lanesOf s.cur.lanes).filter (fun l => x.arrived.contains (threadNum lvl b g.idx l))
  if twice ≠ [] then .error (s.trapIn twice Cause.bartwice 0)
  else
    let y := { x with arrived := x.arrived ++ ths, last := ths.foldl (fun m th => m.put th (x.phase + 1)) x.last }
    .ok ((t.putBar lvl s.cur.key g.blk n y).settleBar lvl s.cur.key g.blk n)

/-- The executing lanes wait until the phase of their latest arrival completes. -/
def State.barWait (s : State) (t : State) (b : Block) (lvl : BarLvl) (n : Nat) (succ : Option Val) : State :=
  match t.group? s.cur.key with
  | none => t
  | some g =>
    let x := t.bar lvl s.cur.key g.blk n
    let g := g.onLanes s.cur.lanes (fun l y =>
      let p := SMap.get 0 x.last (threadNum lvl b g.idx l)
      if p = x.phase + 1 then { y with wait := .bar lvl n x.phase } else y)
    t.setCur { g with hands := g.hands ++ (match succ with | some v => [(0, some v.bits.toNat, s.e4)] | none => []) }

/-- The three forms: whether they arrive, and whether they wait. -/
def execBar (lvl : BarLvl) (o : OpC) (arrive wait : Bool) (s : State) : Host.Outcome State Fault Refusal :=
  onState s (fun g t =>
    if s.cur.lanes == 0 then .ok t
    else match t.block? g.blk with
      | none => .ok t
      | some b =>
        let v := if wait then s.successor g o.sa (o.ldisp.extractLsb' 0 16).toNat else none
        match s.succTrap g v 4 with
        | some e => .error e
        | none =>
          match (if arrive then s.barArrive t g b lvl (barNum o) else .ok t) with
          | .error e => .error e
          | .ok t => .ok (if wait then s.barWait t b lvl (barNum o) v else t))

def execBarArrive (lvl : BarLvl) (o : OpC) (s : State) : Host.Outcome State Fault Refusal := execBar lvl o true false s
def execBarWait (lvl : BarLvl) (o : OpC) (s : State) : Host.Outcome State Fault Refusal := execBar lvl o false true s
def execBarSync (lvl : BarLvl) (o : OpC) (s : State) : Host.Outcome State Fault Refusal := execBar lvl o true true s

/-! ## Futures (06 R162-R165, 14 R309, R310) -/

/-- The request that stands for the demands of a group's LDF.rem at an address (05 R127). -/
def State.asking (s : State) (core key : Nat) (pc : DWord) : Option Req := (s.core core).reqs.find? (fun q => q.asks && q.key == key && q.pc == pc)

/-- LDF: the words are tested as it issues (log 25). Full lanes complete as a load; empty ones enter the handler, or wait for its end. -/
def execLdf (o : OpM) (s : State) : Host.Outcome State Fault Refusal :=
  onState s (fun g t =>
    match t.block? g.blk with
    | none => .ok t
    | some b =>
      let all := lanesOf s.cur.lanes
      let psn (l : Nat) : Option Nat := (s.index g o l).psn
      let (bads, accs, t) := t.formAccs s.cur.core b (g.brecAt o.brec.toNat) ((g.brecAt o.brec.toNat).oobf == 1) .read true 4
        (s.idxs g o (all.filter (fun l => (psn l).isNone)))
      match worstBad bads, accs.find? (fun a => a.fail == some Cause.memunc) with
      | some x, _ => .error (s.badTrap bads x)
      -- an error that a table walk meets is consumed there (23 R410)
      | none, some a => .error (s.accTrap accs (fun a => a.fail == some Cause.memunc) Cause.memunc a.ga)
      | none, none =>
        let ask := t.asking s.cur.core s.cur.key s.cur.pc
        let r := { s.reqOf g b .ldf accs with
          id := s.uid, ty := Forms.ldf.effTy (.m o), scope := o.scope.toNat, acq := true, rem := o.rem, dst := o.data
          promo := match ask with | some q => q.promo | none => [] }
        let t : State := { t with cur := { t.cur with probe := some r } }
        let t := match ask with | some q => t.delReq s.cur.core q.id | none => t
        let asleep := accs.filter (fun a => a.st == .todo && !t.denied b.region a.loc && !t.isFull a.loc)
        let rest := accs.filter (fun a => !(asleep.any (fun x => x.lane == a.lane)))
        let es := accLanes asleep
        let addr := (asleep.headD { lane := 0, ga := 0, loc := 0, n := 4 }).ga
        let act := g.futpc.getLsbD 0
        let handler : DWord := g.futh &&& ~~~3
        -- a trap for what the words hold waits as they do: the state it leaves keeps the probe
        let trap (x : Trap) : Except Trap State := .ok { s.raiseAt s.cur.key x with cur := t.cur }
        if asleep ≠ [] && !g.futh.getLsbD 0 then trap (s.trapIn (lanesOf es) Cause.futnoh addr)
        else if asleep ≠ [] && act && es &&& g.hlanes != 0 then trap (s.trapIn (lanesOf (es &&& g.hlanes)) Cause.futnest addr)
        else
          match (if asleep ≠ [] && !act then s.checkTargets g true es (fun _ => handler) else .ok ()) with
          | .error e => trap e
          | .ok _ =>
            let g := all.foldl (fun g l => match psn l with | some p => s.poisonLane g o.data 1 l p | none => g) g
            let g :=
              if asleep = [] then g
              else if act then g.onLanes es (fun _ x => { x with pc := s.cur.pc, wait := .future })
              else { (g.onLanes es (fun _ x => x.jump handler)) with
                futpc := s.cur.pc &&& ~~~1 ||| 1, futaddr := addr, hlanes := es }
            if rest = [] then .ok (t.setCur g)
            else
              let r := { r with accs := rest, lanes := accLanes rest }
              let t := t.setCur (g.addPend r.lanes (regsOf o.data 1))
              let p := t.eachAcc (fun t a => t.readAcc s.cur.core r a) rest
              .ok ((p.2.countBad rest p.1).addReq s.cur.core { r with accs := p.1 }))

/-- TRET and TRET.W: back to FUTPC.PC; with `wait`, once the word at FUTADDR is full. -/
def execTretTo (wait : Bool) (s : State) : Host.Outcome State Fault Refusal :=
  onState s (fun g t =>
    let pc : DWord := g.futpc &&& ~~~1
    if s.cur.lanes == 0 then .ok t
    else if !g.futpc.getLsbD 0 then .error (s.trapOf Cause.tretnone)
    else if s.cur.lanes &&& ~~~g.hlanes != 0 then .error (s.trapIn (lanesOf (s.cur.lanes &&& ~~~g.hlanes)) Cause.tretnone 0)
    else match s.checkTargets g false s.cur.lanes (fun _ => pc), t.block? g.blk with
      | .error e, _ => .error e
      | .ok _, none => .ok t
      | .ok _, some b =>
        let h := g.hlanes &&& ~~~s.cur.lanes
        let g := g.onLanes s.cur.lanes (fun _ x => { x.jump pc with wait := if wait then .word else x.wait })
        let g := { g with hlanes := h, futpc := pc ||| (if h == 0 then 0 else 1) }
        let g := if h == 0 then g.onLanes g.live (fun _ x => if x.wait == .future then { x with wait := .none } else x) else g
        let t := t.setCur g
        if !wait then .ok t
        else
          let accs : List Acc := (lanesOf s.cur.lanes).map (fun l =>
            match s.scratch b g.futaddr with
            | some loc => { lane := l, ga := g.futaddr, loc, n := 4 }
            | none => { lane := l, ga := g.futaddr, loc := 0, n := 4, st := .done })
          let t := t.addReq s.cur.core (s.reqOf g b .tretw accs)
          .ok (t.yieldBaton s.cur.key))

def execTret (s : State) : Host.Outcome State Fault Refusal := execTretTo false s
def execTretW (s : State) : Host.Outcome State Fault Refusal := execTretTo true s

/-! ## HINT.IDLE's end (16 R363) -/

/-- HINT_IDLE_WAKE: idle lanes of a slice whose tick has come become eligible. -/
def execHintIdleWake (sl : Nat) (s : State) : Host.Outcome State Fault Refusal :=
  let now := (s.slice sl).tick
  .next (s.groups.foldl (fun s x =>
    if sliceOf x.1 = sl then
      s.putGroup x.1 (x.2.onLanes x.2.live (fun _ y =>
        match y.wait with | .idle k => if k ≤ now then { y with wait := .none } else y | _ => y))
    else s) s)

end Sys2Proof.Machine
end

