-- ==== Sys2Proof/Machine/Nodes.lean ====
section
/-! DEFINITION. Nodes of a graph at Vane: bins, stage queues, overflow areas, the lottery, join tables, and what a record's arrival or the end of its step
does there (spec 07 R166-R180). -/

namespace Sys2Proof.Machine

open Sys2Proof

/-! ## Nodes -/

/-- A field of a node's control part (07 R166). -/
def Node.fld (n : Node) (hi lo : Nat) : Nat := field n.desc.toNat hi lo
/-- PLW of a node. -/
def Node.plw (n : Node) : Nat := n.fld 217 213
/-- NSTAGE of a node. -/
def Node.nstage (n : Node) : Nat := n.fld 221 218
/-- CAP of a node. -/
def Node.cap (n : Node) : Nat := n.fld 271 256

/-- A node of a graph. -/
def State.node? (s : State) (gr n : Nat) : Option Node := (s.graphs.find? gr).bind (fun x => x.nodes[n]?)

/-- A graph changed. -/
def State.onGraph (s : State) (gr : Nat) (f : Graph → Graph) : State := { s with graphs := s.graphs.update gr f }
/-- A node of a graph replaced. -/
def Graph.setNode (g : Graph) (n : Nat) (x : Node) : Graph := { g with nodes := g.nodes.set n x }
/-- The queue of a node. -/
def Node.queue (n : Node) (q : Nat) : NQueue := n.queues.getD q {}
/-- A queue of a node replaced. -/
def Node.setQueue (n : Node) (q : Nat) (x : NQueue) : Node := { n with queues := n.queues.set q x }

/-- Records that wait for a queue, in it and in the overflow area. -/
def Node.depth (n : Node) (q : Nat) : Nat := (n.queue q).recs.length + (n.ovf.filter (fun x => x.1 = q)).length

/-- A record put in a queue, or in the overflow area; none when neither has room (07 R171). -/
def Node.put (n : Node) (q : Nat) (r : Rec) : Option Node :=
  let x := n.queue q
  if x.recs.length < n.cap && !(n.ovf.any (fun y => y.1 = q)) then some (n.setQueue q { x with recs := x.recs ++ [r] })
  else if n.ovf.length < 32 * n.fld 287 272 then some { n with ovf := n.ovf ++ [(q, r)] }
  else none

/-- Records of the overflow area that move into their queue, oldest first, as room appears. -/
def Node.refill (n : Node) (q : Nat) : Nat → Node
  | 0 => n
  | k + 1 =>
    match n.ovf.find? (fun x => x.1 = q) with
    | some y =>
      if (n.queue q).recs.length < n.cap then
        ({ n.setQueue q { n.queue q with recs := (n.queue q).recs ++ [y.2] } with ovf := n.ovf.erase y } : Node).refill q k
      else n
    | none => n

/-- One step of a node's generator (07 R180). -/
def nextGen (g : Word) : Word :=
  let g := g ^^^ (g <<< 13)
  let g := g ^^^ (g >>> 17)
  g ^^^ (g <<< 5)

/-- The weight of a stage. -/
def stageWeight (p d : Nat) : Nat := max 1 ((1025 - p) * 256 / (d + 16))

/-- The first of some weighted stages whose running sum exceeds `r`. -/
def pickStage (r : Nat) : List (Nat × Nat) → Nat
  | [] => 0
  | [x] => x.1
  | x :: l => if r < x.2 then x.1 else pickStage (r - x.2) l

/-- Stages that a record has still to pass. -/
def Node.remaining (n : Node) (r : Rec) : List Nat := (List.range n.nstage).filter (fun k => !r.donebits.testBit k)

/-- The lottery: the stage drawn, and the node with its generator advanced (07 R180). -/
def Node.draw (n : Node) (r : Rec) : Nat × Node :=
  let w := (n.remaining r).map (fun k => (k, stageWeight (n.queue k).prate (n.depth k)))
  let total := w.foldl (fun t x => t + x.2) 0
  let g := nextGen n.gen
  (pickStage (g.toNat % max 1 total) w, { n with gen := g })

/-- A record put in a queue of a node, or waiting at Vane behind what waits there already. -/
def Graph.enqueue (g : Graph) (n q : Nat) (r : Rec) : Graph :=
  match g.nodes[n]? with
  | none => g
  | some x =>
    if g.waiting.any (fun y => y.1 == n && y.2.1 == some q) then { g with waiting := g.waiting ++ [(n, some q, r)] }
    else match x.put q r with
      | some y => g.setNode n y
      | none => { g with waiting := g.waiting ++ [(n, some q, r)] }

/-- A record past a node's join: into the bin of a plain node, or routed to a stage. -/
def Graph.enter (g : Graph) (n : Nat) (r : Rec) : Graph :=
  match g.nodes[n]? with
  | none => g
  | some x =>
    if x.nstage = 0 then g.enqueue n 0 r
    else let d := x.draw r; (g.setNode n d.2).enqueue n d.1 r

/-! ## Joins and arrivals (07 R170, R177-R179) -/

/-- An arrival at a join node: what the join table becomes, and the record that goes on, if any; none when the table is full (07 R177). -/
def Node.join (x : Node) (full : Bool) (r : Rec) : Option (Node × Option Rec) :=
  let all := x.fld 223 222 = 1
  let need := x.fld 231 224
  let rest := x.joins.filter (fun j => j.1 != r.key)
  match x.joins.find? (fun j => j.1 == r.key) with
  | none =>
    if full then none
    else some ({ x with joins := x.joins ++ [(r.key, 1, r, r.psn)] }, if all then none else some r)
  | some (k, n, first, p) =>
    let p := match p with | some y => some y | none => r.psn
    if all then
      if n + 1 = need then some ({ x with joins := rest }, some { first with psn := p })
      else some ({ x with joins := rest ++ [(k, n + 1, first, p)] }, none)
    else
      let x := { x with discpois := (x.discpois + if r.psn.isSome then 1 else 0) % 2 ^ 32 }
      if n + 1 = need then some ({ x with joins := rest }, none) else some ({ x with joins := rest ++ [(k, n + 1, first, p)] }, none)

/-- Join entries in use on a die. -/
def State.joinsUsed (s : State) (die : Nat) : Nat :=
  s.graphs.foldl (fun u g => if s.graphDie g.1 = die then u + g.2.nodes.foldl (fun u n => u + n.joins.length) 0 else u) 0

/-- A record reaches a node: counted, joined, put or routed (07 R170, R177, R178, R182). -/
def Graph.arrive (g : Graph) (full : Bool) (n : Nat) (r : Rec) : Graph :=
  let r := { r with node := n, donebits := 0 }
  match g.nodes[n]? with
  | none => g
  | some x =>
    -- a new key stands behind the keys that wait for an entry
    if g.waiting.any (fun y => y.1 == n && y.2.1 == none) && !(x.joins.any (fun j => j.1 == r.key)) then { g with waiting := g.waiting ++ [(n, none, r)] }
    else
      let y := { x with arrived := (x.arrived + 1) % 2 ^ 64 }
      if x.fld 223 222 = 0 then (g.setNode n y).enter n r
      else match y.join full r with
        | none => { g with waiting := g.waiting ++ [(n, none, r)] }
        | some (z, out) => match out with | some o => (g.setNode n z).enter n o | none => g.setNode n z

/-- A stage's statistics after a record that finishes it (07 R179). -/
def Node.finished (n : Node) (q : Nat) (kept : Bool) : Node :=
  let x := n.queue q
  let x := { x with fin := x.fin + 1, kept := x.kept + if kept then 1 else 0 }
  let w := 2 ^ n.fld 212 209
  if x.fin = w then { n.setQueue q { x with prate := x.kept * 1024 / w, fin := 0, kept := 0 } with windows := (n.windows + 1) % 2 ^ 32 }
  else n.setQueue q x

/-- A record's current step completes at Vane (07 R174, R178). -/
def Graph.finish (g : Graph) (full : Bool) (n : Nat) (stage : Option Nat) (kept : Bool) (r : Rec) : Graph :=
  match g.nodes[n]? with
  | none => g
  | some x =>
    match stage with
    | none => g.setNode n (if kept then { x with retired := (x.retired + 1) % 2 ^ 64 } else { x with dropped := (x.dropped + 1) % 2 ^ 32 })
    | some q =>
      let x := x.finished q kept
      if !kept then g.setNode n { x with dropped := (x.dropped + 1) % 2 ^ 32 }
      else
        let r := { r with donebits := r.donebits ||| 2 ^ q }
        if x.remaining r = [] then
          if x.fld 239 232 = 0xFF then g.setNode n { x with retired := (x.retired + 1) % 2 ^ 64 }
          else (g.setNode n x).arrive full (x.fld 239 232) r
        else let d := x.draw r; (g.setNode n d.2).enqueue n d.1 r

/-! ## Records that leave (07 R171, R172, R175) -/

/-- A queue left with some records: with none, its timer stops (07 R172). -/
def NQueue.left (q : NQueue) (l : List Rec) : NQueue := if l = [] then { q with recs := [], timer := none, expired := false } else { q with recs := l }

/-- The first records of a queue leave it; those of the overflow area move up as room appears (07 R171). -/
def Node.drop (n : Node) (q k : Nat) : Node :=
  let l := (n.queue q).recs.drop k
  let m := n.setQueue q { n.queue q with recs := l }
  let m := m.refill q m.ovf.length
  m.setQueue q ((m.queue q).left (m.queue q).recs)

/-- The oldest record of a queue leaves it. -/
def Node.pop (n : Node) (q : Nat) : Option (Rec × Node) :=
  match (n.queue q).recs with
  | r :: _ => some (r, n.drop q 1)
  | [] => none

/-! ## Order (07 R170, R178) -/

/-- The place of an event in a core cycle's order (07 R170, R178). -/
def Emitted.order (e : Emitted) : Nat := ((e.cyc * 512 + e.core) * 8 + e.slice) * 32 + e.lane
def VOp.order (o : VOp) : Nat := ((o.cyc * 512 + coreOf o.key) * 8 + sliceOf o.key % 6) * 32 + o.lane

/-- The earliest of some elements. -/
def earliest {α : Type} (f : α → Nat) (l : List α) : Option α :=
  l.foldl (fun m x => match m with | none => some x | some y => if f x < f y then some x else some y) none

/-! ## Room (07 R171, 16 R347) -/

/-- A record sent, or a TAKE or DONE on its way, in the order in which Vane meets them. -/
inductive Event where
  | sent (e : Emitted)
  | op (o : VOp)
  deriving DecidableEq, Repr

/-- The place of an event in the order. -/
def Event.order : Event → Nat
  | .sent e => e.order
  | .op o => o.order

/-- Events in rising order; of two at one place the one listed first. -/
def insertEvent (x : Event) : List Event → List Event
  | [] => [x]
  | y :: l => if x.order < y.order then x :: y :: l else y :: insertEvent x l

/-- What an event does to its graph. -/
def State.meets (s : State) (gr : Nat) (x : Event) : State :=
  let full := s.joinsUsed (s.graphDie gr) ≥ 4096
  match x with
  | .sent e => s.onGraph gr (fun g => g.arrive full e.record.node e.record)
  | .op o => s.onGraph gr (fun g =>
      if o.take then (match (g.nodes[o.node]?).bind (fun n => n.pop (o.stage.getD 0)) with | some (_, n) => g.setNode o.node n | none => g)
      else match o.record with | some r => g.finish full o.node o.stage o.kept r | none => g)

/-- Arrivals that wait at the Vane of a graph once everything on its way, and some records more, have arrived. -/
def State.waitsWith (s : State) (gr : Nat) (new : List Emitted) : Nat :=
  let es := ((s.emitted.filter (fun e => e.graph == gr) ++ new).map Event.sent) ++ (s.vops.filter (fun o => o.graph == gr)).map Event.op
  let t := (es.foldl (fun l x => insertEvent x l) []).foldl (fun s x => s.meets gr x) s
  match t.graphs.find? gr with | some g => g.waiting.length | none => 0

/-- Are all of some records accepted: none of them has to wait at Vane, or keeps another waiting? -/
def State.emitRoom (s : State) (gr : Nat) (new : List Emitted) : Bool := s.waitsWith gr new ≤ s.waitsWith gr []

end Sys2Proof.Machine
end

