-- ==== Sys2Proof/Machine/System.lean ====
section
/-! DEFINITION. Record, system, status-register, counter and hint instructions, and the messages and timers they lead to (spec 16, 07 R169-R175,
24 R424-R428). -/

namespace Sys2Proof.Machine

open Sys2Proof

/-! ## Messages to the harts (24 R424, R428) -/

/-- The address of an interrupt file: the M-level file of a hart, its S-level file, or a guest file (24 R421). -/
def imsicAddr (mlvl : Bool) (guest hart : Nat) : Nat :=
  if mlvl then 0x2400000000 + 0x1000 * hart else 0x2410000000 + 0x8000 * hart + 0x1000 * guest

/-- A message reaches an interrupt file: its identity, 1 to 2,047, is pending there (24 R424). -/
def State.msi (s : State) (file id : Nat) : State :=
  if id = 0 || id > 2047 then s
  else { s with irqs := s.irqs ++ [(file, id)], imsic := s.imsic.put file (insertNat (SMap.get [] s.imsic file) id) }

/-- The message that a route names, in the layout of INTROUTE; identity 0 sends nothing (24 R424). -/
def State.message (s : State) (route : Word) : State :=
  let r := route.toNat
  s.msi (imsicAddr (route.getLsbD 30) (if route.getLsbD 30 then 0 else field r 29 27) (field r 4 0)) (field r 26 16)

/-- An event of a die source: its pending bit is set, and a message goes when the bit was clear and the route is enabled (24 R424). -/
def State.dieEvent (s : State) (d src : Nat) : State :=
  let x := s.die d
  let route := SMap.get 0 x.introute src
  if x.intpend.getLsbD src then s
  else
    let s := s.putDie d { x with intpend := x.intpend ||| (1 <<< src) }
    if route.getLsbD 31 then s.message route else s

/-! ## Records (07 R169-R175, 16 R347, R348) -/

/-- LEN of an EMIT (16 R345). -/
def emitLen (o : OpX) : Nat := field o.imm.toNat 19 16

/-- The node that an EMIT names: its immediate, or the register in the lowest executing lane's view. -/
def State.emitNode (s : State) (g : Group) (o : OpX) : Val :=
  match o.sa with
  | .imm => ⟨BitVec.ofNat 32 (field o.imm.toNat 7 0), none⟩
  | x => match lowest s.cur.lanes with | some l => s.readSel g x 0 l | none => ⟨0, none⟩

/-- The check of an EMIT at decode: node and payload length against the bound graph (07 R169, 16 R347). A node beyond the graph's has no PLW. -/
def State.emitCheck (s : State) (g : Group) (o : OpX) : Option Nat :=
  let n := (s.emitNode g o).bits.toNat
  if n ≥ 255 then some Cause.nodenum
  else match g.graph with
    | none => none
    | some gr => match s.node? gr n with
      | some x => if x.plw = emitLen o then none else some Cause.nodenum
      | none => some Cause.nodenum

/-- The record that a lane emits: its poison is that of the lowest-numbered poisoned register among key and payload (07 R169). -/
def State.recordOf (s : State) (g : Group) (o : OpX) (node l : Nat) : Rec :=
  let num (x : Sel) (i : Nat) : Nat := x.num + i
  let regs := (num o.sb 0, s.readSel g o.sb 0 l) :: (List.range (emitLen o + 1)).map (fun i => (num o.sc i, s.readSel g o.sc i l))
  let low := (regs.filter (fun x => x.2.psn.isSome)).foldl
    (fun (m : Option (Nat × Val)) x => match m with | none => some x | some y => if x.1 < y.1 then some x else some y) none
  { key := (s.readSel g o.sb 0 l).bits, node
    psn := low.bind (fun x => x.2.psn.map (fun p => let e := SMap.get {} g.ptab (p % 8); (e.addr, e.cause)))
    pay := (List.range (emitLen o + 1)).map (fun i => (s.readSel g o.sc i l).bits) }

/-- The records that an EMIT sends, one of each executing lane. -/
def State.emissions (s : State) (g : Group) (o : OpX) (gr : Nat) : List Emitted :=
  let cyc := (s.slice (sliceKey s.cur.core s.cur.slice)).tick / 10
  (lanesOf s.cur.lanes).map (fun l => { graph := gr, cyc, core := s.cur.core, slice := s.cur.slice, lane := l, key := s.cur.key,
                                        record := s.recordOf g o (s.emitNode g o).bits.toNat l })

def execEmit (o : OpX) (s : State) : Host.Outcome State Fault Refusal :=
  onState s (fun g t =>
    let v := s.emitNode g o
    if s.cur.lanes == 0 then .ok t
    else match v.psn with
      | some p => .error (s.consumedOf g p)
      | none =>
        match s.emitCheck g o, g.graph with
        | some c, _ => .error (s.trapOf c)
        | none, none => .error (s.trapOf Cause.nograph)
        | none, some gr =>
          let n := v.bits.toNat
          if s.isStage g && g.node == some n then .error (s.trapOf Cause.stagefx)
          else
            let es := s.emissions g o gr
            match g.twin with
            | some (tw, lead) =>
              .ok (t.pushTwin tw lead { sig := 20 :: s.cur.lanes.toNat :: n :: es.flatMap (fun e =>
                e.record.key.toNat :: e.record.pay.map (·.toNat)), op := .emit es })
            | none => .ok (({ t with emitted := t.emitted ++ es }.notReplayable (match t.block? g.blk with | some b => b.launch | none => 0)).addDue [.vane (t.graphDie gr)]))

/-- What a TAKE or DONE sends to Vane for a lane. -/
def State.vopOf (s : State) (g : Group) (take : Bool) (l : Nat) : VOp :=
  { take, graph := g.graph.getD 0, node := g.node.getD 0, stage := g.stage, cyc := (s.slice (sliceKey s.cur.core s.cur.slice)).tick / 10,
    key := s.cur.key, lane := l, record := (g.lane l).held }

/-- Registers that a TAKE fills: pd, v1, v2 and the payload (07 R173, R175). -/
def State.takeRegs (s : State) (g : Group) (d : Nat) : List Nat :=
  let n := match s.node? (g.graph.getD 0) (g.node.getD 0) with | some x => x.plw + 1 | none => 1
  rkP d :: rkV 1 :: rkV 2 :: (List.range n).map (fun i => rkV (8 + i))

def execTake (o : OpX) (s : State) : Host.Outcome State Fault Refusal :=
  onState s (fun g t =>
    if s.cur.lanes == 0 then .ok t
    else if g.node.isNone then .error (s.trapOf Cause.notnode)
    else
      let g := g.addPend s.cur.lanes (s.takeRegs g o.dst.num)
      let ops := (lanesOf s.cur.lanes).map (fun l => { s.vopOf g true l with dst := o.dst.num })
      .ok ({ t.setCur g with vops := t.vops ++ ops }.addDue [.vane (t.graphDie (g.graph.getD 0))]))

def execDone (o : OpX) (s : State) : Host.Outcome State Fault Refusal :=
  onState s (fun g t =>
    if s.cur.lanes == 0 then .ok t
    else if g.node.isNone then .error (s.trapOf Cause.notnode)
    else
      let holding := (lanesOf s.cur.lanes).filter (fun l => (g.lane l).held.isSome)
      match holding.findSome? (fun l => (s.sourceP g o.sa l).psn) with
      | some p => .error (s.consumedIn g (holding.filter (fun l => (s.sourceP g o.sa l).psn.isSome)) p)
      | none =>
        let ops := holding.map (fun l => { s.vopOf g false l with kept := (s.sourceP g o.sa l).b })
        let g := holding.foldl (fun g l => g.setLane l { g.lane l with held := none }) g
        if holding = [] then .ok t
        else .ok ({ t.setCur g with vops := t.vops ++ ops }.addDue [.vane (t.graphDie (g.graph.getD 0))]))

/-! ## System calls (16 R350-R352, 24 R426, R427) -/

/-- The header of a syscall ring in die-local DRAM: ring base place, HEAD, TAIL, ROUTE, LOG2, and whether a reserved byte is nonzero. -/
structure RingHdr where
  base : Nat
  head : Nat
  tail : Nat
  route : Word
  log2 : Nat
  bad : Bool
  deriving DecidableEq, Repr

/-- The ring of a region; none when it has none. -/
def State.ringOf (s : State) (e : Eff) : Option RingHdr :=
  if e.sysring = 0 then none
  else
    let base := dramLoc 0 e.sysring.toNat
    let pos := s.numAt base 8
    let route := BitVec.ofNat 32 (s.numAt (base + 8) 4)
    some { base, head := field pos 63 32, tail := field pos 31 0, route, log2 := s.numAt (base + 12) 1,
           bad := s.numAt (base + 13) 51 != 0 || field route.toNat 15 5 != 0 }

/-- Steps 1 and 2 of 24 R426: NOSYSRING, or ILLEGAL of a nonzero reserved byte. -/
def ringTrap : Option RingHdr → Option Nat
  | none => some Cause.nosysring
  | some r =>
    if r.log2 < 3 || r.log2 > 12 || !r.route.getLsbD 31 then some Cause.nosysring
    else if r.bad then some Cause.illegal else none

/-- Is there room in the ring? -/
def RingHdr.room (r : RingHdr) : Bool := (r.tail + 2 ^ 32 - r.head) % 2 ^ 32 < 2 ^ r.log2

/-- A ticket drawn: TAIL counts up at the Eddy, and the release record stays (24 R426). -/
def State.drawTicket (s : State) (r : RingHdr) : Nat × State :=
  (r.tail, s.writeAt r.base (leBytes 4 ((r.tail + 1) % 2 ^ 32)) (s.relAt r.base))

/-- An entry of 16 R351 written at its slot: everything but TICKET, then TICKET as a release at system scope, then the message. -/
def State.postCall (s : State) (r : RingHdr) (key blk ticket : Nat) (rid : Nat) (num : Word) (args : List Word) (time : Nat) (pc : DWord) : State :=
  let at_ := r.base + 64 + 64 * (ticket % 2 ^ r.log2)
  let place := coreOf key + 2 ^ 16 * (sliceOf key % 6) + 2 ^ 20 * slotOf key
  let s := s.writeAt at_ (leBytes 4 num.toNat ++ leBytes 4 place) none
  let s := s.writeAt (at_ + 12) (leBytes 2 rid ++ leBytes 2 0 ++ leBytes 8 pc.toNat ++ leBytes 8 time ++
    args.flatMap (fun x => leBytes 4 x.toNat)) none
  let s := s.writeAt (at_ + 8) (leBytes 4 ticket) (some { scope := 6, by_ := s.agentOf key blk 0 })
  s.message r.route

/-- The operands of a SYSCALL: the number, and eight arguments, zero without SB; or the first poison. -/
def State.callArgs (s : State) (g : Group) (o : OpX) : Except Nat (Word × List Word) :=
  let num := s.low g Forms.syscall 0 (.x o) 2
  let args := (List.range 8).map (fun i =>
    match o.sb, lowest s.cur.lanes with
    | .none, _ => (⟨0, none⟩ : Val)
    | x, some l => s.readSel g x i l
    | _, none => ⟨0, none⟩)
  match num.psn <|> args.findSome? (·.psn) with
  | some p => .error p
  | none => .ok (num.bits, args.map (·.bits))

/-- The effective fields of a block's region. -/
def State.effOf (s : State) (blk : Nat) : Option Eff := (s.launchOf? blk).map (·.eff)

/-- The lanes of a call wait on it, and the baton becomes unheld (16 R350). -/
def State.callWaits (s : State) (key : Nat) (g : Group) (c : Call) (regs : List Nat) : State :=
  (s.putGroup key { ((g.onLanes c.lanes (fun _ x => { x with wait := .call })).addPend c.lanes regs) with
    calls := g.calls ++ [c], draw := none, ticket := none }).dropBaton key

def execSyscall (o : OpX) (s : State) : Host.Outcome State Fault Refusal :=
  onState s (fun g t =>
    match s.cur.lanes == 0, s.effOf g.blk with
    | true, _ => .ok t
    | false, none => .error (s.trapOf Cause.nosysring)
    | false, some e =>
      match ringTrap (s.ringOf e), s.ringOf e, s.callArgs g o with
      | some c, _, _ => .error (s.trapOf c)
      | none, none, _ => .ok t
      | none, some _, .error p => .error (s.consumedOf g p)
      | none, some r, .ok (num, args) =>
        match s.viewsFor g o.dst with
        | .error e => .error e
        | .ok g =>
          let regs := regsOf o.dst 2
          let time := s.timeOf (sliceKey s.cur.core s.cur.slice)
          match g.twin, g.ticket with
          | some (tw, lead), _ =>
            -- until a ticket is drawn an identity beyond every ticket stands for it
            let id := 2 ^ 33 + t.uid
            .ok (({ t with uid := t.uid + 1 }.callWaits s.cur.key g { ticket := id, lanes := s.cur.lanes, dst := o.dst } regs).pushTwin tw lead
              { sig := 21 :: s.cur.lanes.toNat :: num.toNat :: args.map (fun (a : Word) => a.toNat), op := .call num args time s.cur.pc id })
          | none, some k =>
            .ok ((((t.callWaits s.cur.key g { ticket := k, lanes := s.cur.lanes, dst := o.dst } regs).notReplayable
              (match t.block? g.blk with | some b => b.launch | none => 0)).postCall r s.cur.key g.blk k e.rid num args time s.cur.pc))
          | none, none =>
            if r.room then
              let (k, t) := t.drawTicket r
              .ok ((((t.callWaits s.cur.key g { ticket := k, lanes := s.cur.lanes, dst := o.dst } regs).notReplayable
                (match t.block? g.blk with | some b => b.launch | none => 0)).postCall r s.cur.key g.blk k e.rid num args time s.cur.pc))
            else
              -- the ring is full: the SYSCALL is not ready, its lanes stay, and the baton is kept
              .ok (t.setCur { (g.onLanes s.cur.at_ (fun _ x => { x with pc := s.cur.pc })) with draw := some s.cur.pc }))

/-- SYSCALL_TICKET_DRAW: a SYSCALL that waits draws again (24 R426). -/
def execSyscallTicketDraw (key : Nat) (s : State) : Host.Outcome State Fault Refusal :=
  .next (match s.group? key with
    | none => s
    | some g =>
      match g.draw, (s.effOf g.blk).bind s.ringOf with
      | some _, some r =>
        if r.room then
          let (k, t) := s.drawTicket r
          t.putGroup key { g with draw := none, ticket := some k }
        else s
      | _, _ => s)

/-- Bits of a completion port register written: SCVAL and SCDONE lie at +16 h and +8 (24 R427). -/
def State.setScval (s : State) (d h : Nat) (v : DWord) : State :=
  let x := s.die d
  s.putDie d { x with scval := x.scval.set 0 h v }

/-- SCDONE: the completion of the call that the written value names, with VALUE from SCVAL, is on its way (24 R427). A write with a reserved bit set has
no effect (log 30). -/
def execScdone (d h : Nat) (v : DWord) (s : State) : Host.Outcome State Fault Refusal :=
  .next (if field v.toNat 47 32 ≠ 0 then s else ({ s with uid := s.uid + 1, completions := s.completions ++
    [{ id := s.uid, region := field v.toNat 63 48, ticket := field v.toNat 31 0, value := SMap.get 0 (s.die d).scval h }] } : State).addDue
      [.sysdone s.uid])

/-- The group that waits on a ticket of a region. -/
def State.caller (s : State) (region ticket : Nat) : Option (Nat × Group) :=
  List.find? (fun (x : Nat × Group) => x.2.calls.any (fun c => c.ticket = ticket) &&
    match s.effOf x.2.blk with | some e => e.rid == region | none => false) s.groups

/-- The return value delivered to a group for a call: written in the view of every lane of E that still waits, and the lanes eligible (16 R352). -/
def Group.callDone (g : Group) (ticket : Nat) (v : DWord) : Group :=
  match g.calls.find? (fun c => c.ticket = ticket) with
  | none => g
  | some c =>
    let ls := (lanesOf c.lanes).filter (fun l => (g.lane l).wait == .call)
    let g := ls.foldl (fun g l =>
      let g := g.setLane l { g.lane l with wait := .none, pend := (regsOf c.dst 2).foldl dropOne (g.lane l).pend }
      g.writeAll c.dst l (pairVals v [])) g
    { g with calls := g.calls.filter (fun x => x.ticket != ticket) }

/-- SYSCALL_COMPLETION: a completion reaches the group that waits on its ticket; one that no group awaits has no effect; for a saved group
it is kept and delivered at restore (24 R427). -/
def execSyscallCompletion (id : Nat) (s : State) : Host.Outcome State Fault Refusal :=
  .next (match s.completions.find? (fun c => c.id = id) with
    | none => s
    | some c =>
      match s.caller c.region c.ticket with
      | none =>
        -- for a group that is saved, firmware records it in the region's save area; else it has no effect
        let s : State := { s with completions := s.completions.filter (fun x => x.id != id) }
        if s.blocks.any (fun b => b.2.region = c.region && b.2.sgroups.any (fun g => g.calls.any (fun k => k.ticket = c.ticket)))
        then { s with susp := s.susp.update c.region (fun y => { y with calls := y.calls ++ [c] }) } else s
      | some (key, g) =>
        let s := { s with completions := s.completions.filter (fun x => x.id != id) }
        let s := s.putGroup key (g.callDone c.ticket c.value)
        (match g.twin with
         | some (tw, true) =>
           (match s.twins.find? tw with
            | some x =>
              -- the value goes to both copies, and to a checkpoint whose lanes wait on it
              let done (k : Nat) (h : Group) : Group := h.callDone k c.value
              let s : State := { s with twins := s.twins.put tw { x with
                ckptL := x.ckptL.map (done c.ticket), ckptT := x.ckptT.map (done (2 ^ 32 + c.ticket)) } }
              { s with groups := s.groups.update x.trail (done (2 ^ 32 + c.ticket)) }
            | none => s)
         | _ => s))

/-! ## Breaks (16 R353) -/

def execBrk (o : OpX) (s : State) : Host.Outcome State Fault Refusal :=
  onGroup s (fun g =>
    if s.cur.lanes == 0 then .ok g
    else
      let v := s.low g Forms.brk 0 (.x o) 2
      match v.psn with
      | some p => .error (s.consumedOf g p)
      | none => .error { s.trapOf Cause.brk with info := v.bits })

/-! ## Timers (16 R355, 24 R428) -/

/-- Length of a slice cycle in ticks (01 R30). -/
def cycleTicks (cls k : Nat) : Nat :=
  let c := match cls with | 0 => 7 | 1 => 10 | 2 => 14 | _ => 20
  c + (c * k + 7) / 8

/-- The class of a slice's cycle: the highest in E1 to E4, F when they are empty (01 R30). -/
def Slice.cycleClass (x : Slice) : Nat := x.stages.foldl (fun m y => max m y.1) 0

/-- A comparator of a core armed or, by a deadline of 0, disarmed. -/
def State.armTimer (s : State) (core n deadline : Nat) : State :=
  let c := s.core core
  let s := s.putCore core { c with tmrcmp := c.tmrcmp.set 0 n deadline }
  if deadline = 0 then s else s.addDue [.timer core n]

/-- A comparator compared at the end of a core cycle, the tick `at_`: at TIME at or above its deadline it fires once, sets its bit of TMRPEND, and counts as an
event of TIMERn (24 R428). -/
def State.compareAt (s : State) (core n at_ : Nat) : State :=
  let c := s.core core
  let dl := SMap.get 0 c.tmrcmp n
  let d := dieOf core
  if dl = 0 || timeAt d at_ < dl then s
  else
    let s := s.putCore core { c with tmrcmp := c.tmrcmp.set 0 n 0 }
    let s := s.putDie d { s.die d with tmrpend := insertNat (s.die d).tmrpend (4 * (core % 96) + n) }
    s.dieEvent d (1 + n)

/-- A TIMERARM of a slice and baton applied at the end of a slice cycle that ends in core cycle `cc`: of several in one core cycle the last in the order of
03 R74 persists (16 R355); the comparisons of the core cycles before have been made (24 R428). -/
def State.armTimerIn (s : State) (core n deadline cc rank : Nat) : State :=
  let s := s.compareAt core n (10 * cc)
  let c := s.core core
  let was := SMap.get (0, 0) c.tmrlast n
  if cc < was.1 || (cc = was.1 && rank < was.2) then s
  else ({ s with cores := s.cores.put core { c with tmrlast := c.tmrlast.put n (cc, rank) } } : State).armTimer core n deadline

/-- A write that is applied at the end of the issue cycle; a secondary's before the primary's (16 R355, R357). -/
def State.pushWrs (s : State) (g : Group) (n : Nat) (v : DWord) : Group :=
  { g with wrs := if s.cur.sec then (n, v) :: g.wrs else g.wrs ++ [(n, v)] }

def execTimerarm (o : OpX) (s : State) : Host.Outcome State Fault Refusal :=
  onState s (fun g t =>
    if s.cur.lanes == 0 then .ok t
    else
      let d := s.lowPair g Forms.timerarm 0 (.x o) 2
      let n := s.low g Forms.timerarm 0 (.x o) 3
      match n.psn <|> d.2 with
      | some p => .error (s.consumedOf g p)
      | none =>
        let granted := match s.effOf g.blk with | some e => e.tmrgrant.testBit n.bits.toNat | none => false
        if n.bits.toNat > 3 || !granted then .error (s.trapOf Cause.timer)
        else match g.twin with
          | some (tw, lead) =>
            .ok (t.pushTwin tw lead { sig := [22, s.cur.lanes.toNat, n.bits.toNat, d.1.toNat], op := .timer n.bits.toNat d.1.toNat })
          | none => .ok (t.setCur (s.pushWrs g (0x20 + n.bits.toNat) d.1)))

/-- COMPARATOR_FIRE: the comparison of the core cycle that has ended last, whose TIMERARMs have been applied. -/
def execComparatorFire (core n : Nat) (s : State) : Host.Outcome State Fault Refusal :=
  .next (s.compareAt core n (s.now / 10 * 10))

/-! ## Status registers (16 R356, R357, 03 R78) -/

/-- A named register by its base number: its width (true: 64 bits), whether WRSR may write it, and the numbers of its index range. -/
def srInfo (n : Nat) : Option (Bool × Bool × Nat × Nat) :=
  if n = 0 then some (false, true, 0, 0)
  else if n = 1 then some (false, true, 1, 1)
  else if n = 2 then some (true, true, 2, 2)
  else if n = 3 then some (true, true, 3, 3)
  else if n = 4 then some (true, false, 4, 4)
  else if n = 8 then some (true, false, 8, 8)
  else if n = 9 then some (true, false, 9, 9)
  else if n = 10 then some (false, false, 10, 10)
  else if n = 11 then some (false, false, 11, 11)
  else if n = 12 then some (false, false, 12, 12)
  else if 0x10 ≤ n && n ≤ 0x13 then some (false, true, 0x10, 0x13)
  else if 0x18 ≤ n && n ≤ 0x1F then some (true, false, 0x18, 0x1F)
  else if 0x20 ≤ n && n ≤ 0x23 then some (true, false, 0x20, 0x23)
  else if 0x40 ≤ n && n ≤ 0x7F then some (false, false, 0x40, 0x7F)
  else none

/-- The register that an instruction names, or the trap of its number, its width or a write to it (03 R78, 16 R356, 08 R207). -/
def srCheck (imm : Word) (index : Option Nat) (write : Bool) : Except Nat Nat :=
  let base := field imm.toNat 11 0
  match srInfo base with
  | none => .error Cause.srnum
  | some (wide, rw, lo, hi) =>
    let n := base + index.getD 0
    if index.isSome && lo = hi then .error Cause.srnum
    else if n > hi then .error Cause.srnum
    else if imm.getLsbD 12 != wide then .error Cause.illegal
    else if write && !rw then .error Cause.srwrite
    else .ok n

/-- The index of an RDSR or WRSR, taken from the lowest executing lane's view. -/
def State.srIndex (s : State) (g : Group) (o : OpX) : Option Val :=
  match o.sb with
  | .none => none
  | x => match lowest s.cur.lanes with | some l => some (s.readSel g x 0 l) | none => some ⟨0, none⟩

/-- TOKBAL as read (25 R443). -/
def Slice.tokbal (x : Slice) : Word :=
  BitVec.ofBool x.tokEn ++ x.tokRate ++ x.tokCap ++ BitVec.ofInt 16 x.tokBal

/-- The value of a status register, as it stands at the start of the issue cycle (16 R356). -/
def State.srRead (s : State) (key : Nat) (g : Group) (n : Nat) : DWord :=
  let sl := sliceOf key
  let (g, x) := match s.cur.start with | some y => (y.group, y.slice) | none => (g, s.slice sl)
  let w (y : Word) : DWord := y.setWidth 64
  if n = 0 then w (g.gstat key)
  else if n = 1 then w (g.heir.setWidth 32)
  else if n = 2 then g.futh
  else if n = 3 then g.futpc
  else if n = 4 then g.futaddr
  else if n = 8 then BitVec.ofNat 64 x.cyc
  else if n = 9 then BitVec.ofNat 64 (s.timeOf sl)
  else if n = 10 then w (x.clkrat.setWidth 32)
  else if n = 11 then w ((s.core (coreOf key)).passcnt.setWidth 32)
  else if n = 12 then w x.tokbal
  else if n < 0x18 then w (g.seedAt (n - 0x10))
  else if n < 0x20 then (SMap.get ({} : PsnEntry) g.ptab (n - 0x18)).addr
  else if n < 0x40 then BitVec.ofNat 64 (SMap.get 0 (s.core (coreOf key)).tmrcmp (n - 0x20))
  else w (SMap.get 0 x.slottab (n - 0x40))

def execRdsr (o : OpX) (s : State) : Host.Outcome State Fault Refusal :=
  onGroup s (fun g =>
    match (s.srIndex g o).bind (·.psn) with
    | some p => .error (s.consumedOf g p)
    | none =>
      match srCheck o.imm ((s.srIndex g o).map (·.bits.toNat)) false with
      | .error c => .error (s.trapOf c)
      | .ok n =>
        let v := s.srRead s.cur.key g n
        s.writeSame g o.dst (if o.imm.getLsbD 12 then pairVals v [] else [⟨v.setWidth 32, none⟩]))

/-- A WRSR value as a register takes it (16 R357). -/
def Group.srWrite (g : Group) (n : Nat) (v : DWord) : Group :=
  if n = 0 then { g with scopemiss := g.scopemiss && !v.getLsbD 15, rsspill := g.rsspill && !v.getLsbD 14 }
  else if n = 1 then { g with heir := v.setWidth 5 }
  else if n = 2 then { g with futh := v &&& ~~~2 }
  else if n = 3 then { g with futpc := v &&& ~~~1 ||| g.futpc &&& 1 }
  else { g with seed := g.seed.set (BitVec.ofNat 32 (n - 0x10 + 1)) (n - 0x10) (v.setWidth 32) }

/-- The writes of a slice cycle applied at its end, before the baton events (16 R355, R357). -/
def State.applyWrs (s : State) (key baton : Nat) : State :=
  match s.group? key with
  | some g =>
    let sr := g.wrs.filter (fun x => !(0x20 ≤ x.1 && x.1 ≤ 0x23))
    let tm := g.wrs.filter (fun x => 0x20 ≤ x.1 && x.1 ≤ 0x23)
    let s := s.putGroup key { (sr.foldl (fun g x => g.srWrite x.1 x.2) g) with wrs := [] }
    let y := s.slice (sliceOf key)
    let cc := (y.tick + cycleTicks y.cycleClass y.clkrat.toNat) / 10
    tm.foldl (fun s x => s.armTimerIn (coreOf key) (x.1 - 0x20) x.2.toNat cc (4 * (sliceOf key % 6) + baton)) s
  | none => s

def execWrsr (o : OpX) (s : State) : Host.Outcome State Fault Refusal :=
  onGroup s (fun g =>
    let v := s.lowPair g Forms.wrsr 0 (.x o) 2
    let lo := s.low g Forms.wrsr 0 (.x o) 2
    let wide := o.imm.getLsbD 12
    match (s.srIndex g o).bind (·.psn) <|> (if wide then v.2 else lo.psn) with
    | some p => .error (s.consumedOf g p)
    | none =>
      match srCheck o.imm ((s.srIndex g o).map (·.bits.toNat)) true with
      | .error c => .error (s.trapOf c)
      | .ok n =>
        if s.cur.lanes == 0 then .ok g
        else .ok (s.pushWrs g n (if wide then v.1 else lo.bits.setWidth 64)))

/-! ## Event counters (16 R358) -/

/-- The tick from which a core's array has held its job in RUN: its own, or a paired one whose follower it is. -/
def State.runSince (s : State) (c : Core) : Option Nat :=
  let run (c : Core) : Option Nat := (c.jobs.find? (fun j => j.st == .run)).map (·.since)
  run c <|> c.lent.bind (fun k => run (s.core k))

/-- The counter of a number, as it stood at the start of the issue cycle; none when it names none. -/
def State.counter (s : State) (key : Nat) (g : Group) (n : Nat) : Option Nat :=
  let (g, c) := match s.cur.start with | some y => (y.group, y.core) | none => (g, s.core (coreOf key))
  if n = 0 then some g.gissue
  else if n = 1 then some g.gcycle
  else if n = 2 then some g.ghold
  else if n = 3 then some g.gidle
  else if n = 4 then some g.gticks
  else if n = 0x10 then some c.clinereq
  else if n = 0x11 then some c.cinbound
  else if n = 0x12 then
    some ((c.cjobcyc + match s.runSince c with | some t => (s.slice (sliceOf key)).tick / 10 - t / 10 | none => 0) % 2 ^ 64)
  else if n = 0x13 then some c.ccorr
  else none

def execRdcnt (o : OpX) (s : State) : Host.Outcome State Fault Refusal :=
  onGroup s (fun g =>
    match s.counter s.cur.key g (field o.imm.toNat 7 0) with
    | some n => s.writeSame g o.dst (pairVals (BitVec.ofNat 64 n) [])
    | none => .error (s.trapOf Cause.illegal))

/-! ## Checkpoints and hints (16 R359, R362, R363) -/

/-- CKPT: a NOP outside a twin launch; in one, the group's later instructions wait for the rendezvous. -/
def execCkpt (s : State) : Host.Outcome State Fault Refusal :=
  onState s (fun g t =>
    match g.twin with
    | some (tw, _) =>
      if s.cur.lanes == 0 then .ok t
      else .ok ((t.setCur { g with ckpts := g.ckpts + 1, ckptWait := true }).addDue [.twin tw])
    | none => .ok t)

def execHintClass (o : OpX) (s : State) : Host.Outcome State Fault Refusal :=
  onGroup s (fun g => .ok (if s.cur.lanes == 0 then g else { g with hint := field o.imm.toNat 1 0 }))

def execHintIdle (o : OpX) (s : State) : Host.Outcome State Fault Refusal :=
  onGroup s (fun g =>
    if s.cur.lanes == 0 then .ok g
    else
      let v := s.low g Forms.hintIdle 0 (.x o) 2
      match v.psn with
      | some p => .error (s.consumedOf g p)
      | none =>
        if v.bits = 0 then .ok g
        else .ok (g.onLanes s.cur.lanes (fun _ x =>
          { x with wait := .idle ((s.slice (sliceKey s.cur.core s.cur.slice)).tick + v.bits.toNat) })))

end Sys2Proof.Machine
end

