-- ==== Sys2Proof/Machine/Issue.lean ====
section
/-! DEFINITION. Issue: the two addresses of a group, the checks on the instruction at an address, readiness, operand collection, what an issue
leaves behind, and the slice cycle with its end (spec 01 R19-R35, 03 R64-R67, 08 R201-R207, 25 R441-R445). -/

namespace Sys2Proof.Machine

open Sys2Proof

/-! ## The two addresses (01 R19-R21) -/

/-- The addresses of the eligible lanes. -/
def Group.addrs (g : Group) : List DWord :=
  (lanesOf g.eligible).foldl (fun a l => if a.contains (g.lane l).pc then a else a ++ [(g.lane l).pc]) []

/-- The population of an address. -/
def Group.pop (g : Group) (pc : DWord) : Nat := popcount (g.atPc pc)

/-- The address with the largest population; equal ones go to the lower address. -/
def Group.best (g : Group) (l : List DWord) : Option DWord :=
  l.foldl (fun m pc => match m with
    | none => some pc
    | some q => if g.pop pc > g.pop q || (g.pop pc == g.pop q && pc < q) then some pc else some q) none

/-- Primary and secondary: by population, unless a lane's count has reached 256. -/
def Group.choose (g : Group) : Option (DWord × Option DWord) :=
  let l := g.addrs
  let overCls := l.filter (fun pc => (lanesOf (g.atPc pc)).any (fun x => (g.lane x).cnt ≥ 256))
  let p := if overCls = [] then g.best l
    else overCls.foldl (fun m pc => match m with | none => some pc | some q => if pc < q then some pc else some q) none
  p.map (fun p => (p, g.best (l.filter (· != p))))

/-! ## Hazards (08 R202) -/

/-- What is left of the stall sum of a lane's register. -/
def Lane.rem (x : Lane) (r : Nat) : Nat := (x.haz.filter (fun y => y.1 = r)).foldl (fun m y => max m y.2) 0

/-- The latency of a form's fixed-latency result; 0 when it has none. -/
def fixedLat (f : Form) : Nat := if f.inter then 0 else f.lat

/-! ## What issues, and how (03 R63, 23 R397) -/

/-- What is left of the stall sum of a lane's register for its next instruction: a PAIR bit makes the stall sum from the last one 0 (08 R204). -/
def Lane.left (x : Lane) (r : Nat) : Nat := (x.pairs.filter (fun y => y.1 = r)).foldl (fun m y => max m y.2) (x.rem r)

/-- The lane that an exchange reads for a lane (12 R273). -/
def Shuffle.from_ (x : Shuffle) (l n : Nat) : Nat := (x.lane l n).getD l

/-- The exchange that an instruction makes. -/
def shuffleOf (i : Instr) : Option (Shuffle × Form × OpA) :=
  match i with
  | .shflIdx o => some (.idx, Forms.shflIdx, o)
  | .shflUp o => some (.up, Forms.shflUp, o)
  | .shflDown o => some (.down, Forms.shflDown, o)
  | .shflXor o => some (.xor, Forms.shflXor, o)
  | .rdlane o => some (.idx, Forms.rdlane, o)
  | _ => none

/-- Registers of other lanes that an exchange reads: only those of lanes at its address, which are on its path, can be within a latency (08 R202). -/
def State.crossReads (s : State) (g : Group) (i : Instr) (lanes at_ : BitVec 32) : List (Nat × Nat) :=
  match shuffleOf i.expand with
  | none => []
  | some (x, f, o) =>
    ((lanesOf lanes).map (fun l => x.from_ l (s.source g f 0 (.a o) 3 l).bits.toNat)).flatMap (fun k =>
      if at_.getLsbD k then (regsOf o.sa 1).map (fun r => (k, r)) else [])

/-- A warp-wide form in which one poisoned guard poisons the results of other lanes: RED, SCAN and VOTE (13 R294, 11 R255). -/
def guardWide (f : Form) : Bool := f.opc == 0x78 || f.opc == 0x79 || f.opc == 0x0C

/-- The lanes whose destinations poisoned guards poison: their own; in a warp-wide form every lane that such a lane's source reaches, with the poison of
the lowest lane of its range that is poisoned by its guard or its source. -/
def State.marred (s : State) (g : Group) (f : Form) (o : Op) (lanes : BitVec 32) (psn : List (Nat × Nat)) : List (Nat × Nat) :=
  if psn = [] || !guardWide f then psn
  else
    let guard (l : Nat) : Option Nat := (psn.find? (fun x => x.1 == l)).map (·.2)
    let tag (l : Nat) : Option Nat := guard l <|> (if lanes.getLsbD l then (s.readSel g (o.sel 2) 0 l).psn else none)
    (List.range 32).filterMap (fun l =>
      let range := List.range (if f.opc == 0x79 then l + 1 else 32)
      if (lanes.getLsbD l || (guard l).isSome) && range.any (fun k => (guard k).isSome) then (range.findSome? tag).map (fun p => (l, p)) else none)

/-- The instruction at an address as the group would execute it: lanes at it, lanes whose guard holds, lanes with a poisoned guard, and the
reads and writes that a stall sum makes unpredictable. -/
def State.curOf (s : State) (key : Nat) (g : Group) (k : Pick) (c : Coding) (i : Instr) (npc : DWord) : Cur :=
  -- a secondary's lanes are those that were eligible at its address at the start of the cycle (01 R23)
  let at_ := if k.sec then g.atPc k.pc &&& k.at_ else g.atPc k.pc
  let p := c.h.p.toNat
  let rem (l r : Nat) : Nat := (g.lane l).left r
  let hazP (l : Nat) : Bool := p != 7 && rem l (rkP p) > 0
  let guard (l : Nat) : Bool := (if hazP l then Config.bit s.free (512 * l + rkP p) else (g.pAt p l).b) != c.h.neg
  let psn := (lanesOf at_).filterMap (fun l => ((g.pAt p l).psn).map (fun q => (l, q)))
  let lanes := maskOf (fun l => at_.getLsbD l && guard l && !(psn.any (fun x => x.1 == l)))
  let base : Cur := { core := coreOf key, slice := sliceOf key % 6, slot := slotOf key, pc := k.pc, npc, at_, lanes, sec := k.sec,
                      stall := c.h.stall.toNat, psn }
  match formOf i with
  | none => base
  | some (f, _, o) =>
    let pairs (l : List Nat) : List (Nat × Nat) := (lanesOf lanes).flatMap (fun x => l.map (fun r => (x, r)))
    { base with
      form := (f.opc * 64 + (match i.expand.coded with | .op _ n _ => n | _ => 0)) * 16 + (f.effTy o).code.toNat
      marred := s.marred g f o lanes psn
      wild := (pairs (formReads f o) ++ s.crossReads g i lanes at_).filter (fun x => rem x.1 x.2 > 0) ++ ((lanesOf at_).filter hazP).map (fun l => (l, rkP p))
      spoilt := if (fixedLat f) = 0 then [] else (pairs (formWrites f o)).filter (fun x => rem x.1 x.2 ≥ (fixedLat f)) }

/-! ## Checks before issue (08 R206, R207) -/

/-- The count that a launch declares for barriers of a level (06 R156). -/
def Launch.barCount (l : Launch) (lvl : BarLvl) : Nat :=
  match lvl with | .grp => l.field 471 469 | .blk => l.field 475 472 | .nbh => l.field 478 476 | .grid => l.field 480 479

/-- Check 8: operand values checked at decode. -/
def State.valueCheck (s : State) (g : Group) (i : Instr) : Option Nat :=
  let bar (lvl : BarLvl) (o : OpC) : Option Nat :=
    match s.launchOf? g.blk with
    | some l => if barNum o < l.barCount lvl then none else some Cause.barnum
    | none => none
  let sr (o : OpX) (w : Bool) : Option Nat :=
    match s.srIndex g o with
    | some v => if v.psn.isSome then none else (match srCheck o.imm (some v.bits.toNat) w with | .error c => some c | .ok _ => none)
    | none => (match srCheck o.imm none w with | .error c => some c | .ok _ => none)
  match i with
  | .barArrive lvl o => bar lvl o
  | .barWait lvl o => bar lvl o
  | .barSync lvl o => bar lvl o
  | .rdsr o => sr o false
  | .wrsr o => sr o true
  | .emit o => if (s.emitNode g o).psn.isSome || (s.cur.lanes == 0 && o.sa != .imm) then none else s.emitCheck g o
  | _ => none

/-- Does check 8 of an instruction depend on a register's value? It then uses the value as collected, and is made once that is there (08 R207). -/
def lateCheck (i : Instr) : Bool :=
  match i with
  | .rdsr o | .wrsr o => o.sb != .none
  | .emit o => o.sa != .imm
  | _ => false

/-- Are the operands of an address collected for a baton? -/
def Slice.collected (x : Slice) (b : Nat) (pc : DWord) : Bool :=
  match x.coll.find? b with
  | some c => (c.pcs.zip c.done).any (fun y => y.1 == pc && y.2)
  | none => false

/-- What stands at an address: no line in the core, a trap of fetch or decode, or an instruction and how it would execute. -/
inductive Look where
  | absent
  | trap (cause : Nat)
  | ok (c : Coding) (i : Instr) (cur : Cur)
  deriving DecidableEq, Repr

/-- Have the lanes' stall counts elapsed, the interlocked and carried registers that an instruction names been delivered? -/
def State.settled (s : State) (key : Nat) (g : Group) (regs : List Nat) (cur : Cur) : Bool :=
  let cyc := (s.slice (sliceOf key)).cyc
  (lanesOf cur.at_).all (fun l => (g.lane l).ready ≤ cyc && !(regs.any (g.lane l).pend.contains))
    && g.carried.all (fun y => y.2 ≤ cyc || !regs.contains y.1)
    && !((s.slice (sliceOf key)).arriving (slotOf key) regs)

/-- Registers that an instruction names, its guard among them. -/
def State.regsNamed (s : State) (g : Group) (c : Coding) (i : Instr) : List Nat :=
  (if c.h.p.toNat = 7 then [] else [rkP c.h.p.toNat]) ++ match formOf i with
    | some (f, _, o) => formReads f o ++ formWrites f o ++ (match i with | .take q => s.takeRegs g q.dst.num | _ => [])
    | none => []

/-- Checks 2 to 9 of 08 R207 on the instruction at an address; `force`: its operands are collected. -/
def State.look (s : State) (key : Nat) (g : Group) (k : Pick) (force : Bool := false) : Look :=
  match (s.core (coreOf key)).cached (s.fetchRoot g) k.pc with
  | none => .absent
  | some bs =>
    match reach bs k.pc with
    | .error e => .trap e
    | .ok (c, i, npc) =>
      match formOf i with
      | none => .trap Cause.illegal
      | some (f, _, o) =>
        let tiles := match s.block? g.blk with | some b => b.tiles.length | none => 0
        match formLimits f g.nv tiles o with
        | some e => .trap e
        | none =>
          let cur := s.curOf key g k c i npc
          if lateCheck i && !force && !(s.settled key g (s.regsNamed g c i) cur && g.baton.any (fun b => (s.slice (sliceOf key)).collected b k.pc))
            then .ok c i cur
          else match ({ s with cur } : State).valueCheck g i with
          | some e => .trap e
          | none =>
            if (cur.wild != [] || cur.spoilt != []) && (match s.effOf g.blk with | some e => e.check | none => false) then .trap Cause.stallshort
            else .ok c i cur

/-! ## Readiness (01 R25) -/

/-- Token cost of an instruction (25 R444). -/
def tokenCost (i : Instr) : Nat :=
  match i.expand with
  | .nop | .join _ | .park | .exit | .hintClass _ | .hintIdle _ => 0
  | .job _ | .jobp _ | .bsld _ => 8
  | j => match formOf j with
    | some (f, _, _) =>
      (match f.iss, f.tim with
       | .alu, .f => 1 | .alu, .n => 2 | .alu, .s => 3 | .alu, .x => 4 | .mem, _ => 3
       | .engine, .f => 1 | .engine, _ => 4 | .control, _ => 1)
    | none => 0

/-- Timing class as a number: F 0 to X 3. -/
def timNum : Tim → Nat
  | .f => 0 | .n => 1 | .s => 2 | .x => 3

/-- Timing class of an instruction. -/
def timOf (i : Instr) : Nat := match formOf i with | some (f, _, _) => timNum f.tim | none => 0
/-- Issue class of an instruction. -/
def issOf (i : Instr) : Iss := match formOf i with | some (f, _, _) => f.iss | none => .alu
/-- Do two issue classes co-issue (01 R22)? -/
def coissue (a b : Iss) : Bool := a != b || a == .alu

/-- The scope at which an instruction is a release by 05 R131 to R134 (log 26). -/
def releaseScope (i : Instr) : Option Nat :=
  match i with
  | .pass _ | .passAny _ => some 2
  | .barArrive lvl _ | .barSync lvl _ => some (match lvl with | .grp => 1 | .blk => 2 | .nbh => 3 | .grid => 5)
  | .syscall _ => some 6
  | .emit _ | .done _ => some 5
  | .cpyk _ => some 2
  | .job _ | .jobp _ => some 4
  | _ => none

/-- Has a release of the lanes at an address nothing left to wait for (05 R117)? -/
def State.released (s : State) (key : Nat) (g : Group) (cur : Cur) (sc : Nat) : Bool :=
  let c := s.core (coreOf key)
  !(c.reqs.any (fun q => q.key == key && q.blk == g.blk && q.lanes &&& cur.at_ != 0 && q.reads)) &&
    (sc ≤ 2 || (!(c.reqs.any (fun q => q.writes && !q.reads)) && c.acked))

/-- Has an acquire fence of the lanes at an address still to take effect (05 R119)? -/
def State.fencing (s : State) (key : Nat) (g : Group) (cur : Cur) : Bool :=
  (s.core (coreOf key)).reqs.any (fun q => q.key == key && q.blk == g.blk && q.lanes &&& cur.at_ != 0 && q.acq && !q.reads && !q.writes)

/-- May a relaxed atomic write to a register of the block be made after the release fences of the lanes (05 R119, R130, 14 R311, 15 R338; log 26)? -/
def State.afterFences (s : State) (key : Nat) (g : Group) (cur : Cur) : Bool :=
  match (lanesOf cur.lanes).foldl (fun m l => (g.lane l).fences.foldl (fun (m : Option Nat) f => some (max f.1 (m.getD 0))) m) none with
  | none => true
  | some sc => s.released key g cur sc && !((s.core (coreOf key)).wq.any (fun w => w.blk = g.blk))

/-- Is a TAKE of any of the lanes on its way (07 R175)? -/
def State.taking (s : State) (key : Nat) (lanes : BitVec 32) : Bool := s.vops.any (fun o => o.take && o.key == key && lanes.getLsbD o.lane)

/-- Has a preemption order stopped the issue of a group's block (23 R414)? A twin's goes on until both copies stand at a CKPT. -/
def State.blockHeld (s : State) (g : Group) : Bool :=
  match s.block? g.blk with | some b => (b.stopped && g.twin.isNone) || b.saved.isSome | none => true

/-- What holds a group whatever it presents: a CPYW, a JWAIT, a CKPT, its block's preemption, a generation not yet observed (14 R317, 15 R333,
16 R359, 23 R395, R414). -/
def State.groupHeld (s : State) (key : Nat) (g : Group) : Bool :=
  g.cpyw.isSome || g.jwait.isSome || g.ckptWait || g.trap.isSome || g.fault.isSome || !genSeen (s.core (coreOf key)).observed g.tgen
    || s.blockHeld g

/-- Is the next compared instruction of a leading copy held back by the slack limit (16 R360)? -/
def State.slackFull (s : State) (g : Group) (i : Instr) : Bool :=
  match g.twin with
  | some (t, true) => (match s.twins.find? t with
    | some x => x.lq.length ≥ x.slack && (match i with
      | .st _ | .str _ | .stu _ | .stmc _ | .fill _ | .stredAdd _ | .stredAnd _ | .stredOr _ | .stredXor _ | .stredMin _ | .stredMax _
      | .atomAdd _ | .atomAnd _ | .atomOr _ | .atomXor _ | .atomMin _ | .atomMax _ | .atomXchg _ | .cas _ | .atomnAdd _ | .atomnAnd _
      | .atomnOr _ | .atomnXor _ | .atomnMin _ | .atomnMax _ | .empty _ | .ldwE _ | .cpyk _ | .emit _ | .syscall _ | .timerarm _
      | .compactSt _ => true
      | _ => false)
    | none => false)
  | _ => false

/-- Is there room for the records of an EMIT (07 R171)? -/
def State.hasRoom (s : State) (g : Group) (i : Instr) (cur : Cur) : Bool :=
  match i with
  | .emit o => cur.lanes == 0 || (match g.graph with
      | some gr => s.emitRoom gr (({ s with cur } : State).emissions g o gr)
      | none => true)
  | _ => true

/-- Readiness before the memory unit's part, but for room at Vane: stall counts, interlocks, carried registers, tokens, releases and what the instruction
itself waits for. `bal` is the balance at which tokens are tested. -/
def State.readyBut (s : State) (key : Nat) (g : Group) (c : Coding) (i : Instr) (cur : Cur) (bal : Int) : Bool :=
  let sl := s.slice (sliceOf key)
  !s.groupHeld key g && !s.slackFull g i && s.settled key g (s.regsNamed g c i) cur
    && (!sl.tokEn || tokenCost i = 0 || bal ≥ 1)
    && (cur.lanes == 0 || match releaseScope i with | some sc => s.released key g cur sc | none => true)
    && (match i with
        | .syscall _ => cur.lanes == 0 || (g.draw.isNone && (g.ticket.isSome || g.twin.isSome || (match (s.effOf g.blk).bind s.ringOf with
            | some r => (ringTrap (some r)).isSome || r.room
            | none => true)))
        | .job _ | .jobp _ => cur.lanes == 0 || (s.core (coreOf key)).jobs.length < 4
        -- FENCE.OPR completes the group's BSLDs (15 R323, R331)
        | .fenceOpr => cur.lanes == 0 || !((s.core (coreOf key)).bslds.any (fun x => x.key == key))
        | .bsld _ => cur.lanes == 0 ||
            ((s.core (coreOf key)).bslds.length < 8 && (s.core (coreOf key)).missUsed < 128 && !((s.core (coreOf key)).acquiring key g.blk cur.lanes || s.taking key cur.lanes))
        -- a block-shared register or a tile's element is ordered as a relaxed atomic, by fences alone (05 R130, 14 R311, 15 R338)
        | .movxWs _ | .accwr _ | .accz _ => cur.lanes == 0 || (!s.fencing key g cur && s.afterFences key g cur)
        | .movxSw _ | .accrd _ => cur.lanes == 0 || !s.fencing key g cur
        -- a lane that exits completes the record that it holds (07 R174, 05 R134); a record on its way comes first
        | .exit | .compactExit => !s.taking key cur.lanes && ((lanesOf cur.lanes).all (fun l => (g.lane l).held.isNone) || s.released key g cur 5)
        | .done _ => !s.taking key cur.lanes
        | _ => true)

/-- Readiness before the memory unit's part. -/
def State.ready (s : State) (key : Nat) (g : Group) (c : Coding) (i : Instr) (cur : Cur) (bal : Int) : Bool :=
  s.readyBut key g c i cur bal && s.hasRoom g i cur

/-! ## The memory unit's part of readiness (04 R91, R96, R101, 14 R308) -/

/-- Does a range of bytes touch a span, at a granule of 64 bytes? -/
def spanHit (x : Option (Nat × Nat)) (a n : Nat) : Bool :=
  match x with
  | some (lo, hi) => a / 64 * 64 < (hi + 63) / 64 * 64 && lo / 64 * 64 < a + n
  | none => false

/-- Does the range scoreboard hold an access back: a load at a copy's destination, a store at either side (04 R101)? A lane that makes no access is held
by nothing. -/
def State.rangeHeld (s : State) (core : Nat) (writes : Bool) (a : Acc) : Bool :=
  a.st == .todo && (s.core core).tags.any (fun t => (t.2.st == .flight || t.2.st == .fault) &&
    ((genericOf a.ga a.loc, a.n) :: match a.scale with | some (l, n) => [(genericOf a.sga l, n)] | none => []).any (fun x =>
      spanHit t.2.dspan x.1 x.2 || (writes && spanHit t.2.sspan x.1 x.2)))

/-- Does the memory unit accept the requests that an instruction has made: `t` is the state after it? More than 128 lines, or more than 64 atomics, are
accepted when none of the core's is outstanding, and are then issued as registers and the window allow (log 52); what an instruction performs as it issues must be able to perform. -/
def State.memAccepts (s t : State) (core : Nat) : Bool :=
  let c := s.core core
  let new := (t.core core).reqs.filter (fun r => r.id ≥ s.uid)
  let probed := match t.cur.probe with | some r => linesOf r.accs | none => 0
  let used := c.missUsed
  let want := missOf new + probed
  let seqs := new.filterMap (·.seq)
  (want = 0 || used = 0 || used + want ≤ 128)
    && (seqs = [] || c.reqs.all (fun q => q.seq.isNone) || c.oldestSeq + seqs.length ≤ 64)
    && new.all (fun r => r.accs.all (fun a => a.st != .todo || !a.entry || !isSram a.loc || !r.writes || r.seq.isSome || r.kind == .empty
        || c.credits (sramCore a.loc) > 0))
    && new.all (fun r => r.accs.all (fun a => !s.rangeHeld core r.writes a))
    -- an acquire, an acquire fence or a TAKE of its lanes holds an access at its issue (05 R118, R134; log 26)
    && new.all (fun r => r.accs.all (fun a => a.st != .todo) || !(c.acquiring r.key r.blk r.lanes || s.taking r.key r.lanes))
    && (match t.cur.probe with
        | some r => !(c.acquiring r.key r.blk r.lanes || s.taking r.key r.lanes) && s.mayPerform core r && s.demandOf core r = [] && r.accs.all (fun a => !s.rangeHeld core false a)
        | none => true)

/-- An LDF.rem that the memory unit has not accepted sends the demands that it needs (05 R127). -/
def State.sendAsk (s t : State) (core : Nat) : State :=
  match t.cur.probe with
  | some r =>
    (match s.demandOf core r, s.asking core r.key r.pc with
     | [], _ => s
     | l, some q => if q.promo.all (fun p => p.2 == .back) then (s.putReq core (q.demand l)).addDue (l.map (fun _ => .demand core q.id)) else s
     | l, none =>
       let c := s.core core
       ({ s.putCore core { c with reqs := c.reqs ++ [Req.demand { r with id := s.uid, accs := [], lanes := 0 } l] } with uid := s.uid + 1 }).addDue
         (l.map (fun _ => .demand core s.uid)))
  | none => s

/-! ## Operand collection (03 R65-R67) -/

/-- Vector sources of an instruction in operand order, each once. -/
def vectorSources (i : Instr) : List Nat :=
  match formOf i with
  | some (f, _, o) => (formReads f o).foldl (fun a r => if r < 256 && !a.contains r then a ++ [r] else a) []
  | none => []

/-- Does a collector gather for its j-th address in a slice cycle: has its stall count elapsed? -/
def Coll.live (c : Coll) (cyc j : Nat) : Bool := (c.since[j]?).getD 0 ≤ cyc

/-- The register of a bank that a collector asks for in a slice cycle, and the address for which. -/
def Coll.ask (c : Coll) (cyc bank : Nat) : Option (Nat × Nat) :=
  (List.range c.pcs.length).findSome? (fun j =>
    if c.live cyc j then (((c.want[j]?).getD []).find? (fun r => r % 8 == bank)).map (fun r => (j, r)) else none)

/-- The registers that the collector of a baton receives in a core cycle: each bank serves the lowest-numbered collector that asks for one of its
registers. -/
def Slice.gathers (x : Slice) (cyc b : Nat) (c : Coll) : List (Nat × Nat) :=
  (List.range 8).filterMap (fun bank => if x.coll.any (fun d => d.1 < b && (d.2.ask cyc bank).isSome) then none else c.ask cyc bank)

/-- One core cycle of the collectors of a slice, in a slice cycle. -/
def Slice.collectOnce (x : Slice) (cyc : Nat) : Slice :=
  { x with coll := x.coll.map (fun d =>
      let sv := x.gathers cyc d.1 d.2
      let want := d.2.want.zipIdx.map (fun w => w.1.filter (fun r => !(sv.contains (w.2, r))))
      (d.1, { d.2 with want, done := (want.zipIdx).map (fun w => w.1 == [] && d.2.live cyc w.2) })) }

/-- The collectors run through the core cycles that have ended in the slice cycle just over; at most 64 at a time, after which every operand is
there. -/
def Slice.collect (x : Slice) : Slice :=
  let n := x.tick / 10 - x.collAt
  if x.cyc = 0 then { x with collAt := x.tick / 10 }
  else { (List.range (min n 64)).foldl (fun (y : Slice) _ => y.collectOnce (x.cyc - 1)) x with collAt := x.tick / 10 }

/-- Does an instruction read a block-shared register? -/
def readsW (i : Instr) : Bool := match i with | .movxSw _ => true | _ => false

/-- The address that a PAIR bit joins to an instruction: where the bit and the templates allow it, and the instruction is not of class CONTROL (08 R204). -/
def State.joined (s : State) (key : Nat) (g : Group) (pc : DWord) (i : Instr) (cur : Cur) : Option DWord :=
  match formOf i, (s.core (coreOf key)).cached (s.fetchRoot g) pc with
  | some (f, _, _), some bs =>
    let off := pc.toNat % 64
    let slot := if tplOf bs (off / 12) == .pfx then off / 12 + 1 else off / 12
    let last := tplOf bs slot == .op || (tplOf bs slot == .pair && off % 12 == 6)
    let next := tplOf bs (slot + 1) == .op || tplOf bs (slot + 1) == .pair
    if f.iss != .control && slot < 4 && last && next && pairOf bs slot
        && cur.npc == lineBase pc + BitVec.ofNat 64 (12 * (slot + 1)) then some cur.npc
    else none
  | _, _ => none

/-- The address of the second of a pair whose first, at an address, is a group's primary: a joined one, behind a first with STALL 0 (08 R204). -/
def State.pairAt (s : State) (key : Nat) (g : Group) (pc : DWord) (i : Instr) (cur : Cur) : Option DWord :=
  if cur.stall = 0 then s.joined key g pc i cur else none

/-- A group once the lanes at an address stand at another. -/
def Group.stand (g : Group) (pc q : DWord) : Group := g.onLanes (g.atPc pc) (fun _ x => { x with pc := q })

/-- What the collector of a baton gathers for: the instructions chosen, or the pair of a primary with no secondary (03 R66); kept when nothing has
changed. -/
def State.refreshColl (s : State) (sl b : Nat) : State :=
  let x := s.slice sl
  match x.baton b with
  | .held _ slot =>
    (match s.group? (16 * sl + slot) with
     | none => s
     | some g =>
       let key := 16 * sl + slot
       let pcs := match g.choose with
         | some (p, some q) => [p, q]
         | some (p, none) =>
           (match s.look key g { pc := p } with
            | .ok _ i cur => p :: (s.pairAt key g p i cur).toList
            | _ => [p])
         | none => []
       let second := (g.choose.map (·.2)) == some none
       -- nothing is gathered for an address whose instruction is not there yet, nor past a fence for a block-shared register (05 R130)
       let since := pcs.map (fun pc => match s.look key g { pc } with
         | .ok _ i cur => if readsW i && s.fencing key g cur then 2 ^ 64 else (lanesOf (g.atPc (if second then pcs.headD pc else pc))).foldl (fun m l => max m (g.lane l).ready) 0
         | _ => 2 ^ 64)
       let want := pcs.map (fun pc => match s.look key g { pc } with | .ok _ i _ => vectorSources i | _ => [])
       let old := match x.coll.find? b with | some c => if c.slot == slot && c.pcs == pcs then some c else none | none => none
       let c : Coll := match old with
         | some c =>
           { c with since := (c.since.zip since).map (fun y => if y.1 ≤ x.cyc then y.1 else y.2)
                    want := (c.want.zip (c.since.zip want)).map (fun y => if y.2.1 ≤ x.cyc then y.1 else y.2.2) }
         | none => { slot, pcs, since, want, done := pcs.map (fun _ => false), ws := pcs.map (fun _ => none) }
       -- what begins to collect finds the block-shared registers as they stand
       let w := match s.block? g.blk with | some b => b.w | none => []
       let c := { c with ws := (c.ws.zip c.since).map (fun y => match y.1 with | some w => some w | none => if y.2 ≤ x.cyc then some w else none) }
       s.putSlice sl { x with coll := x.coll.put b c })
  | _ => s.putSlice sl { x with coll := x.coll.del b }

/-- The block-shared registers that a baton's collector found for an address. -/
def Slice.foundW (x : Slice) (b : Nat) (pc : DWord) : Option (SMap Word) :=
  (x.coll.find? b).bind (fun c => ((c.pcs.zip c.ws).find? (fun y => y.1 == pc)).bind (·.2))

/-- An uncorrectable error strikes a register that the collector of a baton reads for its primary or its secondary address: it is consumed there, by the
group, at that address (23 R410). -/
def State.bankError (s : State) (sl b : Nat) (second : Bool) : State :=
  let x := s.slice sl
  match x.coll.find? b with
  | some c =>
    let j := if second then 1 else 0
    let key := 16 * sl + c.slot
    (match s.group? key, c.pcs[j]?, (x.gathers x.cyc b c).any (fun y => y.1 == j) with
     | some g, some pc, true => s.putGroup key (g.raise { cause := Cause.memunc, pc, lanes := g.atPc pc })
     | _, _, _ => s)
  | none => s

/-- OPERAND_COLLECT: the collectors of a slice run one core cycle. -/
def execOperandCollect (x : Collecting) (s : State) : Host.Outcome State Fault Refusal :=
  let s := match x.err with | some (b, second) => s.bankError x.slice b second | none => s
  .next (s.putSlice x.slice ((s.slice x.slice).collectOnce (s.slice x.slice).cyc))

/-- Results whose E4 has ended by the end of a slice cycle are written from the first core cycle that begins at or after a tick; one from outside that
waits for the same bank and core cycle is written after them (03 R67). -/
def placeWrites (l : List WB) (cyc tick : Nat) : List WB :=
  let own := l.filter (fun w => !w.out)
  let own := own.foldl (fun a w =>
    a ++ [if w.at_.isNone && w.due ≤ cyc then { w with at_ := some (freeCycle (a ++ own) (w.reg % 8) ((tick + 9) / 10)) } else w]) []
  (l.filter (·.out)).foldl (fun a w => a ++ [match w.at_ with
    | some c => { w with at_ := some (freeCycle a (w.reg % 8) c) }
    | none => w]) own

/-- RESULT_WRITEBACK: in a core cycle each bank performs its write; results whose core cycle has ended stand in their banks (03 R65, R67). -/
def execResultWriteback (sl : Nat) (s : State) : Host.Outcome State Fault Refusal :=
  let x := s.slice sl
  .next (s.putSlice sl { x with wb := x.wb.filter (fun w => match w.at_ with | some c => x.tick / 10 ≤ c | none => true) })

/-- What stands in E1 to E4 a cycle later (01 R29, R32). -/
def aged (l : List (Nat × Nat)) : List (Nat × Nat) := l.filterMap (fun y => if y.2 > 1 then some (y.1, y.2 - 1) else none)

/-- A slice once a cycle in which nothing issues has passed (01 R29 to R34). -/
def Slice.idleCycle (x : Slice) : Slice :=
  { x with cyc := (x.cyc + 1) % 2 ^ 64, tick := x.tick + cycleTicks x.cycleClass x.clkrat.toNat, stages := aged x.stages, busy := x.busy - 1 }

/-- The tick at which a slice in which nothing issues any more reaches a slice cycle. -/
def Slice.idleTick (x : Slice) (cyc : Nat) : Nat := ((List.range (cyc - x.cyc)).foldl (fun x _ => x.idleCycle) x).tick

/-- A slice that stood idle, brought to a tick: cycles in which nothing issued have passed, first those with something still in E1 to E4 (at most 7,
01 R32), then empty ones (R30, R34); a stopped clock has not counted (R35). -/
def Slice.catchUp (x : Slice) (now : Nat) : Slice :=
  if x.gated then { x with tick := max x.tick now }
  else
    let x := (List.range 8).foldl (fun (x : Slice) _ => if x.tick < now && x.stages != [] then x.idleCycle else x) x
    let len := cycleTicks 0 x.clkrat.toNat
    let n := (now - x.tick + len - 1) / len
    { x with cyc := (x.cyc + n) % 2 ^ 64, tick := x.tick + n * len, busy := x.busy - n }

/-- A slice without groups as it stands at a tick; while its core's clock is stopped no cycle has passed (01 R34, R35, 25 R447). -/
def State.idled (s : State) (sl now : Nat) : Slice :=
  let x := s.slice sl
  if s.groups.any (fun g => sliceOf g.1 == sl) then x
  else if (s.core (sl / 6)).idle != .on then { x with tick := max x.tick now, tokAt := max x.tokAt (now / 10) }
  else x.catchUp now

/-- The tick at which a write to a block-shared register is applied: the end of the first core cycle that begins at or after the end of its E4
(03 R73); none while it is not known. -/
def State.wTick (s : State) (core : Nat) (w : WWrite) : Option Nat :=
  let sl := sliceKey core w.slice
  let e := match w.ended with
    | some e => some e
    | none => if s.groups.any (fun g => sliceOf g.1 == sl) then none else some ((s.slice sl).idleTick (w.due + 1))
  e.map (fun e => (e + 9) / 10 * 10 + 10)

/-- The order of writes to block-shared registers that are applied by a tick: their core cycles, then slice, baton, and secondary before primary
(03 R74). -/
def State.wRank (s : State) (core : Nat) (w : WWrite) : Nat :=
  (s.wTick core w).getD 0 * 128 + (w.slice % 8 * 16 + w.baton % 8 * 2 + w.prim % 2)

/-- The writes of a core whose core cycle has ended by a tick applied. -/
def State.applyW (s : State) (core now : Nat) : State :=
  let c := s.core core
  let due (w : WWrite) : Bool := match s.wTick core w with | some t => t ≤ now | none => false
  let ws := sortOn (s.wRank core) (c.wq.filter due)
  let s := s.putCore core { c with wq := c.wq.filter (fun w => !due w) }
  ws.foldl (fun s w => match s.block? w.blk with
    | some b => s.putBlock w.blk { b with w := b.w.set 0 w.reg w.bits }
    | none => s) s

/-- W_REGISTER_APPLY: writes to block-shared registers whose core cycle has come. -/
def execWRegisterApply (core : Nat) (s : State) : Host.Outcome State Fault Refusal := .next (s.applyW core s.now)

/-! ## Tokens (25 R443-R445) -/

/-- The bucket refilled once. -/
def Slice.refill (x : Slice) : Slice := { x with tokBal := min (x.tokCap.toNat : Int) (x.tokBal + x.tokRate.toNat) }

/-- The bucket refilled for every core cycle before one, as its fields stand; 512 refills fill any bucket. -/
def Slice.refillTo (x : Slice) (c : Nat) : Slice :=
  { (if x.tokEn then (List.range (min (c - x.tokAt) 512)).foldl (fun x _ => x.refill) x else x) with tokAt := max x.tokAt c }

/-- A write of TOKBAL in force: EN, RATE and CAP; BAL takes CAP when EN rises or CAP falls below it (25 R443). -/
def Slice.takeTok (x : Slice) (v : Word) : Slice :=
  let cap : BitVec 8 := v.extractLsb' 16 8
  let en := v.getLsbD 31
  let bal : Int := if (en && !x.tokEn) || (cap.toNat : Int) < x.tokBal then cap.toNat else x.tokBal
  { x with tokEn := en, tokRate := v.extractLsb' 24 7, tokCap := cap, tokBal := bal }

/-- The bucket as it stands in a core cycle: refilled for every one that has ended, with the writes in force by then. -/
def Slice.refills (x : Slice) (c : Nat) : Slice :=
  let y := (x.tokNext.filter (·.1 ≤ c)).foldl (fun (x : Slice) w => (x.refillTo w.1).takeTok w.2) x
  { y.refillTo c with tokNext := x.tokNext.filter (c < ·.1) }

/-- TOKEN_REFILL: at the end of a core cycle BAL becomes min(CAP, BAL + RATE) while EN is 1. -/
def execTokenRefill (sl : Nat) (s : State) : Host.Outcome State Fault Refusal :=
  let x := s.slice sl
  .next (if x.tokEn then s.putSlice sl x.refill else s)

/-! ## CEILING (01 R27) -/

/-- Does a class exceed CEIL in every enabled row that names a baton? -/
def Slice.overAll (x : Slice) (b cls : Nat) : Bool :=
  (List.range 64).all (fun i =>
    let r : Word := SMap.get 0 x.slottab i
    !(r.getLsbD 7) || field r.toNat 1 0 != b || field r.toNat 3 2 < cls)

/-- CEILING: a group that has presented an over-class instruction in every row of a full rotation traps at it. -/
def execCeiling (key : Nat) (s : State) : Host.Outcome State Fault Refusal :=
  .next (match s.group? key with
    | some g =>
      (match g.overCls, g.baton with
       | some (pc, start), some b =>
         (match s.look key g { pc } with
          | .ok _ i cur =>
            if start + 64 ≤ (s.slice (sliceOf key)).cyc && (s.slice (sliceOf key)).overAll b (timOf i) then
              s.putGroup key ({ g with overCls := none }.raise { cause := Cause.ceiling, pc, lanes := cur.lanes })
            else s
          | _ => s)
       | _, _ => s)
    | none => s)

/-- The slice cycle from which a group has presented an instruction above every ceiling of its baton is kept: it starts afresh when the group presents
another address. -/
def State.noteOver (s : State) (key : Nat) (g : Group) (pc : DWord) (cyc : Nat) : State :=
  match g.overCls with
  | some (q, _) => if q = pc then (match execCeiling key s with | .next t => t | _ => s) else s.putGroup key { g with overCls := some (pc, cyc) }
  | none => s.putGroup key { g with overCls := some (pc, cyc) }

/-! ## Empty slots, missing lines (08 R186, R187) -/

/-- A group that presents an address whose instruction fits a ceiling of its baton, or none: no rotation is counted (01 R27). -/
def State.dropOver (s : State) (key : Nat) (pc : Option DWord) : State :=
  match s.group? key with
  | some g => if g.overCls.any (fun y => some y.1 != pc) || (pc.isNone && g.overCls.isSome) then s.putGroup key { g with overCls := none } else s
  | none => s

/-- After a change of the slot table: a ceiling lifted for an instruction that waits for one prevents the trap (01 R27). -/
def State.liftCeilings (s : State) (sl : Nat) : State :=
  (s.groups.filter (fun g => sliceOf g.1 == sl && g.2.overCls.isSome)).foldl (fun s x =>
    match x.2.overCls, x.2.baton with
    | some (pc, _), some b =>
      (match s.look x.1 x.2 { pc } with
       | .ok _ i _ => if (s.slice sl).overAll b (timOf i) then s else s.dropOver x.1 none
       | _ => s)
    | _, _ => s.dropOver x.1 none) s

/-- Lanes at an empty slot stand at the next slot that is not empty. -/
def State.passEmpty (s : State) (key : Nat) : Nat → State
  | 0 => s
  | n + 1 =>
    match s.group? key with
    | none => s
    | some g =>
      let c := s.core (coreOf key)
      let root := s.fetchRoot g
      let g' := g.addrs.foldl (fun h pc =>
        match c.cached root pc with
        | some bs => let q := passOver bs pc; if lineParityOk bs && q != pc then h.onLanes (g.atPc pc) (fun _ x => { x with pc := q }) else h
        | none => h) g
      if g' = g then s else (s.putGroup key g').passEmpty key n

/-- A line that a chosen address needs: it is fetched, or the fetch traps. -/
def State.needLine (s : State) (key : Nat) (g : Group) (pc : DWord) : State :=
  let core := coreOf key
  let root := s.fetchRoot g
  let trap (s : State) (c : Nat) (die : Option Nat) : State := s.putGroup key (g.raise { cause := c, pc, addr := pc, lanes := g.atPc pc, die })
  match s.translate core root (lineBase pc).toNat .fetch with
  | (.error c, t) => trap t c none
  | (.ok x, t) =>
    if t.eccIn x.loc 64 then trap t Cause.memunc (some (placeDie x.loc))
    else if t.due.contains (.fill core root (lineBase pc)) then t else t.addDue [.fill core root (lineBase pc)]

/-- A fetch or decode trap at a chosen address (08 R206); BADTGT names the address as both PC and address (R187). A line that the cache holds with a bad
parity is discarded: when memory has it without the mismatch it is fetched again, and a soft error is counted; else LINEPAR is raised (R186). -/
def State.fetchTrap (s : State) (key : Nat) (g : Group) (pc : DWord) (c : Nat) : State :=
  let core := coreOf key
  let root := s.fetchRoot g
  let raise (s : State) : State := s.putGroup key (g.raise { cause := c, pc, addr := if c = Cause.badtgt then pc else 0, lanes := g.atPc pc })
  if c = Cause.linepar then
    let x := s.core core
    let s := s.putCore core { x with icache := x.icache.filter (fun y => !(y.1 == root && y.2.1 == (lineBase pc).toNat)) }
    if (s.lineOf core root pc).any lineParityOk then (s.countR (dieOf core) 0).needLine key g pc else raise s
  else raise s

/-! ## SLICE_CYCLE (01 R25) -/

/-- The slot of the group that holds a baton of a slice. -/
def Slice.holder (x : Slice) (b : Nat) : Option Nat := match x.baton b with | .held _ slot => some slot | _ => none

/-- The groups of a slice that hold a baton. -/
def State.holders (s : State) (sl : Nat) : List Nat :=
  (s.groups.filter (fun g => sliceOf g.1 == sl && g.2.baton.isSome)).map (·.1)

/-- The EMIT of a group that waits for room, and nothing else, as its primary or its secondary; its wait is counted from the core cycle in which it first
did (07 R171). -/
def State.noteRoom (s : State) (key : Nat) (g : Group) (b : Nat) (pa : DWord) (c : Coding) (i : Instr) (cur : Cur) (sec : Option (Pick × Look)) : State :=
  let x := s.slice (sliceOf key)
  let waits (pc : DWord) (c : Coding) (i : Instr) (cur : Cur) (bal : Int) : Bool :=
    s.readyBut key g c i cur bal && x.collected b pc && !s.hasRoom g i cur
  let pc : Option DWord :=
    if waits pa c i cur x.tokBal then some pa
    else match sec with
      | some (k, .ok c2 j cur2) => if waits k.pc c2 j cur2 (x.tokBal - tokenCost i) then some k.pc else none
      | _ => none
  let w : Option (DWord × Nat) := pc.map (fun pc => match g.emitWait with
    | some (q, n) => (pc, if q = pc then n else x.tick / 10)
    | none => (pc, x.tick / 10))
  if w = g.emitWait then s else s.putGroup key { g with emitWait := w }

/-- What the row's holder issues: the addresses chosen and looked at, the ceiling, and readiness. -/
def State.decide (s : State) (sl b ceil key : Nat) (g : Group) (l : Latch) : State × Latch :=
  match g.choose with
  | none => (s, l)
  | some (pa, pb) =>
    let x := s.slice sl
    let kp : Pick := { pc := pa }
    let at2 := match pb with | some q => g.atPc q | none => 0
    let l := { l with elig := g.eligible, chosen := g.atPc pa ||| at2, start := some ⟨g, s.core (coreOf key), x⟩ }
    -- rows of a block that a preemption order has stopped pass unused (23 R414)
    if s.blockHeld g then (s.dropOver key none, l) else
    let s := s.dropOver key (some pa)
    -- no fetch before the generation that the group's work depends on (23 R395)
    if !genSeen (s.core (coreOf key)).observed g.tgen then (s.dropOver key none, l) else
    match s.look key g kp with
    | .absent => ((s.dropOver key none).needLine key ((s.dropOver key none).group? key |>.getD g) pa, l)
    | .trap c => (s.fetchTrap key g pa c, l)
    | .ok cd i cur =>
      let sec : Option (Pick × Look) := pb.map (fun q => let k : Pick := { pc := q, sec := true, at_ := at2 }; (k, s.look key g k))
      match sec with
      | some (k, .trap c) => (s.fetchTrap key g k.pc c, l)
      | _ =>
        let s := match sec with | some (k, .absent) => s.needLine key g k.pc | _ => s
        let s := s.noteRoom key ((s.group? key).getD g) b pa cd i cur sec
        let g := (s.group? key).getD g
        -- the fetch of the secondary traps: neither issues (08 R206)
        if g.trap.isSome then (s, l)
        else if timOf i > ceil then ((if x.overAll b (timOf i) then s.noteOver key g pa x.cyc else s.dropOver key none), l)
        else if !(s.ready key g cd i cur x.tokBal && x.collected b pa) then (s, l)
        else if let a :: rest := g.denied then
          -- a denied store's trap, at the first instruction issued after its notice (04 R98)
          (s.putGroup key { (g.raise { cause := Cause.global .write, pc := pa, addr := a, lanes := cur.lanes }) with denied := rest }, l)
        else
          let bal := x.tokBal - tokenCost i
          let extra : List Pick := match sec with
            | some (k, .ok cj j cur2) =>
              if s.ready key g cj j cur2 bal && x.collected b k.pc && timOf j ≤ ceil && coissue (issOf i) (issOf j) then [k] else []
            | some _ => []
            | none =>
              -- the second of a pair (08 R204)
              (match s.pairAt key g pa i cur with
               | some q =>
                 let k : Pick := { pc := q, second := true }
                 let h := g.stand pa q
                 (match s.look key h k with
                  | .ok cj j cur2 =>
                    if s.ready key h cj j cur2 bal && x.collected b q && timOf j ≤ ceil && coissue (issOf i) (issOf j) then [k] else []
                  | _ => [])
               | none => [])
          (s, { l with todo := kp :: extra })

/-- The JOINs of a slice's groups tested, when a core cycle has ended since its last cycle began (06 R160). -/
def State.testJoins (s : State) (sl : Nat) : State :=
  if (s.slice sl).tick / 10 ≤ (s.slice sl).collAt then s
  else (s.groups.filter (fun g => sliceOf g.1 == sl && (List.range 8).any g.2.joinReady)).foldl (fun s g => match execJoinTest g.1 s with | .next t => t | _ => s) s

/-- SLICE_CYCLE: one cycle of a slice begins; what it issues is decided from the state at its start. -/
def execSliceCycle (sl : Nat) (s : State) : Host.Outcome State Fault Refusal :=
  .next (
    let s := s.testJoins sl
    let s := if (s.core (sl / 6)).wq = [] then s else s.applyW (sl / 6) (s.slice sl).tick
    let x := ((s.slice sl).collect).refills ((s.slice sl).tick / 10)
    let s := match execHintIdleWake sl { s.putSlice sl x with now := max s.now x.tick } with | .next t => t | _ => s
    let s := (List.range 4).foldl (fun s b =>
      match (s.slice sl).holder b with | some slot => s.passEmpty (16 * sl + slot) ((s.core (sl / 6)).icache.length + 1) | none => s) s
    let s := (List.range 4).foldl (fun s b => s.refreshColl sl b) s
    let x := s.slice sl
    let row := x.cyc % 64
    let r : Word := SMap.get 0 x.slottab row
    let b := field r.toNat 1 0
    let holder := if r.getLsbD 7 then x.holder b else none
    let l : Latch := { slice := sl, baton := b, ceil := field r.toNat 3 2, holders := s.holders sl, named := holder.map (fun k => 16 * sl + k),
                       group := holder.map (fun k => 16 * sl + k) }
    if x.gated || x.busy > 0 then { s with latch := some l }
    else match l.group with
      | none => { s with latch := some l }
      | some key =>
        match s.group? key with
        | none => { s with latch := some l }
        | some g => let d := s.decide sl b l.ceil key g l; { d.1 with latch := some d.2 })

/-! ## What an issue leaves behind (08 R201, R202, 11 R247, 23 R397, 25 R442) -/

/-- The views once lanes take poison in a uniform destination: a write of its own for each poison (03 R69); none when a ninth view would arise. -/
def Group.splitMarred (g : Group) (f : Form) (o : Op) (lanes : BitVec 32) (l : List (Nat × Nat)) : Option Group :=
  if l = [] || !(f.ops.any (fun d => d.dst && isUniform (o.sel d.slot))) then some g
  else (l.map (·.2)).eraseDups.foldl (fun r p => r.bind (fun g => g.splitViews (maskIn ((l.filter (fun x => x.2 == p)).map (·.1))))) (g.splitViews lanes)

/-- Destinations of lanes poisoned. -/
def State.poisonDst (s : State) (g : Group) (f : Form) (o : Op) (lanes : BitVec 32) (l : List (Nat × Nat)) : Group :=
  l.foldl (fun g x => (f.ops.filter (·.dst)).foldl (fun g d => s.poisonLane g (o.sel d.slot) (d.count o) x.1 x.2) g) ((g.splitMarred f o lanes l).getD g)

/-- What finishing leaves on a lane that issued: the cycle before which its next instruction is not ready, and its hazards; a register written anew has
only those of its new result (08 R202). -/
def Lane.issued (x : Lane) (cyc n stall : Nat) (wrote : List Nat) (new : List (Nat × Nat)) (pairs : List (Nat × Nat)) : Lane :=
  { x with
    ready := cyc + n + stall + (if x.ready = 1 then 1 else 0)
    pairs
    haz := ((x.haz.filter (fun y => !wrote.contains y.1)).filterMap (fun y => if y.2 > stall + 1 then some (y.1, y.2 - (stall + 1)) else none)) ++ new }

/-- An instruction has executed: `t` is the state it left. -/
def State.finish (t : State) (i : Instr) (cur : Cur) (l : Latch) : State :=
  let key := cur.key
  let sl := sliceKey cur.core cur.slice
  let x := t.slice sl
  let n := (t.core cur.core).passes
  let t := if x.tokEn then t.putSlice sl { x with tokBal := x.tokBal - tokenCost i } else t
  let l' := { l with issued := l.issued ++ [timOf i], todo := l.todo.drop 1 }
  match t.group? key with
  | none => { t with latch := some l' }
  | some g =>
    match formOf i with
    | none => { t with latch := some l' }
    | some (f, _, o) =>
      -- an instruction that traps has issued, and leaves its lanes at its address: it counts in the stall sums of what comes after (08 R201, R202)
      if g.trap.isSome && (lanesOf cur.at_).all (fun ln => (g.lane ln).exited || (g.lane ln).pc == cur.pc) then
        let g := g.onLanes cur.at_ (fun _ y => if y.exited then y else y.issued x.cyc n cur.stall [] [] y.pairs)
        { t.putGroup key g with latch := some { l' with todo := l'.todo.filter (fun k => !k.second) } }
      else
        let lat := (fixedLat f)
        let ws := if lat = 0 then [] else formWrites f o
        let new : List (Nat × Nat) := if lat > cur.stall + 1 then ws.map (fun r => (r, lat - (cur.stall + 1))) else []
        -- a write to p7 has no effect, and gives no result to wait for (log 50)
        let ws := ws.filter (· != rkP 7)
        let paired := if (t.joined key g cur.pc i cur).isSome then ws.map (fun r => (r, lat)) else []
        -- a register that the group holds once is written for every lane of the path (03 R72)
        let upon (ln r : Nat) : Bool := cur.lanes.getLsbD ln || (328 ≤ r && cur.lanes != 0)
        let g := { g with atCkpt := false }.onLanes cur.at_ (fun ln y => if y.exited then y
          else y.issued x.cyc n cur.stall ((formWrites f o).filter (upon ln)) (new.filter (fun z => z.1 != rkP 7 && upon ln z.1))
            (paired.filter (fun z => upon ln z.1)))
        -- unpredictable values and poisoned guards
        let g := cur.spoilt.foldl (fun g y =>
          if y.2 < 256 then g.setV y.2 y.1 ⟨Config.word t.free (512 * y.1 + y.2), (g.vAt y.2 y.1).psn⟩
          else if y.2 < 320 then g.setU (y.2 - 256) y.1 ⟨Config.word t.free (512 * (g.lane y.1).view + y.2), (g.uAt (y.2 - 256) y.1).psn⟩
          else if y.2 < 328 then g.setP (y.2 - 320) y.1 ⟨Config.bit t.free (512 * y.1 + y.2), (g.pAt (y.2 - 320) y.1).psn⟩
          else g.loosen t.free y.2) g
        let g := if cur.marred = [] then g else t.poisonDst g f o cur.lanes cur.marred
        let g := { g with overCls := if g.overCls.any (fun y => y.1 == cur.pc) then none else g.overCls, emitWait := if g.emitWait.any (fun y => y.1 == cur.pc) then none else g.emitWait }
        let t := t.putGroup key g
        let wb := ws.filterMap (fun r => if r < 256 then some { slot := cur.slot, reg := r, due := x.cyc + 4 + n - 1 } else none)
        let y := t.slice sl
        let t := t.putSlice sl { y with wb := y.wb ++ wb }
        { t with latch := some { l' with first := if cur.lanes = 0 then [] else (formWrites f o).filter (328 ≤ ·) } }

/-- Mask, buffer-record and tile-descriptor registers after a cycle's second instruction: what the primary wrote persists (03 R72). -/
def Group.keepFirst (g : Group) (was : Group) (first : List Nat) : Group := first.foldl (fun g k => g.likeIn was k) g

/-! ## The end of a slice cycle (01 R29-R34, 06 R148, R154, 16 R357, R358) -/

/-- The lanes' counts after an issue cycle (01 R21). -/
def Group.count (g : Group) (l : Latch) : Group :=
  g.onLanes l.elig (fun ln x => if x.exited then x else { x with cnt := if l.chosen.getLsbD ln then 0 else x.cnt + 1 })

/-- Has a hand-off been decided: E4 has ended, and every answer is back? -/
def State.handDue (s : State) (key : Nat) (h : Nat × Option Nat × Nat) (cyc : Nat) : Bool :=
  h.2.2 ≤ cyc && (h.1 = 0 || (match s.req? (coreOf key) h.1 with
    | some r => r.accs.all (·.told)
    | none => true))

/-- Hand-offs of a slice's groups (06 R154, R158): to the successor when the group holds a baton and has no eligible thread. -/
def State.handOffs (s : State) (sl : Nat) : State :=
  let cyc := (s.slice sl).cyc
  s.groups.foldl (fun s x =>
    if sliceOf x.1 != sl || x.2.hands == [] then s
    else
      x.2.hands.foldl (fun s h =>
        if !s.handDue x.1 h cyc then s
        else match s.group? x.1 with
          | none => s
          | some g =>
            let s := s.putGroup x.1 { g with hands := g.hands.filter (· != h) }
            if g.baton.isSome && g.eligible == 0 then match h.2.1 with | some k => s.handOn x.1 k | none => s else s) s) s

/-- The heirs of batons made unheld in this cycle are read after its WRSRs (16 R357). -/
def State.rereadHeirs (s : State) (sl key : Nat) : State :=
  match s.group? key with
  | some g =>
    let x := s.slice sl
    s.putSlice sl { x with orphans := x.orphans.map (fun o => if o.2.2 = key then (o.1, g.heir, key) else o) }
  | none => s

/-- A PARK or TRET.W of the cycle that leaves its group with no eligible thread makes the baton unheld (06 R150, R153, R164). -/
def State.endYield (s : State) (key : Nat) : State :=
  match s.group? key with
  | some g =>
    if g.yielded then
      let s := s.putGroup key { g with yielded := false }
      if g.eligible == 0 then s.dropBaton key else s
    else s
  | none => s

/-- The end of a slice cycle: WRSRs, hand-offs, faults, orphans, reclaim, exits; then the counters and the time. -/
def State.endCycle (s : State) (l : Latch) : State :=
  let sl := l.slice
  let key := l.group.getD 0
  let keys := (s.groups.filter (fun g => sliceOf g.1 == sl)).map (·.1)
  let s := if l.issued = [] then s else ((s.applyWrs key l.baton).rereadHeirs sl key).endYield key
  let s := s.handOffs sl
  -- step 2: faults become visible, and batons made unheld are given out
  let s := keys.foldl (fun s k =>
    match s.group? k with | some g => if g.trap.isSome then (s.dropBaton k).becomeFaulted k else s | none => s) s
  let s := keys.foldl (fun s k => s.reap k) s
  let s := (s.giveOrphans sl).reclaim sl
  -- counters and time
  let x := s.slice sl
  let len := cycleTicks x.cycleClass x.clkrat.toNat
  let n := (s.core (sl / 6)).passes
  -- while the clock is stopped no slice cycle passes (01 R34)
  -- and the counters of a group stand at 0 at its first instruction (16 R358)
  let s := if x.gated then s else l.holders.foldl (fun s k => match s.group? k with
    | some g => if g.gissue = 0 && !(l.group = some k && l.issued != []) then s else s.putGroup k { g with
        ghold := (g.ghold + 1) % 2 ^ 64, gticks := (g.gticks + len) % 2 ^ 64
        gidle := if l.named = some k && l.issued = [] then (g.gidle + 1) % 2 ^ 64 else g.gidle }
    | none => s) s
  let s := if l.issued = [] then s else match s.group? key with
    | some g => s.putGroup key { g.count l with gissue := (g.gissue + l.issued.length) % 2 ^ 64, gcycle := (g.gcycle + 1) % 2 ^ 64 }
    | none => s
  let x := s.slice sl
  let stages := aged x.stages ++ l.issued.map (fun c => (c, 4 + n - 1))
  let busy := if l.issued = [] then x.busy - 1 else n - 1
  -- writes to block-shared registers whose E4 ends (03 R73); what follows an issue is gathered anew (03 R66)
  let c := s.core (sl / 6)
  let s := if c.wq = [] then s else s.putCore (sl / 6) { c with wq := c.wq.map (fun w =>
    if w.slice = sl % 6 && w.ended.isNone && w.due ≤ x.cyc then { w with ended := some (x.tick + len) } else w) }
  let coll := if l.issued = [] then x.coll else x.coll.filter (fun c => c.2.slot != slotOf key)
  let wb := (placeWrites x.wb x.cyc (x.tick + len)).filter (fun w => match w.at_ with | some c => x.tick / 10 ≤ c + 1 | none => true)
  let s := s.putSlice sl { x with cyc := if x.gated then x.cyc else (x.cyc + 1) % 2 ^ 64, tick := x.tick + len, stages, busy, coll, wb }
  { s with latch := none }

end Sys2Proof.Machine
end

