-- ==== Sys2Proof/Machine/Copies.lean ====
section
/-! DEFINITION. Copies: CPYB, CPYK, CPYW, CPYQ and the copy request engine (spec 14 R312-R318). -/

namespace Sys2Proof.Machine

open Sys2Proof

/-- A tag of a core; none when it is FREE. -/
def Core.tag? (c : Core) (n : Nat) : Option Copy := c.tags.find? n
/-- A tag changed. -/
def State.putTag (s : State) (core n : Nat) (x : Copy) : State :=
  let c := s.core core
  s.putCore core { c with tags := c.tags.put n x }
/-- A tag FREE again. -/
def State.freeTag (s : State) (core n : Nat) : State :=
  let c := s.core core
  s.putCore core { c with tags := c.tags.del n }

/-- CPYB: the checks in order, the lowest free tag, or 0xFFFF_FFFF (14 R313). -/
def execCpyb (o : OpX) (s : State) : Host.Outcome State Fault Refusal :=
  onState s (fun g t =>
    if s.cur.lanes == 0 then .ok t
    else
      let n := s.low g Forms.cpyb 0 (.x o) 4
      let a := g.bAt o.sa.num
      let b := g.bAt o.sb.num
      let ra := Brec.of a
      let rb := Brec.of b
      match n.psn with
      | some p => .error (s.consumedOf g p)
      | none =>
        if ra.res ≠ 0 || rb.res ≠ 0 then .error (s.trapOf Cause.illegal)
        else if ra.esz ≠ rb.esz || (ra.swz ≠ 0 && ra.esz = 3) || (rb.swz ≠ 0 && rb.esz = 3) then .error (s.trapOf Cause.cpydesc)
        else
          let c := t.core s.cur.core
          let free := (List.range 64).find? (fun k => (c.tag? k).isNone)
          match s.writeSame g o.dst [⟨match free with | some k => BitVec.ofNat 32 k | none => 0xFFFFFFFF, none⟩] with
          | .error e => .error e
          | .ok h =>
            let t := t.setCur h
            .ok (match free with
              | some k => t.putTag s.cur.core k { blk := g.blk, src := a, dst := b, count := n.bits.toNat, key := s.cur.key }
              | none => t))

/-- What a copy does with an element: the failure of its first check (order, cause, address), a skip, or its two addresses (14 R314). -/
def State.copyCheck (s : State) (b : Block) (c : Copy) (k : Nat) : Except Bad (Option (DWord × DWord)) :=
  let rs := Brec.of c.src
  let rd := Brec.of c.dst
  let n := 2 ^ rs.esz.toNat
  let x := s.laneCheck b rs (rs.oobf == 1) .read false n k k
  let y := s.laneCheck b rd (rd.oobf == 1) .write false n k k
  match x, y with
  | .error e, .error f => .error (if f.order < e.order then f else e)
  | .error e, .ok (some _) => .error e
  | .ok (some _), .error f => .error f
  | .error e, .ok none => if e.order ≤ 2 then .error e else .ok none
  | .ok none, .error f => if f.order ≤ 2 then .error f else .ok none
  | .ok (some p), .ok (some q) => .ok (some (p, q))
  | _, _ => .ok none

/-- The span of a side: from its lowest to its highest byte, in generic form (04 R101, 14 R314). -/
def State.spanOf (s : State) (b : Block) (n : Nat) (l : List DWord) : Option (Nat × Nat) :=
  l.foldl (fun (m : Option (Nat × Nat)) ga =>
    let a := match (if field ga.toNat 63 60 = 0 then none else s.scratch b ga) with | some loc => genericOf ga loc | none => ga.toNat
    match m with | none => some (a, a + n) | some (lo, hi) => some (min lo a, max hi (a + n))) none

/-- The copy that CPYK starts, checked: the first failure of the lowest element, or its spans. -/
def State.kickCheck (s : State) (b : Block) (c : Copy) : Except Bad Copy :=
  let es := (List.range c.count).map (fun k => s.copyCheck b c k)
  match es.findSome? (fun e => match e with | .error x => some x | .ok _ => none) with
  | some x => .error x
  | none =>
    let ps := es.filterMap (fun e => match e with | .ok (some p) => some p | _ => none)
    let n := 2 ^ (Brec.of c.src).esz.toNat
    .ok { c with st := .flight, sspan := s.spanOf b n (ps.map (·.1)), dspan := s.spanOf b n (ps.map (·.2)) }

/-- The tag operand of CPYK, CPYW or CPYQ: consumed poison, CPYTAG when above 63, or the number. -/
def State.tagArg (s : State) (g : Group) (v : Val) : Except Trap Nat :=
  match v.psn with
  | some p => .error (s.consumedOf g p)
  | none => if v.bits.toNat > 63 then .error (s.trapOf Cause.cpytag) else .ok v.bits.toNat

def execCpyk (o : OpM) (s : State) : Host.Outcome State Fault Refusal :=
  onState s (fun g t =>
    match s.cur.lanes == 0, t.block? g.blk with
    | true, _ => .ok t
    | false, none => .ok t
    | false, some b =>
      let v := match lowest s.cur.lanes with | some l => s.readSel g o.data 0 l | none => ⟨0, none⟩
      match s.tagArg g v with
      | .error e => .error e
      | .ok n =>
        match (t.core s.cur.core).tag? n with
        | none => .error (s.trapOf Cause.cpytag)
        | some c =>
          let fe := o.imm.toNat % 4 = 1
          let tag := field (Brec.of c.dst).base.toNat 63 60
          if c.blk ≠ g.blk || c.st != .built then .error (s.trapOf Cause.cpytag)
          else if s.isStage g then .error (s.trapOf Cause.stagefx)
          else if fe && tag ≠ 8 && tag ≠ 9 then .error (s.trapOf (Cause.fespace .write) (Brec.of c.dst).base)
          else match s.kickCheck b { c with fe, scope := o.scope.toNat, key := s.cur.key, pc := s.cur.pc, lanes := s.cur.lanes, gen := g.tgen } with
            | .error x => .error (s.trapOf x.cause x.addr)
            | .ok c =>
              let t := t.putTag s.cur.core n c
              match g.twin with
              | some (tw, lead) =>
                .ok (t.pushTwin tw lead { sig := [23, s.cur.lanes.toNat, c.count, c.src.toNat, c.dst.toNat, if fe then 1 else 0], op := .copy n })
              | none => .ok (t.addDue [.copy s.cur.core n]))

/-- A group's CPYW traps with its tag's fault, at its own address (14 R316, R317). -/
def State.cpywTrap (s : State) (key tag : Nat) (c : Copy) (pc : DWord) (lanes : BitVec 32) : State :=
  match s.group? key with
  | some g =>
    let g := { (g.onLanes (lanes &&& g.live) (fun _ x => { x with pc })) with cpyw := none }
    s.putGroup key (g.raise { cause := (c.flt.getD (0, 0)).1, pc, addr := (c.flt.getD (0, 0)).2, lanes, tag := some tag })
  | none => s

def execCpyw (o : OpX) (s : State) : Host.Outcome State Fault Refusal :=
  onState s (fun g t =>
    if s.cur.lanes == 0 then .ok t
    else match s.tagArg g (s.low g Forms.cpyw 0 (.x o) 2) with
      | .error e => .error e
      | .ok n =>
        match (t.core s.cur.core).tag? n with
        | none => .error (s.trapOf Cause.cpytag)
        | some c =>
          if c.blk ≠ g.blk || c.st == .built then .error (s.trapOf Cause.cpytag)
          else match c.st with
            | .fault => .error { s.trapOf (c.flt.getD (0, 0)).1 (c.flt.getD (0, 0)).2 with tag := some n }
            | .done => .ok (t.freeTag s.cur.core n)
            | _ => .ok (t.setCur { g with cpyw := some (n, s.cur.pc, s.cur.lanes) }))

/-- The status word of CPYQ (14 R318). -/
def cpyqWord (c : Option Copy) (blk : Nat) : Word :=
  match c with
  | none => 0
  | some c =>
    (match c.st with | .built => 1 | .flight => 2 | .done => 3 | .fault => 4) + (if c.blk = blk then 8 else 0)

def execCpyq (o : OpX) (s : State) : Host.Outcome State Fault Refusal :=
  onState s (fun g t =>
    if s.cur.lanes == 0 then .ok t
    else match s.tagArg g (s.low g Forms.cpyq 0 (.x o) 2) with
      | .error e => .error e
      | .ok n =>
        match s.writeSame g o.dst [⟨cpyqWord ((t.core s.cur.core).tag? n) g.blk, none⟩] with
        | .ok h => .ok (t.setCur h)
        | .error e => .error e)

/-! ## The copy request engine (14 R315, R316) -/

/-- The bytes that an element writes: those of its source, but where the two spans share a byte the value is unpredictable. -/
def State.copyBytes (s : State) (c : Copy) (k : Nat) (dst : Nat) (bs : List Byte) : List Byte :=
  let shared (a : Nat) : Bool := match c.sspan, c.dspan with
    | some (lo, hi), some (lo', hi') => lo ≤ a && a < hi && lo' ≤ a && a < hi'
    | _, _ => false
  (bs.zipIdx).map (fun b => if shared (dst + b.2) then Config.byte s.free (8 * k + b.2) else b.1)

/-- One side of an element: its place, or the cause of its failure. -/
def State.copyPlace (s : State) (core : Nat) (b : Block) (k : AccKind) (ga : DWord) : Except Nat Nat × State :=
  if field ga.toNat 63 60 = 0 then
    match s.translate core (s.rootOf b.launch) ga.toNat k with
    | (.ok x, t) => (.ok x.loc, t)
    | (.error e, t) => (.error e, t)
  else match s.scratch b ga with
    | some loc => if s.denied b.region loc then (.error (Cause.global k), s) else (.ok loc, s)
    | none => (.error (Cause.window k), s)

/-- Are writes of a core to bytes that its copy reads or writes still on their way? The kick was a release towards the engine, and later ones are held by
the range scoreboard (05 R132, 04 R101). -/
def State.storesBefore (s : State) (core loc n : Nat) : Bool :=
  unwritten (s.core core).reqs (fun _ => false) loc n || s.undrainedAt core loc n

/-- Does an element wait: one of its sides is to be translated, and the core has not observed the copy's generation (23 R395)? -/
def State.copyHeld (s : State) (core : Nat) (c : Copy) (sa da : DWord) : Bool :=
  !genSeen (s.core core).observed c.gen && (field sa.toNat 63 60 == 0 || field da.toNat 63 60 == 0)

/-- COPY_ELEMENT: the engine reads a source element and writes its destination element; a failure stops further elements. An element that is
skipped or done already changes nothing. `err`: what ECC finds in the source word (23 R410, 26 R450). -/
def execCopyElement (core tag k : Nat) (err : Ecc) (s : State) : Host.Outcome State Fault Refusal :=
  .next (match (s.core core).tag? tag with
    | none => s
    | some c =>
      match s.block? c.blk, c.st == .flight && c.flt.isNone && k < c.count && !c.did.contains k && !c.flying.contains k with
      | some b, true =>
        (match s.copyCheck b c k with
         | .ok (some (sa, da)) =>
           if s.copyHeld core c sa da then s
           else
           let n := 2 ^ (Brec.of c.src).esz.toNat
           -- an uncorrectable error, of a walk too, is consumed where it strikes: the trap names the CPYK
           let fail (s : State) (e : Nat) (a : DWord) (die : Option Nat) : State :=
             if e = Cause.memunc then (s.putTag core tag { c with flt := some (e, a) }).strike c.key c.blk b.launch { cause := e, pc := c.pc, addr := a, lanes := c.lanes, die }
             else s.putTag core tag (c.fail e a)
           (match s.copyPlace core b .read sa with
            | (.error e, t) => fail t e sa none
            | (.ok sl, t) =>
              if err == .unc || t.eccIn sl n then fail t Cause.memunc sa (some (placeDie sl))
              else match t.copyPlace core b .write da with
                | (.error e, u) => fail u e da none
                | (.ok dl, u) =>
                  if u.frozen dl || u.storesBefore core sl n || u.storesBefore core dl n then s
                  else
                    let u := ((if err == .corr then u.countR (placeDie sl) 4 else u).linesServed (dieOf core) [(sl, n)]).linesServed (dieOf core) [(dl, n)]
                    let bs := u.copyBytes c k (genericOf da dl) (u.bytesAt sl n)
                    let u := u.tickFree
                    if isSram dl && sramCore dl != core then
                      if (u.core core).credits (sramCore dl) = 0 then s
                      else
                        let base := sramOff dl / 32 * 32
                        (u.putTag core tag { c with flying := c.flying ++ [k] }).sendEntry core (sramCore dl)
                          { id := 0, src := core, key := c.key, blk := c.blk, launch := b.launch, region := b.region, addr := base, ga := da,
                            data := overlay base [] (sramOff dl) bs.length (fun i => bs[i]?), fill := false, copy := some (tag, k) }
                    else ((u.beforeWrite b.launch da dl).writeAt dl bs none).putTag core tag { c with did := c.did ++ [k] })
         | _ => s.putTag core tag { c with did := c.did ++ [k] })
      | _, _ => s)

/-- Destination words of a copy set full, as a release at the completion scope (14 R315). -/
def State.copyFill (s : State) (b : Block) (c : Copy) : State :=
  let n := 2 ^ (Brec.of c.src).esz.toNat
  (List.range c.count).foldl (fun s k =>
    match s.copyCheck b c k with
    | .ok (some (_, da)) =>
      (match s.scratch b da with
       | some loc =>
         let s := (wordsOf loc n).foldl (fun s w => s.fillWord w) s
         s.setRel loc n (some { scope := c.scope, by_ := s.engineOf (coreOf c.key) c.blk })
       | none => s)
    | _ => s) s

/-- A tag's copy has ended well: the CPYWs that wait complete and the tag becomes FREE, else it is DONE; that of an ended block is FREE. -/
def State.endTag (s : State) (core tag : Nat) (c : Copy) : State :=
  let waits (g : Nat × Group) : Bool := coreOf g.1 == core && g.2.cpyw.any (fun y => y.1 == tag)
  let any := s.groups.any waits
  let s : State := { s with groups := s.groups.map (fun g => if waits g then (g.1, { g.2 with cpyw := none }) else g) }
  if any || c.orphan then s.freeTag core tag else s.putTag core tag { c with st := .done }

/-- A tag enters FAULT, and each CPYW that waits on it traps; that of an ended block is FREE. -/
def State.failTag (s : State) (core tag : Nat) (c : Copy) : State :=
  if c.orphan then s.freeTag core tag
  else
    (s.putTag core tag { c with st := .fault }).groups.foldl (fun s g => match g.2.cpyw with
      | some (n, pc, lanes) => if n = tag && coreOf g.1 = core then s.cpywTrap g.1 tag c pc lanes else s
      | none => s) (s.putTag core tag { c with st := .fault })

/-- The trailing copy's tag, if the copy has one. -/
def State.pairTag (s : State) (c : Copy) : Option (Nat × Nat × Copy) :=
  c.pair.bind (fun p => ((s.core p.1).tag? p.2).map (fun x => (p.1, p.2, x)))

/-- COPY_RETIRE: every write of a copy is performed; its words are filled, and its tag ends. -/
def execCopyRetire (core tag : Nat) (s : State) : Host.Outcome State Fault Refusal :=
  .next (match (s.core core).tag? tag with
    | none => s
    | some c =>
      if c.st == .flight && c.flt.isNone && (List.range c.count).all c.did.contains then
        let s := if c.fe then (match s.block? c.blk with | some b => s.copyFill b c | none => s) else s
        let s := s.endTag core tag c
        (match s.pairTag c with
         | some (k, n, x) => s.endTag k n x
         | none => s)
      else s)

/-- COPY_FAULT: the elements started have completed, and the tag enters FAULT. -/
def execCopyFault (core tag : Nat) (s : State) : Host.Outcome State Fault Refusal :=
  .next (match (s.core core).tag? tag with
    | none => s
    | some c =>
      if c.st == .flight && c.flt.isSome && c.flying = [] then
        let s := s.failTag core tag c
        (match s.pairTag c with
         | some (k, n, x) => s.failTag k n { x with flt := c.flt }
         | none => s)
      else s)

/-- A FAULT copy starts again from element 0 (14 R316). -/
def State.restartCopy (s : State) (core tag : Nat) : State :=
  match (s.core core).tag? tag with
  | some c =>
    if c.st == .fault then
      let s := s.putTag core tag { c with st := .flight, did := [], flt := none, gen := s.tgen }
      -- a trailing copy's is performed through the leading copy's (16 R360)
      (match s.twinOf c.key with | some (_, false) => s | _ => s.addDue [.copy core tag])
    else s
  | none => s

/-- The next step of a copy. -/
def State.copyStep (s : State) (core tag : Nat) : Host.Outcome State Fault Refusal :=
  match (s.core core).tag? tag with
  | some c =>
    if c.flt.isSome then execCopyFault core tag s
    else match (List.range c.count).find? (fun k => !c.did.contains k && !c.flying.contains k) with
      | some k => execCopyElement core tag k .none s
      | none => execCopyRetire core tag s
  | none => .next s

/-- Has the engine something to do for a copy? -/
def State.copyBusy (s : State) (core tag : Nat) : Bool :=
  match (s.core core).tag? tag with | some c => c.st == .flight | none => false

end Sys2Proof.Machine
end

