-- ==== Sys2Proof/Machine/Anvil.lean ====
section
/-! DEFINITION. Anvil: job cards, tile descriptors, the job queue and its states, BSLD, the array's iterations with promotion and checksums, the
drain, and access to descriptors and tiles (spec 15, 10 R239-R242). -/

namespace Sys2Proof.Machine

open Sys2Proof

/-! ## Job cards (15 R319, R320) -/

/-- A field of a job's card. -/
def Job.fld (j : Job) (hi lo : Nat) : Nat := field j.card.toNat hi lo
/-- A record of a card. -/
def Job.record (j : Job) (lo : Nat) : Brec := Brec.of (j.card.extractLsb' lo 128)
/-- NLEV. -/
def Job.nlev (j : Job) : Nat := j.fld 684 682
/-- DIM and count of each level, innermost first. -/
def Job.levels (j : Job) : List (Nat × Nat) := (List.range j.nlev).map (fun i => (j.fld (543 + 32 * i) (542 + 32 * i), j.fld (519 + 32 * i) (512 + 32 * i) + 1))
/-- The product of the counts of a dimension (1 M, 2 N, 3 K). -/
def Job.dim (j : Job) (d : Nat) : Nat := (j.levels.filter (fun l => l.1 = d)).foldl (fun n l => n * l.2) 1
/-- MT, NT and KT. -/
def Job.mt (j : Job) : Nat := j.dim 1
def Job.nt (j : Job) : Nat := j.dim 2
def Job.kt (j : Job) : Nat := j.dim 3
/-- Iterations of the nest. -/
def Job.total (j : Job) : Nat := j.levels.foldl (fun n l => n * l.2) 1

/-- The mixed-radix index of a dimension in an iteration: level 0 innermost, outer levels more significant. -/
def nestIndex (d : Nat) : List (Nat × Nat) → Nat → Nat
  | [], _ => 0
  | (k, c) :: l, n => if k = d then n % c + c * nestIndex d l (n / c) else nestIndex d l (n / c)

/-- mi, ni and kc of an iteration. -/
def Job.at (j : Job) (n : Nat) : Nat × Nat × Nat := (nestIndex 1 j.levels n, nestIndex 2 j.levels n, nestIndex 3 j.levels n)

/-- The card check of order 3: reserved fields (R85 for the records). -/
def Job.cardReserved (j : Job) : Bool :=
  j.fld 1023 736 != 0 || j.fld 703 685 != 0 || [0, 128, 256, 384].any (fun lo => (j.record lo).res != 0)
    || (1 ≤ j.nlev && j.nlev ≤ 5 && (List.range 5).any (fun i =>
        if i < j.nlev then j.fld (541 + 32 * i) (520 + 32 * i) != 0 else j.fld (543 + 32 * i) (512 + 32 * i) != 0))

/-! ## Tile descriptors (15 R321, R322) -/

/-- Fields of a tile descriptor. -/
def tdKind (t : BitVec 256) : Nat := field t.toNat 33 32
def tdNslot (t : BitVec 256) : Nat := field t.toNat 47 38
def tdSlotsz (t : BitVec 256) : Nat := field t.toNat 63 48
def tdHead (t : BitVec 256) : Nat := field t.toNat 73 64
def tdFmt (t : BitVec 256) : Nat := field t.toNat 100 96
def tdBase (t : BitVec 256) : Nat := field t.toNat 31 0
/-- Reserved fields of a descriptor. -/
def tdReserved (t : BitVec 256) : Bool :=
  field t.toNat 255 101 != 0 || field t.toNat 95 74 != 0 || field t.toNat 37 34 != 0

/-- Bytes of a tile's layout in a format. -/
def tileBytes (code : Nat) : Nat :=
  match fmtLine code with
  | some (el, _, blks, _, _) => (16384 + el * blks - 1) / (el * blks) * 256
  | none => 16384 * fmtBits code / 8

/-- Does the format and slot size of a descriptor hold a tile? -/
def tdFits (t : BitVec 256) : Bool := 1 ≤ tdFmt t && tdFmt t ≤ 24 && tdSlotsz t * 256 ≥ tileBytes (tdFmt t)

/-- Bytes of a block's B-store grant. -/
def Block.bBytes (b : Block) : Nat := b.bgrans * 4096

/-- Does a B region lie inside a block's grant? -/
def bRegionIn (t : BitVec 256) (b : Block) : Bool := tdBase t + 256 * tdSlotsz t * tdNslot t ≤ b.bBytes

/-- Check 5 of JOB for descriptors A and B. -/
def State.tdCheck (s : State) (b : Block) (a bt : BitVec 256) (kt nt : Nat) : Option Nat :=
  let okA := tdKind a = 1 && tdFits a && 1 ≤ tdNslot a && tdNslot a ≤ 64 && tdBase a % 256 = 0
    && (let first := s.scratch b (BitVec.ofNat 64 (8 * 2 ^ 60 + tdBase a))
        let last := s.scratch b (BitVec.ofNat 64 (8 * 2 ^ 60 + (tdBase a + 256 * tdSlotsz a * tdNslot a - 1)))
        match first, last with
        | some x, some y => x ≤ y && sramCore x = b.core && sramCore y = b.core && tdBase a + 256 * tdSlotsz a * tdNslot a ≤ 2 ^ 26
        | _, _ => false)
  let okB := tdKind bt = 2 && tdFits bt && 1 ≤ tdNslot bt && tdBase bt % 256 = 0 && bRegionIn bt b && kt * nt ≤ tdNslot bt
  if tdReserved a || tdReserved bt then some Cause.illegal
  else if okA && okB then none else some Cause.jobtd

/-! ## Busy sets (15 R335, R336) -/

/-- Is a descriptor of a group busy? -/
def Core.tdBusy (c : Core) (key blk n : Nat) : Bool :=
  c.jobs.any (fun j => j.key == key && j.blk == blk && (j.fld 674 672 == n || j.fld 677 675 == n))

/-- The accumulator tiles of a job, as tiles of a block. -/
def Job.tilesOf (j : Job) (b : Block) : List Nat := (List.range (j.mt * j.nt)).filterMap (fun i => b.tiles[j.fld 680 678 + i]?)

/-- Is a tile of a core busy: of its own jobs, or of a paired job whose follower it is? -/
def State.tileBusy (s : State) (core tile : Nat) : Bool :=
  s.cores.any (fun c => c.2.jobs.any (fun j =>
    (c.1 == core && (match s.block? j.blk with | some b => (j.tilesOf b).contains tile | none => false))
      || (match j.follower with
          | some (k, fb) => k == core && (match s.block? fb with | some b => (j.tilesOf b).contains tile | none => false)
          | none => false)))

/-- Is the checking scoreboard of a group's region enabled? -/
def State.checking (s : State) (blk : Nat) : Bool := match s.effOf blk with | some e => e.check | none => false

/-! ## Accumulator tiles (03 R75, 15 R338) -/

/-- An element of a core's tile. -/
def Core.accAt (c : Core) (tile i : Nat) : Word := SMap.get 0 c.acc (16384 * tile + i)

/-- Every element of a tile replaced. -/
def Core.setTile (c : Core) (tile : Nat) (f : Nat → Word) : Core :=
  let lo := 16384 * tile
  let mid := (List.range 16384).filterMap (fun i => if f i = 0 then none else some (lo + i, f i))
  { c with acc := c.acc.filter (fun x => x.1 < lo) ++ mid ++ c.acc.filter (fun x => lo + 16384 ≤ x.1) }

/-- The core's tile that an operand names, for a group's block. -/
def State.tileOf (s : State) (g : Group) (x : Sel) : Option Nat := (s.block? g.blk).bind (fun b => b.tiles[x.num]?)

/-- The element of a position for lane `l`: row in bits [6:0], column block in [8:7] (15 R338). -/
def accIndex (pos : Word) (l : Nat) : Nat := 128 * field pos.toNat 6 0 + 32 * field pos.toNat 8 7 + l

/-- The position operand in a lane. -/
def State.posOf (s : State) (g : Group) (f : Form) (o : OpX) (l : Nat) : Val := s.source g f 0 (.x o) 3 l

def execAccrd (o : OpX) (s : State) : Host.Outcome State Fault Refusal :=
  onState s (fun g t =>
    match lowest s.cur.lanes, s.tileOf g o.sa with
    | none, _ => .ok t
    | some _, none => .error (s.trapOf (Cause.arange 2))
    | some l0, some k =>
      let pos := s.posOf g Forms.accrd o l0
      let busy := s.tileBusy s.cur.core k
      match pos.psn with
      | some p => .error (s.consumedOf g p)
      | none =>
        if busy && s.checking g.blk then .error (s.trapOf Cause.early)
        else
          let c := t.core s.cur.core
          match s.writeLanes g o.dst (fun l =>
            [⟨if busy then Config.word s.free (l + 4096) else c.accAt k (accIndex pos.bits l), none⟩]) with
          | .ok h => .ok ((t.setCur h).arrive s.cur.key (regsOf o.dst 1))
          | .error e => .error e)

def execAccwr (o : OpX) (s : State) : Host.Outcome State Fault Refusal :=
  onState s (fun g t =>
    match lowest s.cur.lanes, s.tileOf g o.dst with
    | none, _ => .ok t
    | some _, none => .error (s.trapOf (Cause.arange 0))
    | some l0, some k =>
      let pos := s.posOf g Forms.accwr o l0
      let vals := (lanesOf s.cur.lanes).map (fun l => (l, s.readSel g o.sa 0 l))
      match pos.psn <|> vals.findSome? (fun v => v.2.psn) with
      | some p => .error (s.consumedOf g p)
      | none =>
        let busy := s.tileBusy s.cur.core k
        if busy && s.checking g.blk then .error (s.trapOf Cause.early)
        else
          let c := t.core s.cur.core
          .ok ((t.putCore s.cur.core (if busy then c.setTile k (fun i => Config.word s.free (8192 + i))
            else vals.foldl (fun c v => { c with acc := c.acc.set 0 (16384 * k + accIndex pos.bits v.1) v.2.bits }) c)).noteWrote s.cur.key
              (vals.map (fun v => (accPlace s.cur.core k (accIndex pos.bits v.1), 1)))))

def execAccz (o : OpX) (s : State) : Host.Outcome State Fault Refusal :=
  onState s (fun g t =>
    match s.cur.lanes == 0, s.tileOf g o.dst with
    | true, _ => .ok t
    | false, none => .error (s.trapOf (Cause.arange 0))
    | false, some k =>
      let busy := s.tileBusy s.cur.core k
      if busy && s.checking g.blk then .error (s.trapOf Cause.early)
      else .ok ((t.putCore s.cur.core ((t.core s.cur.core).setTile k (fun i => if busy then Config.word s.free (8192 + i) else 0))).noteWrote s.cur.key
        [(accPlace s.cur.core k 0, 16384)]))

/-- The tiles of a job, on both cores of a paired one: core and tile. -/
def State.jobTiles (s : State) (core : Nat) (j : Job) : List (Nat × Nat) :=
  (match s.block? j.blk with | some b => (j.tilesOf b).map (core, ·) | none => [])
    ++ (match j.follower with | some (k, fb) => (match s.block? fb with | some b => (j.tilesOf b).map (k, ·) | none => []) | none => [])

/-- The tiles of a job hold unpredictable values. -/
def State.wildTiles (s : State) (core : Nat) (j : Job) : State :=
  ((s.jobTiles core j).foldl (fun (s : State) x =>
    s.putCore x.1 ((s.core x.1).setTile x.2 (fun i => Config.word s.free (16384 * (x.2 + 1) + i)))) s).tickFree

/-! ## TDSET, TDGET (15 R336, R337) -/

/-- A 32-bit word of a descriptor replaced. -/
def setWord (t : BitVec 256) (n : Nat) (w : Word) : BitVec 256 :=
  (t &&& ~~~((0xFFFFFFFF : BitVec 256) <<< (32 * n))) ||| ((w.setWidth 256) <<< (32 * n))

/-- A descriptor of unpredictable words. -/
def wildTd (f : Nat) : BitVec 256 := (List.range 8).foldl (fun t i => setWord t i (Config.word f (2048 + i))) 0

def execTdset (wd : BitVec 3) (o : OpX) (s : State) : Host.Outcome State Fault Refusal :=
  onGroup s (fun g =>
    if s.cur.lanes == 0 then .ok g
    else
      let v := s.low g Forms.tdset wd.toNat (.x o) 2
      let n := o.dst.num
      let busy := (s.core s.cur.core).tdBusy s.cur.key g.blk n
      match v.psn with
      | some p => .error (s.consumedOf g p)
      | none =>
        if busy && s.checking g.blk then .error (s.trapOf Cause.early)
        else .ok (g.setT n (if busy then wildTd s.free else setWord (g.tAt n) wd.toNat v.bits)))

def execTdget (wd : BitVec 3) (o : OpX) (s : State) : Host.Outcome State Fault Refusal :=
  onGroup s (fun g =>
    if s.cur.lanes == 0 then .ok g
    else
      let busy := (s.core s.cur.core).tdBusy s.cur.key g.blk o.sa.num
      if busy && s.checking g.blk then .error (s.trapOf Cause.early)
      else s.writeSame g o.dst
        [⟨if busy then Config.word s.free 2048 else (g.tAt o.sa.num).extractLsb' (32 * wd.toNat) 32, none⟩])

/-! ## What a job drains (15 R330) -/

/-- The page of CREC's BASE, for a job that drains (check 4): the trap, or the FORMAT of the page and whether it is virtual. -/
def State.crecCheck (s : State) (core : Nat) (root : DWord) (r : Brec) : Except (Nat × DWord) Nat × State :=
  let a := r.base.toNat
  let tag := field a 63 60
  if tag ≠ 0 && tag ≠ 8 && tag ≠ 9 then (.error (Cause.tag .write, r.base), s)
  else if tag = 0 then
    if !(field a 59 47 = 0 || field a 59 47 = 2 ^ 13 - 1) then (.error (Cause.addrform .write, r.base), s)
    else match s.translate core root a .write with
      | (.ok x, t) => (if x.format ≤ 3 then .ok x.format else .error (Cause.jobcard, 0), t)
      | (.error c, t) => (.error (c, r.base), t)
  else if (if tag = 8 then field a 59 26 else field a 59 30) ≠ 0 then (.error (Cause.addrform .write, r.base), s)
  else (.ok 0, s)

/-- An access of the engine to four or two bytes of a record: the place; none for one that is skipped or reads zero; or the cause and address of
its failure. -/
def State.engineAcc (s : State) (b : Block) (r : Brec) (k : AccKind) (n idx : Nat) : Except (Nat × DWord) (Option (Nat × DWord)) × State :=
  match s.laneCheck b r (r.oobf == 1) k false n 0 idx with
  | .error x => (.error (x.cause, x.addr), s)
  | .ok none => (.ok none, s)
  | .ok (some ga) =>
    match s.copyPlace b.core b k ga with
    | (.ok loc, t) => (.ok (some (loc, ga)), t)
    | (.error c, t) => (.error (c, ga), t)

/-- Elements that a job drains: MT × NT tiles of each array. -/
def Job.drains (j : Job) : Nat := if j.fld 681 681 = 1 then j.mt * j.nt * 16384 * (if j.follower.isSome then 2 else 1) else 0

/-- The drain's element `k` (15 R330): the core and tile that hold it and its number there; the format and size of C's elements; and its place in C, none
for one that is skipped, or the failure of its access. -/
def State.drainAcc (s : State) (core : Nat) (b : Block) (j : Job) (k : Nat) :
    Option (Nat × Nat) × Nat × Nat × Nat × Except (Nat × DWord) (Option (Nat × DWord)) × State :=
  let per := j.mt * j.nt * 16384
  let h := k / per
  let mi := k % per / 16384 / j.nt
  let ni := k % per / 16384 % j.nt
  let e := k % 16384
  let owner : Option (Nat × Block) := if h = 0 then some (core, b) else j.follower.bind (fun f => (s.block? f.2).map (fun x => (f.1, x)))
  let tile := owner.bind (fun o => (o.2.tiles[j.fld 680 678 + mi * j.nt + ni]?).map (fun t => (o.1, t)))
  let fmt := match s.crecCheck core (s.rootOf b.launch) (j.record 384) with | (.ok f, _) => f | _ => 0
  let n := if fmt ≥ 2 then 2 else 4
  let idx := (128 * mi + e / 128) * j.fld 735 704 + 128 * (j.nt * h + ni) + e % 128
  (tile, e, fmt, n, s.engineAcc b (j.record 384) .write n idx)

/-! ## BSLD (15 R323) -/

/-- Places of the pages that a tile's source covers, from a base; or the trap of a translation or FORMAT. -/
def State.bsldPages (s : State) (core : Nat) (root base : DWord) (size code : Nat) : Except (Nat × DWord) (List Nat) × State :=
  let first := base.toNat / 4096
  let last := (base.toNat + size - 1) / 4096
  let p := (List.range (last + 1 - first)).foldl (fun (p : Except (Nat × DWord) (List (Nat × Nat)) × State) i =>
    match p.1 with
    | .error e => (.error e, p.2)
    | .ok l =>
      let va := (first + i) * 4096
      match p.2.translate core root va .read with
      | (.ok x, t) => (.ok (l ++ [(x.loc, x.format)]), t)
      | (.error c, t) => (.error (c, BitVec.ofNat 64 (max va base.toNat)), t)) (.ok [], s)
  match p.1 with
  | .error e => (.error e, p.2)
  | .ok l =>
    if l.any (fun x => x.2 != code) then (.error (Cause.format .read, base), p.2) else (.ok (l.map (·.1)), p.2)

/-- Checks 2 to 6 of 04 R88 for an element of a formatted region, as a lane with its index: the cause and the address named. -/
def State.elemCheck (s : State) (b : Block) (r : Brec) (code e : Nat) : Option (Nat × DWord) :=
  let a := fmtAddr r.base ((fmtPos code e).1 / 8)
  let tag := field a.toNat 63 60
  if !(e < r.extent.toNat) then (if r.oobf = 1 then some (Cause.bounds .read, BitVec.ofNat 64 e) else none)
  else if tag ≠ 0 && tag ≠ 8 && tag ≠ 9 then some (Cause.tag .read, a)
  else if !(if tag = 0 then canonical a.toNat else field a.toNat 59 (if tag = 8 then 26 else 30) = 0) then some (Cause.addrform .read, a)
  else if tag ≠ 0 && (s.scratch b a).isNone then some (if tag = 8 then Cause.window .read else Cause.global .read, a)
  else none

/-- The rules of 14 R302 for a record, then the elements' checks in rising order, then the formatted-access rule: the first failure (15 R323). -/
def State.bsldRecord (s : State) (b : Block) (r : Brec) (code : Nat) : Option (Nat × DWord) :=
  if r.stride ≠ 0 || r.swz ≠ 0 || r.esz ≠ 0 then some (Cause.format .read, r.base)
  else if r.base.toNat % 256 ≠ 0 then some (Cause.align .read, r.base)
  else match (List.range 16384).findSome? (s.elemCheck b r code) with
    | some x => some x
    | none => if r.extent ≠ 0 && field r.base.toNat 63 60 ≠ 0 then some (Cause.format .read, r.base) else none

/-- The elements of C that a job has drained hold unpredictable values. -/
def State.wildDrain (s : State) (core : Nat) (j : Job) : State :=
  match s.block? j.blk with
  | none => s
  | some b => (List.range j.drainAt).foldl (fun s k =>
      match s.drainAcc core b j k with
      | (_, _, _, n, .ok (some (loc, ga)), _) =>
        (s.beforeWrite b.launch ga loc).writeAt loc ((List.range n).map (fun i => Config.byte s.free (2 ^ 21 + 4 * k + i))) none
      | _ => s) s

/-- What a BSLD does to the jobs whose BTD it names: their operands and their results, in tiles and in C, are unpredictable (15 R336). -/
def State.spoilJobs (s : State) (core key blk td : Nat) : State :=
  let hit (j : Job) : Bool := j.key == key && j.blk == blk && j.fld 677 675 == td
  let jobs := (s.core core).jobs.filter hit
  let s := s.putCore core { s.core core with jobs := (s.core core).jobs.map (fun j => if hit j then { j with wild := true } else j) }
  jobs.foldl (fun s j => (s.wildDrain core j).wildTiles core j) s

def execBsld (o : OpX) (s : State) : Host.Outcome State Fault Refusal :=
  onState s (fun g t =>
    match s.cur.lanes == 0, t.block? g.blk with
    | true, _ => .ok t
    | false, none => .ok t
    | false, some b =>
      let td := g.tAt o.dst.num
      let r := g.brecAt o.sa.num
      let n := s.low g Forms.bsld 0 (.x o) 3
      let code := tdFmt td
      let c := t.core s.cur.core
      match n.psn with
      | some p => .error (s.consumedOf g p)
      | none =>
        if g.twin.isSome then .error (s.trapOf Cause.twineng)
        else if tdReserved td || r.res ≠ 0 then .error (s.trapOf Cause.illegal)
        else if !(tdKind td = 2 && tdFits td && tdBase td % 256 = 0 && n.bits.toNat < tdNslot td
            && tdBase td + 256 * tdSlotsz td * (n.bits.toNat + 1) ≤ b.bBytes) then .error (s.trapOf Cause.jobtd)
        else match t.bsldRecord b r code with
          | some (e, a) => .error (s.trapOf e a)
          | none =>
            let busy := c.tdBusy s.cur.key g.blk o.dst.num
            if busy && s.checking g.blk then .error (s.trapOf Cause.early)
            else
              let ext := min 16384 r.extent.toNat
              let used := if ext = 0 then 0 else if ext = 16384 then tileBytes code else
                (match fmtLine code with
                 | some (el, _, blks, _, _) => (ext + el * blks - 1) / (el * blks) * 256
                 | none => (ext * fmtBits code + 7) / 8)
              let p : Except (Nat × DWord) (List Nat) × State :=
                if used = 0 then (.ok [], t) else t.bsldPages s.cur.core (t.rootOf b.launch) r.base used code
              match p.1 with
              | .error (e, a) => .error (s.trapOf e a)
              | .ok pages =>
                if c.bslds.length ≥ 8 then
                  -- not ready: its lanes stay
                  .ok (t.setCur (g.onLanes s.cur.at_ (fun _ x => { x with pc := s.cur.pc })))
                else
                  let t := p.2
                  let c := t.core s.cur.core
                  let x : Bsld := { id := t.uid, key := s.cur.key, blk := g.blk, pc := s.cur.pc, lanes := s.cur.lanes,
                                    dst := s.cur.core * Config.bstBytes + b.b0 * 4096 + tdBase td + 256 * tdSlotsz td * n.bits.toNat,
                                    size := tileBytes code, code, extent := ext, base := r.base, pages }
                  let u := (t.putCore s.cur.core { c with bslds := c.bslds ++ [x] }).noteWrote s.cur.key [(bstLoc x.dst, x.size)]
                  let u := if busy then u.spoilJobs s.cur.core s.cur.key g.blk o.dst.num else u
                  .ok ({ u with uid := t.uid + 1 }.addDue [.bsld s.cur.core t.uid]))

/-- The bits of byte `i` of a tile's layout that hold elements in bounds, or a scale of such elements (10 R227, R229). -/
def bsldMask (code extent i : Nat) : Byte :=
  let w := fmtBits code
  let bits (p : Nat → Nat) : Byte := (List.range 8).foldl (fun m k => if p k < extent then m ||| ((1 : Byte) <<< k) else m) 0
  match fmtLine code with
  | some (el, by_, blks, sc, sb) =>
    let line := i / 256 * (el * blks)
    let o := i % 256
    if o < by_ * blks then bits (fun k => line + o / by_ * el + (8 * (o % by_) + k) / w)
    else if sc ≤ o && o < sc + sb * blks && line + (o - sc) / sb * el < extent then 0xFF else 0
  | none => bits (fun k => (8 * i + k) / w)

/-- The place of byte `i` of a BSLD's source. -/
def Bsld.place (x : Bsld) (i : Nat) : Option Nat :=
  let a := x.base.toNat % 4096 + i
  (x.pages[a / 4096]?).map (fun p => p / 4096 * 4096 + a % 4096)

/-- A byte of a BSLD's source; an element out of bounds reads zero. -/
def State.bsldByte (s : State) (x : Bsld) (i : Nat) : Byte :=
  let m := bsldMask x.code x.extent i
  if m = 0 then 0 else (match x.place i with | some p => s.byteAt p | none => 0) &&& m

/-- The value of element `e` of a tile whose layout begins at byte 0 of `rd`. -/
def tileElem (code : Nat) (rd : Nat → Byte) (e : Nat) : FV :=
  let (bit, sc) := fmtPos code e
  let n := (bit % 8 + fmtBits code + 7) / 8
  let raw := leNat ((List.range n).map (fun i => rd (bit / 8 + i))) / 2 ^ (bit % 8) % 2 ^ fmtBits code
  let scale := match sc with | some (o, k) => leNat ((List.range k).map (fun i => rd (o + i))) | none => 0
  fmtValue code false raw scale

/-- Is a value NaN or infinite? -/
def FV.special : FV → Bool
  | .fin _ _ _ => false
  | _ => true

/-- An exact sum of `n` terms. -/
def exactSum (n : Nat) (f : Nat → FV) : FV :=
  ((List.range n).foldl (fun (m : Option FV) k => some (match m with | none => f k | some x => x.add .rne (f k))) none).getD (.fin false 0 0)

/-- A finite value as mantissa and exponent, and back. -/
def FV.exact : FV → Int × Int
  | .fin n m e => (if n then -(m : Int) else m, e)
  | _ => (0, 0)
def ofExact (x : Int × Int) : FV := .fin (x.1 < 0) x.1.natAbs x.2

/-- bsum(k) of a tile of B: the sum of b(k, j) over j (15 R339). -/
def bsumOf (b : Nat → FV) (k : Nat) : FV := exactSum 128 (fun j => ofExact (b (128 * j + k)).exact)

/-- BSLD_COMPLETE: every read has returned; the tile stands in the B-store, with its checksum column. An uncorrectable error in a byte that is read is
consumed where it strikes. -/
def execBsldComplete (core id : Nat) (s : State) : Host.Outcome State Fault Refusal :=
  .next (let c := s.core core
    match c.bslds.find? (fun x => x.id = id) with
    | none => s
    | some x =>
      -- its reads follow the core's earlier writes (05 R115, R122); their lines pass, one after the other, through the miss register that it holds (04 R91)
      if x.pages.any (fun p => unwritten c.reqs (fun _ => false) (p / 4096 * 4096) 4096) then s else
      let s := s.putCore core { c with bslds := c.bslds.filter (fun y => y.id != id) }
      if let some p := (if s.ecc = [] then none else (List.range x.size).findSome? (fun i =>
          if bsldMask x.code x.extent i = 0 then none else (x.place i).filter s.ecc.contains)) then
        s.strike x.key x.blk (s.launchId x.blk) { cause := Cause.memunc, pc := x.pc, addr := x.base, lanes := x.lanes, die := some (placeDie p) }
      else
        let s := s.linesServed (dieOf core) ((List.range x.size).filterMap (fun i =>
          if bsldMask x.code x.extent i = 0 then none else (x.place i).map (fun p => (p, 1))))
        let s : State := { s with bst := s.bst.setBytes x.dst ((List.range x.size).map (s.bsldByte x)) }
        let tile := tileElem x.code (fun i => s.bst.byte (x.dst + i))
        { s with bck := s.bck.put x.dst ((List.range 128).map (fun k => (bsumOf tile k).exact)) })

/-! ## JOB and JOBP (15 R326, R332) -/

/-- The follower of a paired job: the block of the same neighbourhood on the core at x + 1 of the same row. -/
def State.followerOf (s : State) (b : Block) : Option (Nat × Block) :=
  match b.nbh with
  | some (col, row, w, _) =>
    if col + 1 < w then (b.mblocks[row * w + col + 1]?).bind (fun n => (s.block? n).map (fun x => (n, x))) else none
  | none => none

/-- Checks 3 to 9 of JOB and JOBP on the job formed from its card: the trap, or the state with what was translated. -/
def State.jobCheck (s : State) (g : Group) (b : Block) (j : Job) (pair : Bool) : Except (Nat × DWord) (Option (Nat × Nat)) × State :=
  let root := s.rootOf b.launch
  let m := b.tiles.length
  let acc0 := j.fld 680 678
  let no (c : Nat) : Except (Nat × DWord) (Option (Nat × Nat)) × State := (.error (c, 0), s)
  if j.cardReserved then no Cause.illegal
  else if j.nlev = 0 || j.nlev > 5 || j.levels.any (fun l => l.1 = 0) then no Cause.jobcard
  else
    let p : Except (Nat × DWord) Nat × State :=
      if j.fld 681 681 = 1 then s.crecCheck b.core root (j.record 384) else (.ok 0, s)
    match p.1 with
    | .error e => (.error e, p.2)
    | .ok _ =>
      let s := p.2
      match s.tdCheck b j.atd j.btd j.kt j.nt with
      | some c => (.error (c, 0), s)
      | none =>
        let ar := j.record 0
        let p : Except (Nat × DWord) Nat × State :=
          if field ar.base.toNat 63 60 ≠ 0 then (.error (Cause.format .read, ar.base), s)
          else if !canonical ar.base.toNat then (.error (Cause.addrform .read, ar.base), s)
          else match s.translate b.core root ar.base.toNat .read with
            | (.ok x, t) => (if x.format = tdFmt j.atd then .ok 0 else .error (Cause.format .read, ar.base), t)
            | (.error c, t) => (.error (c, ar.base), t)
        match p.1 with
        | .error e => (.error e, p.2)
        | .ok _ =>
          let s := p.2
          if acc0 + j.mt * j.nt > m then (.error (Cause.arange 6, 0), s)
          else
            let fol := if pair then s.followerOf b else none
            let bad8 : Option Nat :=
              if !pair then none
              else match fol with
                | none => some Cause.pairnone
                | some (_, f) =>
                  if acc0 + j.mt * j.nt > f.tiles.length then some (Cause.arange 6)
                  else if bRegionIn j.btd f then none else some Cause.jobtd
            match bad8 with
            | some c => (.error (c, 0), s)
            | none =>
              let c := s.core b.core
              if s.checking g.blk && !g.opFenced then (.error (Cause.nofence, 0), s)
              else if s.checking g.blk && (c.tdBusy j.key g.blk (j.fld 674 672) || c.tdBusy j.key g.blk (j.fld 677 675)) then
                (.error (Cause.early, 0), s)
              else (.ok (fol.map (fun f => (f.2.core, f.1))), s)

/-- JOB and JOBP: the card is read and checked, and the job queued. -/
def execJobWith (pair : Bool) (o : OpX) (s : State) : Host.Outcome State Fault Refusal :=
  onState s (fun g t =>
    match s.cur.lanes == 0, t.block? g.blk with
    | true, _ => .ok t
    | false, none => .ok t
    | false, some b =>
      let d := s.lowPair g Forms.job 0 (.x o) 2
      let a := d.1.toNat
      match d.2 with
      | some p => .error (s.consumedOf g p)
      | none =>
        if g.twin.isSome then .error (s.trapOf Cause.twineng)
        else if field a 63 60 ≠ 0 then .error (s.trapOf Cause.jobcard d.1)
        else if !(field a 59 47 = 0 || field a 59 47 = 2 ^ 13 - 1) then .error (s.trapOf (Cause.addrform .read) d.1)
        else if a % 128 ≠ 0 then .error (s.trapOf (Cause.align .read) d.1)
        else match t.translate s.cur.core (t.rootOf b.launch) a .read with
          | (.error c, _) => .error (s.trapOf c d.1)
          | (.ok x, t) =>
            if t.eccIn x.loc 128 then .error { s.trapOf Cause.memunc d.1 with die := some (placeDie x.loc) }
            else
              let card : BitVec 1024 := BitVec.ofNat 1024 (t.numAt x.loc 128)
              let j0 : Job := { slot := 0, seq := 0, key := s.cur.key, blk := g.blk, pc := s.cur.pc, lanes := s.cur.lanes, cardVa := d.1,
                                card, atd := 0, btd := 0, gen := g.tgen }
              let j : Job := { j0 with atd := g.tAt (j0.fld 674 672), btd := g.tAt (j0.fld 677 675) }
              match t.jobCheck g b j pair with
              | (.error (c, at_), _) => .error (s.trapOf c at_)
              | (.ok fol, t) =>
                let c := t.core s.cur.core
                match (List.range 4).find? (fun k => !(c.jobs.any (fun y => y.slot == k))) with
                | none =>
                  -- the queue is full: not ready
                  .ok (t.setCur (g.onLanes s.cur.at_ (fun _ x => { x with pc := s.cur.pc })))
                | some k =>
                  let id := BitVec.ofNat 32 (4 * (c.accepted % 64) + k)
                  match s.writeSame g o.dst [⟨id, none⟩] with
                  | .error e => .error e
                  | .ok h =>
                    let busy := c.tdBusy s.cur.key g.blk (j.fld 674 672) || c.tdBusy s.cur.key g.blk (j.fld 677 675)
                    let head := if busy then Config.choice s.free 3 else tdHead j.atd
                    let j := { j with slot := k, seq := c.accepted, follower := fol, head := head % (tdNslot j.atd)
                                      wild := !busy && tdHead j.atd ≥ tdNslot j.atd, unfenced := !g.opFenced
                                      wrote := if g.opFenced then [] else g.opWrote }
                    .ok (((t.setCur { h with opFenced := false }).putCore s.cur.core
                      { c with jobs := c.jobs ++ [j], accepted := c.accepted + 1 }).addDue [.anvil s.cur.core]))

def execJob (o : OpX) (s : State) : Host.Outcome State Fault Refusal := execJobWith false o s
def execJobp (o : OpX) (s : State) : Host.Outcome State Fault Refusal := execJobWith true o s

/-- FENCE.OPR: the operand-fence flag is set, and what the group has written is fenced; the next JOB waits for the release and for the group's BSLDs
(15 R331). -/
def execFenceOpr (s : State) : Host.Outcome State Fault Refusal :=
  onState s (fun g t =>
    if s.cur.lanes == 0 then .ok t
    else
      let c := t.core s.cur.core
      .ok ((t.setCur { g with opFenced := true, opWrote := [] }).putCore s.cur.core
        { c with jobs := c.jobs.map (fun j => if j.key == s.cur.key && j.unfenced then { j with wrote := [] } else j) }))

/-! ## JWAIT, JSTAT, JCHK (15 R333, R334, R341) -/

/-- The id of a job as JOB gave it. -/
def Job.id (j : Job) : Nat := 4 * (j.seq % 64) + j.slot

/-- The job of an id that belongs to a block. -/
def Core.job? (c : Core) (id blk : Nat) : Option Job := c.jobs.find? (fun j => j.id = id && j.blk = blk)
/-- A job changed. -/
def State.putJob (s : State) (core : Nat) (j : Job) : State :=
  let c := s.core core
  s.putCore core { c with jobs := c.jobs.map (fun x => if x.slot = j.slot then j else x) }
/-- A job's entry freed. -/
def State.freeJob (s : State) (core slot : Nat) : State :=
  let c := s.core core
  s.putCore core { c with jobs := c.jobs.filter (fun x => x.slot != slot) }

/-- The trap of a JWAIT on a job in FAULT or UNCORR. -/
def Job.trap (j : Job) (pc : DWord) (lanes : BitVec 32) : Trap :=
  if j.st == .uncorr then { cause := Cause.anvunc, pc, lanes, job := some j.slot }
  else { cause := (j.flt.getD (0, 0)).1, pc, addr := (j.flt.getD (0, 0)).2, lanes, job := some j.slot }

def execJwait (o : OpX) (s : State) : Host.Outcome State Fault Refusal :=
  onState s (fun g t =>
    if s.cur.lanes == 0 then .ok t
    else
      let v := s.low g Forms.jwait 0 (.x o) 2
      match v.psn with
      | some p => .error (s.consumedOf g p)
      | none =>
        match (t.core s.cur.core).job? v.bits.toNat g.blk with
        | none => .error (s.trapOf Cause.jobid)
        | some j =>
          match j.st with
          | .done => .ok (t.freeJob s.cur.core j.slot)
          | .fault => .error (j.trap s.cur.pc s.cur.lanes)
          | .uncorr => .ok (((s.freeJob s.cur.core j.slot).unlend j).raiseAt s.cur.key (j.trap s.cur.pc s.cur.lanes))
          | _ => .ok (t.setCur { g with jwait := some (v.bits.toNat, s.cur.pc, s.cur.lanes) }))

/-- The status word of a job (15 R334). -/
def jstatWord (j : Option Job) : Word :=
  match j with
  | none => 0
  | some j =>
    BitVec.ofNat 32 (2 ^ 24 * min 255 j.corr + 2 ^ 16 * min 255 j.ckonly + 2 ^ 8 * min 255 j.skip + 16 + (if j.follower.isSome then 8 else 0)
      + (match j.st with | .queued => 1 | .run => 2 | .done => 3 | .fault => 4 | .uncorr => 5))

def execJstat (o : OpX) (s : State) : Host.Outcome State Fault Refusal :=
  onGroup s (fun g =>
    if s.cur.lanes == 0 then .ok g
    else
      let v := s.low g Forms.jstat 0 (.x o) 2
      match v.psn with
      | some p => .error (s.consumedOf g p)
      | none => s.writeSame g o.dst [⟨jstatWord ((s.core s.cur.core).job? v.bits.toNat g.blk), none⟩])

def execJchk (o : OpX) (s : State) : Host.Outcome State Fault Refusal :=
  onState s (fun g t =>
    if s.cur.lanes == 0 then .ok t
    else
      let v := s.low g Forms.jchk 0 (.x o) 2
      let i := field v.bits.toNat 7 0
      let j := field v.bits.toNat 15 8
      match v.psn with
      | some p => .error (s.consumedOf g p)
      | none =>
        if !(match s.effOf g.blk with | some e => e.inject | none => false) || i > 128 || j > 128 || (i = 128 && j = 128) then
          .error (s.trapOf Cause.inject)
        else .ok (t.putCore s.cur.core { t.core s.cur.core with injector := some v.bits }))

/-! ## The array (15 R328, R329, R339-R342, 10 R239-R241) -/

/-- Does a job hold its array? -/
def Job.onArray (j : Job) : Bool := j.st == .run || j.st == .fault

/-- The job that an array works on. -/
def Core.running (c : Core) : Option Job := c.jobs.find? Job.onArray

/-- A job stands: its block is being preempted (15 R343), or its core has not observed the generation on which its accesses depend (23 R395). -/
def State.jobHeld (s : State) (j : Job) : Bool :=
  (match s.block? j.blk with | some b => b.stopped | none => false) || !genSeen (s.core (coreOf j.key)).observed j.gen

/-- JOB_START: the job at the head of the queue enters RUN once its array, and for a paired job its follower's, is free. A paired job that waits for its
follower's current job has that array next: it takes no other job of its own core (15 R332). -/
def execJobStart (core : Nat) (s : State) : Host.Outcome State Fault Refusal :=
  let c := s.core core
  .next (match c.running, c.lent, c.jobs.find? (fun j => j.st == .queued) with
    | none, none, some j =>
      if s.jobHeld j then s else
      let s' := s.putJob core { j with st := .run, iter := 0, drainAt := 0, since := s.now, next := s.now }
      (match j.follower with
       | none => s'
       | some (k, _) =>
         let d := s.core k
         if d.lent.any (· != core) then s
         else if d.running.isNone then s'.putCore k { s'.core k with lent := some core }
         else s.putCore k { d with lent := some core })
    | _, _, _ => s)

/-- The places of slot `n` of a job's ring. -/
def State.ringSlot (s : State) (j : Job) (n : Nat) : Option Nat :=
  (s.block? j.blk).bind (fun b => s.scratch b (BitVec.ofNat 64 (8 * 2 ^ 60 + (tdBase j.atd + 256 * tdSlotsz j.atd * n))))

/-- The exact sum of the products of a chunk (10 R239, R240). -/
def chunkSum (a b : Nat → FV) : FV :=
  exactSum 128 (fun k => (a k).mul (b k))

/-- The promotion of a chunk (10 R241). -/
def promote (acc : Word) (s : FV) (sa sb : Word) : Word :=
  let r (v : FV) : Nat := FFmt.f32.round .rne 0 false false v
  let f (n : Nat) : FV := FFmt.f32.value false n
  let t := r (((f (r s)).mul (f sa.toNat)).mul (f sb.toNat))
  BitVec.ofNat 32 (r ((f acc.toNat).add .rne (f t)))

/-- Does a format read its scales from a record (15 R324)? -/
def scaleCode (code : Nat) : Nat :=
  match code with | 13 | 15 => 1 | 14 | 16 => 2 | 23 => 3 | _ => 0

/-- Is a read of a job at a place one of data that its group wrote unfenced, whose value is unpredictable (15 R331)? -/
def Job.reads (j : Job) (loc : Nat) : Bool := inSpans j.wrote loc

/-- The scales of 128 rows or columns, or the first failure; an uncorrectable error is reported as MEMUNC. -/
def State.scales (s : State) (b : Block) (j : Job) (r : Brec) (code : Nat) (idx : Nat → Nat) : Except (Nat × DWord) (List Word) × State :=
  if scaleCode code = 0 then (.ok (List.replicate 128 0x3F800000), s)
  else (List.range 128).foldl (fun (p : Except (Nat × DWord) (List Word) × State) i =>
    match p.1 with
    | .error e => (.error e, p.2)
    | .ok l =>
      match p.2.engineAcc b r .read 4 (idx i) with
      | (.error e, t) => (.error e, t)
      | (.ok none, t) => (.ok (l ++ [0]), t)
      | (.ok (some (loc, ga)), t) =>
        if t.eccIn loc 4 then (.error (Cause.memunc, ga), t)
        else (.ok (l ++ [if j.reads loc || j.reads (loc + 3) then Config.word t.free (32768 + i) else BitVec.ofNat 32 (t.numAt loc 4)]), t)) (.ok [], s)

/-! ### The checksums of a chunk (15 R339-R341) -/

/-- The sums of a chunk: S(i, j) at 128 i + j, the checksum row and the checksum column. -/
structure Chunk where
  sums : Array FV
  row : Array FV
  col : Array FV

/-- A list of values, `n` of them, kept. -/
def keep (n : Nat) (f : Nat → FV) : Array FV := ((List.range n).map f).toArray
/-- A value of a list. -/
def pick (a : Array FV) (i : Nat) : FV := a.getD i (.fin false 0 0)

/-- The sums that the array forms: of a(i, k) and b(k, j), with bsum as BSLD formed it. -/
def chunkOf (a b bsum : Nat → FV) : Chunk :=
  let asum := keep 128 (fun k => exactSum 128 (fun i => a (128 * i + k)))
  { sums := keep 16384 (fun e => chunkSum (fun k => a (128 * (e / 128) + k)) (fun k => b (128 * (e % 128) + k)))
    row := keep 128 (fun j => exactSum 128 (fun k => (pick asum k).mul (b (128 * j + k))))
    col := keep 128 (fun i => exactSum 128 (fun k => (a (128 * i + k)).mul (bsum k))) }

/-- A number added to a value of a list. -/
def bump (a : Array FV) (i : Nat) (x : FV) : Array FV := a.modify i (fun y => y.add .rne x)

/-- An error of a sum, in the layout of JCHK's control: row i and column j of 0 to 128, and 2^(b - 20); bit 21 makes it negative. -/
def Chunk.err (c : Chunk) (w : Word) : Chunk :=
  let i := field w.toNat 7 0
  let j := field w.toNat 15 8
  let x : FV := .fin (w.getLsbD 21) 1 ((field w.toNat 20 16 : Nat) - 20)
  if i < 128 && j < 128 then { c with sums := bump c.sums (128 * i + j) x }
  else if i = 128 && j < 128 then { c with row := bump c.row j x }
  else if i < 128 && j = 128 then { c with col := bump c.col i x }
  else c

/-- rs(i) and cs(j). -/
def Chunk.rs (c : Chunk) (i : Nat) : FV := exactSum 128 (fun j => pick c.sums (128 * i + j))
def Chunk.cs (c : Chunk) (j : Nat) : FV := exactSum 128 (fun i => pick c.sums (128 * i + j))
/-- Are two exact sums equal? -/
def FV.same (a b : FV) : Bool := a.cmp b == 0
/-- The rows and the columns that fail their tests (15 R340). -/
def Chunk.rows (c : Chunk) : List Nat := (List.range 128).filter (fun i => !(c.rs i).same (pick c.col i))
def Chunk.cols (c : Chunk) : List Nat := (List.range 128).filter (fun j => !(c.cs j).same (pick c.row j))

/-- S(i, j) becomes ck_row(j) - (cs(j) - S(i, j)). -/
def Chunk.correct (c : Chunk) (i j : Nat) : Chunk :=
  { c with sums := c.sums.setIfInBounds (128 * i + j) ((pick c.row j).add .rne (((c.cs j).add .rne (pick c.sums (128 * i + j)).negate).negate)) }

/-- What the check of a chunk decides (15 R340). -/
inductive Check where
  | good | corr | ckonly | uncorr
  deriving DecidableEq, Repr

/-- The outcome of a chunk's check, and the chunk as it is promoted. -/
def Chunk.decide (c : Chunk) : Check × Chunk :=
  match c.rows, c.cols with
  | [], [] => (.good, c)
  | [i], [j] => let d := c.correct i j; if (d.rs i).same (pick d.col i) then (.corr, d) else (.uncorr, c)
  | [_], [] => (.ckonly, c)
  | [], [_] => (.ckonly, c)
  | _, _ => (.uncorr, c)

/-- The errors that strike an iteration, from its event: words of 32 bits in the layout of `Chunk.err`, at most eight; bit 31 names the follower's array. -/
def softErrs (soft : Nat) (follower : Bool) : List Word :=
  ((List.range 8).map (fun k => BitVec.ofNat 32 (soft / 2 ^ (32 * k)))).filter (fun w => w != 0 && w.getLsbD 31 == follower)

/-- Core cycles of an iteration (15 R329). -/
def iterCycles (a b : Nat) : Nat := match max (fmtBits a) (fmtBits b) with | 4 => 64 | 32 => 2048 | 16 => 512 | _ => 128

/-- bsum of the tile at a place of the B-store: as BSLD formed it; of a tile that no BSLD has written, its own (log 54). -/
def State.bsumAt (s : State) (place : Nat) (b : Nat → FV) (k : Nat) : FV :=
  match s.bck.find? place with
  | some l => ofExact ((l[k]?).getD (0, 0))
  | none => bsumOf b k

/-- One array's part of an iteration on a core: the chunk is formed, checked and promoted into its tile; with the outcome of the check. -/
def State.arrayStep (s : State) (core : Nat) (b : Block) (j : Job) (mi ni kc : Nat) (errs : List Word) (aTile : Nat → FV) (sa sb : List Word) :
    State × Job × Check :=
  let c := s.core core
  let code := tdFmt j.btd
  let bbase := core * Config.bstBytes + b.b0 * 4096 + tdBase j.btd + 256 * tdSlotsz j.btd * (kc * j.nt + ni)
  let bTile := tileElem code (fun i => if j.reads (bstLoc (bbase + i)) then Config.byte s.free (2 ^ 20 + i) else s.bst.byte (bbase + i))
  match b.tiles[j.fld 680 678 + mi * j.nt + ni]? with
  | none => (s, j, .good)
  | some tile =>
    let skip := (List.range 16384).any (fun e => (aTile e).special || (bTile e).special)
    let formed := chunkOf aTile bTile (s.bsumAt bbase bTile)
    let struck := (errs ++ (match c.injector with | some w => [w &&& 0x1FFFFF] | none => [])).foldl Chunk.err formed
    let d := if skip then (Check.good, errs.foldl Chunk.err formed) else struck.decide
    let c' := if d.1 == .uncorr then c else c.setTile tile (fun i =>
      if j.wild then Config.word s.free (16384 + i)
      else promote (if j.reads (accPlace core tile i) then Config.word s.free (2 ^ 17 + i) else c.accAt tile i) (pick d.2.sums i) ((sa[i / 128]?).getD 0) ((sb[i % 128]?).getD 0))
    let c' := { c' with injector := if skip then c.injector else none, ccorr := (c.ccorr + (if d.1 == .corr then 1 else 0)) % 2 ^ 64 }
    let s := s.putCore core c'
    let s := match d.1 with | .corr => s.countR (dieOf core) 1 | .ckonly => s.countR (dieOf core) 2 | .uncorr => s.countR (dieOf core) 3 | .good => s
    (s, { j with skip := j.skip + (if skip then 1 else 0), corr := j.corr + (if d.1 == .corr then 1 else 0),
                 ckonly := j.ckonly + (if d.1 == .ckonly then 1 else 0), st := if d.1 == .uncorr then .uncorr else j.st }, d.1)

/-- Every word of a slot of the ring full, or set empty. -/
def State.slotFull (s : State) (j : Job) (n : Nat) : Bool :=
  match s.ringSlot j n with
  | some loc => (List.range (64 * tdSlotsz j.atd)).all (fun i => s.isFull (loc + 4 * i))
  | none => true
def State.emptySlot (s : State) (j : Job) (n : Nat) : State :=
  match s.ringSlot j n with
  | some loc => (List.range (64 * tdSlotsz j.atd)).foldl (fun s i => s.setFull (loc + 4 * i) false) s
  | none => s

/-- Index of each scale in its record (15 R324): of A for row r, of B for column c; `h` 0 in the leader's array. -/
def Job.aScale (j : Job) (mi kc r : Nat) : Nat :=
  match scaleCode (tdFmt j.atd) with | 1 => (128 * mi + r) * j.kt + kc | 2 => mi * j.kt + kc | _ => 128 * mi + r
def Job.bScale (j : Job) (h ni kc c : Nat) : Nat :=
  let p := if j.follower.isSome then 2 else 1
  match scaleCode (tdFmt j.btd) with
  | 1 => (128 * (j.nt * h + ni) + c) * j.kt + kc | 2 => kc * j.nt * p + j.nt * h + ni | _ => 128 * (j.nt * h + ni) + c

/-- A job leaves RUN, or its array stands: the core cycles since it entered RUN count for its core and its follower's (16 R358). -/
def State.countRun (s : State) (core : Nat) (j : Job) : State :=
  let n := s.now / 10 - j.since / 10
  let up (s : State) (k : Nat) : State := s.putCore k { s.core k with cjobcyc := ((s.core k).cjobcyc + n) % 2 ^ 64 }
  match j.follower with
  | some (k, _) => up (up s core) k
  | none => up s core

/-- The array's read of a slot is an acquire at die scope: a miss shows in the group that issued the job (05 R126, R133). -/
def State.acquireSlot (s : State) (core : Nat) (j : Job) : State :=
  match s.ringSlot j j.head with
  | some loc =>
    if (s.relsIn loc (256 * tdSlotsz j.atd)).all (fun r => r.syncs 4 (s.engineOf core j.blk)) then s
    else if (s.group? j.key).any (fun g => g.blk = j.blk) then s.scopeMiss j.key else s
  | none => s

/-- The die of the word at an address, as a block's engines reach it; none where its walk does not end (26 R450). -/
def State.dieAt (s : State) (core : Nat) (b : Block) (a : DWord) : Option Nat :=
  if field a.toNat 63 60 = 0 then (match (s.translate core (s.rootOf b.launch) a.toNat .read).1 with | .ok x => some (placeDie x.loc) | .error _ => none)
  else (s.scratch b a).map placeDie

/-- A job met a failure: it freezes before the iteration or element, to go on from there (15 R342). An uncorrectable error traps the JOB. -/
def State.jobFails (s : State) (core : Nat) (j : Job) (c : Nat) (a : DWord) : State :=
  if c = Cause.memunc then
    (s.putJob core { j with flt := some (c, a) }).strike j.key j.blk (s.launchId j.blk)
      { cause := Cause.memunc, pc := j.pc, addr := a, lanes := j.lanes, die := (s.block? j.blk).bind (fun b => s.dieAt core b a) }
  else s.putJob core { j with flt := some (c, a) }

/-- ANVIL_ITERATION: one iteration of the nest, on both arrays of a paired job. It waits until the array is free, and until the slot it reads is
full; `soft` the errors that strike it. An uncorrectable chunk stops the job, whose tiles are then unpredictable (15 R340). -/
def execAnvilIteration (core soft : Nat) (s : State) : Host.Outcome State Fault Refusal :=
  .next (match (s.core core).running with
    | none => s
    | some j =>
      match s.block? j.blk, j.st == .run && j.flt.isNone && j.iter < j.total && j.next ≤ s.now && !s.jobHeld j with
      | some b, true =>
        let (mi, ni, kc) := j.at j.iter
        let prev := j.at (j.iter - 1)
        let moved := j.iter > 0 && (prev.1 != mi || prev.2.2 != kc)
        if moved && !j.turned then
          -- the last slot has been read: it is set empty, and HEAD moves on
          (s.emptySlot j j.head).putJob core { j with head := (j.head + 1) % tdNslot j.atd, turned := true }
        else if (moved || j.iter = 0) && !s.slotFull j j.head then s
        else
          let s := if moved || j.iter = 0 then s.acquireSlot core j else s
          -- the scales are read first: a failure freezes the array before it promotes anything
          match s.scales b j (j.record 128) (tdFmt j.atd) (j.aScale mi kc) with
          | (.error (c, a), t) => t.jobFails core j c a
          | (.ok sa, t) =>
            match t.scales b j (j.record 256) (tdFmt j.btd) (j.bScale 0 ni kc) with
            | (.error (c, a), t) => t.jobFails core j c a
            | (.ok sb, t) =>
              let fol := j.follower.bind (fun f => (t.block? f.2).map (fun x => (f.1, x)))
              match (match fol with
                | some _ => t.scales b j (j.record 256) (tdFmt j.btd) (j.bScale 1 ni kc)
                | none => (.ok [], t)) with
              | (.error (c, a), t) => t.jobFails core j c a
              | (.ok sb1, t) =>
                let loc := (t.ringSlot j j.head).getD 0
                let aTile := tileElem (tdFmt j.atd) (fun i => if j.reads (loc + i) then Config.byte t.free i else t.byteAt (loc + i))
                let (u, j', o) := t.arrayStep core b j mi ni kc (softErrs soft false) aTile sa sb
                let (u, j', o') : State × Job × Check := match fol with
                  | some (k, x) => if j'.st == .uncorr then (u, j', .good) else u.arrayStep k x j' mi ni kc (softErrs soft true) aTile sa sb1
                  | none => (u, j', .good)
                let u := u.tickFree
                if j'.st == .uncorr then ((u.wildTiles core j).countRun core j).putJob core j'
                else
                  let last := j.iter + 1 = j.total
                  let u := if last then u.emptySlot j j.head else u
                  let cycles := iterCycles (tdFmt j.atd) (tdFmt j.btd) + (if o == .corr || o' == .corr then 4 else 0)
                  u.putJob core { j' with
                    iter := j.iter + 1, turned := false, next := s.now + 10 * cycles
                    head := if last then (j.head + 1) % tdNslot j.atd else j.head }
      | _, _ => s)

/-- ANVIL_DRAIN: the next element of C is written, performed at die scope (15 R330); a failure freezes the arrays. -/
def execAnvilDrain (core : Nat) (s : State) : Host.Outcome State Fault Refusal :=
  .next (match (s.core core).running with
    | none => s
    | some j =>
      match s.block? j.blk, j.st == .run && j.flt.isNone && j.iter = j.total && j.next ≤ s.now && j.drainAt < j.drains && !s.jobHeld j with
      | some b, true =>
        let (tile, e, fmt, _, acc) := s.drainAcc core b j j.drainAt
        let w := match tile with | some (c, t) => (s.core c).accAt t e | none => 0
        let bytes := if fmt ≥ 2 then leBytes 2 ((if fmt = 2 then FFmt.bf16 else FFmt.f16).round .rne 0 false false (FFmt.f32.value false w.toNat))
          else leBytes 4 w.toNat
        (match acc with
         | (.error (c, a), t) => t.jobFails core j c a
         | (.ok none, t) => t.putJob core { j with drainAt := j.drainAt + 1 }
         | (.ok (some (loc, ga)), t) =>
           if t.frozen loc then s
           else ((t.beforeWrite b.launch ga loc).writeAt loc bytes none).putJob core { j with drainAt := j.drainAt + 1 })
      | _, _ => s)

/-- Every group that waits on a job goes on, or traps. -/
def State.wakeJwait (s : State) (core : Nat) (j : Job) : State × Bool :=
  s.groups.foldl (fun p x => match x.2.jwait with
    | some (id, pc, lanes) =>
      if coreOf x.1 = core && x.2.blk = j.blk && id = j.id then
        if j.st == .done then (p.1.putGroup x.1 { x.2 with jwait := none }, true)
        else (p.1.putGroup x.1 (({ (x.2.onLanes (lanes &&& x.2.live) (fun _ y => { y with pc })) with jwait := none } : Group).raise (j.trap pc lanes)),
              p.2 || j.st == .uncorr)
      else p
    | none => p) (s, false)

/-- JOB_DONE: the drain, or the last promotion, is complete: HEAD goes back to the issuing group's ATD if that group is live, and a JWAIT that
waits completes and frees the entry (15 R327, R328, R333). -/
def execJobDone (core : Nat) (s : State) : Host.Outcome State Fault Refusal :=
  .next (match (s.core core).running with
    | none => s
    | some j =>
      if j.st == .run && j.flt.isNone && j.iter = j.total && j.next ≤ s.now && j.drainAt = j.drains then
        let s := s.countRun core j
        let j := { j with st := .done }
        let s := (s.putJob core j).unlend j
        let s := match s.group? j.key with
          | some g =>
            if g.blk = j.blk && !g.exited then
              let n := j.fld 674 672
              let t := g.tAt n
              s.putGroup j.key (g.setT n ((t &&& ~~~((0x3FF : BitVec 256) <<< 64)) ||| ((BitVec.ofNat 256 j.head) <<< 64)))
            else s
          | none => s
        let (s, woke) := s.wakeJwait core j
        if woke || j.orphan then s.freeJob core j.slot else s
      else s)

/-- Has a job in UNCORR still to leave its arrays or its entry, or to trap a JWAIT? -/
def State.uncorrWork (s : State) (core : Nat) (j : Job) : Bool :=
  j.st == .uncorr && (j.orphan || (match j.follower with | some (k, _) => (s.core k).lent == some core | none => false)
    || s.groups.any (fun x => coreOf x.1 == core && x.2.blk == j.blk && x.2.jwait.any (fun w => w.1 == j.id)))

/-- JOB_FAULT: a failed access leaves the job in FAULT with its array frozen; an uncorrectable chunk leaves it in UNCORR. A JWAIT that waits traps;
a dropped job releases its arrays (15 R327, R340, R342). -/
def execJobFault (core : Nat) (s : State) : Host.Outcome State Fault Refusal :=
  .next (match (s.core core).jobs.find? (fun j => (j.st == .run && j.flt.isSome) || s.uncorrWork core j) with
    | none => s
    | some j =>
      if j.st == .uncorr then
        let s := s.unlend j
        let (s, woke) := s.wakeJwait core j
        -- consumed at the block's exit when no JWAIT takes it
        if woke then s.freeJob core j.slot
        else if j.orphan then
          (s.freeJob core j.slot).strike j.key j.blk (s.launchId j.blk) { cause := Cause.anvunc, pc := j.pc, lanes := j.lanes }
        else s
      else
        let s := s.countRun core j
        let j := { j with st := .fault }
        if j.orphan then (s.freeJob core j.slot).unlend j
        else (((s.putJob core j).wakeJwait core j).1))

/-- A frozen job goes on (15 R342). -/
def State.resumeJob (s : State) (core slot : Nat) : State :=
  match (s.core core).jobs.find? (fun j => j.slot = slot) with
  | some j => if j.st == .fault then (s.putJob core { j with st := .run, flt := none, since := s.now, gen := s.tgen }).addDue [.anvil core] else s
  | none => s

/-- The next step of a core's array. -/
def State.anvilStep (s : State) (core : Nat) : Host.Outcome State Fault Refusal :=
  let c := s.core core
  if c.jobs.any (fun j => (j.st == .run && j.flt.isSome) || s.uncorrWork core j) then execJobFault core s
  else match c.running with
    | none => execJobStart core s
    | some j =>
      if j.st == .fault then .next s
      else if j.iter < j.total then execAnvilIteration core 0 s
      else if j.drainAt < j.drains then execAnvilDrain core s
      else execJobDone core s

/-- Has an array something to do, or to wait for? -/
def State.anvilBusy (s : State) (core : Nat) : Bool :=
  (s.core core).jobs.any (fun j => j.st == .queued || j.st == .run || s.uncorrWork core j)

end Sys2Proof.Machine
end

