-- ==== Sys2Proof/Machine/Compact.lean ====
section
/-! DEFINITION. The compact forms: each acts as the 96-bit op it expands to (08 R200, 09 R222). -/

namespace Sys2Proof.Machine

open Sys2Proof

def execCompactAddV (o : OpK) (s : State) : Host.Outcome State Fault Refusal :=
  execAdd (o.asA .dflt (.v o.dst) (.v o.sa) (.v o.sb)) s
def execCompactAddVi (o : OpK) (s : State) : Host.Outcome State Fault Refusal :=
  execAdd (o.asA .dflt (.v o.dst) (.v o.sa) .imm) s
def execCompactSubV (o : OpK) (s : State) : Host.Outcome State Fault Refusal :=
  execSub (o.asA .dflt (.v o.dst) (.v o.sa) (.v o.sb)) s
def execCompactMulV (o : OpK) (s : State) : Host.Outcome State Fault Refusal :=
  execMul (o.asA .dflt (.v o.dst) (.v o.sa) (.v o.sb)) s
def execCompactMulVi (o : OpK) (s : State) : Host.Outcome State Fault Refusal :=
  execMul (o.asA .dflt (.v o.dst) (.v o.sa) .imm) s
def execCompactMin (o : OpK) (s : State) : Host.Outcome State Fault Refusal :=
  execMin (o.asA .dflt (.v o.dst) (.v o.sa) (.v o.sb)) s
def execCompactMax (o : OpK) (s : State) : Host.Outcome State Fault Refusal :=
  execMax (o.asA .dflt (.v o.dst) (.v o.sa) (.v o.sb)) s
def execCompactAndV (o : OpK) (s : State) : Host.Outcome State Fault Refusal :=
  execAnd (o.asA .dflt (.v o.dst) (.v o.sa) (.v o.sb)) s
def execCompactAndVi (o : OpK) (s : State) : Host.Outcome State Fault Refusal :=
  execAnd (o.asA .dflt (.v o.dst) (.v o.sa) .imm) s
def execCompactOrV (o : OpK) (s : State) : Host.Outcome State Fault Refusal :=
  execOr (o.asA .dflt (.v o.dst) (.v o.sa) (.v o.sb)) s
def execCompactOrVi (o : OpK) (s : State) : Host.Outcome State Fault Refusal :=
  execOr (o.asA .dflt (.v o.dst) (.v o.sa) .imm) s
def execCompactXorV (o : OpK) (s : State) : Host.Outcome State Fault Refusal :=
  execXor (o.asA .dflt (.v o.dst) (.v o.sa) (.v o.sb)) s
def execCompactXorVi (o : OpK) (s : State) : Host.Outcome State Fault Refusal :=
  execXor (o.asA .dflt (.v o.dst) (.v o.sa) .imm) s
def execCompactShlV (o : OpK) (s : State) : Host.Outcome State Fault Refusal :=
  execShl (o.asA .dflt (.v o.dst) (.v o.sa) (.v o.sb)) s
def execCompactShlVi (o : OpK) (s : State) : Host.Outcome State Fault Refusal :=
  execShl (o.asA .dflt (.v o.dst) (.v o.sa) .imm) s
def execCompactShrVi (o : OpK) (s : State) : Host.Outcome State Fault Refusal :=
  execShr (o.asA .dflt (.v o.dst) (.v o.sa) .imm) s
def execCompactSarVi (o : OpK) (s : State) : Host.Outcome State Fault Refusal :=
  execSar (o.asA .dflt (.v o.dst) (.v o.sa) .imm) s
def execCompactMovV (o : OpK) (s : State) : Host.Outcome State Fault Refusal :=
  execMov (o.asA .dflt (.v o.dst) (.v o.sa) .none) s
def execCompactMovVi (o : OpK) (s : State) : Host.Outcome State Fault Refusal :=
  execMov (o.asA .dflt (.v o.dst) .imm .none) s
def execCompactAddS (o : OpK) (s : State) : Host.Outcome State Fault Refusal :=
  execAdd (o.asA .dflt (kS o.dst) (kS o.sa) (kS o.sb)) s
def execCompactAddSi (o : OpK) (s : State) : Host.Outcome State Fault Refusal :=
  execAdd (o.asA .dflt (kS o.dst) (kS o.sa) .imm) s
def execCompactMovS (o : OpK) (s : State) : Host.Outcome State Fault Refusal :=
  execMov (o.asA .dflt (kS o.dst) (kS o.sa) .none) s
def execCompactMovSi (o : OpK) (s : State) : Host.Outcome State Fault Refusal :=
  execMov (o.asA .dflt (kS o.dst) .imm .none) s
def execCompactCmpEq (o : OpK) (s : State) : Host.Outcome State Fault Refusal :=
  execCmpEq (o.asA .dflt (kP o.dst) (.v o.sa) (.v o.sb)) s
def execCompactCmpLt (o : OpK) (s : State) : Host.Outcome State Fault Refusal :=
  execCmpLt (o.asA .dflt (kP o.dst) (.v o.sa) (.v o.sb)) s
def execCompactCmpLtU32 (o : OpK) (s : State) : Host.Outcome State Fault Refusal :=
  execCmpLt (o.asA .u32 (kP o.dst) (.v o.sa) (.v o.sb)) s
def execCompactCmpLtI (o : OpK) (s : State) : Host.Outcome State Fault Refusal :=
  execCmpLt (o.asA .dflt (kP o.dst) (.v o.sa) .imm) s
def execCompactFadd (o : OpK) (s : State) : Host.Outcome State Fault Refusal :=
  execFadd (o.asA .dflt (.v o.dst) (.v o.sa) (.v o.sb)) s
def execCompactFmul (o : OpK) (s : State) : Host.Outcome State Fault Refusal :=
  execFmul (o.asA .dflt (.v o.dst) (.v o.sa) (.v o.sb)) s
def execCompactFmin (o : OpK) (s : State) : Host.Outcome State Fault Refusal :=
  execFmin (o.asA .dflt (.v o.dst) (.v o.sa) (.v o.sb)) s
def execCompactFmax (o : OpK) (s : State) : Host.Outcome State Fault Refusal :=
  execFmax (o.asA .dflt (.v o.dst) (.v o.sa) (.v o.sb)) s
def execCompactLdV (o : OpK) (s : State) : Host.Outcome State Fault Refusal :=
  execLd (o.asM (.v o.dst) o.sa (.v o.sb)) s
def execCompactLdI (o : OpK) (s : State) : Host.Outcome State Fault Refusal :=
  execLd (o.asM (.v o.dst) o.sa .none) s
def execCompactSt (o : OpK) (s : State) : Host.Outcome State Fault Refusal :=
  execSt (o.asM (.v o.sb) o.dst (.v o.sa)) s
def execCompactLdu (o : OpK) (s : State) : Host.Outcome State Fault Refusal :=
  execLdu (o.asM (kS o.dst) o.sa (kS o.sb)) s
def execCompactPopc (o : OpK) (s : State) : Host.Outcome State Fault Refusal :=
  execPopc (o.asA .dflt (.v o.dst) (.v o.sa) .none) s
def execCompactShflXor (o : OpK) (s : State) : Host.Outcome State Fault Refusal :=
  execShflXor (o.asA .dflt (.v o.dst) (.v o.sa) .imm) s
def execCompactShflIdx (o : OpK) (s : State) : Host.Outcome State Fault Refusal :=
  execShflIdx (o.asA .dflt (.v o.dst) (.v o.sa) (.v o.sb)) s
def execCompactNop (s : State) : Host.Outcome State Fault Refusal := execNop s
def execCompactExit (s : State) : Host.Outcome State Fault Refusal := execExit s

end Sys2Proof.Machine
end

