-- ==== Sys2Proof/Machine/Front.lean ====
section
/-! DEFINITION. Command queues, commands, regions, placement, block starts and completions (spec 22). -/

namespace Sys2Proof.Machine

open Sys2Proof

/-! ## Virtual memory as a die's own units see it -/

/-- The place of a byte under a root; the failure is a cause code (23 R392, R463). -/
def State.placeFor (s : State) (die : Nat) (root : DWord) (va : DWord) (k : AccKind) : Except Nat Nat :=
  if !goodPc va then .error (Cause.access fPage k)
  else match s.walk die root va.toNat with
    | .fail f => .error (Cause.access f k)
    | .ecc => .error Cause.memunc
    | .leaf level pte => match s.leafCheck level pte va.toNat k with
      | .error f => .error (Cause.access f k)
      | .ok pa => .ok (dramLoc (field pte 60 59) pa)

/-- `n` bytes of virtual memory; none when a translation fails or an uncorrectable error is met. -/
def State.virtRead (s : State) (die : Nat) (root : DWord) (va : DWord) : Nat → Option (List Byte)
  | 0 => some []
  | n + 1 =>
    match s.placeFor die root va .read with
    | .error _ => none
    | .ok loc => if s.eccIn loc 1 then none else (s.virtRead die root (va + 1) n).map (s.byteAt loc :: ·)

/-- The places of `n` bytes to be written. -/
def State.virtPlaces (s : State) (die : Nat) (root : DWord) (va : DWord) : Nat → Option (List Nat)
  | 0 => some []
  | n + 1 =>
    match s.placeFor die root va .write with
    | .error _ => none
    | .ok loc => (s.virtPlaces die root (va + 1) n).map (loc :: ·)

/-- Bytes written to virtual memory, or nothing where a translation fails. -/
def State.virtWrite (s : State) (die : Nat) (root : DWord) (va : DWord) (bs : List Byte) (rel : Option RelRec) : Option State :=
  (s.virtPlaces die root va bs.length).map (fun ls => (ls.zip bs).foldl (fun s x => s.writeAt x.1 [x.2] rel) s)

/-- The release record of a write by a hart or a peer: at system scope, by no compute core and of no die. -/
def sysRel : RelRec := { scope := 6, by_ := { core := Config.numCores } }
/-- The release record of a write by a die's Front, Vane, firmware or engines: at system scope (05 R111). -/
def frontRel (d : Nat) : RelRec := { scope := 6, by_ := dieAgent d }

/-! ## Queue registers (22 R365-R368) -/

/-- A queue of a die. -/
def State.queue (s : State) (d q : Nat) : Queue := SMap.get {} (s.die d).queues q
/-- A queue replaced. -/
def State.putQueue (s : State) (d q : Nat) (x : Queue) : State :=
  let y := s.die d
  s.putDie d { y with queues := y.queues.put q x }

/-- HEAD: the oldest ticket still held, or CONS (22 R368). -/
def Queue.settle (x : Queue) : Queue :=
  { x with head := match x.live.find? (·.now) with | some c => c.ticket | none => x.cons }

/-- QRES: a read reserves a ticket or gets FULL; the value is left in `ans` (22 R366). -/
def execQres (d q : Nat) (s : State) : Host.Outcome State Fault Refusal :=
  let x := s.queue d q
  .next (if !x.en || (x.tail + 2 ^ 31 - x.head) % 2 ^ 31 = 2 ^ x.log2 then { s with ans := some (leBytes 4 0xFFFFFFFF) }
    else { s.putQueue d q { x with tail := (x.tail + 1) % 2 ^ 31 } with ans := some (leBytes 4 x.tail) })

/-- QCOMMIT: the ticket's commit bit is set, or BADCOMMIT (22 R367). -/
def execQcommit (d q : Nat) (v : Word) (s : State) : Host.Outcome State Fault Refusal :=
  let x := s.queue d q
  let t := v.toNat
  let e := t % 2 ^ x.log2
  .next (if t < 2 ^ 31 && (t + 2 ^ 31 - x.cons) % 2 ^ 31 < (x.tail + 2 ^ 31 - x.cons) % 2 ^ 31 && !x.commits.contains e then
      (s.putQueue d q { x with commits := insertNat x.commits e }).addDue [.consume d q]
    else (s.putQueue d q { x with badcommit := true }).dieEvent d 7)

/-- QCFG: LOG2, or BADCFG; EN, whose clearing empties the queue (22 R365). -/
def execQcfg (d q : Nat) (v : Word) (s : State) : Host.Outcome State Fault Refusal :=
  let x := s.queue d q
  let n := field v.toNat 3 0
  let ok := 4 ≤ n && n ≤ 12
  let x := if ok then { x with log2 := n } else { x with badcfg := true }
  let x := if v.getLsbD 4 then { x with en := true }
    else { x with en := false, head := 0, cons := 0, tail := 0, commits := [], live := x.live.map (fun c => { c with now := false }) }
  let s := s.putQueue d q x
  .next (if ok then s else s.dieEvent d 7)

/-! ## Commands (22 R369, R373, R374) -/

/-- A 64-bit word of an entry. -/
def Cmd.word (c : Cmd) (i : Nat) : DWord := c.entry.extractLsb' (64 * i) 64
/-- The code of a command. -/
def Cmd.code (c : Cmd) : Nat := field c.entry.toNat 7 0

/-- Words and bits that a NOP, WAITMEM, WRITEMEM or GSTATUS leaves reserved: everything but the code, the operands and COMPL. -/
def Cmd.reserved (c : Cmd) (operands : Nat) : Bool :=
  field c.entry.toNat 63 8 != 0 || (List.range 16).any (fun i => i != 0 && i > operands && i != 10 && c.word i != 0)

/-- Front looks again at every launch that waits. -/
def State.wakeFront (s : State) : State :=
  s.addDue ((s.launches.filter (fun l => !l.2.isGraph)).map (fun l => Work.start l.1))

/-- A command completes: its completion word, as a release at system scope; its ticket; and what waited for it. -/
def State.completeCmd (s : State) (d q : Nat) (c : Cmd) (status cause replays : Nat) : State :=
  let w := field c.entry.toNat 703 640
  let word := status + 2 ^ 8 * min replays 255 + 2 ^ 16 * cause + 2 ^ 32 * c.ticket
  let s := if w = 0 then s else (s.virtWrite d c.root (BitVec.ofNat 64 w) (leBytes 8 word) (some (frontRel d))).getD s
  let x := s.queue d q
  let x := { x with live := x.live.filter (fun y => y.id != c.id), cur := if x.cur = some c.id then none else x.cur,
                    wait := if x.wait = some c.id then none else x.wait }
  ((s.putQueue d q x.settle).addDue [.consume d q, .writemem d q]).wakeFront

/-- The command consumed and not yet passed on. -/
def Queue.now? (x : Queue) : Option Cmd := x.cur.bind (fun i => x.live.find? (fun c => c.id = i))

/-- COMMAND_CONSUME: the next committed entry is read and its command is at hand; an entry that cannot be read counts as a NOP (22 R367). -/
def execCommandConsume (d q : Nat) (s : State) : Host.Outcome State Fault Refusal :=
  let x := s.queue d q
  let e := x.cons % 2 ^ x.log2
  .next (if !x.en || x.cur.isSome || x.wait.isSome || !x.commits.contains e then s
    else
      let va := x.base + BitVec.ofNat 64 (128 * e)
      let x := { x with commits := x.commits.filter (· != e), cons := (x.cons + 1) % 2 ^ 31 }
      match s.virtRead d x.root va 128 with
      | none => ((s.putQueue d q { x.settle with badentry := true }).dieEvent d 7).addDue [.consume d q]
      | some bs =>
        let c : Cmd := { id := s.uid, ticket := (x.cons + 2 ^ 31 - 1) % 2 ^ 31, entry := BitVec.ofNat 1024 (leNat bs), va, root := x.root }
        let x := ({ x with live := x.live ++ [c], cur := some c.id } : Queue).settle
        let s : State := { s.putQueue d q x with uid := s.uid + 1 }
        if c.code ≤ 5 then s.addDue [.command d q] else s.completeCmd d q c 2 Cause.illegal 0)

/-- A command at hand with a code. -/
def State.command? (s : State) (d q code : Nat) : Option Cmd :=
  match (s.queue d q).now? with
  | some c => if c.code = code then some c else none
  | none => none

/-- NOP completes at once. -/
def execNopCommand (d q : Nat) (s : State) : Host.Outcome State Fault Refusal :=
  .next (match s.command? d q 0 with
    | some c => if c.reserved 0 then s.completeCmd d q c 2 Cause.illegal 0 else s.completeCmd d q c 1 0 0
    | none => s)

/-- WAITMEM: the queue is held until its word reaches VALUE. -/
def execWaitmem (d q : Nat) (s : State) : Host.Outcome State Fault Refusal :=
  .next (match s.command? d q 3 with
    | some c =>
      if c.reserved 2 || (c.word 1).toNat % 8 ≠ 0 then s.completeCmd d q c 2 Cause.illegal 0
      else (s.putQueue d q { s.queue d q with cur := none, wait := some c.id }).addDue [.waitmem d q]
    | none => s)

/-- The awaited word, read as an acquire at system scope, is at least VALUE. -/
def execWaitmemSatisfied (d q : Nat) (s : State) : Host.Outcome State Fault Refusal :=
  .next (match (s.queue d q).wait.bind (fun i => (s.queue d q).live.find? (fun c => c.id = i)) with
    | some c =>
      (match s.virtRead d c.root (c.word 1) 8 with
       | some bs => if (c.word 2).toNat ≤ leNat bs then s.completeCmd d q c 1 0 0 else s
       | none => s)
    | none => s)

/-- WRITEMEM: its value is written as a release at system scope, once every earlier command of the queue has completed. -/
def execWritemem (d q : Nat) (s : State) : Host.Outcome State Fault Refusal :=
  .next (
    let s := match s.command? d q 4 with
      | some c => if c.reserved 2 then s.completeCmd d q c 2 Cause.illegal 0
                  else (s.putQueue d q { s.queue d q with cur := none }).addDue [.consume d q]
      | none => s
    match (s.queue d q).live with
    | c :: _ =>
      if c.code = 4 && (s.queue d q).cur != some c.id then
        (match s.virtWrite d c.root (c.word 1) (leBytes 8 (c.word 2).toNat) (some (frontRel d)) with
         | some t => t.completeCmd d q c 1 0 0
         | none => s.completeCmd d q c 2 (Cause.access fPage .write) 0)
      else s
    | [] => s)

/-! ## Regions (22 R376-R378, 24 R430) -/

/-- A region control block, read through the region address space. -/
def State.rcb (s : State) (d : Nat) (a : DWord) : Option Nat :=
  if a.toNat % 128 ≠ 0 then none
  else match s.rspace with
    | some root => (s.virtRead d root a 128).map leNat
    | none => none

/-- Reserved fields of an RCB are zero. -/
def rcbReserved (x : Nat) : Bool :=
  field x 1023 480 == 0 && field x 463 452 == 0 && field x 383 364 == 0 && field x 351 339 == 0 && field x 191 176 == 0 &&
    field x 127 106 == 0 && field x 95 91 == 0 && field x 87 83 == 0

/-- The chain of RCBs of a region, its own first; none when one is invalid (22 R377). -/
def State.rcbChain (s : State) (d : Nat) : Nat → DWord → Option (List Nat)
  | 0, _ => none
  | n + 1, a =>
    match s.rcb d a with
    | none => none
    | some x =>
      if !rcbReserved x || s.regtab.find? (field x 79 64) != some a then none
      else if field x 63 0 = 0 then (if field x 105 96 = 0x3FF then some [x] else none)
      else (s.rcbChain d n (BitVec.ofNat 64 (field x 63 0))).map (x :: ·)

/-- Effective fields: an RCB laid over its parent's. -/
def Eff.laidOn (e : Eff) (x : Nat) : Eff :=
  let o (k : Nat) : Bool := x.testBit (96 + k)
  let e := { e with rid := field x 79 64, chain := field x 79 64 :: e.chain }
  let e := if o 0 then { e with pin := x.testBit 80 } else e
  let e := if o 1 then { e with check := x.testBit 81 } else e
  let e := if o 2 then { e with inject := x.testBit 82 } else e
  let e := if o 3 then { e with prio := field x 90 88 } else e
  let e := if o 4 then { e with lattol := field x 159 128 } else e
  let e := if o 5 then { e with fdom := field x 175 160 } else e
  let b : Nat × Nat × Nat × Nat := if o 6 then (field x 223 192, field x 255 224, field x 287 256, field x 319 288)
    else match e.budgets with | y :: _ => y.2 | [] => (0, 0, 0, 0)
  let e := { e with budgets := (field x 79 64, b) :: e.budgets }
  let e := if o 7 then { e with
      ceil := field x 363 362, nbat := field x 361 359, share := field x 358 352, h := field x 338 335, w := field x 334 331,
      y0 := field x 330 327, x0 := field x 326 324, diemask := field x 323 320 } else e
  let e := if o 8 then { e with sysring := BitVec.ofNat 64 (field x 447 384) } else e
  if o 9 then { e with tmrgrant := field x 451 448, cirq := field x 479 464 } else e

/-- The fields of the core set are in the ranges of their map; a region of which one is not is invalid (log 68). -/
def Eff.ranges (e : Eff) : Bool :=
  1 ≤ e.w && e.w ≤ 8 && 1 ≤ e.h && e.h ≤ 12 && e.x0 + e.w ≤ 8 && e.y0 + e.h ≤ 12 && e.nbat ≤ 4 && e.share ≤ 64

/-- The effective fields of a region; none when it is invalid. At most 16 parents. -/
def State.resolve (s : State) (d rid : Nat) : Option Eff :=
  match (s.regtab.find? rid).bind (s.rcbChain d 17) with
  | none => none
  | some l =>
    let e := l.reverse.foldl Eff.laidOn { rid }
    if e.ranges && (l.map (fun x => field x 79 64)).head? = some rid then some e else none

/-- A core lies in a region's core set. -/
def Eff.hasCore (e : Eff) (c : Nat) : Bool :=
  let k := c % 96
  e.diemask.testBit (c / 96) && e.x0 ≤ k % 8 && k % 8 < e.x0 + e.w && e.y0 ≤ k / 8 && k / 8 < e.y0 + e.h

/-- The cores of a region. -/
def Eff.cores (e : Eff) : List Nat := (List.range Config.numCores).filter e.hasCore

/-- What a region has in use: blocks, granules, tiles, B-store granules (22 R378). -/
def State.useOf (s : State) (rid : Nat) : Nat × Nat × Nat × Nat :=
  s.blocks.foldl (fun u b =>
    match s.launch? b.2.launch with
    | some l => if b.2.saved.isNone && l.eff.chain.contains rid then
        (u.1 + 1, u.2.1 + b.2.grans, u.2.2.1 + b.2.tiles.length, u.2.2.2 + b.2.bgrans) else u
    | none => u) (0, 0, 0, 0)

/-- Do `n` blocks of some needs fit within every budget, beside what is in use? -/
def Eff.within (e : Eff) (use : Nat → Nat × Nat × Nat × Nat) (n grans tiles bgrans : Nat) : Bool :=
  e.budgets.all (fun b =>
    let u := use b.1
    u.1 + n ≤ b.2.1 && u.2.1 + n * grans ≤ b.2.2.1 && u.2.2.1 + n * tiles ≤ b.2.2.2.1 && u.2.2.2 + n * bgrans ≤ b.2.2.2.2)

/-! ## Placement (22 R380-R384) -/

/-- What one block needs. -/
structure Need where
  threads : Nat
  nv : Nat
  grans : Nat
  bgrans : Nat
  tiles : Nat
  bars : Nat
  batons : Nat
  deriving DecidableEq, Repr

/-- Groups of a block. -/
def Need.groups (n : Need) : Nat := (n.threads + 31) / 32

/-- The needs of a block of a launch. -/
def Launch.need (l : Launch) : Need :=
  { threads := l.field 378 368, nv := 8 * l.field 453 448, grans := l.field 466 458, bgrans := l.field 490 481, tiles := l.field 457 454,
    bars := l.field 475 472 + l.field 478 476 + l.field 480 479, batons := l.field 468 467 + 1 }

/-- Blocks of the grid. -/
def Launch.total (l : Launch) : Nat := l.field 335 320 * l.field 351 336 * l.field 367 352
/-- Neighbourhood or twin launch. -/
def Launch.isNbh (l : Launch) : Bool := l.desc.getLsbD 11
def Launch.isTwin (l : Launch) : Bool := l.desc.getLsbD 10
/-- The rectangle of one start: width, height, and members that the next start places. -/
def Launch.shape (l : Launch) : Nat × Nat × Nat :=
  if l.isNbh then (l.field 494 491, l.field 498 495, min (l.field 494 491 * l.field 498 495) (l.total - l.started))
  else if l.isTwin then (2, 1, 2) else (1, 1, 1)

/-- Dies that both the launch and its region allow (22 R370, R380). -/
def Launch.dies (l : Launch) : List Nat :=
  (List.range 4).filter (fun d => l.eff.diemask.testBit d && (if l.field 707 704 = 0 then d = l.die else (l.field 707 704).testBit d))

/-- The die of the next block or neighbourhood (22 R384). -/
def Launch.nextDie (l : Launch) : Option Nat :=
  let per := if l.isNbh && !l.isGraph then max 1 (l.field 494 491 * l.field 498 495) else 1
  l.dies[l.started / per % max 1 l.dies.length]?

/-- The lowest run of `n` free numbers below a bound. -/
def freeRun (used : Nat → Bool) (bound n : Nat) : Option Nat :=
  (List.range (bound + 1 - n)).find? (fun i => n ≤ bound && (List.range n).all (fun j => !used (i + j)))

/-- What a slice has free for a block: slots, registers, batons, and whether the block uses it already. -/
structure Room where
  slots : List Nat
  regs : Nat
  batons : List Nat
  used : Bool := false
  deriving DecidableEq, Repr

/-- One group assigned: the lowest slice that takes it, and its slot (22 R381). -/
def assignOne (need : Need) (pref : Option Nat) : Nat → List Room → Option ((Nat × Nat) × List Room)
  | _, [] => none
  | i, r :: rs =>
    if r.slots != [] && need.nv ≤ r.regs && (r.used || need.batons ≤ r.batons.length) then
      let k := match pref with | some k => if r.slots.contains k then k else r.slots.headD 0 | none => r.slots.headD 0
      some ((i, k), { r with slots := r.slots.filter (· != k), regs := r.regs - need.nv, used := true } :: rs)
    else (assignOne need pref (i + 1) rs).map (fun x => (x.1, r :: x.2))

/-- Every group assigned, in ascending index. -/
def assignAll (need : Need) (prefs : List Nat) : Nat → List Room → Option (List (Nat × Nat) × List Room)
  | 0, rs => some ([], rs)
  | n + 1, rs =>
    match assignAll need prefs n rs with
    | none => none
    | some (ps, rs) => (assignOne need prefs[n]? 0 rs).map (fun x => (ps ++ [x.1], x.2))

/-- Free room of a slice for a region; for an empty core, everything. -/
def State.room (s : State) (sl rid : Nat) (empty : Bool) : Room :=
  let x := s.slice sl
  let gs := if empty then [] else s.groups.filter (fun g => sliceOf g.1 == sl)
  { slots := (List.range 16).filter (fun k => !(gs.any (fun g => slotOf g.1 == k)))
    regs := 2048 - gs.foldl (fun n g => n + g.2.nv) 0
    batons := (List.range 4).filter (fun b => x.bound.find? b == some rid && !x.leaving.contains b && (empty || x.baton b == .free)) }

/-- A placement of one block. -/
structure Plan where
  core : Nat
  place : List (Nat × Nat)
  gran0 : Nat
  b0 : Nat
  tiles : List Nat
  bars : List Nat
  /-- batons of each slice used -/
  batons : List (Nat × List Nat)
  deriving DecidableEq, Repr

/-- Does a block fit a core (22 R380, R381; 04 R97)? -/
def State.fit (s : State) (e : Eff) (need : Need) (core : Nat) (prefs : List Nat) (empty : Bool) : Option Plan :=
  let c := s.core core
  let here := s.blocks.filter (fun b => b.2.core == core && b.2.saved.isNone)
  let groups := (s.groups.filter (fun g => coreOf g.1 == core)).length
  if !e.hasCore core then none
  else if !empty && (here.length ≥ 16 || groups + need.groups > 96) then none
  else
    let busy (k : Nat) : Bool := !empty && ((c.gran.find? k).isSome || c.inq.any (fun x => x.addr / 4096 = k))
    let tiles := (List.range 8).filter (fun k => empty || (c.tiles.find? k).isNone)
    let bars := (List.range 16).filter (fun k => empty || (c.slots.find? k).isNone)
    match freeRun busy 384 need.grans, freeRun (fun k => !empty && (c.bgran.find? k).isSome) 768 need.bgrans with
    | some g0, some b0 =>
      if tiles.length < need.tiles || bars.length < need.bars then none
      else match assignAll need prefs need.groups ((List.range 6).map (fun i => s.room (sliceKey core i) e.rid empty)) with
        | none => none
        | some (ps, rs) =>
          some { core, place := ps, gran0 := g0, b0, tiles := tiles.take need.tiles, bars := bars.take need.bars,
                 batons := (rs.zipIdx).filterMap (fun r => if r.1.used then some (r.2, r.1.batons.take need.batons) else none) }
    | _, _ => none

/-- The members of a rectangle that fits at a corner. -/
def State.fitRect (s : State) (e : Eff) (need : Need) (corner w h n : Nat) (twin empty : Bool) : Option (List Plan) :=
  let k := corner % 96
  if k % 8 + w > 8 || k / 8 + h > 12 then none
  else (List.range n).foldl (fun (r : Option (List Plan)) m =>
    match r with
    | none => none
    | some ps =>
      let prefs := if twin then (match ps with | p :: _ => p.place.map (·.2) | [] => []) else []
      (s.fit e need (corner + 8 * (m / w) + m % w) prefs empty).map (fun p => ps ++ [p])) (some [])

/-- The first corner of a die that fits, from the next-core pointer (22 R382). -/
def State.search (s : State) (e : Eff) (need : Need) (die w h n : Nat) (twin empty : Bool) : Option (Nat × List Plan) :=
  let p := (s.die die).nextCore % 96
  (List.range 96).findSome? (fun i => let c := 96 * die + (p + i) % 96; (s.fitRect e need c w h n twin empty).map (fun l => (c, l)))

/-! ## LAUNCH (22 R370-R372, 23 R407) -/

/-- Check 1 of a LAUNCH or GRAPH descriptor (22 R372), its reserved fields among them: they give LDESC (log 61). -/
def descOk (graph : Bool) (d : Nat) : Bool :=
  let f := field d
  let n := d.testBit 11
  f 1023 708 == 0 && f 511 507 == 0 && f 447 416 == 0 && f 383 379 == 0 && f 15 12 == 0 && f 703 640 % 8 == 0
    && f 475 472 ≤ 8 && f 471 469 ≤ 4 && f 319 256 % 256 == 0 && f 415 384 % 256 == 0
    && if graph then
        1 ≤ f 335 320 && f 335 320 ≤ 255 && f 478 476 == 0 && f 480 479 == 0 && f 457 454 == 0 && f 490 481 == 0 && f 575 512 != 0
          && (f 415 384 == 0 || 1 ≤ f 351 336)
      else
        f 480 479 ≤ 2 && f 478 476 ≤ 4 && (n || f 478 476 == 0) && f 466 458 ≤ 384 && f 457 454 ≤ 8 && f 490 481 ≤ 768
          && 1 ≤ f 453 448 && f 453 448 ≤ 32 && 1 ≤ f 378 368 && f 378 368 ≤ 1024
          && 1 ≤ f 335 320 && 1 ≤ f 351 336 && 1 ≤ f 367 352 && f 335 320 * f 351 336 * f 367 352 ≤ 0xFFFFFFFF
          && (!n || (1 ≤ f 494 491 && f 494 491 ≤ 8 && 1 ≤ f 498 495 && f 498 495 ≤ 12 && f 494 491 * f 498 495 ≤ 24))
          && !(n && d.testBit 10) && (!d.testBit 10 || 1 ≤ f 506 499) && f 127 64 % 64 == 0

/-- The write set that WSET names: pages, or none where the list cannot be read or its count is out of range. -/
def State.writeSet (s : State) (die : Nat) (root a : DWord) : Option (List (Nat × Nat)) :=
  if a = 0 then some []
  else match (s.virtRead die root a 8).map leNat with
    | none => none
    | some n =>
      if n < 1 || 4096 < n then none
      else (s.virtRead die root (a + 8) (8 * n)).map (fun bs =>
        (List.range n).map (fun i => let e := leNat ((bs.drop (8 * i)).take 8); (e % 2 ^ 48 / 4096, e % 4096 + 1)))

/-- The graph that runs on a die with a node array, for a process. -/
def State.graphAt (s : State) (die : Nat) (root a : DWord) : Option Nat :=
  (List.find? (fun (x : Nat × Graph) => x.2.array == a &&
    match s.launch? x.2.launch with | some l => l.die == die && l.root == root | none => false) s.graphs).map (·.1)

/-- The launch of a descriptor. -/
def State.launchOf (_ : State) (d q : Nat) (c : Cmd) (e : Eff) (graph : Bool) : Launch :=
  { die := d, queue := q, ticket := c.ticket, root := c.root, desc := c.entry, eff := e, entry := c.va,
    tgen := BitVec.ofNat 32 (field c.entry.toNat 63 32), isGraph := graph }

/-- A launch accepted may bring its cores' tolerance below the wake latency of a state that one of their units is in (25 R448). -/
def State.wakeUnits (s : State) (e : Eff) : State :=
  s.addDue (((List.range Config.numCores).filter (fun c => e.hasCore c && ((s.core c).idle != .on ||
    (List.range 6).any (fun i => (s.slice (sliceKey c i)).gated)))).map (fun c => Work.unit c))

/-- LAUNCH: the checks in order; then the grid is Front's to place. -/
def execLaunch (d q : Nat) (s : State) : Host.Outcome State Fault Refusal :=
  .next (match s.command? d q 1 with
    | none => s
    | some c =>
      let x := c.entry.toNat
      let reject (k : Nat) : State := s.completeCmd d q c 2 k 0
      match descOk false x, s.writeSet d c.root (BitVec.ofNat 64 (field x 639 576)) with
      | false, _ => reject Cause.ldesc
      | true, none => reject Cause.ldesc
      | true, some ws =>
        if field x 575 512 ≠ 0 && (s.graphAt d c.root (BitVec.ofNat 64 (field x 575 512))).isNone then reject Cause.ldesc
        else match s.resolve d (field x 31 16) with
          | none => reject Cause.region
          | some e =>
            let l := { s.launchOf d q c e false with wset := ws }
            let (w, h, n) := l.shape
            let n := if l.isNbh then w * h else n
            if !(l.dies.any (fun k => (s.search e l.need k w h n l.isTwin true).isSome)) then reject Cause.nofit
            else if l.field 480 479 > 0 && !(e.within (fun _ => (0, 0, 0, 0)) (if l.isTwin then 2 * l.total else l.total) l.need.grans l.need.tiles l.need.bgrans) then
              reject Cause.gridbar
            else
              let s := (s.putLaunch c.id l).wakeUnits e
              (s.putQueue d q { s.queue d q with cur := none }).addDue [.consume d q, .start c.id])

/-! ## BLOCK_START (22 R375, R382-R385, 01 R14-R18, R40) -/

/-- A buffer record of a stack area (22 R370, R371). -/
def stackRecord (base bytes : Nat) : BitVec 128 :=
  BitVec.ofNat 64 base ++ (8 : BitVec 24) ++ BitVec.ofNat 32 (bytes / 8) ++ (0 : BitVec 3) ++ (3 : BitVec 2) ++ (1 : BitVec 1) ++ (0 : BitVec 2)

/-- A group as it stands at its first instruction (01 R18); lanes beyond the thread count have exited, and hold registers as any lane (01 R14). `s2`: its neighbourhood position. -/
def Group.start (blk idx nv : Nat) (threads : Nat) (entry : DWord) (lin s2 groups : Nat) (arg stk : BitVec 128) (tgen : Word) : Group :=
  let n := min 32 (threads - 32 * idx)
  let lanes := List.range n
  let g : Group := { blk, idx, nv, tgen }
  let us := List.filter (fun (x : Nat × Nat) => x.2 ≠ 0) [(0, lin), (1, idx), (2, s2), (3, groups)]
  let g := { g with
    lanes := lanes.map (fun l => (l, ({ pc := entry } : Lane)))
    v := ((List.range 32).filter (fun l => 32 * idx + l ≠ 0)).map (fun l => (l, ⟨BitVec.ofNat 32 (32 * idx + l), none⟩))
    u := (List.range 32).flatMap (fun l => us.map (fun (x : Nat × Nat) => (64 * l + x.1, (⟨BitVec.ofNat 32 x.2, none⟩ : Val)))) }
  ((g.setM 0 (BitVec.ofNat 32 (2 ^ n - 1))).setB 0 arg).setB 15 stk

/-- A block takes its resources on its core: granules (zero and full), B-store (unpredictable), tiles (zero), barrier slots. Release records of what its
granules held before are gone (log 58). -/
def State.takeCore (s : State) (blk rid : Nat) (p : Plan) (need : Need) : State :=
  let c := s.core p.core
  let gr : Gran := { blk, region := rid }
  let give (m : SMap Gran) (first n : Nat) : SMap Gran := (List.range n).foldl (fun m k => m.put (first + k) gr) m
  let off := p.core * Config.sramBytes + 4096 * p.gran0
  let boff := p.core * Config.bstBytes + 4096 * p.b0
  let wild : Mem := (List.range (4096 * need.bgrans)).filterMap (fun i =>
    let x := Config.byte s.free i; if x = Mem.blank then none else some (boff + i, x))
  let c := { c with
    gran := give c.gran p.gran0 need.grans, bgran := give c.bgran p.b0 need.bgrans
    tiles := p.tiles.foldl (fun m k => m.put k blk) c.tiles, slots := p.bars.foldl (fun m k => m.put k blk) c.slots
    acc := c.acc.filter (fun x => !p.tiles.contains (x.1 / 16384)), icache := [] }
  let first := Config.sramPlace + off
  let last := first + 4096 * need.grans
  { s.putCore p.core c with
    sram := s.sram.clear off (4096 * need.grans)
    emptyw := s.emptyw.filter (fun w => w < first || last ≤ w)
    rels := s.rels.filter (fun x => x.1 < first || last ≤ x.1)
    bck := s.bck.filter (fun x => x.1 < boff || boff + 4096 * need.bgrans ≤ x.1)
    bst := (s.bst.filter (fun x => x.1 < boff)) ++ wild ++ s.bst.filter (fun x => boff + 4096 * need.bgrans ≤ x.1) }

/-- The block's batons on its slices: held by its lowest groups there, the rest unheld (01 R17). -/
def State.giveBatons (s : State) (blk : Nat) (p : Plan) : State :=
  p.batons.foldl (fun s b =>
    let sl := sliceKey p.core b.1
    let mine := p.place.filter (fun x => x.1 = b.1)
    b.2.zipIdx.foldl (fun s n =>
      match mine[n.2]? with
      | some (_, slot) =>
        ({ s with groups := s.groups.update (16 * sl + slot) (fun g => { g with baton := some n.1 }) } : State).setBaton sl n.1 (.held blk slot)
      | none => s.setBaton sl n.1 (.unheld blk)) s) s

/-- Wake latencies in ticks: of CGATE, 200 ns, and of COFF, 5 µs (25 R447). -/
def CoreIdle.latency : CoreIdle → Nat
  | .on => 0
  | .cgate => 2800
  | .coff => 70000

/-- The slices of a core brought to this tick, and those that a block will use running: a core whose clock was stopped goes on, after its wake latency, with
the cycle at which it stopped (01 R35, 25 R448). -/
def State.wakeCore (s : State) (core : Nat) (used : Nat → Bool) : State :=
  let late := (s.core core).idle.latency
  let s := (List.range 6).foldl (fun (s : State) i =>
    let x := s.idled (sliceKey core i) s.now
    let x : Slice := if late = 0 then x else { x with tick := max x.tick (s.now + late) }
    s.putSlice (sliceKey core i) (if used i then { x with gated := false } else x)) s
  s.putCore core { s.core core with idle := .on }

/-- A block placed and started: `mk` gives its groups. -/
def State.startBlock (s : State) (blk : Nat) (b : Block) (p : Plan) (need : Need) (mk : Nat → Group) : State :=
  let s := (s.takeCore blk b.region p need).tickFree
  let s := { s with blocks := s.blocks.put blk { b with
    core := p.core, gran0 := p.gran0, grans := need.grans, b0 := p.b0, bgrans := need.bgrans, tiles := p.tiles, place := p.place, batons := need.batons,
    bats := p.batons } }
  let s := s.wakeCore p.core (fun i => p.place.any (fun x => x.1 = i))
  let s := p.place.zipIdx.foldl (fun s x => s.putGroup (groupKey p.core x.1.1 x.1.2) (mk x.2)) s
  s.giveBatons blk p

/-- Has the last block of every earlier LAUNCH of a launch's queue started (22 R375)? -/
def State.afterLaunches (s : State) (id : Nat) (l : Launch) : Bool :=
  !(s.launches.any (fun y => y.1 < id && !y.2.isGraph && y.2.die == l.die && y.2.queue == l.queue && y.2.started < y.2.total))

/-- May Front start the launch's next block: its turn in its queue, ORDER, and the rate of its die (22 R375, R385)? -/
def State.startable (s : State) (id : Nat) (l : Launch) : Bool :=
  !l.isGraph && !l.rolling && l.started < l.total && (s.susp.find? l.eff.rid).isNone && s.afterLaunches id l
    && (!l.desc.getLsbD 8 || ((s.queue l.die l.queue).live.map (·.id)).head? == some id)
    && (match l.nextDie with | some d => (s.die d).frontAt ≤ s.now | none => false)

/-- Where the launch's next block or neighbourhood goes. -/
def State.placement (s : State) (l : Launch) : Option (Nat × Nat × List Plan) :=
  let (w, h, n) := l.shape
  match l.nextDie with
  | none => none
  | some d =>
    if !(l.eff.within s.useOf n l.need.grans l.need.tiles l.need.bgrans) then none
    else (s.search l.eff l.need d w h n l.isTwin false).map (fun r => (d, r))

/-- The lowest free stack area of a graph: none needed, or none free. -/
def Graph.freeArea (g : Graph) (l : Launch) : Option (Option Nat) :=
  if l.field 415 384 = 0 then some none
  else ((List.range (l.field 351 336)).find? (fun a => !g.areas.contains a)).map some

/-- Needs of a node's group. -/
def Node.need (n : Node) (l : Launch) (threads : Nat) : Need :=
  { threads, nv := 8 * n.fld 202 197, grans := n.fld 196 188, bgrans := 0, tiles := 0, bars := l.field 475 472, batons := 1 }

/-- Has a graph a batch that Front can place now: a queue with COALESCE records or an expired timer (07 R172, R173)? -/
def State.nodeReady (s : State) (id : Nat) (l : Launch) : Bool :=
  l.isGraph && !l.rolling && (s.susp.find? l.eff.rid).isNone && s.afterLaunches id l && (!l.desc.getLsbD 8 || ((s.queue l.die l.queue).live.map (·.id)).head? == some id)
    && match s.graphs.find? id, l.nextDie with
      | some g, some d => (s.die d).frontAt ≤ s.now && (g.freeArea l).isSome && g.nodes.any (fun n => n.queues.any (fun q =>
          q.recs != [] && (n.fld 208 203 ≤ q.recs.length || q.expired) &&
            (let need := n.need l (min q.recs.length (n.fld 208 203))
             l.eff.within s.useOf 1 need.grans 0 0 && (s.search l.eff need d 1 1 1 false false).isSome)))
      | _, _ => false

/-- Another launch or graph of the same die goes first: a higher priority, or the same and a lower queue (22 R375). -/
def State.outranked (s : State) (id : Nat) (l : Launch) : Bool :=
  s.launches.any (fun y => y.1 != id && y.2.nextDie == l.nextDie
    && (y.2.eff.prio > l.eff.prio || (y.2.eff.prio == l.eff.prio && y.2.queue < l.queue))
    && ((s.startable y.1 y.2 && (s.placement y.2).isSome) || s.nodeReady y.1 y.2))

/-- The stack record of a group of a launch. -/
def Launch.stack (l : Launch) (need : Need) (lin idx : Nat) : BitVec 128 :=
  stackRecord (l.field 319 256 + (lin * need.groups + idx) * l.field 415 384) (l.field 415 384)

/-- BLOCK_START: the next block, neighbourhood or twin pair of a launch placed and started. -/
def execBlockStart (id : Nat) (s : State) : Host.Outcome State Fault Refusal :=
  .next (match s.launch? id with
    | none => s
    | some l =>
      if !s.startable id l || s.outranked id l then s
      else match s.placement l with
        | none => s
        | some (d, corner, plans) =>
          let need := l.need
          let w := l.field 494 491
          let ids := (List.range plans.length).map (s.uid + ·)
          let pairs := plans.length + s.uid
          let count := if l.isTwin then 1 else plans.length
          let graph := if l.field 575 512 = 0 then none else s.graphAt l.die l.root (BitVec.ofNat 64 (l.field 575 512))
          let s := { s with uid := pairs + need.groups }
          let s := s.putLaunch id { l with started := l.started + count }
          let x := s.die d
          let s := s.putDie d { x with nextCore := 96 * d + (corner + 1) % 96, frontAt := s.now + 20 }
          let s := plans.zipIdx.foldl (fun (s : State) p =>
            let blk := ids.getD p.2 0
            let lin := if l.isTwin then l.started else l.started + p.2
            let b : Block := {
              launch := id, lin, core := p.1.core, region := l.eff.rid, threads := need.threads, groups := need.groups, nv := need.nv
              nbh := if l.isNbh then some (p.2 % w, p.2 / w, w, l.field 498 495) else none
              members := if l.isNbh then plans.map (·.core) else [], mblocks := if l.isNbh then ids else []
              nbhId := if l.isNbh then ids.headD 0 else blk
              twin := if l.isTwin then some (pairs, p.2 == 0) else none }
            s.startBlock blk b p.1 need (fun i =>
              { Group.start blk i need.nv need.threads (BitVec.ofNat 64 (l.field 127 64)) lin
                  (if l.isNbh then p.2 % w + 256 * (p.2 / w) else 0) need.groups (l.desc.extractLsb' 128 128) (l.stack need lin i) l.tgen with
                graph, twin := if l.isTwin then some (pairs + i, p.2 == 0) else none })) s
          -- a twin pair for each group
          let s := if !l.isTwin then s else (List.range need.groups).foldl (fun (s : State) i =>
            match plans with
            | [a, b] =>
              (match a.place[i]?, b.place[i]? with
               | some x, some y =>
                 let lead := groupKey a.core x.1 x.2
                 let trail := groupKey b.core y.1 y.2
                 let tw : Twin := { lead, trail, slack := l.field 506 499, ckptL := s.group? lead, ckptT := s.group? trail }
                 { s with twins := s.twins.put (pairs + i) tw }
               | _, _ => s)
            | _ => s) s
          s.wakeFront)

/-! ## Release and completion (11 R259, 22 R374) -/

/-- Nothing of a block is outstanding: copies, jobs, tile loads, requests, entries, notices, records (11 R259, 22 R374). -/
def State.retired (s : State) (blk : Nat) (b : Block) : Bool :=
  let c := s.core b.core
  !(c.tags.any (fun t => t.2.blk == blk)) && !(c.jobs.any (fun j => j.blk == blk)) && !(c.bslds.any (fun x => x.blk == blk))
    && !(c.reqs.any (fun r => r.blk == blk)) && !(s.cores.any (fun y => y.2.inq.any (fun e => e.blk == blk)))
    && !(s.notices.any (fun n => n.blk == blk))
    && !(s.emitted.any (fun e => b.place.any (fun p => groupKey b.core p.1 p.2 == e.key)))

/-- A block's granules, B-store, tiles and barrier slots free again. -/
def State.freeCore (s : State) (blk core : Nat) : State :=
  let c := s.core core
  s.putCore core { c with
    gran := c.gran.filter (fun x => x.2.blk != blk), bgran := c.bgran.filter (fun x => x.2.blk != blk)
    tiles := c.tiles.filter (fun x => x.2 != blk), slots := c.slots.filter (fun x => x.2 != blk), wq := c.wq.filter (fun x => x.blk != blk)
    emptied := s.now }

/-- The pairs of which a group is resident or saved. -/
def State.keepTwins (s : State) : State :=
  { s with twins := s.twins.filter (fun t => s.groups.any (fun g => g.2.twin.any (fun p => p.1 == t.1))
      || s.blocks.any (fun b => b.2.sgroups.any (fun g => g.twin.any (fun p => p.1 == t.1)))) }

/-- BLOCK_RELEASE: an exited block's resources are released once everything of it has retired. -/
def execBlockRelease (blk : Nat) (s : State) : Host.Outcome State Fault Refusal :=
  .next (match s.block? blk with
    | none => s
    | some b =>
      if !b.ended || !s.retired blk b then s
      else
        let s := s.freeCore blk b.core
        let s := ({ s with blocks := s.blocks.del blk } : State).keepTwins
        (s.addDue ((match b.graph with | some gr => [Work.vane (s.graphDie gr)] | none => []) ++ [.complete b.launch])).wakeFront)

/-- The held command of a launch. -/
def State.cmdOf (s : State) (id : Nat) (l : Launch) : Cmd :=
  match (s.queue l.die l.queue).live.find? (fun c => c.id = id) with
  | some c => c
  | none => { id, ticket := l.ticket, entry := l.desc, va := l.entry, root := l.root }

/-- A launch or graph ends: its completion word, its interrupt (22 R374, R376, 24 R428), and its snapshots' frames. -/
def State.endLaunch (s : State) (id : Nat) (l : Launch) (status cause : Nat) : State :=
  let s : State := { s with launches := s.launches.del id, pool := s.pool + l.snaps.length }
  let s := s.completeCmd l.die l.queue { s.cmdOf id l with entry := l.desc } status cause l.replays
  if l.desc.getLsbD 9 && l.eff.cirq % 2 ^ 11 ≠ 0 then
    s.msi (imsicAddr false 0 (l.eff.cirq / 2 ^ 11)) (l.eff.cirq % 2 ^ 11) else s

/-- LAUNCH_COMPLETE: every block has exited, and everything of them has retired. -/
def execLaunchComplete (id : Nat) (s : State) : Host.Outcome State Fault Refusal :=
  .next (match s.launch? id with
    | none => s
    | some l =>
      if l.isGraph || l.rolling || l.started < l.total || s.blocks.any (fun b => b.2.launch == id) then s
      else s.endLaunch id l 1 0)

/-! ## The leader (22 R386-R388) -/

/-- EXPIRY of a lease word. -/
def expiry (w : DWord) : Nat := field w.toNat 47 0
/-- Is a time past an expiry? -/
def past (t e : Nat) : Bool := (t % 2 ^ 48 + 2 ^ 48 - e) % 2 ^ 48 < 2 ^ 47

/-- Does a die's firmware core act as leader: before EXPIRY - D of the word that its last successful exchange wrote? -/
def State.leads (s : State) (d : Nat) : Bool :=
  match (s.die d).lead with
  | some w => !(s.die d).fwstop && !past (timeAt d s.now) ((expiry w + 2 ^ 48 - 14) % 2 ^ 48)
  | none => false

/-- The die whose firmware core acts as leader. -/
def State.leader? (s : State) : Option Nat := (List.range 4).find? s.leads

/-! ## Region requests of the mailbox (22 R389, R390, 24 R429, R430) -/

/-- A request of a mailbox word. -/
def Die.req (x : Die) (n : Nat) : DWord := SMap.get 0 x.fwreq n
/-- Code and region of the request. -/
def Die.code (x : Die) : Nat := field (x.req 0).toNat 7 0
def Die.rid (x : Die) : Nat := field (x.req 0).toNat 31 16

/-- Nonzero bits outside the request's words: FWREQ0 beside code and region, and words beyond its operands (24 R429). -/
def Die.badWords (x : Die) (operands : Nat) (usesRegion : Bool) : Bool :=
  field (x.req 0).toNat 15 8 != 0 || field (x.req 0).toNat 63 32 != 0 || (!usesRegion && x.rid != 0) ||
    (List.range 8).any (fun i => i > operands && x.req i != 0)

/-- A mailbox request completes: BUSY clears, STATUS is written, and the doorbell counts an event. -/
def State.doorbell (s : State) (d : Nat) (status : BitVec 8) : State :=
  let x := s.die d
  (s.putDie d { x with fwbusy := false, fwstatus := status }).dieEvent d 5

/-- A mailbox request of the leader served: at hand, with its code and words in order, while a firmware core leads (22 R388, 24 R429). -/
def State.served (s : State) (d code operands : Nat) (usesRegion : Bool) (f : Die → State → State × BitVec 8) : State :=
  let x := s.die d
  if !x.fwbusy || x.fwstop || x.code ≠ code || x.badWords operands usesRegion || s.leader?.isNone then s
  else let r := f x s; r.1.doorbell d r.2

/-- The rows that a region is given on a slice: each the first disabled one at or after its target (22 R389). -/
def admitRows (ceil r : Nat) (bs : List Nat) : Nat → SMap Word → SMap Word
  | 0, tab => tab
  | k + 1, tab =>
    let i := r - (k + 1)
    let t := 64 * i / r
    let row := ((List.range 64).map (fun j => (t + j) % 64)).find? (fun j => !(SMap.get 0 tab j).getLsbD 7)
    admitRows ceil r bs k (match row with
      | some j => tab.set 0 j (BitVec.ofNat 32 (0x80 + 4 * ceil + bs.getD (i % max 1 bs.length) 0))
      | none => tab)

/-- A region withdrawn from its slices: its rows are disabled, and its free batons unbound; the others are to be unbound when they are free (22 R390). -/
def State.withdraw (s : State) (rid : Nat) : State :=
  { s with
    admitted := s.admitted.del rid
    slices := s.slices.map (fun x =>
      let y := x.2
      let mine (b : Nat) : Bool := y.bound.find? b == some rid
      (x.1, { y with
        slottab := mapOf 0 (y.slottab.map (fun r => (r.1, if mine (field r.2.toNat 1 0) then r.2 &&& 0x7F else r.2)))
        leaving := (List.range 4).filter (fun b => y.leaving.contains b || (mine b && y.baton b != .free))
        bound := y.bound.filter (fun b => !(b.2 == rid && y.baton b.1 == .free)) })) }

/-- A region admitted on every slice of its core set; none when a slice refuses it (22 R389). -/
def State.letIn (s : State) (e : Eff) : Option State :=
  let s : State := { s with admitted := s.admitted.put e.rid e }
  if e.share = 0 || e.nbat = 0 then some s
  else
    let sls := e.cores.flatMap (fun c => (List.range 6).map (sliceKey c))
    let free (x : Slice) : List Nat := (List.range 4).filter (fun b => (x.bound.find? b).isNone)
    let disabled (x : Slice) : Nat := 64 - (x.slottab.filter (fun r => r.2.getLsbD 7)).length
    if !(sls.all (fun sl => e.share ≤ disabled (s.slice sl) && e.nbat ≤ (free (s.slice sl)).length)) then none
    else some (sls.foldl (fun s sl =>
      let x := s.slice sl
      let bs := (free x).take e.nbat
      s.putSlice sl { x with
        slottab := admitRows e.ceil e.share bs e.share x.slottab, bound := bs.foldl (fun m b => m.put b e.rid) x.bound }) s)

/-- SETREGION: maps the identifier and admits the region; refused without a region address space, for an invalid region, or by a slice. -/
def execSetregion (d : Nat) (s : State) : Host.Outcome State Fault Refusal :=
  .next (s.served d 1 1 true (fun x s =>
    if s.rspace.isNone then (s, 2)
    else
      let t : State := { s with regtab := s.regtab.put x.rid (x.req 1) }
      match t.resolve d x.rid with
      | none => (s, 2)
      | some e =>
        match (t.withdraw x.rid).letIn e with
        | none => (s, 2)
        | some u => (u.wakeFront, 0)))

/-- CLEARREGION: withdraws a region that has no live launch. -/
def execClearregion (d : Nat) (s : State) : Host.Outcome State Fault Refusal :=
  .next (s.served d 2 0 true (fun x s =>
    if s.launches.any (fun l => l.2.eff.rid == x.rid) then (s, 2)
    else ({ s.withdraw x.rid with regtab := s.regtab.del x.rid }, 0)))

/-- SETRSPACE: the root of the region address space; refused while any launch is live. -/
def execSetrspace (d : Nat) (s : State) : Host.Outcome State Fault Refusal :=
  .next (s.served d 5 1 false (fun x s =>
    if s.launches != [] then (s, 2) else ({ s with rspace := some (x.req 1) }, 0)))

/-- The operands of each request of the mailbox. -/
def mailOperands (code : Nat) : Option (Nat × Bool) :=
  match code with
  | 1 => some (1, true) | 2 => some (0, true) | 3 => some (2, true) | 4 => some (1, true) | 5 => some (1, false) | _ => none

/-- BADREQ: an unknown code, or nonzero bits outside the request's words. -/
def execBadreq (d : Nat) (s : State) : Host.Outcome State Fault Refusal :=
  let x := s.die d
  .next (if !x.fwbusy || x.fwstop then s
    else match mailOperands x.code with
      | none => s.doorbell d 1
      | some (n, r) => if x.badWords n r then s.doorbell d 1 else s)

/-! ## The lease (22 R386, R387) -/

/-- A lease word. -/
def leaseWord (holder epoch t : Nat) : DWord := BitVec.ofNat 2 holder ++ BitVec.ofNat 14 epoch ++ BitVec.ofNat 48 t

/-- The exchange of the lease word: succeeds when the word is still what was read. -/
def State.exchange (s : State) (d : Nat) (old new : DWord) : State :=
  let x := s.die d
  if s.lease = old then { s.putDie d { x with lead := some new, yielding := false } with lease := new }
  else s.putDie d { x with lead := none, yielding := false }

/-- LEASE_RENEW: the leader exchanges the word it last wrote for one that ends 2 ms from now; a failure ends its lead. -/
def execLeaseRenew (d : Nat) (s : State) : Host.Outcome State Fault Refusal :=
  .next (match (s.die d).lead with
    | some w =>
      if (s.die d).yielding || (s.die d).fwstop then s
      else s.exchange d w (leaseWord d (field w.toNat 61 48) (timeAt d s.now + 28000000))
    | none => s)

/-- LEASE_POLL: a follower takes a lapsed lease over. -/
def execLeasePoll (d : Nat) (s : State) : Host.Outcome State Fault Refusal :=
  .next (if (s.die d).lead.isSome || (s.die d).fwstop then s
    else if past (timeAt d s.now + 2 ^ 48 - 14) (expiry s.lease) then
      s.exchange d s.lease (leaseWord d (field s.lease.toNat 61 48 + 1) (timeAt d s.now + 28000000))
    else s)

/-- LEADER_LAPSE: the leader stops acting once TIME reaches EXPIRY - D. -/
def execLeaderLapse (d : Nat) (s : State) : Host.Outcome State Fault Refusal :=
  .next (match (s.die d).lead with
    | some w => if past (timeAt d s.now) ((expiry w + 2 ^ 48 - 14) % 2 ^ 48) then s.putDie d { s.die d with lead := none } else s
    | none => s)

/-- LEASE_HANDOVER: a leader that plans to yield writes its successor's die beside the lease, and stops renewing. -/
def execLeaseHandover (d succ : Nat) (s : State) : Host.Outcome State Fault Refusal :=
  .next (match (s.die d).lead with
    | some w =>
      if (s.die d).fwstop then s
      else { s.putDie d { s.die d with yielding := true } with handover := BitVec.ofNat 64 (2 ^ 63 + succ % 4 * 2 ^ 61 + field w.toNat 61 48) }
    | none => s)

end Sys2Proof.Machine
end

