-- ==== Sys2Proof/Machine/Vane.lean ====
section
/-! DEFINITION. Vane: graphs, bins, joins, commuting stages, node groups, status (spec 07, 22 R371). -/

namespace Sys2Proof.Machine

open Sys2Proof

/-! ## GRAPH (07 R166, R167) -/

/-- The check of a control part: reserved fields, then the limits of its map. -/
def nodeCheck (d : Nat) (count : Nat) : Option Nat :=
  let f := field d
  let ns := f 221 218
  if f 187 0 ≠ 0 then some Cause.illegal
  else if 32 ≤ f 271 256 && f 271 256 ≤ 4096 && f 271 256 % 32 == 0 && f 383 320 % 256 == 0 && (f 383 320 != 0 || f 287 272 == 0)
      && f 223 222 != 3 && (f 223 222 == 0 || (2 ≤ f 231 224 && f 231 224 ≤ 8)) && (ns == 0 || (2 ≤ ns && ns ≤ 8))
      && 2 ≤ f 212 209 && f 212 209 ≤ 10 && 1 ≤ f 208 203 && f 208 203 ≤ 32 && 1 ≤ f 202 197 && f 202 197 ≤ 32
      && (9 + f 217 213 + 7) / 8 ≤ f 202 197 && f 217 213 ≤ 15 && f 196 188 ≤ 384
      && (ns == 0 || f 447 384 % 64 == 0) && (ns != 0 || f 511 448 % 64 == 0)
      && (ns == 0 || f 239 232 == 0xFF || f 239 232 < count) then none
  else some Cause.nodedesc

/-- A node of a new graph: its control part and stage table read and checked. -/
def State.readNode (s : State) (die : Nat) (root array : DWord) (count n : Nat) : Except Nat Node :=
  match (s.virtRead die root (array + BitVec.ofNat 64 (128 * n)) 64).map leNat with
  | none => .error Cause.nodedesc
  | some d =>
    match nodeCheck d count with
    | some c => .error c
    | none =>
      let ns := field d 221 218
      let seed := field d 319 288
      let mk (st : List DWord) : Node :=
        { desc := BitVec.ofNat 512 d, stages := st, queues := List.replicate (max 1 ns) {}, gen := BitVec.ofNat 32 (if seed = 0 then 0x9E3779B9 else seed) }
      if ns = 0 then .ok (mk [])
      else match s.virtRead die root (BitVec.ofNat 64 (field d 447 384)) (8 * ns) with
        | none => .error Cause.nodedesc
        | some bs =>
          let st := (List.range ns).map (fun i => BitVec.ofNat 64 (leNat ((bs.drop (8 * i)).take 8)))
          if st.all (fun a => a.toNat % 64 == 0) then .ok (mk st) else .error Cause.nodedesc

/-- Every node of a new graph, in ascending number; the first failure decides. -/
def State.readNodes (s : State) (die : Nat) (root array : DWord) (count : Nat) : Except Nat (List Node) :=
  (List.range count).foldl (fun r n =>
    match r with
    | .error c => .error c
    | .ok l => match s.readNode die root array count n with | .error c => .error c | .ok x => .ok (l ++ [x])) (.ok [])

/-- Record slots that a node counts. -/
def Node.slots (n : Node) : Nat := n.cap * n.queues.length

/-- Record slots held by the graphs that run on a die. -/
def State.slotsUsed (s : State) (die : Nat) : Nat :=
  s.graphs.foldl (fun u g => if s.graphDie g.1 = die then u + (g.2.nodes.map Node.slots).foldl (· + ·) 0 else u) 0

/-- The least that a group of a graph needs (log 73). -/
def Launch.nodeNeed (l : Launch) : Need := { threads := 1, nv := 8, grans := 0, bgrans := 0, tiles := 0, bars := l.field 475 472, batons := 1 }

/-- GRAPH: the checks in order; then the graph runs. -/
def execGraph (d q : Nat) (s : State) : Host.Outcome State Fault Refusal :=
  .next (match s.command? d q 2 with
    | none => s
    | some c =>
      let x := c.entry.toNat
      let reject (k : Nat) : State := s.completeCmd d q c 2 k 0
      match descOk true x, s.writeSet d c.root (BitVec.ofNat 64 (field x 639 576)) with
      | false, _ => reject Cause.ldesc
      | true, none => reject Cause.ldesc
      | true, some ws =>
        match s.resolve d (field x 31 16) with
        | none => reject Cause.region
        | some e =>
          let l := s.launchOf d q c e true
          if !(l.dies.any (fun k => (s.search e l.nodeNeed k 1 1 1 false true).isSome)) then reject Cause.nofit
          else
          let array := BitVec.ofNat 64 (field x 575 512)
          match s.readNodes d c.root array (field x 335 320) with
          | .error k => reject k
          | .ok nodes =>
            if s.slotsUsed d + (nodes.map Node.slots).foldl (· + ·) 0 > 32768 then reject Cause.recslots
            else
              let s := (s.putLaunch c.id { l with wset := ws }).wakeUnits e
              let s := { s with graphs := s.graphs.put c.id { launch := c.id, array, nodes } }
              (s.putQueue d q { s.queue d q with cur := none }).addDue [.consume d q])

/-! ## Arrivals that wait (07 R171, R177) -/

/-- Arrivals that wait at Vane tried again, oldest first. -/
def State.retryWaiting (s : State) (gr : Nat) : State :=
  match s.graphs.find? gr with
  | none => s
  | some g =>
    g.waiting.foldl (fun s w =>
      s.onGraph gr (fun h => match w.2.1 with
        | some q => h.enqueue w.1 q w.2.2
        | none => h.arrive (s.joinsUsed (s.graphDie gr) ≥ 4096) w.1 w.2.2)) (s.onGraph gr (fun h => { h with waiting := [] }))

/-! ## RECORD_ARRIVAL, VANE_DONE, VANE_TAKE (07 R170, R174-R179) -/

/-- Has a core cycle ended in every slice that issues? -/
def State.cycleOver (s : State) (c : Nat) : Bool := s.groups.all (fun g => c < (s.slice (sliceOf g.1)).tick / 10)

/-- The earliest emission and the earliest TAKE or DONE on their way to a die's Vane, of core cycles that have ended. -/
def State.vaneHead (s : State) (die : Nat) : Option Emitted × Option VOp :=
  (earliest Emitted.order (s.emitted.filter (fun e => s.graphDie e.graph = die && s.cycleOver e.cyc)),
   earliest VOp.order (s.vops.filter (fun o => s.graphDie o.graph = die && s.cycleOver o.cyc)))

/-- The core cycle of the next event of a die's Vane. -/
def State.vaneCycle (s : State) (die : Nat) : Option Nat :=
  match s.vaneHead die with
  | (some e, some o) => some (min e.cyc o.cyc)
  | (some e, none) => some e.cyc
  | (none, some o) => some o.cyc
  | _ => none

/-- The next event of a die's Vane is an emission. -/
def State.nextEmitted (s : State) (die : Nat) : Option Emitted :=
  match s.vaneHead die with
  | (some e, some o) => if e.order ≤ o.order then some e else none
  | (some e, none) => some e
  | _ => none
/-- The next event of a die's Vane is a TAKE or DONE. -/
def State.nextVop (s : State) (die : Nat) : Option VOp :=
  match s.vaneHead die with
  | (some e, some o) => if e.order ≤ o.order then none else some o
  | (none, some o) => some o
  | _ => none

/-- RECORD_ARRIVAL: the earliest record on its way reaches its node. -/
def execRecordArrival (die : Nat) (s : State) : Host.Outcome State Fault Refusal :=
  .next (match s.nextEmitted die with
    | none => s
    | some e =>
      let s := { s with emitted := s.emitted.erase e }
      s.onGraph e.graph (fun g => g.arrive (s.joinsUsed die ≥ 4096) e.record.node e.record))

/-- VANE_DONE: the earliest event is a DONE, and its record retires or goes on. -/
def execVaneDone (die : Nat) (s : State) : Host.Outcome State Fault Refusal :=
  .next (match s.nextVop die with
    | none => s
    | some o =>
      if o.take then s
      else
        let s := { s with vops := s.vops.erase o }
        match o.record with
        | some r => s.onGraph o.graph (fun g => g.finish (s.joinsUsed die ≥ 4096) o.node o.stage o.kept r)
        | none => s)

/-- Header bits [31:0] of a record (07 R168). -/
def Rec.header (r : Rec) : Word :=
  BitVec.ofNat 32 (2 ^ 24 * r.node + 2 ^ 16 * r.donebits + (match r.psn with | some (_, c) => 2 ^ 7 * c + 1 | none => 0))

/-- A lane receives a record: v1, v2, the payload, and its poison as one new side-table entry (07 R173). -/
def Group.receive (g : Group) (l : Nat) (r : Rec) : Group :=
  let (p, g) := match r.psn with
    | some (a, c) => let e := g.takeEntry a 0 c; (some e.1, e.2)
    | none => (none, g)
  let g := (g.setV 1 l ⟨r.key, p⟩).setV 2 l ⟨r.header, none⟩
  let g := r.pay.zipIdx.foldl (fun g x => g.setV (8 + x.2) l ⟨x.1, p⟩) g
  g.setLane l { g.lane l with held := some r }

/-- VANE_TAKE: the earliest event is a TAKE, and its lane takes the oldest record of its bin or queue, or none (07 R175). -/
def execVaneTake (die : Nat) (s : State) : Host.Outcome State Fault Refusal :=
  .next (match s.nextVop die with
    | none => s
    | some o =>
      if !o.take then s
      else
        let s := { s with vops := s.vops.erase o }
        match s.group? o.key with
        | none => s
        | some g =>
          if g.graph != some o.graph || g.node != some o.node || (g.lane o.lane).exited then s
          else
            let q := o.stage.getD 0
            let free (g : Group) : Group := g.setLane o.lane { g.lane o.lane with pend := (s.takeRegs g o.dst).foldl dropOne (g.lane o.lane).pend }
            let g := free g
            match (g.lane o.lane).held, (s.node? o.graph o.node).bind (fun n => n.pop q) with
            | none, some (r, n) =>
              ((s.putGroup o.key ((g.receive o.lane r).setP o.dst o.lane ⟨true, none⟩)).onGraph o.graph (fun h => h.setNode o.node n)).arrive o.key
                (rkV 1 :: rkV 2 :: (List.range r.pay.length).map (fun i => rkV (8 + i)))
            | _, _ => s.putGroup o.key (g.setP o.dst o.lane ⟨false, none⟩))

/-- OVERFLOW_REFILL: records move from the overflow area to their queue, then arrivals that wait are tried again (07 R171). -/
def execOverflowRefill (gr node q : Nat) (s : State) : Host.Outcome State Fault Refusal :=
  .next ((s.onGraph gr (fun g => match g.nodes[node]? with
    | some n => g.setNode node (n.refill q n.ovf.length)
    | none => g)).retryWaiting gr)

/-! ## Node groups (07 R172, R173, 22 R371) -/

/-- One group launched with the oldest records of a queue; none when the region cannot take it. -/
def State.launchNode (s : State) (gr node q count : Nat) : Option State :=
  match s.graphs.find? gr, s.launch? gr, s.node? gr node with
  | some g, some l, some n =>
    let batch := (n.queue q).recs.take count
    let need := n.need l batch.length
    let ordered := !l.desc.getLsbD 8 || ((s.queue l.die l.queue).live.map (·.id)).head? == some gr
    match batch, g.freeArea l, l.nextDie with
    | _ :: _, some area, some d =>
      if !ordered || !s.afterLaunches gr l || s.outranked gr l || (s.die d).frontAt > s.now || (s.susp.find? l.eff.rid).isSome
          || !(l.eff.within s.useOf 1 need.grans 0 0) then none
      else match s.search l.eff need d 1 1 1 false false with
        | some (_, [p]) =>
          let blk := s.uid
          let staged := n.nstage ≠ 0
          let entry := if staged then n.stages.getD q 0 else BitVec.ofNat 64 (n.fld 511 448)
          let stk := stackRecord (l.field 319 256 + area.getD 0 * l.field 415 384) (l.field 415 384)
          let s : State := { s with uid := s.uid + 1 }
          let s := s.putLaunch gr { l with started := l.started + 1 }
          let x := s.die d
          let s := s.putDie d { x with nextCore := 96 * d + (p.core % 96 + 1) % 96, frontAt := s.now + 20 }
          let n' := n.drop q batch.length
          let s := s.onGraph gr (fun h => { h.setNode node { n' with launched := (n.launched + 1) % 2 ^ 32 } with
            areas := h.areas ++ (match area with | some a => [a] | none => []) })
          let b : Block := { launch := gr, lin := l.started, core := p.core, region := l.eff.rid, threads := batch.length, groups := 1,
                             nv := need.nv, nbhId := blk, graph := some gr, area }
          let mk : Group :=
            let h := Group.start blk 0 need.nv batch.length entry 0 0 1 (l.desc.extractLsb' 128 128) stk l.tgen
            let us : List (Nat × Nat) := [(0, n.launched), (4, node), (5, if staged then q else 0xFFFFFFFF), (6, batch.length)]
            let h := (List.range batch.length).foldl (fun h ln => us.foldl (fun h (u : Nat × Nat) =>
              { h with u := h.u.set ⟨0, none⟩ (64 * ln + u.1) ⟨BitVec.ofNat 32 u.2, none⟩ }) h) h
            let h := batch.zipIdx.foldl (fun h r => h.receive r.2 r.1) h
            { h with graph := some gr, node := some node, stage := if staged then some q else none }
          some (s.startBlock blk b p need (fun _ => mk))
        | _ => none
    | _, _, _ => none
  | _, _, _ => none

/-- While at least COALESCE records wait and the region can take a group: step 2. -/
def State.launchFull (s : State) (gr node q : Nat) : Nat → State
  | 0 => s
  | k + 1 =>
    match s.node? gr node with
    | some n =>
      if n.fld 208 203 ≤ (n.queue q).recs.length then
        (match s.launchNode gr node q (n.fld 208 203) with | some t => t.launchFull gr node q k | none => s)
      else s
    | none => s

/-- The timer of a queue changed. -/
def State.setTimer (s : State) (gr node q : Nat) (t : Option Nat) (expired : Bool) : State :=
  s.onGraph gr (fun g => match g.nodes[node]? with
    | some n => g.setNode node (n.setQueue q { n.queue q with timer := t, expired })
    | none => g)

/-- One group with every waiting record, up to COALESCE; the timer restarts (steps 3 and 4). -/
def State.launchRest (s : State) (gr node q : Nat) : State :=
  match s.node? gr node with
  | some n =>
    if (n.queue q).recs = [] then s
    else match s.launchNode gr node q (n.fld 208 203) with
      | some t => (match t.node? gr node with | some m => if (m.queue q).recs = [] then t else t.setTimer gr node q (some t.now) false | none => t)
      | none => s
  | none => s

/-- A launch bound to a graph that has groups still to start or to exit (16 R347). -/
def State.boundLive (s : State) (gr : Nat) : Bool :=
  match s.graphs.find? gr, s.launch? gr with
  | some g, some l => s.launches.any (fun y => y.1 != gr && !y.2.isGraph && y.2.die == l.die && y.2.root == l.root &&
      BitVec.ofNat 64 (y.2.field 575 512) == g.array)
  | _, _ => false

/-- Every group of a graph has exited, and no record is in flight. -/
def State.graphQuiet (s : State) (gr : Nat) : Bool :=
  !(s.groups.any (fun x => x.2.node.isSome && x.2.graph == some gr)) && !(s.blocks.any (fun b => b.2.graph == some gr && !b.2.ended))
    && !(s.emitted.any (fun e => e.graph == gr)) && !(s.vops.any (fun o => o.graph == gr)) && !s.boundLive gr

/-- The queues of a die's graphs: graph, node, queue. -/
def State.queuesOf (s : State) (die : Nat) : List (Nat × Nat × Nat) :=
  (s.graphs.filter (fun g => s.graphDie g.1 = die)).flatMap (fun g => g.2.nodes.zipIdx.flatMap (fun n =>
    (List.range n.1.queues.length).map (fun q => (g.1, n.2, q))))

/-- A launch with every waiting record of a queue, up to COALESCE, has come due: it is made now, or as soon as the region can take it. -/
def State.comeDue (s : State) (gr node q : Nat) : State :=
  match s.node? gr node with
  | none => s
  | some n =>
    if (n.queue q).recs = [] then s
    else (s.setTimer gr node q (n.queue q).timer true).launchRest gr node q

/-- Has a queue's timer run TIMEOUT times 1,024 ticks? -/
def State.timedOut (s : State) (gr node q : Nat) : Bool :=
  match s.node? gr node with
  | none => false
  | some n => match (n.queue q).timer with
    | some t => n.fld 255 240 ≠ 0 && n.fld 255 240 * 1024 ≤ s.now - t
    | none => false

/-- Step 1 for a queue: its timer stops when it is empty, and starts when it has just become non-empty. -/
def State.stepTimer (s : State) (gr node q : Nat) : State :=
  match s.node? gr node with
  | none => s
  | some n =>
    if (n.queue q).recs = [] then s.setTimer gr node q none false
    else if (n.queue q).timer.isNone then s.setTimer gr node q (some s.now) false else s

/-- A queue whose batch comes due in this evaluation, by its timer or because its graph stands still with no full queue, is known to be due before any
group is placed, so that Front places the highest priority first (22 R375). -/
def State.markDue (s : State) (gr node q : Nat) : State :=
  match s.graphs.find? gr, s.node? gr node with
  | some g, some n =>
    let full := g.nodes.any (fun (m : Node) => m.queues.any (fun x => m.fld 208 203 ≤ x.recs.length))
    if (n.queue q).recs != [] && (s.timedOut gr node q || (!full && s.graphQuiet gr)) then s.setTimer gr node q (n.queue q).timer true else s
  | _, _ => s

/-- BIN_EVALUATION: the steps of 07 R172 for each bin and queue of a die; step 4 for every queue of the graphs that stand still. -/
def execBinEvaluation (die : Nat) (s : State) : Host.Outcome State Fault Refusal :=
  .next (
    let qs := s.queuesOf die
    let s := qs.foldl (fun (s : State) (x : Nat × Nat × Nat) => (s.stepTimer x.1 x.2.1 x.2.2).markDue x.1 x.2.1 x.2.2) s
    let s := qs.foldl (fun (s : State) (x : Nat × Nat × Nat) =>
      let s := s.launchFull x.1 x.2.1 x.2.2 4096
      match s.node? x.1 x.2.1 with
      | some n => if (n.queue x.2.2).expired then s.launchRest x.1 x.2.1 x.2.2 else s
      | none => s) s
    let quiet := (qs.map (·.1)).eraseDups.filter s.graphQuiet
    qs.foldl (fun (s : State) (x : Nat × Nat × Nat) => if quiet.contains x.1 then s.comeDue x.1 x.2.1 x.2.2 else s) s)

/-- BIN_TIMER_EXPIRY: a queue's timer has run TIMEOUT times 1,024 ticks; its records launch now, or as soon as the region can take them. -/
def execBinTimerExpiry (gr node q : Nat) (s : State) : Host.Outcome State Fault Refusal :=
  .next (if s.timedOut gr node q then s.comeDue gr node q else s)

/-! ## Status and completion (07 R182) -/

/-- The status part of a node. -/
def Node.status (n : Node) : BitVec 512 :=
  let waiting := n.queues.foldl (fun u q => u + q.recs.length) n.ovf.length
  let rates := (List.range 8).foldl (fun u k => u + 2 ^ (128 + 16 * k) * (n.queue k).prate) 0
  BitVec.ofNat 512 (n.arrived * 2 ^ 448 + n.retired * 2 ^ 384 + n.launched * 2 ^ 352 + n.dropped * 2 ^ 320 + n.discpois * 2 ^ 288
    + n.lost * 2 ^ 256 + rates + n.windows * 2 ^ 96 + waiting % 2 ^ 32 * 2 ^ 64 + n.gen.toNat * 2 ^ 32)

/-- The status part of every node of a graph written. -/
def State.writeStatus (s : State) (gr : Nat) : State :=
  match s.graphs.find? gr, s.launch? gr with
  | some g, some l =>
    g.nodes.zipIdx.foldl (fun s n =>
      (s.virtWrite l.die l.root (g.array + BitVec.ofNat 64 (128 * n.2 + 64)) (leBytes 64 n.1.status.toNat) none).getD s) s
  | _, _ => s

/-- NODE_STATUS_WRITE: on a request, or when the graph's region is preempted. -/
def execNodeStatusWrite (gr : Nat) (s : State) : Host.Outcome State Fault Refusal := .next (s.writeStatus gr)

/-- GSTATUS: the status of a running graph's nodes is written, then the command completes. -/
def execGstatus (d q : Nat) (s : State) : Host.Outcome State Fault Refusal :=
  .next (match s.command? d q 5 with
    | none => s
    | some c =>
      match c.reserved 1, s.graphAt d c.root (c.word 1) with
      | false, some gr => (s.writeStatus gr).completeCmd d q c 1 0 0
      | _, _ => s.completeCmd d q c 2 Cause.illegal 0)

/-- Does a record wait, or is one held or in flight? -/
def State.graphEmpty (s : State) (gr : Nat) : Bool :=
  match s.graphs.find? gr with
  | none => true
  | some g => g.waiting == [] && g.nodes.all (fun n => n.ovf == [] && n.queues.all (fun q => q.recs == []))

/-- GRAPH_COMPLETE: no record remains and every group has exited. A graph that no record has reached yet has not completed (log 27). -/
def execGraphComplete (gr : Nat) (s : State) : Host.Outcome State Fault Refusal :=
  .next (match s.graphs.find? gr, s.launch? gr with
    | some g, some l =>
      if !l.rolling && g.nodes.any (fun n => n.arrived ≠ 0) && s.graphQuiet gr && s.graphEmpty gr && !(s.blocks.any (fun b => b.2.graph == some gr)) then
        ({ s.writeStatus gr with graphs := (s.writeStatus gr).graphs.del gr } : State).endLaunch gr l 1 0
      else s
    | _, _ => s)

/-- BINFULL: an EMIT has waited 1,048,576 core cycles (07 R171). -/
def execBinfull (key : Nat) (s : State) : Host.Outcome State Fault Refusal :=
  .next (match s.group? key with
    | none => s
    | some g =>
      match g.emitWait with
      | some (pc, c) =>
        if (s.slice (sliceOf key)).tick / 10 - c ≥ 1048576 then
          s.putGroup key { (g.raise { cause := Cause.binfull, pc, lanes := g.atPc pc }) with emitWait := none }
        else s
      | none => s)

end Sys2Proof.Machine
end

