-- ==== Sys2Proof/Machine/Traps.lean ====
section
/-! DEFINITION. Trap delivery and TRACT, table generations, migration, rollback, kill, denial notices (spec 23, 04 R99). -/

namespace Sys2Proof.Machine

open Sys2Proof

/-! ## Withdrawn accesses (06 R155, 04 R99) -/

/-- Of a full/empty form of a group, the accesses that sleep or have still to be tested. -/
def Req.unmet (r : Req) : List Acc :=
  if r.kind == .ldwe || r.kind == .tretw then r.accs.filter (fun a => a.st == .sleep || a.st == .todo) else []

/-- Accesses of a group that sleep, or have still to be tested, withdrawn from their slices, to be presented again: their lanes stand at the instruction
(06 R155, 23 R416). A request held for its comparison is none of these. -/
def State.withdrawSleep (s : State) (key blk : Nat) : State :=
  let core := coreOf key
  let c := s.core core
  let gone := c.reqs.filter (fun r => r.key == key && r.blk == blk && r.st != .held && r.unmet != [])
  let left := c.reqs.filterMap (fun r =>
    if !(gone.any (fun q => q.id == r.id)) then some r
    else
      let accs := r.accs.filter (fun a => !r.unmet.contains a)
      if accs = [] then none else some { r with accs, lanes := accLanes accs })
  let g? := (s.group? key).map (fun g => gone.foldr (fun r g =>
    let lanes := accLanes r.unmet &&& g.live
    let r' : Req := { r with accs := r.unmet.map (fun a => { a with st := .todo, told := false }), lanes, promo := [] }
    { (g.onLanes lanes (fun _ x => { x with pc := r.pc })) with withdrawn := (r', (lanesOf lanes).map (fun l => (l, (g.lane l).pc))) :: g.withdrawn }) g)
  match g? with
  | some g => (s.putCore core { c with reqs := left }).putGroup key g
  | none => s

/-- The requests of a trailing copy that await results of the leading one's sleeping accesses withdrawn with these (06 R155, 16 R360). -/
def State.withdrawHeld (s : State) (key blk : Nat) : State :=
  let core := coreOf key
  let c := s.core core
  let held (r : Req) : Bool := r.key == key && r.blk == blk && r.st == .held && r.kind == .ldwe
  match s.group? key with
  | some g =>
    let gone := c.reqs.filter held
    let g := gone.foldr (fun r g =>
      let lanes := accLanes r.accs &&& g.live
      { (g.onLanes lanes (fun _ x => { x with pc := r.pc })) with withdrawn := (r, (lanesOf lanes).map (fun l => (l, (g.lane l).pc))) :: g.withdrawn }) g
    if gone = [] then s else (s.putCore core { c with reqs := c.reqs.filter (fun r => !held r) }).putGroup key g
  | none => s

/-- One request presented again, for its lanes that still stand at its instruction: they go on where they were to go on, and their words are found
anew. Of the other lanes the access is gone. -/
def State.presentOne (s : State) (key : Nat) (b : Block) (x : Req × List (Nat × DWord)) : State :=
  match s.group? key with
  | none => s
  | some g =>
    let r := x.1
    let core := coreOf key
    let stands := x.2.filter (fun y => !(g.lane y.1).exited && (g.lane y.1).pc == r.pc)
    let lost := x.2.filter (fun y => !stands.contains y)
    let g := stands.foldl (fun g y => g.setLane y.1 { g.lane y.1 with pc := y.2 }) g
    let g := lost.foldl (fun g y => g.setLane y.1 { g.lane y.1 with
      pend := (regsOf r.dst 1).foldl dropOne (g.lane y.1).pend, wait := if (g.lane y.1).wait == .word then .none else (g.lane y.1).wait }) g
    let accs : List Acc := (r.accs.filter (fun a => stands.any (fun y => y.1 == a.lane))).map (fun a =>
      match s.scratch b a.ga with
      | some loc => { a with loc }
      | none => { a with st := .done, fail := some (Cause.window .read) })
    let s := s.putGroup key g
    if accs = [] then s
    else
      let c := s.core core
      let reqs := match c.reqs.find? (fun q => q.id == r.id) with
        | some q => c.reqs.map (fun p => if p.id == r.id then { q with accs := q.accs ++ accs, lanes := q.lanes ||| accLanes accs } else p)
        | none => c.reqs ++ [{ r with key, accs, lanes := accLanes accs, st := if r.st == .held then .held else .queued }]
      (s.putCore core { c with reqs }).addDue [.serve core r.id, .answer core r.id]

/-- The withdrawn accesses of a group presented again, in the order in which it made them. -/
def State.presentAgain (s : State) (key : Nat) : State :=
  match s.group? key with
  | none => s
  | some g =>
    match s.block? g.blk with
    | none => s
    | some b => g.withdrawn.foldl (fun s x => s.presentOne key b x) (s.putGroup key { g with withdrawn := [] })

/-- Can a group issue: it holds a baton and has an eligible lane (04 R99)? -/
def Group.canIssue (g : Group) : Bool := g.baton.isSome && g.eligible != 0

/-- The trap of the oldest denied store of a group that cannot issue, raised where its lowest live lane stands (04 R99). -/
def State.raiseDenied (s : State) (key : Nat) : State :=
  match s.group? key with
  | none => s
  | some g =>
    let s := s.withdrawSleep key g.blk
    match s.group? key with
    | none => s
    | some g =>
      match g.denied with
      | [] => s
      | a :: rest =>
        let pc := match lowest g.live with | some l => (g.lane l).pc | none => 0
        s.putGroup key { (g.raise { cause := Cause.global .write, pc, addr := a, lanes := maskOf (fun l => !(g.lane l).exited && (g.lane l).pc == pc) }) with
          denied := rest }

/-- A group resumed: a store denied meanwhile traps at once when the group cannot issue; else its withdrawn accesses are presented again (04 R99). -/
def State.goAgain (s : State) (key : Nat) : State :=
  match s.group? key with
  | none => s
  | some g => if g.denied != [] && !g.canIssue then s.raiseDenied key else s.presentAgain key

/-! ## Table generations (23 R394) -/

/-- A write to TSYNC: TGEN advances on every die, and an invalidation goes to every core. -/
def execTsync (_die : Nat) (v : DWord) (s : State) : Host.Outcome State Fault Refusal :=
  let gen := s.tgen + 1
  let s := { s with tgen := gen }
  .next ((List.range Config.numCores).foldl (fun (s : State) c =>
    (s.putCore c { s.core c with invals := (s.core c).invals ++ [(gen, v)] }).addDue [.inval c]) s)

/-- A faulted group resumed: its withdrawn accesses are presented again; but a store denied meanwhile traps at once when the group cannot issue, and a lane
whose PC is no instruction start raises BADTGT (04 R99, 08 R190, 23 R399). Before its core has observed the generation that the group depends on, no line
is looked at: the lanes land once it has (23 R395). -/
def State.landGroup (s : State) (key : Nat) : State :=
  match s.group? key with
  | none => s
  | some g =>
    match g.land, g.fault.isNone && genSeen (s.core (coreOf key)).observed g.tgen with
    | some m, true =>
      let s := s.putGroup key { g with land := none }
      match (lanesOf m).filter (fun l => !s.targetOk (coreOf key) (s.fetchRoot g) false (g.lane l).pc) with
      | [] => s.goAgain key
      | l :: ls =>
        let pc := (g.lane l).pc
        let s := s.putGroup key ({ g with land := none }.raise { cause := Cause.badtgt, pc, addr := pc, lanes := maskIn ((l :: ls).filter (fun k => (g.lane k).pc == pc)) })
        -- a group that holds a baton is faulted at the end of its slice's cycle
        if g.baton.isSome then s else s.becomeFaulted key
    | _, _ => s

/-- TLB_INVALIDATION: the oldest invalidation of a core is applied: matching entries leave its TLBs and its die's walk cache, lines fetched through
them leave its instruction cache, and its observed generation is the invalidation's. -/
def execTlbInvalidation (core : Nat) (s : State) : Host.Outcome State Fault Refusal :=
  let c := s.core core
  .next (match c.invals with
    | [] => s
    | (gen, root) :: rest =>
      let d := dieOf core
      let s := s.putCore core { c with
        invals := rest, observed := gen, tlb1 := dropRoot c.tlb1 root, tlb := dropRoot c.tlb root
        icache := if root = 0 then [] else c.icache.filter (fun x => x.1 != root) }
      let s := s.putDie d { s.die d with wcache := dropRoot (s.die d).wcache root }
      (s.groups.filter (fun g => coreOf g.1 == core && g.2.land.isSome)).foldl (fun s g => s.landGroup g.1) s)

/-- TGENDONE: the lowest observed generation over all cores (23 R394). -/
def State.tgenDone (s : State) : Word :=
  (List.range Config.numCores).foldl (fun m c => let o := (s.core c).observed; if genSeen o m then m else o) (s.core 0).observed

/-! ## Trap records (23 R398) -/

/-- A trap record as a number of 512 bits. -/
def TrapRec.record (r : TrapRec) : Nat :=
  let t := r.trap
  t.origpc.toNat * 2 ^ 448 + t.addr.toNat * 2 ^ 384 + t.pc.toNat * 2 ^ 320 + r.time % 2 ^ 64 * 2 ^ 256 + t.lanes.toNat * 2 ^ 224
    + t.info.toNat * 2 ^ 192 + r.ticket % 2 ^ 32 * 2 ^ 160 + r.region % 2 ^ 16 * 2 ^ 144 + r.queue % 2 ^ 6 * 2 ^ 138
    + coreOf r.key % 2 ^ 9 * 2 ^ 129 + sliceOf r.key % 6 * 2 ^ 126 + slotOf r.key * 2 ^ 122 + r.dispo % 4 * 2 ^ 10
    + (if t.cons then 2 ^ 9 else 0) + t.cause % 2 ^ 9

/-- The record to be written next: of the earliest core cycle, and within it by core, slice and slot. -/
def nextTrap (l : List TrapRec) : Option TrapRec :=
  l.foldl (fun m x => match m with
    | none => some x
    | some y => if x.cyc < y.cyc || (x.cyc == y.cyc && x.key < y.key) then some x else some y) none

/-- Is a trap one that is found before issue, by fetch or decode (08 R206, R207)? -/
def earlyCause (c : Nat) : Bool := c < 0x080 || (c < 0x0C0 && c % 4 = 3) || c == Cause.barnum || c == Cause.nograph || c == Cause.nodenum

/-- May a record be delivered: has its core cycle ended in every slice that issues (23 R398), and every instruction that the group issued before a fetch or
decode trap completed (08 R206)? An access
asleep completes only once the word is filled, and is not waited for. -/
def State.deliverable (s : State) (r : TrapRec) : Bool :=
  s.cycleOver r.cyc && (!earlyCause r.trap.cause ||
    (match s.group? r.key with
     | some g => g.blk != r.blk || !(g.fault.any (fun f => f.trap = r.trap)) ||
         (s.core (coreOf r.key)).reqs.all (fun q => q.key != r.key || q.blk != g.blk || q.accs.all (fun a => a.st == .sleep))
     | none => true))

/-- TRAP_DELIVERY: the next record is written once the ring is on and has room; TAIL advances, and the die's source 0 has an event. -/
def execTrapDelivery (d : Nat) (s : State) : Host.Outcome State Fault Refusal :=
  let x := s.die d
  .next (match nextTrap (x.traps.filter s.deliverable) with
    | none => s
    | some r =>
      if !x.trEn || (x.trtail - x.trhead).toNat ≥ 2 ^ x.trLog2 then s
      else
        let a := x.trbase.toNat + 64 * (x.trtail.toNat % 2 ^ x.trLog2)
        let s := s.writeAt (dramLoc 0 a) (leBytes 64 r.record) (some (frontRel d))
        let x := s.die d
        let s := s.putDie d { x with trtail := x.trtail + 1, traps := x.traps.erase r }
        let tell (g : Group) : Group := match g.fault with
          | some f => if g.blk = r.blk && g.idx = r.idx && f.trap = r.trap then { g with fault := some { f with written := true } } else g
          | none => g
        -- the group may have been saved meanwhile
        let s : State := { s with groups := s.groups.update r.key tell, blocks := s.blocks.update r.blk (fun b => { b with sgroups := b.sgroups.map tell }) }
        (s.dieEvent d 0).addDue (if (s.die d).traps = [] then [] else [.trap d]))

/-- A write to TRCFG: EN, and LOG2 in its range (23 R391). -/
def execTrcfg (d : Nat) (v : Word) (s : State) : Host.Outcome State Fault Refusal :=
  let x := s.die d
  let n := field v.toNat 3 0
  .next ((s.putDie d { x with trEn := v.getLsbD 4, trLog2 := if 6 ≤ n && n ≤ 12 then n else x.trLog2 }).addDue [.trap d])

/-! ## Removing the blocks of a launch (23 R411, R413) -/

/-- Entries taken out of every inbound queue; their credits go back. -/
def State.dropEntries (s : State) (p : Nat → InEntry → Bool) : State :=
  let acks := s.cores.flatMap (fun c => (c.2.inq.filter (p c.1)).map (fun e => Work.ack e.src c.1))
  { s with cores := s.cores.map (fun c => (c.1, { c.2 with inq := c.2.inq.filter (fun e => !p c.1 e) })), due := s.due ++ acks }

/-- Is a scratchpad granule a launch's own, or nobody's? What a launch's blocks write there is discarded with them (23 R409). -/
def State.ownGranule (s : State) (launch core off : Nat) : Bool :=
  match (s.core core).gran.find? (off / 4096) with | some g => s.launchId g.blk == launch | none => true

/-- What is left of a removed block's request: the writes that it has issued are allowed to perform (23 R411). -/
def State.leftWrites (s : State) (r : Req) : Option Req :=
  let accs := r.accs.filter (fun a => a.st == .todo && !(isSram a.loc && s.ownGranule r.launch (sramCore a.loc) (sramOff a.loc)))
  if r.writes && r.st == .queued && accs != [] then some { r with accs, lanes := accLanes accs } else none

/-- A block removed at once: its groups, what they have outstanding, and its resources. `finish`: the writes that it has issued are still performed
(23 R411, R413). -/
def State.removeBlock (s : State) (finish : Bool) (blk : Nat) : State :=
  match s.block? blk with
  | none => s
  | some b =>
    let keys := (s.groupsOf blk).map (·.1)
    let s := ((s.core b.core).jobs.filter (fun j => j.blk == blk && j.st == .run)).foldl (fun s j => s.countRun b.core j) s
    let s := s.dropEntries (fun k e => if finish then e.launch == b.launch && s.ownGranule b.launch k e.addr else e.blk == blk)
    let reqs := (s.core b.core).reqs.filterMap (fun r => if r.blk != blk then some r else if finish then s.leftWrites r else none)
    let s := { s with groups := s.groups.filter (fun x => x.2.blk != blk) }
    let s := (List.range 6).foldl (fun s i =>
      let sl := sliceKey b.core i
      let x := (s.slice sl).freeBatons blk
      s.putSlice sl { x with
        orphans := x.orphans.filter (fun o => !keys.contains o.2.2), wb := x.wb.filter (fun w => !keys.contains (16 * sl + w.slot)) }) s
    let c := s.core b.core
    let s := s.putCore b.core { c with
      tags := c.tags.filter (fun t => t.2.blk != blk), jobs := c.jobs.filter (fun j => j.blk != blk)
      bslds := c.bslds.filter (fun x => x.blk != blk), reqs }
    -- a follower's array that the block's jobs held, or had next (15 R332, R342)
    let left := c.jobs.filter (fun j => j.blk != blk)
    let held (k : Nat) : Bool := (left.filter (·.onArray) ++ ((left.find? (fun j => j.st == .queued)).toList)).any (fun j => j.follower.any (fun f => f.1 == k))
    let s : State := { s with cores := s.cores.map (fun (y : Nat × Core) =>
      if y.2.lent == some b.core && !held y.1 then (y.1, { y.2 with lent := none }) else y) }
    let s := s.freeCore blk b.core
    { s with blocks := s.blocks.del blk, notices := s.notices.filter (fun n => n.blk != blk)
             vops := s.vops.filter (fun o => !keys.contains o.key)
             latch := match s.latch with
               | some l => if l.group.any keys.contains then some { l with todo := [] } else some l
               | none => none }

/-- Every block of a launch removed, with its pairs. -/
def State.removeBlocks (s : State) (finish : Bool) (id : Nat) : State :=
  let s := ((s.blocks.filter (fun b => b.2.launch == id)).map (·.1)).foldl (fun s b => s.removeBlock finish b) s
  s.keepTwins

/-! ## Rollback and kill (23 R411-R413, 22 R379) -/

/-- A launch killed: its blocks, and its graph, are gone, and its completion word reads KILLED. -/
def State.killOne (s : State) (id cause : Nat) : State :=
  match s.launch? id with
  | none => s
  | some l =>
    let s := s.removeBlocks false id
    let s : State := { s with graphs := s.graphs.del id, emitted := s.emitted.filter (fun e => !(l.isGraph && e.graph == id)) }
    s.endLaunch id l 3 cause

/-- A launch and the live launches of its fault domain killed, with one cause. -/
def State.kill (s : State) (id cause : Nat) : State :=
  match s.launch? id with
  | none => s
  | some l =>
    let ids := (s.launches.filter (fun y => y.1 == id || (l.eff.fdom != 0 && y.2.eff.fdom == l.eff.fdom))).map (·.1)
    ids.foldl (fun s i => s.killOne i cause) s

/-- LAUNCH_KILL. -/
def execLaunchKill (id : Nat) (cause : BitVec 9) (s : State) : Host.Outcome State Fault Refusal := .next (s.kill id cause.toNat)

/-- A snapshot put back into the frame that its virtual address maps now. -/
def State.restoreSnap (s : State) (l : Launch) (x : Snap) : State :=
  let va : DWord := BitVec.ofInt 64 ((BitVec.ofNat 48 (x.va * 4096)).toInt)
  let loc := match s.placeFor l.die l.root va .read with | .ok loc => loc | .error _ => x.base
  s.writeAt loc x.data none

/-- The later of two generations. -/
def laterGen (a b : Word) : Word := if genSeen a b then a else b

/-- The fields of a launch descriptor, high bit and low bit (22 R370). -/
def descFields : List (Nat × Nat) :=
  [(1023, 708), (707, 704), (703, 640), (639, 576), (575, 512), (511, 507), (506, 499), (498, 495), (494, 491), (490, 481), (480, 479), (478, 476)]
    ++ [(475, 472), (471, 469), (468, 467), (466, 458), (457, 454), (453, 448), (447, 416), (415, 384), (383, 379), (378, 368), (367, 352)]
    ++ [(351, 336), (335, 320), (319, 256), (255, 128), (127, 64), (63, 32), (31, 16), (15, 12), (11, 11), (10, 10), (9, 9), (8, 8), (7, 0)]

/-- The bits of the fields in which two entries differ. -/
def alteredBits (a b : Nat) : BitVec 1024 :=
  BitVec.ofNat 1024 (descFields.foldl (fun m f => if field a f.1 f.2 = field b f.1 f.2 then m else m + (2 ^ (f.1 + 1 - f.2) - 1) * 2 ^ f.2) 0)

/-- The entry that a replay has: each field that software has altered while the entry was held is unpredictable (22 R368, log 70). -/
def State.entryAgain (s : State) (old now : BitVec 1024) : BitVec 1024 :=
  let wild := BitVec.ofNat 1024 ((List.range 16).foldl (fun n i => n * 2 ^ 64 + (Config.dword s.free i).toNat) 0)
  let m := alteredBits old.toNat now.toNat
  (old &&& ~~~m) ||| (wild &&& m)

/-- Has a launch writes of its removed blocks that are still to be performed? -/
def State.writesLeft (s : State) (id : Nat) : Bool :=
  s.cores.any (fun c => c.2.reqs.any (fun r => r.writes && r.launch == id) || c.2.inq.any (fun e => e.launch == id))

/-- Steps 2 and 3 of a rollback: the snapshots restored, and the launch started again from its held entry (23 R411, R412). -/
def State.startAgain (s : State) (id : Nat) (l : Launch) : State :=
  let s := l.snaps.foldl (fun s x => s.restoreSnap l x) s
  let desc := match s.virtRead l.die l.root l.entry 128 with | some bs => s.entryAgain (s.cmdOf id l).entry (BitVec.ofNat 1024 (leNat bs)) | none => l.desc
  let l' := { l with desc, started := 0, bars := [], unc := none, rolling := false, replays := l.replays + 1,
                     tgen := laterGen s.tgen (BitVec.ofNat 32 (field desc.toNat 63 32)) }
  let s := s.putLaunch id l'
  let s := s.onGraph id (fun g => { g with
    areas := [], waiting := []
    nodes := g.nodes.map (fun n =>
      let seed := n.fld 319 288
      ({ desc := n.desc, stages := n.stages, queues := n.queues.map (fun _ => {}), gen := BitVec.ofNat 32 (if seed = 0 then 0x9E3779B9 else seed) } : Node)) })
  s.wakeFront.tickFree

/-- ROLLBACK: the blocks are removed; once the writes that they have issued are performed, the snapshots are restored, and the launch starts again. -/
def execRollback (id : Nat) (s : State) : Host.Outcome State Fault Refusal :=
  .next (match s.launch? id with
    | none => s
    | some l =>
      if l.unc.isNone || !l.rollsBack then s
      else
        let s := if l.rolling then s else ((s.putLaunch id { l with rolling := true }).countR l.die 7).removeBlocks true id
        if s.writesLeft id then s.addDue [.rollback id (l.unc.getD 0)]
        else match s.launch? id with
          | some l => s.startAgain id l
          | none => s)

/-- What a consumption of an uncorrectable error leads to: rollback, or the end of the launch (23 R411). One that the launch has made before it was rolled
back went with its blocks. -/
def State.consumeError (s : State) (id cause : Nat) : Host.Outcome State Fault Refusal :=
  match s.launch? id with
  | none => .next s
  | some l =>
    if !isUnc cause then .next (s.kill id cause)
    else if l.unc.isNone then .next s
    else if l.rollsBack then execRollback id s
    else .next (s.kill id (if l.replays ≥ 3 then Cause.replaymax else if !l.replayable then Cause.noreplay else cause))

/-! ## TRACT (23 R399) -/

/-- The group that a TRACT write names, when it awaits TRACT: its record has been written, and is not one of a rollback or a kill; a nonzero reserved field
names none. -/
def State.tractGroup (s : State) (v : Word) (act : Nat) : Option (Nat × Group × Trap) :=
  let x := v.toNat
  if field x 31 30 ≠ act || field x 13 0 ≠ 0 || field x 20 18 > 5 then none
  else
    let key := groupKey (field x 29 21) (field x 20 18) (field x 17 14)
    match s.group? key with
    | some g => (match g.fault with | some f => if f.written && !isUnc f.trap.cause then some (key, g, f.trap) else none | none => none)
    | none => none

/-- A faulted group resumed at an address; where that is no instruction start, it faults again at once with BADTGT. -/
def State.resumeTo (s : State) (key : Nat) (lanes : BitVec 32) (pc : DWord) : State :=
  let s := s.resumeAt key pc
  ({ s with groups := s.groups.update key (fun g => { g with land := some lanes }) } : State).landGroup key

/-- ACT 0b00: the group resumes at TRPC. -/
def execTractResumeTrpc (d : Nat) (v : Word) (s : State) : Host.Outcome State Fault Refusal :=
  .next (match s.tractGroup v 0 with
    | none => s
    | some (key, _, t) => s.resumeTo key t.lanes (s.die d).trpc)

/-- ACT 0b01: the group resumes at the trapping PC; a copy or job that the trap names goes on. -/
def execTractResumePc (_d : Nat) (v : Word) (s : State) : Host.Outcome State Fault Refusal :=
  .next (match s.tractGroup v 1 with
    | none => s
    | some (key, _, t) =>
      let s := s.resumeTo key t.lanes t.pc
      let s := match t.tag with | some n => s.restartCopy (coreOf key) n | none => s
      match t.job with | some n => s.resumeJob (coreOf key) n | none => s)

/-- ACT 0b10: the group ends as if all its live lanes had executed EXIT; the records that it holds count in LOST. -/
def execTractEndGroup (_d : Nat) (v : Word) (s : State) : Host.Outcome State Fault Refusal :=
  .next (match s.tractGroup v 2 with
    | none => s
    | some (key, g, _) =>
      let n := ((lanesOf g.live).filter (fun l => (g.lane l).held.isSome)).length
      let g' := { g.onLanes g.live (fun _ x => { x with held := none }) with fault := none }
      let s := s.putGroup key g'
      let s := match g.graph, g.node with
        | some gr, some k => s.onGraph gr (fun h => match h.nodes[k]? with
          | some x => h.setNode k { x with lost := (x.lost + n) % 2 ^ 32 }
          | none => h)
        | _, _ => s
      (s.exitLanes key g.live).reap key)

/-- ACT 0b11: the launch is killed with the record's cause. -/
def execTractKill (_d : Nat) (v : Word) (s : State) : Host.Outcome State Fault Refusal :=
  .next (match s.tractGroup v 3 with
    | none => s
    | some (_, g, t) => match s.block? g.blk with | some b => s.kill b.launch t.cause | none => s)

/-! ## DENIAL_NOTICE (04 R98, R99) -/

/-- DENIAL_NOTICE: the notice of a discarded store entry reaches its source group. -/
def execDenialNotice (id : Nat) (s : State) : Host.Outcome State Fault Refusal :=
  .next (match s.notices.find? (fun n => n.id = id) with
    | none => s
    | some n =>
      let s := { s with notices := s.notices.filter (fun y => y.id != id) }
      let t : Trap := { cause := Cause.global .write, pc := 0, addr := n.addr }
      let gone (s : State) : State :=
        let d := dieOf (coreOf n.key)
        let r : TrapRec := { key := n.key, blk := n.blk, trap := t, time := timeAt d s.now, cyc := s.now / 10, dispo := 2 }
        let r := match s.launch? n.launch with | some l => { r with ticket := l.ticket, region := l.eff.rid, queue := l.queue } | none => r
        (s.putDie d { s.die d with traps := (s.die d).traps ++ [r] }).addDue [.trap d, .rollback n.launch t.cause]
      -- a block that a rollback or a kill has removed takes its notices with it
      if (s.block? n.blk).isNone then s
      else match s.group? n.key with
      | none => gone s
      | some g =>
        if g.blk != n.blk || g.exited then gone s
        else
          let s := s.putGroup n.key { g with denied := g.denied ++ [n.addr] }
          -- a faulted group raises no second trap until it has been resumed (23 R398)
          if g.canIssue || g.fault.isSome || g.trap.isSome then s else s.raiseDenied n.key)

/-! ## Retiring a frame (23 R405, R406) -/

/-- The place of a frame of a die. -/
def framePlace (d : Nat) (pa : DWord) : Nat := d * 2 ^ 35 + pa.toNat % 2 ^ 35 / 4096 * 4096

/-- The placement range of a local offset (04 R107). -/
def State.rangeOf (s : State) (off : Nat) : Nat :=
  if s.il4.1 ≤ off && off < s.il4.2 then 1 else if s.il64.1 ≤ off && off < s.il64.2 then 2 else 0

/-- The home die of the frame at a physical address, by the placement of its range (04 R106, R107); none beyond DRAM. -/
def State.homeOf (s : State) (pa : DWord) : Option Nat :=
  if pa.toNat < 2 ^ 37 then some (Machine.homeOf (s.rangeOf (pa.toNat % 2 ^ 35)) (pa.toNat / 4096 * 4096)) else none

/-- GO: a migration starts in COPY, or is refused: one is under way, the table is full, the frames lie in different ranges, or they are no frames of this
die (log 29). -/
def execMigctlGo (d : Nat) (s : State) : Host.Outcome State Fault Refusal :=
  let x := s.die d
  .next (if x.migst == .copy || x.migst == .freeze || x.remap.length ≥ 64
      || s.rangeOf (x.migsrc.toNat % 2 ^ 35) != s.rangeOf (x.migdst.toNat % 2 ^ 35) || s.homeOf x.migsrc != some d || s.homeOf x.migdst != some d then s
    else (s.putDie d { x with migst := .copy, migdirty := (List.range 16).map (fun i => framePlace d x.migsrc / 256 + i) }).addDue [.migrate d])

/-- MIGRATION_FREEZE: few dirty lines remain; writes to the frame wait. -/
def execMigrationFreeze (d : Nat) (s : State) : Host.Outcome State Fault Refusal :=
  let x := s.die d
  .next (if x.migst == .copy then s.putDie d { x with migst := .freeze } else s)

/-- MIGRATION_DONE: the last lines are copied, and every access to the source is served from the destination; source 6 has an event. -/
def execMigrationDone (d : Nat) (s : State) : Host.Outcome State Fault Refusal :=
  let x := s.die d
  .next (if x.migst != .freeze then s
    else
      let src := framePlace d x.migsrc
      let dst := framePlace d x.migdst
      let from_ := s.moved src
      let dram := (List.range 4096).foldl (fun (m : Mem) i => m.setByte (dst + i) (s.dram.byte (from_ + i))) s.dram
      let s := { s with dram }
      (s.putDie d { x with migst := .done, migdirty := []
                           remap := ((x.remap.filter (fun e => e.1 != src)).map (fun e => if e.2 = src then (e.1, dst) else e)) ++ [(src, dst)] }).dieEvent d 6)

end Sys2Proof.Machine
end

