-- ==== Sys2Proof/Machine/Preempt.lean ====
section
/-! DEFINITION. Preemption: orders, the records of a save area, restores (spec 23 R414-R418, 15 R343, R344). -/

namespace Sys2Proof.Machine

open Sys2Proof

/-! ## Spans of memory -/

/-- `n` bytes from an address, of a memory that lists nothing below it. -/
def fillFrom (m : Mem) (a : Nat) : Nat → List Byte
  | 0 => []
  | n + 1 =>
    match m with
    | (k, v) :: l => if k = a then v :: fillFrom l (a + 1) n else Mem.blank :: fillFrom m (a + 1) n
    | [] => Mem.blank :: fillFrom [] (a + 1) n

/-- A range of a memory. -/
def Mem.within (m : Mem) (a n : Nat) : Mem := m.filter (fun c => a ≤ c.1 && c.1 < a + n)
/-- A range of a memory as bytes. -/
def Mem.span (m : Mem) (a n : Nat) : List Byte := fillFrom (m.within a n) a n
/-- A range of a memory replaced. -/
def Mem.splice (m : Mem) (a : Nat) (bs : List Byte) : Mem :=
  m.filter (fun c => c.1 < a) ++ (bs.zipIdx.filterMap (fun b => if b.1 = Mem.blank then none else some (a + b.2, b.1)))
    ++ m.filter (fun c => a + bs.length ≤ c.1)

/-- `n` DRAM bytes from a physical address, frame by frame (04 R103, 23 R406). -/
def State.dramSpan (s : State) (pa n : Nat) : List Byte :=
  (List.range ((pa % 4096 + n + 4095) / 4096)).flatMap (fun i =>
    let from_ := if i = 0 then pa else (pa / 4096 + i) * 4096
    let to_ := min (pa + n) ((pa / 4096 + i + 1) * 4096)
    s.dram.span (s.moved (dramLoc 0 from_)) (to_ - from_))

/-- Bytes written to DRAM from a physical address, frame by frame: records and errors there are gone, lines are dirty. -/
def State.putSpan (s : State) (pa : Nat) : Nat → List Byte → State
  | 0, _ => s
  | k + 1, bs =>
    let n := min bs.length (4096 - pa % 4096)
    let loc := dramLoc 0 pa
    let s := { s with dram := s.dram.splice (s.moved loc) (bs.take n)
                      rels := s.rels.filter (fun x => x.1 < wordLoc loc || loc + n ≤ x.1), ecc := s.ecc.filter (fun e => e < loc || loc + n ≤ e) }
    let s := (List.range ((n + 255) / 256)).foldl (fun s i => s.dirty (loc + 256 * i)) s
    s.putSpan (pa + n) k (bs.drop n)

/-! ## Group records (23 R416) -/

/-- A register value as its 32 lanes' words. -/
def wordsBytes (l : List Word) : List Byte := l.flatMap (fun x => leBytes 4 x.toNat)
/-- Nibbles, two to a byte, the first in the low half. -/
def nibbles : List Nat → List Byte
  | a :: b :: l => BitVec.ofNat 8 (a + 16 * b) :: nibbles l
  | [a] => [BitVec.ofNat 8 a]
  | [] => []
/-- A poison tag as a nibble: bit 3 poisoned, bits [2:0] the index. -/
def tagNibble : Option Nat → Nat
  | some p => 8 + p % 8
  | none => 0
/-- Codes of waits. -/
def Wait.code : Wait → Nat
  | .none => 0 | .join _ => 1 | .bar _ _ _ => 2 | .word => 3 | .future => 4 | .call => 5 | .idle _ => 6
/-- Codes of barrier levels. -/
def lvlCode : BarLvl → Nat | .grp => 0 | .blk => 1 | .nbh => 2 | .grid => 3
/-- The level of a code. -/
def lvlOf (c : Nat) : BarLvl := match c with | 0 => .grp | 1 => .blk | 2 => .nbh | _ => .grid
/-- The operand of a wait: the mask's number, the barrier's number and (from bit 8) level, or the tick. -/
def Wait.operand : Wait → Nat
  | .join m => m | .bar lv n _ => n + 256 * lvlCode lv | .idle t => t | _ => 0

/-- A group's record. `key`: its slot. -/
def Group.image (g : Group) (key : Nat) : List Byte :=
  let ls := List.range 32
  let zeros (n : Nat) : List Byte := List.replicate n 0
  let ticket := match g.calls with | c :: _ => c.ticket | [] => 0xFFFFFFFF
  leBytes 4 (g.gstat key).toNat ++ leBytes 4 g.heir.toNat ++ leBytes 4 g.hlanes.toNat ++ leBytes 4 ticket ++ leBytes 1 g.nv ++ leBytes 1 g.pnext ++ zeros 46
    ++ leBytes 8 g.futh.toNat ++ leBytes 8 g.futpc.toNat ++ leBytes 8 g.futaddr.toNat ++ wordsBytes ((List.range 4).map g.seedAt)
    ++ [g.gissue, g.gcycle, g.ghold, g.gidle, g.gticks].flatMap (leBytes 8)
    ++ wordsBytes ((List.range 4).map (fun n => maskOf (fun l => (SMap.get {} g.bars n).arrived.contains l))) ++ zeros 32
    ++ (List.range 8).flatMap (fun i => let e := SMap.get {} g.ptab i
        leBytes 8 e.addr.toNat ++ leBytes 8 e.origin.toNat ++ leBytes 2 e.cause ++ zeros 6)
    ++ ls.flatMap (fun l => leBytes 8 (g.lane l).pc.toNat)
    ++ ls.flatMap (fun l => let x := g.lane l
        leBytes 4 (x.stk.length + 32 * x.view + (if x.exited then 256 else 0) + (if x.parked then 512 else 0) + 1024 * x.wait.code)
          ++ leBytes 4 x.spc ++ leBytes 8 x.wait.operand)
    ++ ls.flatMap (fun l => (List.range 16).flatMap (fun e => leBytes 8 ((g.lane l).stk.getD e 0).toNat))
    ++ ls.flatMap (fun l => leBytes 8 (g.lane l).written.toNat)
    ++ ls.flatMap (fun l => wordsBytes ((List.range 64).map (fun n => (g.uAt n l).bits)))
    ++ wordsBytes ((List.range 8).map (fun n => maskOf (fun l => (g.pAt n l).b)))
    ++ wordsBytes ((List.range 8).map g.mAt)
    ++ (List.range 16).flatMap (fun n => leBytes 16 (g.bAt n).toNat)
    ++ (List.range 8).flatMap (fun n => leBytes 32 (g.tAt n).toNat)
    ++ ls.flatMap (fun l => nibbles ((List.range 64).map (fun n => tagNibble (g.uAt n l).psn)))
    ++ ls.flatMap (fun l => nibbles ((List.range 8).map (fun n => tagNibble (g.pAt n l).psn)))
    ++ (List.range g.nv).flatMap (fun n => nibbles (ls.map (fun l => tagNibble (g.vAt n l).psn)))
    ++ (List.range g.nv).flatMap (fun n => wordsBytes (ls.map (fun l => (g.vAt n l).bits)))

/-- Bytes of a group's record. -/
def groupBytes (nv : Nat) : Nat := 15424 + 144 * nv
/-- A number rounded up to a multiple of 256. -/
def up256 (n : Nat) : Nat := (n + 255) / 256 * 256

/-- A little-endian number in a record. -/
def numIn (bs : List Byte) (off n : Nat) : Nat := leNat ((bs.drop off).take n)

/-- A poison tag read back: the saved tag where its index agrees, else one of the entry as it stands. -/
def tagOf (ptab : SMap PsnEntry) (old : Option Nat) (nib : Nat) : Option Nat :=
  if nib < 8 then none
  else match old with
    | some p => if p % 8 = nib % 8 then some p else some (nib % 8 + 8 * (SMap.get {} ptab (nib % 8)).serial)
    | none => some (nib % 8 + 8 * (SMap.get {} ptab (nib % 8)).serial)

/-- A wait read back: on a word where an access has been withdrawn (06 R155), on a future while the handler is active (06 R163). -/
def waitOf (old : Wait) (act : Bool) (code op : Nat) : Wait :=
  match code with
  | 1 => .join (op % 8)
  | 2 =>
    .bar (lvlOf (op / 256 % 4)) (op % 256) (match old with | .bar _ _ p => p | _ => 0)
  | 3 => if old == .word then .word else .none
  | 4 => if act then .future else .none
  | 5 => .call
  | 6 => .idle op
  | _ => .none

/-- A group as its record gives it, laid over what the record does not hold. -/
def Group.ofImage (g : Group) (bs : List Byte) : Group :=
  let ls := List.range 32
  let w (off : Nat) : Word := BitVec.ofNat 32 (numIn bs off 4)
  let d (off : Nat) : DWord := BitVec.ofNat 64 (numIn bs off 8)
  let nib (off k : Nat) : Nat := numIn bs (off + k / 2) 1 / 16 ^ (k % 2) % 16
  let ptab : SMap PsnEntry := mapOf {} ((List.range 8).map (fun i =>
    (i, ({ addr := d (0xC0 + 24 * i), origin := d (0xC8 + 24 * i), cause := numIn bs (0xD0 + 24 * i) 2, serial := (SMap.get {} g.ptab i).serial } : PsnEntry))))
  let stat := numIn bs 0 4
  { g with
    scopemiss := stat.testBit 15, rsspill := stat.testBit 14, heir := BitVec.ofNat 5 (numIn bs 4 4), hlanes := w 8, pnext := numIn bs 17 1 % 8
    futh := d 0x40 &&& ~~~2, futpc := d 0x48, futaddr := d 0x50
    seed := (List.range 4).foldl (fun m n => SMap.set (BitVec.ofNat 32 (n + 1)) m n (w (0x58 + 4 * n))) []
    gissue := numIn bs 0x68 8, gcycle := numIn bs 0x70 8, ghold := numIn bs 0x78 8, gidle := numIn bs 0x80 8, gticks := numIn bs 0x88 8
    bars := (List.range 4).foldl (fun m n => match SMap.find? g.bars n with
      | some x => SMap.put m n { x with arrived := lanesOf (w (0x90 + 4 * n)) }
      | none => m) []
    ptab
    lanes := mapOf Lane.out (ls.map (fun l =>
      let x := numIn bs (0x280 + 16 * l) 4
      let old := g.lane l
      (l, { old with
        pc := d (0x180 + 8 * l), exited := x.testBit 8, parked := x.testBit 9, view := field x 7 5, spc := numIn bs (0x284 + 16 * l) 4
        stk := (List.range (field x 4 0)).map (fun e => d (0x480 + 128 * l + 8 * e)), written := d (0x1480 + 8 * l), ready := 0
        wait := waitOf old.wait ((d 0x48).getLsbD 0) (field x 12 10) (numIn bs (0x288 + 16 * l) 8) })))
    u := mapOf ⟨0, none⟩ (ls.flatMap (fun l => (List.range 64).map (fun n =>
      (64 * l + n, ⟨w (0x1580 + 256 * l + 4 * n), tagOf ptab (g.uAt n l).psn (nib (0x37C0 + 32 * l) n)⟩))))
    p := mapOf ⟨false, none⟩ (ls.flatMap (fun l => (List.range 7).map (fun n =>
      (8 * l + n, ⟨(w (0x3580 + 4 * n)).getLsbD l, tagOf ptab (g.pAt n l).psn (nib (0x3BC0 + 4 * l) n)⟩))))
    m := mapOf 0 ((List.range 8).map (fun n => (n, w (0x35A0 + 4 * n))))
    b := mapOf 0 ((List.range 16).map (fun n => (n, BitVec.ofNat 128 (numIn bs (0x35C0 + 16 * n) 16))))
    t := mapOf 0 ((List.range 8).map (fun n => (n, BitVec.ofNat 256 (numIn bs (0x36C0 + 32 * n) 32))))
    v := mapOf ⟨0, none⟩ ((List.range g.nv).flatMap (fun n => ls.map (fun l =>
      (32 * n + l, ⟨w (0x3C40 + 16 * g.nv + 128 * n + 4 * l), tagOf ptab (g.vAt n l).psn (nib (0x3C40 + 16 * n) l)⟩)))) }

/-- Is a group's record one that the Kernel part allows (23 R418)? Its registers, waits and return stacks are possible, a barrier that a lane waits at is
one that the launch declares, a mask register that a JOIN names exists, and the lanes of a view have one copy of each uniform register (03 R69); copies that
differed as the group was saved, `g`, may differ still (log 51). -/
def groupImageOk (l : Launch) (nv : Nat) (g : Option Group) (bs : List Byte) : Bool :=
  let w (k : Nat) : Nat := numIn bs (0x280 + 16 * k) 4
  let copy (k n : Nat) : Nat := numIn bs (0x1580 + 256 * k + 4 * n) 4
  let live := (List.range 32).filter (fun k => !(w k).testBit 8)
  let asSaved (k n : Nat) : Bool := g.any (fun g => copy k n = (g.uAt n k).bits.toNat && field (w k) 7 5 = (g.lane k).view)
  numIn bs 16 1 = nv % 256
    && (List.range 32).all (fun k =>
      let op := numIn bs (0x288 + 16 * k) 8
      field (w k) 12 10 ≤ 6 && field (w k) 4 0 ≤ 16
        && match field (w k) 12 10 with
          | 1 => op < 8
          | 2 => op % 256 < l.barCount (lvlOf (op / 256)) && op / 256 < 4
          | _ => true)
    && live.all (fun i => live.all (fun k => field (w i) 7 5 ≠ field (w k) 7 5
      || (List.range 64).all (fun n => copy i n = copy k n || (asSaved i n && asSaved k n))))

/-! ## Block records (23 R415) -/

/-- Bytes of a block's record without its groups. -/
def Block.recordBytes (b : Block) : Nat := 0x15800 + 65536 * b.tiles.length + 4096 * b.grans + 128 * b.grans + 4096 * b.bgrans
/-- Bytes of a block in a save area. -/
def Block.saveBytes (b : Block) : Nat := up256 b.recordBytes + b.groups * up256 (groupBytes b.nv)

/-- The bits of some flags, as bytes. -/
def bitBytes (n : Nat) (f : Nat → Bool) : List Byte :=
  (List.range n).map (fun i => BitVec.ofNat 8 ((List.range 8).foldl (fun u j => if f (8 * i + j) then u + 2 ^ j else u) 0))

/-- The job whose state the array of a block's core holds, resident or saved: the block's own, or, in the follower's role, its leader's (15 R343). -/
def State.arrayJob (s : State) (b : Block) (blk : Nat) : Option (Job × Bool) :=
  match ((s.core b.core).jobs ++ b.sjobs).find? (fun j => j.blk = blk && j.onArray) with
  | some j => some (j, false)
  | none => ((s.cores.flatMap (fun c => c.2.jobs) ++ s.blocks.flatMap (fun y => y.2.sjobs)).find? (fun j =>
      j.onArray && j.follower.any (fun f => f.2 == blk))).map (fun j => (j, true))

/-- The header of a save image (15 R343). -/
def imageHeader (j : Job) (follower : Bool) : List Byte :=
  leBytes 64 (1 + 0x81 * 2 ^ 16 + j.id * 2 ^ 32 + (if j.follower.isSome then 2 ^ 40 else 0) + (if follower then 2 ^ 41 else 0) + j.cardVa.toNat * 2 ^ 64)

/-- The opaque bytes of a save image: they depend on the job, its progress, and the array's role. -/
def imageBody (j : Job) (follower : Bool) : List Byte :=
  let id := (((j.seq * 4 + j.slot) * 2 + (if follower then 1 else 0)) * 2 ^ 40 + j.iter) * 2 ^ 40 + j.drainAt
  (List.range 81856).map (fun i => Config.imageByte id i)

/-- A block's record. -/
def State.blockImage (s : State) (b : Block) (blk : Nat) : List Byte :=
  let zeros (n : Nat) : List Byte := List.replicate n 0
  let c := s.core b.core
  let img := s.arrayJob b blk
  let bar (x : Bar) (base : Nat) : List Byte := leBytes 8 x.phase ++ bitBytes 128 (fun t => x.arrived.contains (base + t))
  let lb (lv : BarLvl) (n : Nat) : List Byte := bar (s.bar lv 0 blk n) (b.lin * 4096)
  let slot (j : Job) : List Byte := leBytes 128 j.card.toNat ++ leBytes 32 j.atd.toNat ++ leBytes 32 j.btd.toNat
  let off := b.core * Config.sramBytes + 4096 * b.gran0
  leBytes 8 b.lin ++ leBytes 4 b.groups ++ leBytes 4 b.threads ++ leBytes 4 b.core
    ++ leBytes 4 ((if img.isSome then 1 else 0) + (if img.any (·.2) then 2 else 0)) ++ zeros 8
    ++ (List.range 32).map (fun g => match b.place[g]? with | some (sl, k) => BitVec.ofNat 8 (sl + 8 * k) | none => 0)
    ++ wordsBytes ((List.range 16).map (fun n => SMap.get 0 b.w n))
    ++ (List.range 8).flatMap (fun n => bar (SMap.get {} b.bars n) 0) ++ (List.range 4).flatMap (lb .nbh) ++ (List.range 2).flatMap (lb .grid) ++ zeros 272
    ++ (List.range 64).flatMap (fun t => match c.tags.find? t with
        | some x => if x.blk = blk then
            leBytes 1 t ++ leBytes 1 (cpyqWord (some x) (blk + 1)).toNat ++ leBytes 1 (if x.fe then 1 else 0) ++ zeros 5
              ++ leBytes 16 x.src.toNat ++ leBytes 16 x.dst.toNat ++ leBytes 4 x.count ++ zeros 4
          else zeros 48
        | none => zeros 48)
    ++ (List.range 4).flatMap (fun k => match c.jobs.find? (fun j => j.slot = k && j.blk = blk) with | some j => slot j | none => zeros 192)
    ++ (match img with | some (j, f) => imageHeader j f ++ imageBody j f | none => zeros 81920)
    ++ b.tiles.flatMap (fun t => wordsBytes ((List.range 16384).map (c.accAt t)))
    ++ s.sram.span off (4096 * b.grans)
    ++ (let e := (s.emptyw.filter (fun x => Config.sramPlace + off ≤ x && x < Config.sramPlace + off + 4096 * b.grans)).map (fun x => (x - (Config.sramPlace + off)) / 4)
        bitBytes (128 * b.grans) (fun i => !e.contains i))
    ++ s.bst.span (b.core * Config.bstBytes + 4096 * b.b0) (4096 * b.bgrans)

/-- Padded to a multiple of 256 bytes. -/
def pad256 (l : List Byte) : List Byte := l ++ List.replicate (up256 l.length - l.length) 0

/-! ## PREEMPT and BLOCK_PREEMPT (23 R414) -/

/-- The resident blocks of a region. -/
def State.residents (s : State) (rid : Nat) : List (Nat × Block) := s.blocks.filter (fun b => b.2.region == rid && b.2.saved.isNone && !b.2.ended)

/-- Where each block of a list goes in a save area: one after the other. -/
def saveOffsets : Nat → List (Nat × Block) → List (Nat × Nat)
  | _, [] => []
  | off, (i, b) :: l => (i, off) :: saveOffsets (off + b.saveBytes) l

/-- The status of every graph of a region written (07 R182). -/
def State.statusOf (s : State) (rid : Nat) : State :=
  (s.graphs.filter (fun g => (match s.launch? g.1 with | some l => l.eff.rid == rid | none => false))).foldl (fun s g => s.writeStatus g.1) s

/-- PREEMPT: an order to save every block of a region; refused when the area is too small, or while the region is saved already. -/
def execPreempt (d : Nat) (s : State) : Host.Outcome State Fault Refusal :=
  let x := s.die d
  .next (if !x.fwbusy || x.fwstop || x.code ≠ 3 || x.badWords 2 true then s
    else match s.susp.find? x.rid with
      | some y => if y.busy && y.die = d && !y.restore then s else s.doorbell d 2
      | none =>
        let bs := s.residents x.rid
        let base := (x.req 1).toNat
        let need := bs.foldl (fun n b => n + b.2.saveBytes) 0
        if (x.req 2).toNat < need || base + need > 2 ^ 37 then s.doorbell d 2
        else
          let offs : List (Nat × Nat) := saveOffsets 0 bs
          let s : State := { s with
            susp := s.susp.put x.rid { base, die := d, busy := bs != [] }
            blocks := offs.foldl (fun (m : SMap Block) (o : Nat × Nat) => m.update o.1 (fun b => { b with stopped := true, saveAt := o.2 })) s.blocks }
          if bs = [] then (s.statusOf x.rid).doorbell d 0 else s.addDue (bs.map (fun (b : Nat × Block) => Work.preempt b.1)))

/-- Nothing of a block is on its way: replies, copies, tile loads, writes, entries to its granules, records (23 R414). -/
def State.drained (s : State) (blk : Nat) (b : Block) : Bool :=
  let c := s.core b.core
  let keys := (s.groupsOf blk).map (·.1)
  !(c.reqs.any (fun r => r.blk == blk && !r.asks)) && !(c.bslds.any (fun x => x.blk == blk))
    && !(c.tags.any (fun t => t.2.blk == blk && (t.2.st == .flight || t.2.flying != [])))
    && !(s.cores.any (fun y => y.2.inq.any (fun e => e.blk == blk)))
    && !(c.inq.any (fun e => b.gran0 ≤ e.addr / 4096 && e.addr / 4096 < b.gran0 + b.grans))
    && !(s.notices.any (fun n => n.blk == blk)) && !(s.emitted.any (fun e => keys.contains e.key)) && !(s.vops.any (fun o => keys.contains o.key))
    && !(c.wq.any (fun w => w.blk == blk)) && (s.groupsOf blk).all (fun g => g.2.trap.isNone)
    && !(s.latch.any (fun l => l.group.any keys.contains))

/-- Both copies of a twin block stand at a CKPT whose comparison has completed; true of any other block. -/
def State.twinStands (s : State) (b : Block) : Bool :=
  match b.twin with
  | none => true
  | some (p, _) => (s.blocks.filter (fun y => y.2.twin.any (fun q => q.1 == p))).all (fun y => (s.groupsOf y.1).all (fun g =>
      g.2.exited || (g.2.atCkpt && match g.2.twin with
        | some (t, _) => (match s.twins.find? t with | some x => x.lq == [] && x.tq == [] && x.log == [] | none => true)
        | none => true)))

/-- Hand-offs of a group decided as its block is saved, since every answer is back (06 R154, R158); one that awaits an access withdrawn is decided once
that is presented again. -/
def State.handNow (s : State) (key : Nat) : State :=
  match s.group? key with
  | none => s
  | some g =>
    let later (h : Nat × Option Nat × Nat) : Bool := h.1 != 0 && g.withdrawn.any (fun x => x.1.id == h.1)
    let now := g.hands.filter (fun h => !later h)
    let s := s.putGroup key { g with hands := (g.hands.filter later).map (fun h => (h.1, h.2.1, 0)) }
    if g.canIssue then s else now.foldl (fun s h => match h.2.1 with | some k => s.handOn key k | none => s) s

/-- A group's lanes at the instructions at which they stand (08 R187, R188). -/
def State.standAt (s : State) (key : Nat) : State :=
  match s.group? key with
  | none => s
  | some g => s.putGroup key (g.onLanes g.live (fun _ x => { x with pc := s.firstSlot (coreOf key) (s.fetchRoot g) x.pc (2 ^ 42) }))

/-- An EMIT's wait kept as its length while its block is not resident (07 R171). -/
def State.waitedFor (s : State) (key : Nat) : State :=
  { s with groups := s.groups.update key (fun g => { g with emitWait := g.emitWait.map (fun y => (y.1, (s.slice (sliceOf key)).tick / 10 - y.2)) }) }

/-- A saved block's resources released; what its records do not hold stays with it. The arrays that run its jobs stand (15 R343). -/
def State.saveBlock (s : State) (blk : Nat) (b : Block) (base : Nat) : State :=
  let s := (s.groupsOf blk).foldl (fun s g => ((s.handNow g.1).standAt g.1).waitedFor g.1) s
  -- a baton that such a hand-off leaves unheld goes to the heir (06 R151)
  let s := (List.range 6).foldl (fun s i => if (s.slice (sliceKey b.core i)).orphans = [] then s else s.giveOrphans (sliceKey b.core i)) s
  let gs := s.groupsOf blk
  let ordered := (List.range b.groups).filterMap (fun i => gs.find? (fun g => g.2.idx = i))
  let groups := (List.range b.groups).flatMap (fun i => match gs.find? (fun g => g.2.idx = i) with
    | some g => pad256 (g.2.image g.1)
    | none => pad256 (({ blk, idx := i, nv := b.nv } : Group).image 0))
  let bytes := pad256 (s.blockImage b blk) ++ groups
  let c := s.core b.core
  let jobs := c.jobs.filter (fun j => j.blk = blk)
  let tags := c.tags.filter (fun t => t.2.blk = blk)
  let b0 := b.core * Config.bstBytes + 4096 * b.b0
  let sbck := (s.bck.filter (fun x => b0 ≤ x.1 && x.1 < b0 + 4096 * b.bgrans)).map (fun x => (x.1 - b0, x.2))
  let s := s.putSpan (base + b.saveAt) (bytes.length / 4096 + 2) bytes
  let s := s.removeBlock false blk
  { s with blocks := s.blocks.put blk { b with saved := some b.saveAt, stopped := false, sgroups := ordered.map (·.2), stags := tags, sjobs := jobs, sbck } }

/-- BLOCK_PREEMPT: a block under an order stops, withdraws its sleeping accesses, drains, and is saved; the last block completes the order. -/
def execBlockPreempt (blk : Nat) (s : State) : Host.Outcome State Fault Refusal :=
  .next (match s.block? blk with
    | none => s
    | some b =>
      match s.susp.find? b.region, b.stopped && b.saved.isNone && s.twinStands b with
      | some y, true =>
        let s := (s.groupsOf blk).foldl (fun s g => (s.withdrawSleep g.1 blk).withdrawHeld g.1 blk) s
        if !s.drained blk b then s
        else
          let s := s.saveBlock blk b y.base
          if s.blocks.any (fun z => z.2.region == b.region && z.2.stopped) then s
          else
            let s := s.statusOf b.region
            ({ s with susp := s.susp.put b.region { y with busy := false } } : State).doorbell y.die 0
      | _, _ => s)

/-! ## RESTORE and BLOCK_RESTORE (23 R417, R418) -/

/-- RESTORE: the saved blocks of a region are to be restored from an area. -/
def execRestore (d : Nat) (s : State) : Host.Outcome State Fault Refusal :=
  let x := s.die d
  .next (if !x.fwbusy || x.fwstop || x.code ≠ 4 || x.badWords 1 true then s
    else match s.susp.find? x.rid with
      | none => s.doorbell d 0
      | some y =>
        if y.busy then (if y.die = d && y.restore then s else s.doorbell d 2)
        else
          let bs := s.blocks.filter (fun b => b.2.region == x.rid && b.2.saved.isSome)
          if bs = [] then (({ s with susp := s.susp.del x.rid } : State).doorbell d 0).wakeFront
          else ({ s with susp := s.susp.put x.rid { y with base := (x.req 1).toNat, die := d, busy := true, restore := true } } : State).addDue
            (bs.map (fun b => Work.restore b.1)))

/-- What a block needs of a core. -/
def Block.need (b : Block) (l : Launch) : Need :=
  { threads := b.threads, nv := b.nv, grans := b.grans, bgrans := b.bgrans, tiles := b.tiles.length
    bars := if b.graph.isSome then l.field 475 472 else l.need.bars, batons := b.batons }

/-- Slices mapped one to one. -/
def matchSlices (ok : Nat → Nat → Bool) : List Nat → List Nat → Option (List (Nat × Nat))
  | [], _ => some []
  | o :: os, ns => ns.findSome? (fun n => if ok o n then (matchSlices ok os (ns.filter (· != n))).map ((o, n) :: ·) else none)

/-- Does a saved block need the array of the core to which it goes: for a job of its own that stands in it, or as the follower of such a job (15 R332,
R344)? -/
def State.needsArray (s : State) (blk : Nat) (b : Block) : Bool :=
  b.sjobs.any Job.onArray || s.blocks.any (fun y => y.2.sjobs.any (fun j => j.onArray && j.follower.any (fun f => f.2 == blk)))

/-- A saved block's place on a core: each of its slices onto one slice, every group in its slot; pinned, on its own core, slices and granules. -/
def State.fitBack (s : State) (e : Eff) (blk : Nat) (b : Block) (need : Need) (core : Nat) : Option (Plan × List (Nat × Nat)) :=
  let c := s.core core
  let here := s.blocks.filter (fun y => y.2.core == core && y.2.saved.isNone)
  let groups := (s.groups.filter (fun g => coreOf g.1 == core)).length
  let busy (k : Nat) : Bool := (c.gran.find? k).isSome || c.inq.any (fun x => x.addr / 4096 = k)
  let g0 := if e.pin then (if (List.range need.grans).all (fun k => !busy (b.gran0 + k)) then some b.gran0 else none) else freeRun busy 384 need.grans
  let b0? := if e.pin then (if (List.range need.bgrans).all (fun k => (c.bgran.find? (b.b0 + k)).isNone) then some b.b0 else none)
    else freeRun (fun k => (c.bgran.find? k).isSome) 768 need.bgrans
  let tiles := (List.range 8).filter (fun k => (c.tiles.find? k).isNone)
  let bars := (List.range 16).filter (fun k => (c.slots.find? k).isNone)
  let tagsFree := b.stags.all (fun t => (c.tags.find? t.1).isNone)
  let jobsFree := b.sjobs.all (fun j => !(c.jobs.any (fun k => k.slot == j.slot))) && !(s.needsArray blk b && (c.running.isSome || c.lent.isSome))
  let old := (List.range 6).filter (fun i => b.place.any (fun p => p.1 = i))
  let ok (o n : Nat) : Bool :=
    let r := s.room (sliceKey core n) e.rid false
    let mine := b.place.filter (fun p => p.1 = o)
    mine.all (fun p => r.slots.contains p.2) && mine.length * need.nv ≤ r.regs && need.batons ≤ r.batons.length && (!e.pin || o = n)
  if !e.hasCore core || here.length ≥ 16 || groups + need.groups > 96 || tiles.length < need.tiles || bars.length < need.bars || !tagsFree || !jobsFree
      || (e.pin && core != b.core) then none
  else match g0, b0?, matchSlices ok old (List.range 6) with
    | some g0, some b0, some ms =>
      let to_ (i : Nat) : Nat := ((ms.find? (fun m => m.1 = i)).map (·.2)).getD i
      some ({ core, place := b.place.map (fun p => (to_ p.1, p.2)), gran0 := g0, b0, tiles := tiles.take need.tiles, bars := bars.take need.bars
              batons := ms.map (fun m => (m.2, (s.room (sliceKey core m.2) e.rid false).batons.take need.batons)) }, ms)
    | _, _, _ => none

/-- The saved blocks that are restored together with a block: its neighbourhood, its twin, or itself. -/
def State.mates (s : State) (blk : Nat) (b : Block) : List (Nat × Block) :=
  match b.twin with
  | some (p, _) => s.blocks.filter (fun y => y.2.saved.isSome && y.2.twin.any (fun q => q.1 == p))
  | none => if b.mblocks = [] then [(blk, b)]
    else b.mblocks.filterMap (fun i => (s.block? i).bind (fun y => if y.saved.isSome then some (i, y) else none))

/-- The offset of a member from its rectangle's corner, as a step of core ids. -/
def Block.step (b : Block) : Nat :=
  match b.twin, b.nbh with
  | some (_, lead), _ => if lead then 0 else 1
  | none, some (x, y, _, _) => 8 * y + x
  | none, none => 0

/-- Width and height of the rectangle. -/
def Block.rect (b : Block) : Nat × Nat :=
  match b.twin, b.nbh with | some _, _ => (2, 1) | none, some (_, _, w, h) => (w, h) | none, none => (1, 1)

/-- Where the mates of a block go back to. -/
def State.placeBack (s : State) (l : Launch) (b : Block) (mates : List (Nat × Block)) : Option (List (Nat × Block × Plan × List (Nat × Nat))) :=
  let (w, h) := b.rect
  let dies := l.dies
  let per := if l.isNbh then max 1 (w * h) else 1
  match dies[b.lin / per % max 1 dies.length]? with
  | none => none
  | some d =>
    let p := (s.die d).nextCore % 96
    (List.range 96).findSome? (fun i =>
      let k := (p + i) % 96
      if k % 8 + w > 8 || k / 8 + h > 12 then none
      else mates.foldl (fun (r : Option (List (Nat × Block × Plan × List (Nat × Nat)))) m =>
        match r with
        | none => none
        | some ps => (s.fitBack l.eff m.1 m.2 (m.2.need l) (96 * d + k + m.2.step)).map (fun q => ps ++ [(m.1, m.2, q)])) (some []))

/-- The area's records of a block: its own, and its groups'. -/
def State.savedRecords (s : State) (b : Block) (base : Nat) : List Byte × List (List Byte) :=
  let a := base + b.saved.getD 0
  let own := s.dramSpan a b.recordBytes
  (own, (List.range b.groups).map (fun i => s.dramSpan (a + up256 b.recordBytes + i * up256 (groupBytes b.nv)) (groupBytes b.nv)))

/-- May a block's records be restored (23 R418, 15 R344)? Counts agree, an image has this array's layout and size and nothing in its reserved fields (00 R7,
log 55), no baton is held twice (log 69). -/
def Block.imageOk (b : Block) (l : Launch) (own : List Byte) (gs : List (List Byte)) : Bool :=
  let held := (b.place.zip gs).filterMap (fun x => let st := numIn x.2 0 4
    if st.testBit 9 && !((List.range 32).all (fun l => (numIn x.2 (0x280 + 16 * l) 4).testBit 8)) then some (x.1.1, field st 8 7) else none)
  let img := (numIn own 20 4).testBit 0
  numIn own 0 8 = b.lin && numIn own 8 4 = b.groups && numIn own 12 4 = b.threads && (gs.zipIdx).all (fun x => groupImageOk l b.nv (b.sgroups.find? (fun g => g.idx = x.2)) x.1)
    && (!img || (numIn own 0x1800 2 = 1 && numIn own 0x1802 2 = 0x81 && numIn own 0x1804 4 < 2 ^ 10 && numIn own 0x1810 48 = 0))
    && held.all (fun h => b.bats.any (fun x => x.1 = h.1 && x.2.contains h.2)) && held.length = held.eraseDups.length

/-- The tiles of a block, in order, that a job's altered image spoils (15 R344): none where the image is as it was saved. -/
def State.imageSpoils (s : State) (b : Block) (blk : Nat) (own : List Byte) : List Nat :=
  match s.arrayJob b blk with
  | some (j, f) =>
    if (own.drop 0x1800).take 81920 == imageHeader j f ++ imageBody j f then [] else (List.range (j.mt * j.nt)).map (j.fld 680 678 + ·)
  | none => []

/-- The slots of a block's groups before and after: old, new. -/
def keysMoved (b : Block) (p : Plan) : List (Nat × Nat) :=
  (b.place.zip p.place).map (fun x => (groupKey b.core x.1.1 x.1.2, groupKey p.core x.2.1 x.2.2))

/-- A slot after a move. -/
def movedKey (ks : List (Nat × Nat)) (key : Nat) : Nat := ((ks.find? (fun k => k.1 == key)).map (·.2)).getD key

/-- The release record of a thread of a block that has moved: the thread is the same agent (05 R111). -/
def RelRec.follow (ks : List (Nat × Nat)) (blk : Nat) (r : RelRec) : RelRec :=
  if r.by_.blk == blk && ks.any (fun k => k.1 == r.by_.key) then
    { r with by_ := { r.by_ with core := coreOf (movedKey ks r.by_.key), key := movedKey ks r.by_.key } }
  else r

/-- The records that name a thread of a moved block follow it, wherever they are kept. -/
def State.followRels (s : State) (ks : List (Nat × Nat)) (blk : Nat) : State :=
  { s with
    rels := s.rels.map (fun x => (x.1, x.2.follow ks blk))
    groups := s.groups.map (fun x => (x.1, { x.2 with lanes := x.2.lanes.map (fun l => (l.1, { l.2 with seen := l.2.seen.map (·.follow ks blk) })) })) }

/-- One block put back where a plan says, as its records give it. -/
def State.putBack (s : State) (base : Nat) (x : Nat × Block × Plan × List (Nat × Nat)) : State :=
  let (blk, b, p, _) := x
  match s.launch? b.launch with
  | none => s
  | some l =>
    let (own, gs) := s.savedRecords b base
    let need := b.need l
    let core := p.core
    let s := s.takeCore blk b.region p need
    -- scratchpad, full/empty bits, B-store, tiles
    let off := core * Config.sramBytes + 4096 * p.gran0
    let o1 := 0x15800 + 65536 * need.tiles
    let o2 := o1 + 4096 * need.grans
    let o3 := o2 + 128 * need.grans
    let data := own.drop o1
    let fe := (own.drop o2).take (128 * need.grans)
    let empties := fe.zipIdx.flatMap (fun y => (List.range 8).filterMap (fun k => if y.1.getLsbD k then none else some (Config.sramPlace + off + 4 * (8 * y.2 + k))))
    let c := s.core core
    let wild := s.imageSpoils b blk own
    let ks := keysMoved b p
    let acc := (p.tiles.zipIdx).foldl (fun (m : SMap Word) t =>
      let ws := (own.drop (0x15800 + 65536 * t.2)).take 65536
      (List.range 16384).foldl (fun m i => m.set 0 (16384 * t.1 + i) (if wild.contains t.2 then Config.word s.free (16384 * t.1 + i) else BitVec.ofNat 32 (numIn ws (4 * i) 4))) m) c.acc
    let tags := b.stags.foldl (fun (m : SMap Copy) t =>
      let r := (own.drop (0x900 + 48 * t.1)).take 48
      m.put t.1 { t.2 with key := movedKey ks t.2.key, src := BitVec.ofNat 128 (numIn r 8 16), dst := BitVec.ofNat 128 (numIn r 24 16), count := numIn r 40 4, fe := numIn r 2 1 = 1 }) c.tags
    let jobs := b.sjobs.map (fun j =>
      let r := (own.drop (0x1500 + 192 * j.slot)).take 192
      { j with key := movedKey ks j.key, since := s.now, next := s.now, card := BitVec.ofNat 1024 (numIn r 0 128), atd := BitVec.ofNat 256 (numIn r 128 32), btd := BitVec.ofNat 256 (numIn r 160 32) })
    let s := s.putCore core { c with acc, tags, jobs := c.jobs ++ jobs }
    let s := { s with
      sram := s.sram.splice off (data.take (4096 * need.grans)), bst := s.bst.splice (core * Config.bstBytes + 4096 * p.b0) ((own.drop o3).take (4096 * need.bgrans))
      emptyw := empties.foldl insertNat s.emptyw
      bck := b.sbck.foldl (fun (m : SMap (List (Int × Int))) (x : Nat × List (Int × Int)) => m.put (core * Config.bstBytes + 4096 * p.b0 + x.1) x.2) s.bck }
    let s := s.followRels ks blk
    -- a trap record not yet written names the slot that its group has now
    let s : State := { s with dies := s.dies.map (fun d => (d.1, { d.2 with traps := d.2.traps.map (fun r =>
      if r.blk == blk && b.sgroups.any (fun g => g.idx == r.idx && g.fault.any (fun f => f.trap = r.trap)) then { r with key := movedKey ks r.key } else r) })) }
    -- block-shared registers and block barriers
    let bars := (List.range 8).foldl (fun (m : SMap Bar) n =>
      let r := (own.drop (0x80 + 136 * n)).take 136
      match SMap.find? b.bars n with
      | some y => m.put n { y with phase := numIn r 0 8, arrived := (List.range b.threads).filter (fun t => (numIn r (8 + t / 8) 1).testBit (t % 8)) }
      | none => m) []
    let place := p.place
    let nb : Block := { b with
      core, gran0 := p.gran0, b0 := p.b0, tiles := p.tiles, place, bats := p.batons, bars, saved := none, stopped := false, sgroups := [], stags := [], sjobs := [], sbck := []
      w := mapOf 0 ((List.range 16).map (fun n => (n, BitVec.ofNat 32 (numIn own (0x40 + 4 * n) 4)))) }
    let s := { s with blocks := s.blocks.put blk nb }
    let s := s.wakeCore core (fun i => place.any (fun y => y.1 = i))
    -- the batons of each slice, unheld until a group's record says it holds one
    let s := p.batons.foldl (fun s y => y.2.foldl (fun s n => s.setBaton (sliceKey core y.1) n (.unheld blk)) s) s
    b.sgroups.foldl (fun s g =>
      match place[g.idx]?, b.place[g.idx]?, gs[g.idx]? with
      | some (sl, slot), some (osl, _), some r =>
        let key := groupKey core sl slot
        let st := numIn r 0 4
        let oldB := ((b.bats.find? (fun y => y.1 = osl)).map (·.2)).getD []
        let newB := ((p.batons.find? (fun y => y.1 = sl)).map (·.2)).getD []
        let bat := if st.testBit 9 then (oldB.idxOf? (field st 8 7)).bind (fun k => newB[k]?) else none
        let h := { g.ofImage r with baton := none, overCls := none, emitWait := g.emitWait.map (fun y => (y.1, (s.slice (sliceKey core sl)).tick / 10 - y.2)), carried := [], wrs := [], atCkpt := false, ckptWait := false }
        if h.exited then s
        else
          let s := s.putGroup key h
          let s := match bat with
            | some n => ({ s with groups := s.groups.update key (fun h => { h with baton := some n }) } : State).setBaton (sliceKey core sl) n (.held blk slot)
            | none => s
          match h.twin with
          | some (t, lead) => { s with twins := s.twins.update t (fun y => if lead then { y with lead := key } else { y with trail := key }) }
          | none => s
      | _, _, _ => s) s

/-- A span of memory after moves: each gives an old start, a length and a new start. -/
def moveSpan : List (Nat × Nat × Nat) → Nat × Nat → List (Nat × Nat)
  | [], x => if x.2 = 0 then [] else [x]
  | y :: ms, x =>
    let lo := max x.1 y.1
    let hi := min (x.1 + x.2) (y.1 + y.2.1)
    if lo < hi then (y.2.2 + (lo - y.1), hi - lo) :: (moveSpan ms (x.1, lo - x.1) ++ moveSpan ms (hi, x.1 + x.2 - hi)) else moveSpan ms x

/-- Where a block's granules stand: scratchpad and B-store. -/
def Block.areas (b : Block) : List (Nat × Nat) :=
  [(sramLoc b.core (4096 * b.gran0), 4096 * b.grans), (bstLoc (b.core * Config.bstBytes + 4096 * b.b0), 4096 * b.bgrans)]

/-- What groups and jobs of restored blocks have written since a FENCE.OPR stands where their granules stand now (15 R331). -/
def State.followSpans (s : State) (mates : List (Nat × Block)) : State :=
  let ms := mates.flatMap (fun m => match s.block? m.1 with
    | some b => (m.2.areas.zip b.areas).map (fun (x : (Nat × Nat) × (Nat × Nat)) => (x.1.1, x.1.2, x.2.1))
    | none => [])
  let mv (l : List (Nat × Nat)) : List (Nat × Nat) := (l.flatMap (fun x => moveSpan ms x)).foldl (fun m x => addSpan x m) []
  let mine (blk : Nat) : Bool := mates.any (fun m => m.1 == blk)
  { s with
    groups := s.groups.map (fun g => if mine g.2.blk then (g.1, { g.2 with opWrote := mv g.2.opWrote }) else g)
    cores := s.cores.map (fun c => (c.1, { c.2 with jobs := c.2.jobs.map (fun j => if mine j.blk then { j with wrote := mv j.wrote } else j) })) }

/-- What a restored group finds: a barrier's phase completed meanwhile no longer holds it, and its lanes land (06 R159). -/
def State.wakeGroup (s : State) (key : Nat) : State :=
  match s.group? key with
  | none => s
  | some g =>
    let g := g.onLanes g.live (fun _ x => match x.wait with
      | .bar lv n p => if p < (s.bar lv key g.blk n).phase then { x with wait := .none } else x
      | _ => x)
    (s.putGroup key { g with land := some g.live }).landGroup key

/-- Restored groups go on, and their barriers are settled. -/
def State.wakeGroups (s : State) (mates : List (Nat × Block)) : State :=
  let gs := mates.flatMap (fun m => s.groupsOf m.1)
  gs.foldl (fun s g => s.settleBars g.1 g.2.blk) (gs.foldl (fun s g => s.wakeGroup g.1) s)

/-- Followers of restored jobs, on their new cores; the arrays that run them are taken. -/
def State.relink (s : State) (mates : List (Nat × Block)) : State :=
  mates.foldl (fun s m =>
    match s.block? m.1 with
    | none => s
    | some b =>
      let c := s.core b.core
      let jobs := c.jobs.map (fun j => if j.blk = m.1 then
        { j with follower := j.follower.bind (fun f => (s.block? f.2).map (fun y => (y.core, f.2))) } else j)
      let s := s.putCore b.core { c with jobs }
      jobs.foldl (fun s j => match j.follower with
        | some (k, _) => if j.blk = m.1 && j.onArray then s.putCore k { s.core k with lent := some b.core } else s
        | none => s) (s.addDue [.anvil b.core])) s

/-- BLOCK_RESTORE: a saved block, with its neighbourhood or its twin, is put back once it fits; a bad image kills its launch with SAVEIMG. -/
def execBlockRestore (blk : Nat) (s : State) : Host.Outcome State Fault Refusal :=
  .next (match s.block? blk with
    | none => s
    | some b =>
      match s.susp.find? b.region, s.launch? b.launch, b.saved.isSome with
      | some y, some l, true =>
        if !y.restore || !y.busy then s
        else
          let done (s : State) : State :=
            if s.blocks.any (fun z => z.2.region == b.region && z.2.saved.isSome) then s
            else
              -- what the save area records of calls is delivered (24 R427)
              let calls := match s.susp.find? b.region with | some y => y.calls | none => []
              let s := ({ s with susp := s.susp.del b.region, completions := s.completions ++ calls } : State).doorbell y.die 0
              (s.addDue (calls.map (fun c => Work.sysdone c.id))).wakeFront
          let mates := s.mates blk b
          if mates.any (fun m => let r := s.savedRecords m.2 y.base; !m.2.imageOk l r.1 r.2) then done (s.kill b.launch Cause.saveimg)
          else if !(l.eff.within s.useOf mates.length b.grans b.tiles.length b.bgrans) then s
          else match s.placeBack l b mates with
            | none => s
            | some ps => done (((((ps.foldl (fun s p => s.putBack y.base p) s).tickFree).relink mates).followSpans mates).wakeGroups mates)
      | _, _, _ => s)

end Sys2Proof.Machine
end

