-- ==== Sys2Proof/Machine/Harts.lean ====
section
/-! DEFINITION. Control cores as the part meets them: their release, their exceptions and CSR accesses, and the APLICs whose messages reach them
(24 R419-R421, R424, R425, 25 R439). The programming of an APLIC is that of the AIA specification (log 34). -/

namespace Sys2Proof.Machine

open Sys2Proof

/-! ## Harts (24 R419-R421) -/

/-- The number of control core n of a die, which its mhartid holds. -/
def mhartid (d n : Nat) : Nat := 8 * d + n

/-- A hart. -/
def State.hart (s : State) (h : Nat) : Hart := SMap.get {} s.harts h
/-- A hart replaced. -/
def State.putHart (s : State) (h : Nat) (x : Hart) : State := { s with harts := s.harts.put h x }

/-- Does an agent act: a hart that has been released, a firmware core that no boot failure has stopped (24 R433)? -/
def State.acts (s : State) (m : Master) : Bool :=
  match m with
  | .hart h => h < 32 && (s.hart h).entry.isSome
  | .firm d => d < 4 && !(s.die d).fwstop

/-- The die of an agent. -/
def masterDie : Master → Nat
  | .hart h => h / 8
  | .firm d => d

/-- What an access of an agent raised: a hart's exception, or nothing. -/
def State.except (s : State) (m : Master) (e : Option HartExc) : State :=
  match m with
  | .hart h => s.putHart h { s.hart h with exc := e }
  | .firm _ => s

/-- An access refused (24 R421). -/
def State.refuse (s : State) (m : Master) : State := { s.except m (some .accessFault) with ans := none }

/-- The exception that a CSR access raises by its mode (24 R420, 25 R439). -/
def modeExc (k : HartMode) : Option HartExc :=
  match k with | .u => some .illegalInstruction | .vs | .vu => some .virtualInstruction | .m | .s => none

/-- An access of a hart to a CSR of value `val`: the mode's exception; a write that is refused raises an illegal-instruction exception and changes nothing;
a read leaves the value in `ans`. -/
def State.csr (s : State) (h : Nat) (o : CsrOp) (val : DWord) (refused : DWord → Bool) (write : DWord → State → State) : State :=
  if !s.acts (.hart h) then s
  else match modeExc o.mode, o.w with
    | some e, _ => { s.except (.hart h) (some e) with ans := none }
    | none, none => { s.except (.hart h) none with ans := some (leBytes 8 val.toNat) }
    | none, some v => if refused v then { s.except (.hart h) (some .illegalInstruction) with ans := none } else write v (s.except (.hart h) none)

/-- The PLACE under which an access decodes its translation: LQDEVATTR's value in force since the hart's last SFENCE.VMA; either value of a changed one,
through a cached translation (24 R420, 04 R109). -/
def State.hartPlace (s : State) (m : Master) (pa place : Nat) : Nat :=
  match m with
  | .hart h =>
    let x := s.hart h
    if (if x.ign == x.ignOn then x.ign else Config.bit s.free pa) then 0 else place
  | .firm _ => place

/-- LQDEVATTR: a CSR access, or the SFENCE.VMA that puts its value in force. -/
def execLqdevattr (h : Nat) (o : DevAttrOp) (s : State) : Host.Outcome State Fault Refusal :=
  .next (match o with
    | .csr o => s.csr h o (if (s.hart h).ign then 1 else 0) (fun v => v.toNat ≥ 2) (fun v s => s.putHart h { s.hart h with ign := v == 1 })
    | .fence => if s.acts (.hart h) then s.putHart h { s.hart h with ignOn := (s.hart h).ign } else s)

/-! ## APLICs (24 R425, log 34) -/

/-- The sources of a die's APLIC. -/
def wiredSources : List Nat := (List.range 19).map (· + 1)

/-- The mode of a source in a domain: 0 inactive, 1 detached, 4 and 5 rising and falling edge, 6 and 7 high and low level; a delegated one is inactive. -/
def Aplic.mode (x : Aplic) (i : Nat) : Nat :=
  let c := SMap.get 0 x.cfg i
  if c.testBit 10 || c % 8 = 2 || c % 8 = 3 then 0 else c % 8

/-- The rectified input of a source whose line stands at a level. -/
def Aplic.input (x : Aplic) (i : Nat) (line : Bool) : Bool := match x.mode i with | 4 | 6 => line | 5 | 7 => !line | _ => false

/-- A domain after its lines or its configuration have changed from `y` with lines `was`: a rising input makes its source pending, a level source
whose input is low is not pending, an inactive one neither pending nor enabled. -/
def Aplic.follow (x y : Aplic) (was now : List Nat) : Aplic :=
  { x with
    ip := wiredSources.filter (fun i =>
      let on := x.input i (now.contains i)
      x.mode i ≠ 0 && ((on && !y.input i (was.contains i)) || (x.ip.contains i && !(x.mode i ≥ 6 && !on))))
    en := x.en.filter (fun i => x.mode i ≠ 0) }

/-- A domain of a die: the S-level one holds the sources that the M-level one delegates. -/
def Die.dom (x : Die) (low : Bool) : Aplic := if low then x.domS else x.domM
/-- Does a domain hold a source? -/
def Die.holds (x : Die) (low : Bool) (i : Nat) : Bool := 1 ≤ i && i ≤ 19 && (!low || (SMap.get 0 x.domM.cfg i).testBit 10)

/-- The message of a source to its target: hart, guest file of an S-level domain, identity. -/
def State.aplicMsi (s : State) (low : Bool) (t : Nat) : State :=
  let hart := field t 31 18
  let guest := if low then field t 17 12 else 0
  if hart < 32 && guest < 8 then s.msi (imsicAddr (!low) guest hart) (field t 10 0) else s

/-- Pending and enabled sources of a domain whose interrupts are enabled go to their targets as messages, and are pending no more. -/
def State.forward (s : State) (d : Nat) (low : Bool) : State :=
  let x := s.die d
  let y := x.dom low
  let go := if y.ie then y.ip.filter y.en.contains else []
  let z : Aplic := { y with ip := y.ip.filter (fun i => !go.contains i) }
  go.foldl (fun s i => s.aplicMsi low (SMap.get (0 : Word) y.target i).toNat) (s.putDie d (if low then { x with domS := z } else { x with domM := z }))

/-- The APLIC source of a die asserted or not. -/
def State.setWired (s : State) (d src : Nat) (on : Bool) : State :=
  let x := s.die d
  let now := if on then insertNat x.aplic src else x.aplic.filter (· != src)
  ((s.putDie d { x with aplic := now, domM := x.domM.follow x.domM x.aplic now, domS := x.domS.follow x.domS x.aplic now }).forward d false).forward d true

/-- Sources as the bits of a word. -/
def sourceBits (l : List Nat) : Nat := l.foldl (fun n i => n + 2 ^ i) 0

/-- A register of a domain as it is read, at an offset. -/
def Die.aplicRead (x : Die) (low : Bool) (o : Nat) : Nat :=
  let y := x.dom low
  if o = 0 then 0x80000004 + (if y.ie then 2 ^ 8 else 0)
  else if o ≤ 0x4C then SMap.get 0 y.cfg (o / 4)
  else if o = 0x1C00 then sourceBits y.ip
  else if o = 0x1D00 then sourceBits (wiredSources.filter (fun i => y.input i (x.aplic.contains i)))
  else if o = 0x1E00 then sourceBits y.en
  else if 0x3004 ≤ o && o ≤ 0x304C then (SMap.get (0 : Word) y.target ((o - 0x3000) / 4)).toNat
  else 0

/-- May a write make a source pending? A level source only while its input is high. -/
def Aplic.settable (y : Aplic) (i : Nat) (line : Bool) : Bool := y.mode i ≠ 0 && !(y.mode i ≥ 6 && !y.input i line)

/-- A write of a register of a domain. -/
def Die.aplicWrite (x : Die) (low : Bool) (o : Nat) (v : Word) : Die :=
  let y := x.dom low
  let n := v.toNat
  let put (z : Aplic) : Die := if low then { x with domS := z } else { x with domM := z }
  let many (l : List Nat) : List Nat := l.filter (fun i => x.holds low i)
  let bits := many (wiredSources.filter v.getLsbD)
  let set (l : List Nat) : Aplic := { y with ip := wiredSources.filter (fun i => y.ip.contains i || (l.contains i && y.settable i (x.aplic.contains i))) }
  let clear (l : List Nat) : Aplic := { y with ip := y.ip.filter (fun i => !l.contains i) }
  let enable (l : List Nat) : Aplic := { y with en := wiredSources.filter (fun i => y.en.contains i || (l.contains i && y.mode i ≠ 0)) }
  let disable (l : List Nat) : Aplic := { y with en := y.en.filter (fun i => !l.contains i) }
  if o = 0 then put { y with ie := v.getLsbD 8 }
  else if o ≤ 0x4C then
    let i := o / 4
    if !x.holds low i then x
    else
      let c := if !low && v.getLsbD 10 then 2 ^ 10 else n % 8
      let u := put ({ y with cfg := y.cfg.set 0 i c }.follow y x.aplic x.aplic)
      -- a source that is no longer delegated is inactive in the lower domain
      if !low && c ≠ 2 ^ 10 then { u with domS := ({ x.domS with cfg := x.domS.cfg.set 0 i 0 } : Aplic).follow x.domS x.aplic x.aplic } else u
  else if o = 0x1C00 then put (set bits)
  else if o = 0x1CDC || o = 0x2000 then put (set (many [n]))
  else if o = 0x1D00 then put (clear bits)
  else if o = 0x1DDC then put (clear (many [n]))
  else if o = 0x1E00 then put (enable bits)
  else if o = 0x1EDC then put (enable (many [n]))
  else if o = 0x1F00 then put (disable bits)
  else if o = 0x1FDC then put (disable (many [n]))
  else if 0x3004 ≤ o && o ≤ 0x304C then
    if x.holds low ((o - 0x3000) / 4) then put { y with target := y.target.set 0 ((o - 0x3000) / 4) v } else x
  else x

/-- A write of an APLIC register, and the messages it leads to: genmsi sends one at once. -/
def State.aplicStore (s : State) (d : Nat) (low : Bool) (o : Nat) (v : Word) : State :=
  if o = 0x3000 then s.aplicMsi low (v.toNat / 2 ^ 18 * 2 ^ 18 + v.toNat % 2 ^ 11)
  else ((s.putDie d ((s.die d).aplicWrite low o v)).forward d false).forward d true

/-- APLIC_WIRED_SOURCE: a line of the die's link; on dies 1 and 2 sources 1 to 17 never assert. -/
def execAplicWiredSource (d src : Nat) (on : Bool) (s : State) : Host.Outcome State Fault Refusal :=
  .next (if src = 0 || src > 17 || (d ≠ 0 && d ≠ 3) then s else s.setWired d src on)

end Sys2Proof.Machine
end

