-- ==== Sys2Proof/Machine/Power.lean ====
section
/-! DEFINITION. Power, current and thermal control: the harts' CSRs, boost, telemetry, the power manager's registers, and the idle states of slices
and cores (spec 25). -/

namespace Sys2Proof.Machine

open Sys2Proof

/-! ## Boost and alarms (25 R437-R440) -/

/-- BOOST holds while it is permitted, no alarm stands and the leader has granted it; the limit in force follows (25 R437, R438). -/
def State.reboost (s : State) : State :=
  let b := s.boosten && s.curalm == 0 && s.boostGrant
  { s with boost := b, pwrLimit := if b then 2800000 else 2400000 }

/-- A new value of CURALM: source 18 of every die follows it, and boost with it (25 R440). -/
def State.setAlarms (s : State) (v : BitVec 5) : State :=
  let s := { s with curalm := v }
  ((List.range 4).foldl (fun s d => s.setWired d 18 (v != 0)) s).reboost

/-- LQCURALM: a CSR access; each 1 written clears its bit, unless an event of the same core cycle sets it. -/
def execLqcuralm (a : HartCsr) (ev : BitVec 5) (s : State) : Host.Outcome State Fault Refusal :=
  let t := s.csr a.hart a.op (s.curalm.setWidth 64) (fun v => v.toNat ≥ 32) (fun v s => s.setAlarms ((s.curalm &&& ~~~(v.setWidth 5)) ||| ev))
  .next (t.setAlarms (t.curalm ||| ev))

/-- The telemetry CSR 0xDC0 + k. -/
def State.telemetry (s : State) (k : Nat) : DWord :=
  match k with
  | 0 => s.pwrLimit ++ s.pwrAvg
  | 1 => s.diePwr
  | 2 => s.temp
  | 3 => s.dramWin
  | _ => s.energy

/-- LQPWRCTL: an access to the CSR, whose BOOST is read only, or to a telemetry CSR, of which all is: a write is refused. -/
def execLqpwrctl (r : PowerCsr) (s : State) : Host.Outcome State Fault Refusal :=
  .next (match r with
    | .control a => s.csr a.hart a.op ((if s.boost then 2 else 0) + if s.boosten then 1 else 0) (fun v => v.toNat ≥ 4)
        (fun v s => ({ s with boosten := v.getLsbD 0 } : State).reboost)
    | .telemetry k a => if k ≥ 5 then s else s.csr a.hart a.op (s.telemetry k) (fun _ => true) (fun _ s => s))

/-- CURRENT_ALARM: event k sets its bit: 0 BUDGET, 1 OVERCUR, 2 THERMAL, 3 DROOP, 4 BOARD. -/
def execCurrentAlarm (k : Nat) (s : State) : Host.Outcome State Fault Refusal :=
  .next (if k ≥ 5 then s else s.setAlarms (s.curalm ||| (1 <<< k)))

/-- BOOST_GRANT: the leader grants or withdraws boost. -/
def execBoostGrant (on : Bool) (s : State) : Host.Outcome State Fault Refusal :=
  .next (if s.leader?.isNone then s else ({ s with boostGrant := on } : State).reboost)

/-- TELEMETRY_UPDATE: the values of one complete 1 ms, and the energy it took; an average more than 5% above the limit sets BUDGET. -/
def execTelemetryUpdate (avg : Word) (pwr tmp uj : DWord) (s : State) : Host.Outcome State Fault Refusal :=
  let above := avg.toNat * 100 > s.pwrLimit.toNat * 105
  let s := { s with pwrAvg := avg, diePwr := pwr, temp := tmp, energy := s.energy + uj }
  .next (if above then s.setAlarms (s.curalm ||| 1) else s)

/-! ## Registers that the firmware writes (01 R24, R31, 24 R423, 25 R441, R443, R446) -/

/-- SLOTTAB row: EN, CEIL and BATON; bits [31:8] are ignored, and a write with any of bits [6:4] set changes nothing. -/
def execSlottabWrite (sl row : Nat) (v : Word) (s : State) : Host.Outcome State Fault Refusal :=
  let x := s.slice sl
  .next (if row ≥ 64 || field v.toNat 6 4 ≠ 0 then s
    else (s.putSlice sl { x with slottab := x.slottab.set 0 row (v &&& 0x8F) }).liftCeilings sl)

/-- CLKRAT: a write with bits [31:3] nonzero changes nothing. -/
def execClkratWrite (sl : Nat) (v : Word) (s : State) : Host.Outcome State Fault Refusal :=
  -- cycles that began before the write keep their length (01 R31)
  .next (if v.toNat ≥ 8 then s else s.putSlice sl { s.idled sl s.now with clkrat := v.setWidth 3 })

/-- PASSCNT: a write with N = 0b11 or bits [31:2] nonzero changes nothing. -/
def execPasscntWrite (core : Nat) (v : Word) (s : State) : Host.Outcome State Fault Refusal :=
  .next (if v.toNat ≥ 3 then s else s.putCore core { s.core core with passcnt := v.setWidth 2 })

/-- TOKBAL: EN, RATE and CAP, in force from the next core cycle; a CAP below 8 changes nothing. -/
def execTokbalWrite (sl : Nat) (v : Word) (s : State) : Host.Outcome State Fault Refusal :=
  let x := s.slice sl
  .next (if (v.extractLsb' 16 8).toNat < 8 then s else s.putSlice sl { x with tokNext := x.tokNext ++ [(s.now / 10 + 1, v)] })

/-- DRAM_ACTIVATION_WINDOW: WINd of a die. -/
def execDramActivationWindow (d : Nat) (v : BitVec 16) (s : State) : Host.Outcome State Fault Refusal :=
  .next (if d ≥ 4 then s
    else { s with dramWin := (s.dramWin &&& ~~~((0xFFFF : DWord) <<< (16 * d))) ||| (v.setWidth 64 <<< (16 * d)) })

/-! ## Idle states (25 R447, R448) -/

/-- L of a core: the least LATTOL over the live regions whose core set holds it, in ns; none without one. -/
def State.tolerance (s : State) (core : Nat) : Option Nat :=
  s.launches.foldl (fun m l => if l.2.eff.hasCore core then (match m with | some k => some (min k l.2.eff.lattol) | none => some l.2.eff.lattol) else m) none

/-- Is a state of a wake latency, in ns, allowed on a core? A LATTOL of 0 forbids every idle state. -/
def State.mayIdle (s : State) (core ns : Nat) : Bool := match s.tolerance core with | some k => ns ≤ k | none => true

/-- A thread of a slice is eligible. -/
def State.sliceAwake (s : State) (sl : Nat) : Bool := s.groups.any (fun g => sliceOf g.1 == sl && g.2.eligible != 0)

/-- A core has a resident block. -/
def State.occupied (s : State) (core : Nat) : Bool := s.blocks.any (fun b => b.2.core == core && b.2.saved.isNone)

/-- SGATE: a slice with no eligible thread and nothing in E1-E4 stops its clock. -/
def execSgate (sl : Nat) (s : State) : Host.Outcome State Fault Refusal :=
  let x := s.idled sl s.now
  .next (if x.gated || s.sliceAwake sl || !x.stages.isEmpty || !s.mayIdle (sl / 6) 20 then s else s.putSlice sl { x with gated := true })

/-- A core's clock stops: its slices hold where they stand (01 R34, R35). -/
def State.stopCore (s : State) (core : Nat) (to_ : CoreIdle) : State :=
  let s := (List.range 6).foldl (fun (s : State) i => s.putSlice (sliceKey core i) ((s.idled (sliceKey core i) s.now).refills (s.now / 10))) s
  s.putCore core { s.core core with idle := to_ }

/-- CGATE: a core with no resident block stops its clock. -/
def execCgate (core : Nat) (s : State) : Host.Outcome State Fault Refusal :=
  .next (if (s.core core).idle != .on || s.occupied core || !s.mayIdle core 200 then s else s.stopCore core .cgate)

/-- COFF: a core with no resident block for 100 µs is powered down: its instruction cache is emptied. -/
def execCoff (core : Nat) (s : State) : Host.Outcome State Fault Refusal :=
  let c := s.core core
  .next (if c.idle == .coff || s.occupied core || s.now < c.emptied + 1400000 || !s.mayIdle core 5000 then s
    else
      let t := s.stopCore core .coff
      t.putCore core { t.core core with icache := [] })

/-- A slice starts its clock again after its wake latency of 20 ns. -/
def State.wakeSlice (s : State) (sl : Nat) : State :=
  let x := s.slice sl
  s.putSlice sl { x with gated := false, tick := max x.tick s.now + 280 }

/-- UNIT_WAKE: slices with an eligible thread wake; a core with a block wakes; and a unit leaves a state that its tolerance no longer allows. -/
def execUnitWake (core : Nat) (s : State) : Host.Outcome State Fault Refusal :=
  let s := (List.range 6).foldl (fun s i =>
    let sl := sliceKey core i
    if (s.slice sl).gated && (s.sliceAwake sl || !s.mayIdle core 20) then s.wakeSlice sl else s) s
  let c := s.core core
  let to_ : CoreIdle := match c.idle with
    | .on => .on
    | .cgate => if s.occupied core || !s.mayIdle core 200 then .on else .cgate
    | .coff => if s.occupied core || !s.mayIdle core 200 then .on else if s.mayIdle core 5000 then .coff else .cgate
  .next (if to_ = c.idle then s else if to_ = .on then s.wakeCore core (fun _ => false) else s.putCore core { s.core core with idle := to_ })

end Sys2Proof.Machine
end

