-- ==== Sys2Proof/Machine/Links.lean ====
section
/-! DEFINITION. Fabric links, their injectors, reproducible collectives and attestation quotes (spec 26). -/

namespace Sys2Proof.Machine

open Sys2Proof

/-! ## Links (26 R452-R455). Package link l is link l mod 4 of die l / 4. -/

/-- A link. -/
def State.link (s : State) (l : Nat) : Link := SMap.get {} (s.die (l / 4)).links (l % 4)
/-- A link replaced; source 19 of its die is asserted while an EVT bit is set (26 R455). -/
def State.putLink (s : State) (l : Nat) (x : Link) : State :=
  let d := s.die (l / 4)
  let links := d.links.put (l % 4) x
  (s.putDie (l / 4) { d with links }).setWired (l / 4) 19 (links.any (fun y => y.2.evt))

/-- Fields of FINJCTL. -/
def Link.armed (x : Link) : Bool := x.finjctl.getLsbD 0
def Link.finj (x : Link) (hi lo : Nat) : Nat := field x.finjctl.toNat hi lo

/-- A direction of a link: into the package, or out of it. -/
def Link.dir (x : Link) (inn : Bool) : LinkDir := if inn then x.into else x.out
/-- A direction replaced. -/
def Link.putDir (x : Link) (inn : Bool) (y : LinkDir) : Link := if inn then { x with into := y } else { x with out := y }

/-- Does the link carry flits? -/
def Link.carries (x : Link) : Bool := x.up && !x.training

/-- A flit put on the wire of a direction, once what an injector holds has gone. -/
def LinkDir.put (y : LinkDir) (now : Nat) (f : Nat × DWord) (lanes hurt : BitVec 8) (held : Nat) : LinkDir :=
  let due := max now y.gate + held
  { y with wire := y.wire ++ [{ num := f.1, pay := f.2, hurt, lanes, due }], gate := due }

/-- A flit sent: going out, the injector counts it, and acts on the Nth: it damages the lane's share, or holds the flit, and those behind it, for
DELAY × 16 ticks (26 R457). -/
def Link.transmit (x : Link) (inn : Bool) (now : Nat) (f : Nat × DWord) : Link :=
  let lane := x.finj 8 6
  if inn || !x.armed || !x.lanes.getLsbD lane then x.putDir inn ((x.dir inn).put now f x.lanes 0 0)
  else
    let n := x.finjcnt + 1
    if n.toNat = x.finj 47 32 then
      let delay := x.finj 5 4 = 2
      { x with
        out := x.out.put now f x.lanes (if delay then 0 else 1 <<< lane) (if delay then 16 * x.finj 31 16 else 0), evt := true
        finjcnt := if x.finj 1 1 = 1 then 0 else n, finjctl := if x.finj 1 1 = 1 then x.finjctl else x.finjctl &&& ~~~1 }
    else { x with out := x.out.put now f x.lanes 0 0, finjcnt := n }

/-- A message given the next number and sent, and kept until it is acknowledged. -/
def Link.sendNew (x : Link) (inn : Bool) (now : Nat) (pay : DWord) : Link :=
  let y := x.dir inn
  (x.putDir inn { y with
    heard := if y.retry.isEmpty then now else y.heard, next := (y.next + 1) % 4096, retry := y.retry ++ [(y.next, pay)] }).transmit inn now (y.next, pay)

/-- Messages that wait are sent while the link carries flits and fewer than 256 are unacknowledged. -/
def Link.pump (x : Link) (inn : Bool) (now : Nat) : Nat → Link
  | 0 => x
  | k + 1 =>
    let y := x.dir inn
    match y.waiting with
    | m :: rest => if x.carries && y.retry.length < 256 then ((x.putDir inn { y with waiting := rest }).sendNew inn now m).pump inn now k else x
    | [] => x

/-- Unacknowledged flits of a direction sent again, in sequence order; a flit that an injector holds does not hold them. -/
def Link.resend (x : Link) (inn : Bool) (now : Nat) : Link :=
  if !x.carries then x
  else (x.dir inn).retry.foldl (fun x f => { x.transmit inn now f with rply := (x.rply + 1) % 2 ^ 64 }) (x.putDir inn { x.dir inn with heard := now, gate := now })

/-- Flits below a number leave the retry buffer. -/
def LinkDir.acked (y : LinkDir) (n now : Nat) : LinkDir :=
  let keep := y.retry.filter (fun f => (f.1 + 4096 - n) % 4096 < 2048)
  { y with retry := keep, heard := if keep.length < y.retry.length then now else y.heard }

/-- FLIT_SEND: a message for a direction of the link. -/
def execFlitSend (d : LinkEnd) (pay : DWord) (s : State) : Host.Outcome State Fault Refusal :=
  let x := s.link d.link
  let y := x.dir d.inn
  .next (s.putLink d.link ((x.putDir d.inn { y with waiting := y.waiting ++ [pay] }).pump d.inn s.now (y.waiting.length + 1)))

/-- CRC errors of a lane within the last 1 ms. -/
def Link.errors (x : Link) (now lane : Nat) : Nat := ((SMap.get [] x.errs lane).filter (fun t => now < t + 14000000)).length

/-- A CRC error on some lanes: counted in FLCRC and in each lane's window. -/
def Link.badCrc (x : Link) (now : Nat) (bad : BitVec 8) : Link :=
  { x with
    errs := (List.range 8).foldl (fun (m : SMap (List Nat)) i => if bad.getLsbD i then m.put i (now :: SMap.get [] m i) else m) x.errs
    crc := (x.crc + 1) % 2 ^ 64 }

/-- What a receiver does with a flit: it delivers and acknowledges the next expected, discards one already delivered or one that waits for the replay, and
answers any other with a NAK and discards until the replay. -/
def LinkDir.receive (y : LinkDir) (f : Flit) (bad : Bool) : LinkDir :=
  let nak : LinkDir := { y with naks := y.naks ++ [y.expect], discard := true }
  if bad then (if y.discard && f.num ≠ y.expect then y else nak)
  else if f.num = y.expect then
    { y with delivered := y.delivered ++ [f.pay], expect := (f.num + 1) % 4096, discard := false, acks := y.acks ++ [(f.num + 1) % 4096] }
  else if (y.expect + 4096 - f.num) % 4096 ≤ 2048 || y.discard then y
  else nak

/-- FLIT_RECEIVE: the next flit in flight that no injector holds reaches the receiver, with errors on some of the lanes that carried it. -/
def execFlitReceive (d : LinkEnd) (lane : BitVec 8) (s : State) : Host.Outcome State Fault Refusal :=
  let x := s.link d.link
  let y := x.dir d.inn
  .next (match y.wire.findIdx? (fun f => f.due ≤ s.now) with
    | none => s
    | some i =>
      match y.wire[i]? with
      | none => s
      | some f =>
        let bad := f.hurt ||| (lane &&& f.lanes)
        let x := x.putDir d.inn (({ y with wire := y.wire.eraseIdx i } : LinkDir).receive f (bad != 0))
        s.putLink d.link (if bad = 0 then x else x.badCrc s.now bad))

/-- ACK_RECEIVE: an acknowledgement reaches the sender. -/
def execAckReceive (d : LinkEnd) (s : State) : Host.Outcome State Fault Refusal :=
  let x := s.link d.link
  let y := x.dir d.inn
  .next (match y.acks with
    | [] => s
    | n :: rest => s.putLink d.link ((x.putDir d.inn (({ y with acks := rest } : LinkDir).acked n s.now)).pump d.inn s.now y.waiting.length))

/-- NAK_RECEIVE: the sender replays from the flit that a NAK names. -/
def execNakReceive (d : LinkEnd) (s : State) : Host.Outcome State Fault Refusal :=
  let x := s.link d.link
  let y := x.dir d.inn
  .next (match y.naks with
    | [] => s
    | n :: rest => s.putLink d.link ((x.putDir d.inn (({ y with naks := rest } : LinkDir).acked n s.now)).resend d.inn s.now))

/-- ACK_TIMEOUT: no acknowledgement within 1 µs: the sender replays from its oldest unacknowledged flit. -/
def execAckTimeout (d : LinkEnd) (s : State) : Host.Outcome State Fault Refusal :=
  let x := s.link d.link
  let y := x.dir d.inn
  .next (if y.retry.isEmpty || s.now < y.heard + 14000 then s else s.putLink d.link (x.resend d.inn s.now))

/-- The widest of 4, 2 or 1 lanes that good lanes form: their mask and the WIDTH code. -/
def widest (good : BitVec 8) : BitVec 8 × BitVec 2 :=
  let ls := (List.range 8).filter good.getLsbD
  let n := if ls.length ≥ 4 then 4 else if ls.length ≥ 2 then 2 else ls.length
  ((ls.take n).foldl (fun m i => m ||| (1 <<< i)) 0, match n with | 4 => 1 | 2 => 2 | _ => 3)

/-- A link gives up lanes: both ends stop sending and retrain with what is left; without a good lane it is down. -/
def Link.shedLanes (x : Link) (bad : BitVec 8) : Link :=
  let good := x.good &&& ~~~bad
  let (lanes, width) := widest good
  let x := { x with good, lanes, width, evt := true, shed := (x.shed + 1) % 2 ^ 64 }
  if good = 0 then { x with down := true, up := false, training := false } else { x with training := true }

/-- LANE_SHED: some lane in use has recorded more than 16 CRC errors in 1 ms. -/
def execLaneShed (l : Nat) (s : State) : Host.Outcome State Fault Refusal :=
  let x := s.link l
  let bad : BitVec 8 := (List.range 8).foldl (fun m i => if x.lanes.getLsbD i && x.errors s.now i > 16 then m ||| (1 <<< i) else m) 0
  .next (if bad = 0 || !x.carries then s else s.putLink l (x.shedLanes bad))

/-- Both directions of a link go on: what is unacknowledged is sent again, and then what waits. -/
def Link.goOn (x : Link) (now : Nat) : Link :=
  [false, true].foldl (fun x inn => (x.resend inn now).pump inn now (x.dir inn).waiting.length) x

/-- RETRAIN_COMPLETE: retraining ends at the new width, and the replay begins; lanes that failed it are shed. -/
def execRetrainComplete (l : Nat) (bad : BitVec 8) (s : State) : Host.Outcome State Fault Refusal :=
  let x := s.link l
  .next (if !x.training then s
    else if bad &&& x.lanes ≠ 0 then s.putLink l (x.shedLanes (bad &&& x.lanes))
    else s.putLink l (({ x with training := false } : Link).goOn s.now))

/-- A direction after a reset of its link: nothing is in flight, and the receiver acknowledges again what it has delivered. -/
def LinkDir.restart (y : LinkDir) : LinkDir := { y with wire := [], gate := 0, acks := [y.expect], naks := [], discard := false }

/-- LINK_RESET: firmware brings a link up at full width; what was in flight is sent again, and what waited is sent. -/
def execLinkReset (l : Nat) (s : State) : Host.Outcome State Fault Refusal :=
  let x := s.link l
  let x := { x with up := true, down := false, lanes := 0xFF, good := 0xFF, width := 0, training := false, errs := [], out := x.out.restart, into := x.into.restart }
  .next (s.putLink l (x.goOn s.now))

/-- FINJCTL: a write; one that sets ARM is refused without permission, with N 0, ACT 0b11 or a reserved bit set (26 R457, log 30). -/
def execFinjctl (l : Nat) (v : DWord) (s : State) : Host.Outcome State Fault Refusal :=
  let x := s.link l
  let n := v.toNat
  let reserved := field n 15 9 ≠ 0 || field n 3 2 ≠ 0
  let permitted := match s.resolve (l / 4) (field n 63 48) with | some e => e.inject | none => false
  .next (if v.getLsbD 0 then
      (if reserved || field n 47 32 = 0 || field n 5 4 = 3 || !permitted then s.putLink l { x with finjctl := x.finjctl &&& ~~~1 }
       else s.putLink l { x with finjctl := v, finjcnt := 0 })
    else if reserved then s else s.putLink l { x with finjctl := v })

/-! ## Collectives (26 R458, R459) -/

/-- The descriptor of a collective, as 64 bytes. -/
structure CollDesc where
  src : Nat
  dst : Nat
  ranktab : Nat
  count : Nat
  p : Nat
  rank : Nat
  op : Nat
  ty : Nat
  compl : Nat
  clean : Bool
  deriving DecidableEq, Repr

/-- Read at the die's descriptor address. -/
def State.collDesc (s : State) (d : Nat) : CollDesc :=
  let a := dramLoc 0 (s.die d).colldesc.toNat
  let f (o n : Nat) : Nat := s.numAt (a + o) n
  { src := f 0 8, dst := f 8 8, ranktab := f 16 8, count := f 24 4, p := f 28 2, rank := f 30 2, op := f 32 1, ty := f 33 1, compl := f 40 8
    clean := f 34 6 = 0 && f 48 8 = 0 && f 56 8 = 0 }

/-- Element size of a type. -/
def CollDesc.size (c : CollDesc) : Nat := if c.ty = 2 then 2 else 4
/-- Is an address range in DRAM? -/
def inDram (a n : Nat) : Bool := a + n ≤ 2 ^ 37

/-- Fields valid, and no address refused. -/
def CollDesc.valid (c : CollDesc) : Bool :=
  1 ≤ c.count && c.count ≤ 16777216 && 1 ≤ c.p && c.p ≤ 4096 && c.rank < c.p && c.op ≤ 2 && [1, 2, 4, 5].contains c.ty && c.clean
    && inDram c.src (c.count * c.size) && inDram c.dst (c.count * c.size) && inDram c.ranktab (2 * c.p) && inDram c.compl 8

/-- One combination; the first operand is the lower rank's. -/
def CollDesc.combine (c : CollDesc) (a b : Word) : Word :=
  let t : TyCode := match c.ty with | 1 => .f32 | 2 => .bf16 | 4 => .s32 | _ => .u32
  AOp.apply (match c.op with | 0 => .add | 1 => .min | _ => .max) t a b

/-- One level of the tree. -/
def pairUp (f : Word → Word → Word) : List Word → List Word
  | a :: b :: l => f a b :: pairUp f l
  | l => l

/-- The tree over the ranks: levels until one value is left. -/
def reduceTree (f : Word → Word → Word) : Nat → List Word → Word
  | 0, l => l.headD 0
  | k + 1, l => reduceTree f k (pairUp f l)

/-- The rank table: package and die of each rank. -/
def State.rankTab (s : State) (c : CollDesc) : List Nat := (List.range c.p).map (fun r => s.numAt (dramLoc 0 (c.ranktab + 2 * r)) 2)

/-- The ranks of a collective that lie in the package of one of them: rank and die. -/
def localRanks (tab : List Nat) (rank : Nat) : List (Nat × Nat) :=
  ((tab.zipIdx).filter (fun x => x.1 / 4 = tab.getD rank 0 / 4)).map (fun x => (x.2, x.1 % 4))

/-- COLLCTL.GO: the engine takes the die's descriptor; ignored while it is busy. -/
def execCollctlGo (d : Nat) (s : State) : Host.Outcome State Fault Refusal :=
  let x := s.die d
  .next (if x.collbusy then s else (s.putDie d { x with collbusy := true }).addDue [.collective d])

/-- A die's part of a collective ends: COMPL is written, and the engine is free. -/
def State.collEnd (s : State) (d : Nat) (compl code : Nat) : State :=
  let s := if inDram compl 8 then s.writeAt (dramLoc 0 compl) (leBytes 8 code) (some (frontRel d)) else s
  s.putDie d { s.die d with collbusy := false }

/-- COMPL of a die's descriptor; none outside DRAM. -/
def State.collCompl (s : State) (d : Nat) : Nat := if inDram (s.die d).colldesc.toNat 64 then (s.collDesc d).compl else 2 ^ 64

/-- Collectives of some dies end, with one code. -/
def State.collEnds (s : State) (ds : List Nat) (code : Nat) : State :=
  (ds.map (fun d => (d, s.collCompl d))).foldl (fun s x => s.collEnd x.1 x.2 code) s

/-- Does a descriptor say who its ranks are? -/
def CollDesc.ranked (c : CollDesc) : Bool := 1 ≤ c.p && c.p ≤ 4096 && c.rank < c.p && inDram c.ranktab (2 * c.p)

/-- The ranks of a die's collective in this package; none where its descriptor does not say them, or has its own rank on another die. -/
def State.collRanks (s : State) (d : Nat) : Option (List (Nat × Nat)) :=
  let c := s.collDesc d
  if inDram (s.die d).colldesc.toNat 64 && c.ranked && s.numAt (dramLoc 0 (c.ranktab + 2 * c.rank)) 2 % 4 == d then some (localRanks (s.rankTab c) c.rank) else none

/-- The result of one element. -/
def State.collElem (s : State) (c : CollDesc) (locals : List (Nat × Nat)) (i : Nat) : Word :=
  reduceTree c.combine 12 ((List.range c.p).map (fun r =>
    match locals.find? (fun x => x.1 = r) with
    | some (_, d) => BitVec.ofNat 32 (s.numAt (dramLoc 0 ((s.collDesc d).src + c.size * i)) c.size)
    | none => if c.size = 2 then Config.peerElem s.free r i &&& 0xFFFF else Config.peerElem s.free r i))

/-- A die whose own part of a collective has ended with the error before others' of this package have: they are to end with it when they set GO. -/
def State.collOwe (s : State) (d : Nat) (ds : List Nat) : State := s.putDie d { s.die d with collOwes := ds }

/-- The die among the ranks of a collective whose failed part this die's is still to follow. -/
def State.collOwed (s : State) (d : Nat) (locals : List (Nat × Nat)) : Option Nat :=
  (locals.find? (fun x => x.2 != d && (s.die x.2).collOwes.contains d)).map (·.2)

/-- COLLECTIVE_COMPLETE: once every rank of the package has set GO, the tree is reduced and every one of them gets the result, or, where a field of one is
invalid or they disagree, the error; ranks outside the package give free values. A die whose descriptor does not say its ranks ends with the error; those
that count it among theirs end with it too, at once or when they set GO (log 40). -/
def execCollectiveComplete (d : Nat) (s : State) : Host.Outcome State Fault Refusal :=
  .next (if !(s.die d).collbusy then s
    else match s.collRanks d with
      | none =>
        let with_ := (List.range 4).filter (fun k => k != d && (s.die k).collbusy && (s.collRanks k).any (fun l => l.any (fun x => x.2 == d)))
        (s.collEnds (d :: with_) 2).collOwe d ((List.range 4).filter (fun k => k != d && !with_.contains k))
      | some locals =>
        match s.collOwed d locals with
        | some k => (s.collEnds [d] 2).collOwe k ((s.die k).collOwes.filter (· != d))
        | none =>
          let c := s.collDesc d
          if !(locals.all (fun x => (s.die x.2).collbusy)) then s
          else
            let agree := locals.all (fun x => let e := s.collDesc x.2
                (s.collRanks x.2).isSome && e.valid && e.p = c.p && e.count = c.count && e.op = c.op && e.ty = c.ty && e.rank = x.1)
              && (locals.length = c.p || Config.peerAgrees s.free d)
            if !agree then s.collEnds (locals.map (·.2)).eraseDups 2
            else
              let bytes := (List.range c.count).flatMap (fun i => leBytes c.size (s.collElem c locals i).toNat)
              let t := locals.foldl (fun (t : State) x => t.writeAt (dramLoc 0 (s.collDesc x.2).dst) bytes (some (frontRel x.2))) s
              ((locals.map (fun x => (x.2, s.collCompl x.2))).foldl (fun t x => t.collEnd x.1 x.2 1) t).tickFree)

/-! ## Images (24 R433, R434) -/

/-- Is an image accepted as one of a kind (24 R434), its reserved bytes zero (00 R6, R7)? -/
def imageOkay (kind : Nat) (b : List Byte) : Bool :=
  let f (o n : Nat) : List Byte := (b.drop o).take n
  let size := leNat (f 12 4)
  leNat (f 0 4) = 0x4C51494D && leNat (f 4 2) = 1 && leNat (f 6 2) = kind && Config.keySlots.contains (Config.sha256 (f 64 384))
    && Config.svnFloor kind ≤ leNat (f 8 4) && Config.pssValid (f 64 384) (f 0 448) (f 448 384) && Config.sha256 (f 1024 size) == f 32 32
    && leNat (f 832 192) = 0

/-- The last boot step that a die's firmware core completes alone, and a failure's code. -/
def bootStep (d : Nat) : Nat × Byte :=
  if !Config.training d then (0, Config.failCode d 1)
  else if !imageOkay 1 (Config.flash d 1) then (1, Config.failCode d 2)
  else (5, 0)

/-- The dies whose firmware cores complete boot's first five steps, and the one that they elect. -/
def bootUp : List Nat := (List.range 4).filter (fun d => (bootStep d).1 = 5)
def bootLeader : Option Nat := bootUp[Config.choice 0 0 % max 1 bootUp.length]?

/-! ## Attestation (26 R460, R461) -/

/-- ATTCTL.GO: a quote is requested. -/
def execAttctlGo (d : Nat) (s : State) : Host.Outcome State Fault Refusal :=
  let x := s.die d
  .next (if x.attbusy || x.attbuf.toNat % 1024 ≠ 0 || !inDram x.attbuf.toNat 1024 then s
    else (s.putDie d { x with attbusy := true }).addDue [.quote d])

/-- Is a hand-over pending: PEND, and the EPOCH at its writing equals the lease's? -/
def State.handoverPending (s : State) : Bool := s.handover.getLsbD 63 && field s.handover.toNat 13 0 == field s.lease.toNat 61 48

/-- The measurement of an image: SHA-256 from byte 0 to byte 1,023 + BODYSIZE; and its security version (24 R434, 26 R460). -/
def measureOf (b : List Byte) : List Byte := Config.sha256 (b.take (1024 + leNat ((b.drop 12).take 4)))
def svnOf (b : List Byte) : Nat := leNat ((b.drop 8).take 4)

/-- Bytes 0 to 255 of a quote by a leader: its Umaov image, its successor's, and the hart runtime and loader that boot's leader accepted. -/
def State.quoteBody (s : State) (lead : Nat) (nonce : List Byte) : List Byte :=
  let pend := s.handoverPending
  let succ := field s.handover.toNat 62 61
  let zeros (n : Nat) : List Byte := List.replicate n 0
  let hash (d k : Nat) : List Byte := (measureOf (Config.flash d k) ++ zeros 32).take 32
  let boot := bootLeader.getD lead
  leBytes 4 0x4C515154 ++ leBytes 2 1 ++ [if pend then 1 else 0, BitVec.ofNat 8 lead] ++ leBytes 8 (field s.lease.toNat 61 48)
    ++ leBytes 8 (timeAt lead s.now) ++ nonce ++ leBytes 4 (svnOf (Config.flash lead 1)) ++ leBytes 4 (if pend then svnOf (Config.flash succ 1) else 0)
    ++ hash lead 1 ++ (if pend then hash succ 1 else zeros 32) ++ hash boot 2 ++ hash boot 3 ++ zeros 64

/-- QUOTE_SIGN: the leader signs, and releases the quote only when the lease is the one it holds. -/
def execQuoteSign (d : Nat) (s : State) : Host.Outcome State Fault Refusal :=
  let x := s.die d
  .next (match x.attbusy, s.leader? with
    | true, some lead =>
      if (s.die lead).lead != some s.lease then s
      else
        let a := dramLoc 0 x.attbuf.toNat
        let body := s.quoteBody lead (s.bytesAt (a + 24) 32)
        let sig := (Config.sign body ++ List.replicate 384 0).take 384
        let s := s.writeAt a (body ++ sig ++ List.replicate 384 0) (some (frontRel d))
        s.putDie d { s.die d with attbusy := false, attdone := true }
    | _, _ => s)

end Sys2Proof.Machine
end

