-- ==== Sys2Proof/Machine/Twin.lean ====
section
/-! DEFINITION. Twin execution: comparison of the copies' instructions, what happens when they agree or differ, and the rendezvous of their
checkpoints (spec 16 R359-R361). -/

namespace Sys2Proof.Machine

open Sys2Proof

/-- A pair of copies has something to compare, or a result on its way. -/
def State.twinBusy (s : State) (t : Nat) : Bool :=
  match s.twins.find? t with | some x => !x.lq.isEmpty || !x.tq.isEmpty || !x.flights.isEmpty | none => false

/-- A group put back to its checkpoint: it keeps its slot, its baton, its counters and a trap it has taken. -/
def Group.restored (g : Group) (c : Group) : Group :=
  { c with
    baton := g.baton, gissue := g.gissue, gcycle := g.gcycle, ghold := g.ghold, gidle := g.gidle, gticks := g.gticks, trap := g.trap
    fault := g.fault, tgen := g.tgen, ckptWait := false, overCls := none
    lanes := c.lanes.map (fun l => (l.1, { l.2 with ready := 0 })) }

/-- The requests of a group made since its checkpoint dropped, but for those that are compared and under way; a copy that was kicked and not compared is
built again. -/
def State.dropRequests (s : State) (key at_ : Nat) (q : List TwinEntry) : State :=
  let core := coreOf key
  let c := s.core core
  let tags := q.foldl (fun (m : SMap Copy) (e : TwinEntry) => match e.op with
    | .copy n => m.update n (fun x => { x with st := .built })
    | _ => m) c.tags
  s.putCore core { c with tags, reqs := c.reqs.filterMap (fun r =>
    if r.key != key || r.id < at_ then some r else if r.cmpd then some { r with lanes := 0, dead := true } else none) }

/-- A copy put back to its checkpoint; a lane that waited on a barrier whose phase has completed since waits no more. -/
def State.restoreCopy (s : State) (key : Nat) (c : Option Group) : State :=
  match s.group? key, c with
  | some g, some c =>
    let s := s.putGroup key (g.restored c)
    (match s.group? key with
     | some g => s.putGroup key (g.onLanes g.live (fun _ x => match x.wait with
         | .bar lv n p => if p < (s.bar lv key g.blk n).phase then { x with wait := .none } else x
         | _ => x))
     | none => s)
  | _, _ => s

/-- A flight after its pair has been put back: one from before the checkpoint goes on; of another the trailing copy expects nothing any more. -/
def Flight.putBack (f : Flight) (at_ : Nat) : Flight := { f with trail := f.trail.filter (· < at_) }

/-- The signatures of a pair differ: counted, every uncompared entry discarded, and both copies restored (16 R361). -/
def State.twinDiffer (s : State) (t : Nat) (x : Twin) : State :=
  let s := s.countR (dieOf (coreOf x.lead)) 6
  let s := (s.dropRequests x.lead x.ckptAt x.lq).dropRequests x.trail x.ckptAt x.tq
  let s := (s.restoreCopy x.lead x.ckptL).restoreCopy x.trail x.ckptT
  { s with twins := s.twins.put t { x with
      lq := [], tq := [], flights := x.flights.map (·.putBack x.ckptAt), takenL := 0, takenT := 0, lastL := 0, lastT := 0, takers := [] } }

/-- A compared request performed through the leading copy. -/
def State.twinRequest (s : State) (x : Twin) (id : Nat) : State :=
  let core := coreOf x.lead
  match s.req? core id with
  | some r =>
    let c := s.core core
    let r := { r with st := .queued, cmpd := true, accs := r.accs.map (fun a => if a.st == .sleep then { a with st := .todo, told := true } else a) }
    let w : Work := match r.kind with | .atom _ => .perform core id | .cas => .perform core id | _ => .serve core id
    ((s.putCore core { c with clinereq := (c.clinereq + r.miss) % 2 ^ 64 }).putReq core r).addDue [w]
  | none => s

/-- The requests of a pair that agrees performed through the leading copy; those with a result have their place in the log (16 R360). -/
def State.twinRequests (s : State) (t : Nat) (x : Twin) (a b : List Nat) (result : Bool) : State :=
  let rs := a.filterMap (fun id => s.req? (coreOf x.lead) id)
  let ldwe := rs.any (fun r => r.kind == .ldwe)
  let lanes := accLanes (rs.flatMap (fun r => r.accs.filter (fun a => !ldwe || a.st == .sleep)))
  let e : TwinLog := { pc := (rs.map (·.pc)).headD 0, ldwe, lanes }
  let s : State := { s with twins := s.twins.put t { x with
    flights := x.flights ++ [{ lead := a, trail := b, result, log := if result then some x.log.length else none }]
    log := if result then x.log ++ [e] else x.log } }
  a.foldl (fun s id => s.twinRequest x id) s

/-- A call of a group under another ticket. -/
def Group.reticket (g : Group) (a k : Nat) : Group := { g with calls := g.calls.map (fun c => if c.ticket = a then { c with ticket := k } else c) }

/-- A system call's ticket drawn for a pair, and the call posted through the leading copy; none while the ring is full. The trailing copy's waits under the
ticket with bit 32 set. -/
def State.twinCall (s : State) (x : Twin) (a b : Nat) (num : Word) (args : List Word) (time : Nat) (pc : DWord) : Option State :=
  match s.group? x.lead with
  | none => some s
  | some g =>
    match s.effOf g.blk, (s.effOf g.blk).bind s.ringOf with
    | some e, some r =>
      if !r.room then none
      else
        let (k, s) := s.drawTicket r
        let s : State := { s.putGroup x.lead (g.reticket a k) with groups := (s.putGroup x.lead (g.reticket a k)).groups.update x.trail (·.reticket b (2 ^ 32 + k)) }
        some ((s.notReplayable (match s.block? g.blk with | some b => b.launch | none => 0)).postCall
          r x.lead g.blk k e.rid num args time pc)
    | _, _ => some s

/-- What an instruction does once its pair has been compared equal; none while it must wait. -/
def State.twinAgree (s : State) (t : Nat) (x : Twin) (l r : TwinOp) : Option State :=
  let launch := match (s.group? x.lead).bind (fun g => s.block? g.blk) with | some b => b.launch | none => 0
  match l, r with
  | .req a w, .req b _ => some (s.twinRequests t x a b w)
  | .copy a, .copy b =>
    let core := coreOf x.lead
    some ((match (s.core core).tag? a with
      | some c => s.putTag core a { c with pair := some (coreOf x.trail, b) }
      | none => s).addDue [.copy core a])
  | .emit es, _ => some (({ s with emitted := s.emitted ++ es }.notReplayable launch).addDue
      [.vane (s.graphDie (match es with | e :: _ => e.graph | [] => 0))])
  | .timer n d, _ => some ((s.compareAt (coreOf x.lead) n (s.now / 10 * 10)).armTimer (coreOf x.lead) n d)
  | .call num args time pc a, .call _ _ _ _ b => s.twinCall x a b num args time pc
  | _, _ => some s

/-- Have the stores of a flight been performed: they have left the leading copy's memory unit, and its entries to the places have drained? -/
def State.landed (s : State) (x : Twin) (f : Flight) : Bool :=
  !f.result && f.lead.all (fun id => (s.req? (coreOf x.lead) id).isNone) &&
    f.trail.all (fun id => match s.req? (coreOf x.trail) id with | some q => q.accs.all (fun a => !s.undrainedAt (coreOf x.lead) a.loc a.n) | none => true)

/-- Stores of a pair that have been performed: the trailing copy's requests end with them. -/
def State.landFlights (s : State) (t : Nat) : State :=
  match s.twins.find? t with
  | none => s
  | some x =>
    let over_ := x.flights.filter (s.landed x)
    if over_ = [] then s
    else
      let s := (over_.flatMap (·.trail)).foldl (fun s id => s.delReq (coreOf x.trail) id) s
      { s with twins := s.twins.put t { x with flights := x.flights.filter (fun f => !over_.contains f) } }

/-- TWIN_COMPARE: the oldest entries of the two copies are compared; an instruction with no partner, because the other copy has exited, differs. -/
def execTwinCompare (t : Nat) (s : State) : Host.Outcome State Fault Refusal :=
  let s := s.landFlights t
  .next (match s.twins.find? t with
    | none => s
    | some x =>
      match x.lq, x.tq with
      | l :: lq, r :: tq =>
        if l.wait || r.wait then s
        else if l.sig == r.sig then
          match s.twinAgree t x l.op r.op with
          | some s => (({ s with twins := s.twins.update t (fun y => { y with lq, tq }) } : State).reap x.lead)
          | none => s
        else s.twinDiffer t x
      | [], r :: _ => if s.goneAt x.lead && !r.wait then s.twinDiffer t x else s
      | l :: _, [] => if s.goneAt x.trail && !l.wait then s.twinDiffer t x else s
      | [], [] => s.reap x.lead)

/-- CKPT_RENDEZVOUS: both copies stand at the CKPT of one ordinal with every entry compared: their states are the new checkpoints, the log is
cleared, and they go on. What they have asked for before comes to them and to their checkpoints. -/
def execCkptRendezvous (t : Nat) (s : State) : Host.Outcome State Fault Refusal :=
  .next (match s.twins.find? t with
    | none => s
    | some x =>
      match s.group? x.lead, s.group? x.trail with
      | some g, some h =>
        if g.ckptWait && h.ckptWait && g.ckpts = h.ckpts && x.lq.isEmpty && x.tq.isEmpty then
          let g := { g with ckptWait := false, atCkpt := true }
          let h := { h with ckptWait := false, atCkpt := true }
          { (s.putGroup x.lead g).putGroup x.trail h with
            twins := s.twins.put t { x with
              log := [], ckptL := some g, ckptT := some h, ckptAt := s.uid, takenL := 0, takenT := 0, lastL := 0, lastT := 0
              flights := x.flights.map (fun f => { f with log := none }) } }
        else s
      | _, _ => s)

/-- Do both copies of a pair wait at a CKPT? -/
def State.ckptWaits (s : State) (t : Nat) : Bool :=
  match s.twins.find? t with
  | some x => (match s.group? x.lead, s.group? x.trail with | some g, some h => g.ckptWait && h.ckptWait | _, _ => false)
  | none => false

/-- The next step of a pair. -/
def State.twinStep (s : State) (t : Nat) : Host.Outcome State Fault Refusal :=
  match s.twins.find? t with
  | some x => if x.lq.isEmpty && x.tq.isEmpty && s.ckptWaits t then execCkptRendezvous t s else execTwinCompare t s
  | none => .next s

end Sys2Proof.Machine
end

