-- ==== Sys2Proof/Machine/ControlIO.lean ====
section
/-! DEFINITION. The physical map above DRAM: registers of the control windows and the capability list, interrupts, boot and warm reset, PCI Express, and the
accesses of harts, firmware cores and peers (spec 24, 22 R365, 23 R391, 00 R12). -/

namespace Sys2Proof.Machine

open Sys2Proof

/-- The state after an outcome; a step of the part is always a next state. -/
def State.after (s : State) (o : Host.Outcome State Fault Refusal) : State := match o with | .next t => t | _ => s

/-! ## Interrupts (24 R424, R425) -/

/-- INTROUTE: a write with a reserved bit changes nothing (log 30); EN written from 0 to 1 sends a message while the source is pending. -/
def execIntroute (d k : Nat) (v : Word) (s : State) : Host.Outcome State Fault Refusal :=
  let x := s.die d
  let old : Word := SMap.get 0 x.introute k
  .next (if k ≥ 8 || field v.toNat 15 5 ≠ 0 then s
    else
      let s := s.putDie d { x with introute := x.introute.set 0 k v }
      if v.getLsbD 31 && !old.getLsbD 31 && x.intpend.getLsbD k then s.message v else s)

/-! ## The capability list (24 R435, R436, 26 R449, R451, R457) -/

/-- A capability header: version 1. -/
def capHeader (id len next : Nat) : Nat := id + 2 ^ 16 + len * 2 ^ 24 + next * 2 ^ 32

/-- The 64-bit words of the capability list, from offset 0, as boot writes it. -/
def capWords : List Nat :=
  let link (k : Nat) : Nat :=
    let c := (Config.linkcfg (if k = 0 then 0 else 3)).toNat % 3
    c + 4 * 2 ^ c + (if k = 0 then 0 else 3) * 2 ^ 8 + 128 * 2 ^ 16 + 16 * 2 ^ 24 + 4 * k * 2 ^ 32
  [capHeader 1 51 408, Config.serial.toNat, 0xA1 + Config.form.toNat % 2 * 2 ^ 8 + 4 * 2 ^ 16 + 96 * 2 ^ 24]
    ++ (List.range 48).map (fun i => (Config.akey i).toNat)
    ++ [capHeader 2 3 432, link 0, link 1]
    ++ [capHeader 3 2 448, 0x80000 + 4 * 2 ^ 32]
    ++ [capHeader 4 2 464, 255]
    ++ [capHeader 5 1 0]

/-- Does a range lie in the window of the capability list (24 R421)? -/
def inCapWindow (pa n : Nat) : Bool := 0x2600000000 ≤ pa && pa + n ≤ 0x2600010000

/-- Bytes of that window: of the list, and beyond it, where no rule says what stands there, any. -/
def State.capBytes (s : State) (pa n : Nat) : List Byte :=
  let l := capWords.flatMap (leBytes 8)
  (List.range n).map (fun i => (l[pa - 0x2600000000 + i]?).getD (Config.byte s.free (pa + i)))

/-! ## Resets of the PCI Express links (24 R431) -/

/-- A reset of link k: the LINKCFG then set takes effect. -/
def execPcieLinkReset (k : Nat) (s : State) : Host.Outcome State Fault Refusal :=
  let d := if k = 0 then 0 else 3
  let x := s.die d
  .next (if k ≥ 2 then s else s.putDie d { x with linkcfgOn := x.linkcfg })

/-! ## The control windows (24 R422, R423) -/

/-- Where a register stands in a control window. -/
inductive Reg where
  | queue (q off : Nat)
  | trans (off : Nat)
  | port (h off : Nat)
  | tmrcmp (c n : Nat)
  | tmrpend (i : Nat)
  | introute (i : Nat)
  | intpend
  | fwreq (i : Nat)
  | fwctl
  | bootstat
  | link (i off : Nat)
  | rcount (i : Nat)
  | dcount (i : Nat)
  | colldesc
  | collctl
  | attbuf
  | attctl
  | slottab (c sl i : Nat)
  | clkrat (c sl : Nat)
  | tokbal (c sl : Nat)
  | passcnt (c : Nat)
  /-- a register of the link's IOMMU, of dies 0 and 3 -/
  | iommu
  /-- no register: reads as zero, and writes have no effect -/
  | none
  deriving DecidableEq, Repr

/-- The register at an offset of a control window, on its first byte. -/
def regAt (off : Nat) : Reg :=
  let r := off % 0x10000
  match off / 0x10000 with
  | 0 => if r < 0x1000 then .queue (r / 0x40) (r % 0x40) else .none
  | 1 => .trans r
  | 2 => if r < 0x200 then .port (r / 16) (r % 16) else .none
  | 3 => if r < 0xC00 then (if r % 8 = 0 then .tmrcmp (r / 32) (r % 32 / 8) else .none) else if r < 0xC30 && r % 8 = 0 then .tmrpend ((r - 0xC00) / 8) else .none
  | 4 => if r < 0x20 then .introute (r / 4) else if r = 0x40 then .intpend else .none
  | 5 => if r < 0x40 && r % 8 = 0 then .fwreq (r / 8) else if r = 0x40 then .fwctl else .none
  | 6 => if r = 0 then .bootstat else .none
  | 7 => .iommu
  | 8 =>
    if r < 0x100 then .link (r / 0x40) (r % 0x40)
    else if 0x200 ≤ r && r < 0x240 && r % 8 = 0 then .rcount ((r - 0x200) / 8)
    else if 0x300 ≤ r && r < 0x330 && r % 8 = 0 then .dcount ((r - 0x300) / 8)
    else match r with | 0x400 => .colldesc | 0x408 => .collctl | 0x500 => .attbuf | 0x508 => .attctl | _ => .none
  | _ =>
    if 0x100000 ≤ off && off < 0x160000 then
      let c := (off - 0x100000) / 0x1000
      let o := off % 0x1000
      if o < 0x600 then .slottab c (o / 0x100) (o % 0x100 / 4)
      else if o < 0x618 then .clkrat c ((o - 0x600) / 4)
      else if 0x620 ≤ o && o < 0x638 then .tokbal c ((o - 0x620) / 4)
      else if o = 0x640 then .passcnt c else .none
    else .none

/-- Is a register 64 bits wide? -/
def Reg.wide : Reg → Bool
  | .queue _ o => o = 0 || o = 8
  | .trans o => [0, 0x10, 0x28, 0x40, 0x48].contains o
  | .port _ o => o = 0 || o = 8
  | .tmrcmp _ _ | .tmrpend _ | .fwreq _ | .rcount _ | .dcount _ | .colldesc | .attbuf => true
  | .link _ o => [8, 0x10, 0x18, 0x20, 0x28].contains o
  | _ => false

/-- A bit of a number. -/
def bit (b : Bool) (k : Nat) : Nat := if b then 2 ^ k else 0

/-- MIGCTL: FULL, STATE and GO (23 R391, R405). -/
def Die.migctl (x : Die) : Nat :=
  let st := match x.migst with | .idle => 0 | .copy => 1 | .freeze => 2 | .done => 3
  bit (x.remap.length ≥ 64) 3 + 2 * st + bit (st ≠ 0) 0

/-- TOKBAL as it is read. -/
def Slice.tokWord (x : Slice) : Nat :=
  bit x.tokEn 31 + x.tokRate.toNat * 2 ^ 24 + x.tokCap.toNat * 2 ^ 16 + (x.tokBal % 65536).toNat

/-- The value of a register of die d as it is read; QRES is read by its own operation. -/
def State.readReg (s : State) (d : Nat) (r : Reg) : Nat :=
  let x := s.die d
  match r with
  | .queue q o =>
    let y := s.queue d q
    (match o with
     | 0 => y.base.toNat | 8 => y.root.toNat | 0x10 => bit y.en 4 + y.log2 | 0x28 => y.head | 0x2C => y.cons | 0x30 => y.tail
     | 0x34 => bit y.badentry 2 + bit y.badcfg 1 + bit y.badcommit 0 | _ => 0)
  | .trans o =>
    (match o with
     | 8 => s.tgen.toNat | 0xC => s.tgenDone.toNat | 0x10 => x.trbase.toNat | 0x18 => bit x.trEn 4 + x.trLog2 | 0x1C => x.trhead.toNat
     | 0x20 => x.trtail.toNat | 0x28 => x.trpc.toNat | 0x40 => x.migsrc.toNat | 0x48 => x.migdst.toNat | 0x50 => x.migctl | _ => 0)
  | .port h o => if o = 0 then (SMap.get (0 : DWord) x.scval h).toNat else 0
  | .tmrcmp c n => SMap.get 0 (s.core (96 * d + c)).tmrcmp n
  | .tmrpend i => (List.range 64).foldl (fun n j => n + bit (x.tmrpend.contains (64 * i + j)) j) 0
  | .introute i => (SMap.get (0 : Word) x.introute i).toNat
  | .intpend => x.intpend.toNat
  | .fwreq i => (x.req i).toNat
  -- GO reads as 1 until what it started completes (log 56)
  | .fwctl => x.fwstatus.toNat * 2 ^ 8 + bit x.fwbusy 1 + bit x.fwbusy 0
  | .bootstat => x.bootstat.toNat * 2 ^ 16 + x.linkcfg.toNat
  | .link i o =>
    let y := s.link (4 * d + i)
    (match o with
     | 0 => bit y.evt 16 + y.lanes.toNat * 2 ^ 8 + y.width.toNat * 4 + bit y.down 1 + bit y.carries 0
     | 8 => y.crc | 0x10 => y.rply | 0x18 => y.shed | 0x20 => y.finjctl.toNat | 0x28 => y.finjcnt.toNat | _ => 0)
  | .rcount i => SMap.get 0 x.rc i
  | .dcount i => SMap.get 0 x.dc i
  | .colldesc => x.colldesc.toNat
  | .collctl => bit x.collbusy 1 + bit x.collbusy 0
  | .attbuf => x.attbuf.toNat
  | .attctl => bit x.attbusy 1 + bit x.attdone 2 + bit x.attbusy 0
  | .slottab c sl i => (SMap.get (0 : Word) (s.slice (sliceKey (96 * d + c) sl)).slottab i).toNat
  | .clkrat c sl => (s.slice (sliceKey (96 * d + c) sl)).clkrat.toNat
  | .tokbal c sl => ((s.idled (sliceKey (96 * d + c) sl) s.now).refills (s.now / 10)).tokWord
  | .passcnt c => (s.core (96 * d + c)).passcnt.toNat
  -- the RISC-V IOMMU specification says what stands there (log 34)
  | .iommu => if d = 0 || d = 3 then (Config.word s.free 7).toNat else 0
  | .none => 0

/-- Does a write of half a wide register keep the other half: is it RW? -/
def Reg.keeps : Reg → Bool
  | .queue _ _ | .fwreq _ | .colldesc | .attbuf => true
  | .trans o => o ≠ 0
  | .port _ o => o = 0
  | .link _ o => o = 0x20
  | _ => false

/-- TRACT: the operation that ACT names. -/
def execTract (d : Nat) (v : Word) (s : State) : Host.Outcome State Fault Refusal :=
  match field v.toNat 31 30 with
  | 0 => execTractResumeTrpc d v s
  | 1 => execTractResumePc d v s
  | 2 => execTractEndGroup d v s
  | _ => execTractKill d v s

/-- A write of a whole register, by its access codes (00 R12); `fw`: by a firmware core, which sets LINKCFG in BOOTSTAT (log 67). -/
def State.writeReg (s : State) (d : Nat) (r : Reg) (n : Nat) (fw : Bool) : State :=
  let x := s.die d
  let w : DWord := BitVec.ofNat 64 n
  let v : Word := BitVec.ofNat 32 n
  match r with
  | .queue q o =>
    let y := s.queue d q
    (match o with
     | 0 => if y.en then s else s.putQueue d q { y with base := w }
     | 8 => if y.en then s else s.putQueue d q { y with root := w }
     | 0x10 => s.after (execQcfg d q v s)
     | 0x20 => s.after (execQcommit d q v s)
     | 0x34 => s.putQueue d q { y with
         badentry := y.badentry && !v.getLsbD 2, badcfg := y.badcfg && !v.getLsbD 1, badcommit := y.badcommit && !v.getLsbD 0 }
     | _ => s)
  | .trans o =>
    (match o with
     | 0 => s.after (execTsync d w s)
     | 0x10 => if x.trEn then s else s.putDie d { x with trbase := w }
     | 0x18 => s.after (execTrcfg d v s)
     | 0x1C => (s.putDie d { x with trhead := v }).addDue [.trap d]
     | 0x28 => s.putDie d { x with trpc := w }
     | 0x30 => s.after (execTract d v s)
     | 0x40 => if fw then s.putDie d { x with migsrc := w } else s
     | 0x48 => if fw then s.putDie d { x with migdst := w } else s
     | 0x50 => if fw && v.getLsbD 0 then s.after (execMigctlGo d s) else s
     | _ => s)
  | .port h o => if o = 0 then s.setScval d h w else if o = 8 then s.after (execScdone d h w s) else s
  | .tmrpend i => s.putDie d { x with tmrpend := x.tmrpend.filter (fun k => !(k / 64 = i && w.getLsbD (k % 64))) }
  | .introute i => s.after (execIntroute d i v s)
  | .intpend => s.putDie d { x with intpend := x.intpend &&& ~~~(v.setWidth 8) }
  | .fwreq i => s.putDie d { x with fwreq := x.fwreq.set 0 i w }
  | .fwctl => if v.getLsbD 0 && !x.fwbusy then (s.putDie d { x with fwbusy := true }).addDue [.mail d] else s
  | .link i o =>
    (match o with
     | 0 => let l := s.link (4 * d + i); s.putLink (4 * d + i) { l with evt := l.evt && !v.getLsbD 16 }
     | 0x20 => s.after (execFinjctl (4 * d + i) w s)
     | _ => s)
  | .colldesc => s.putDie d { x with colldesc := w }
  | .collctl => if v.getLsbD 0 then s.after (execCollctlGo d s) else s
  | .attbuf => s.putDie d { x with attbuf := w }
  | .attctl =>
    let s := if v.getLsbD 2 then s.putDie d { x with attdone := false } else s
    if v.getLsbD 0 then s.after (execAttctlGo d s) else s
  | .slottab c sl i => if fw then s.after (execSlottabWrite (sliceKey (96 * d + c) sl) i v s) else s
  | .clkrat c sl => if fw then s.after (execClkratWrite (sliceKey (96 * d + c) sl) v s) else s
  | .tokbal c sl => if fw then s.after (execTokbalWrite (sliceKey (96 * d + c) sl) v s) else s
  | .passcnt c => if fw then s.after (execPasscntWrite (96 * d + c) v s) else s
  | .bootstat => if fw && (d = 0 || d = 3) && v.extractLsb' 0 2 ≠ 3 then s.putDie d { x with linkcfg := v.extractLsb' 0 2 } else s
  | .tmrcmp _ _ | .rcount _ | .dcount _ | .iommu | .none => s

/-- A write of 4 or 8 bytes into a control window: half of a wide register keeps or leaves the other half, and 8 bytes over two narrow ones write both. -/
def State.storeWin (s : State) (d off n x : Nat) (fw : Bool) : State :=
  let r := regAt off
  let u := regAt (off - 4)
  if n = 8 then
    (if r.wide then s.writeReg d r x fw else (s.writeReg d r (x % 2 ^ 32) fw).writeReg d (regAt (off + 4)) (x / 2 ^ 32) fw)
  else if r.wide then s.writeReg d r ((if r.keeps then s.readReg d r / 2 ^ 32 * 2 ^ 32 else 0) + x % 2 ^ 32) fw
  else if off % 8 = 4 && u.wide then s.writeReg d u ((if u.keeps then s.readReg d u % 2 ^ 32 else 0) + x % 2 ^ 32 * 2 ^ 32) fw
  else s.writeReg d r (x % 2 ^ 32) fw

/-- A read of four bytes: a narrow register, whose read may do something (QRES), or half of a wide one. -/
def State.readHalf (s : State) (d off : Nat) : Nat × State :=
  let u := regAt (off - 4)
  match regAt off with
  | .queue q 0x18 => let t := s.after (execQres d q s); (leNat (t.ans.getD []), t)
  | r => (if off % 8 = 4 && u.wide then s.readReg d u / 2 ^ 32 else s.readReg d r % 2 ^ 32, s)

/-- A read of 4 or 8 bytes of a control window: what it gives, and the state after it. -/
def State.loadWin (s : State) (d off n : Nat) : List Byte × State :=
  if n = 8 && (regAt off).wide then (leBytes 8 (s.readReg d (regAt off)), s)
  else
    let (x, t) := s.readHalf d off
    if n = 4 then (leBytes 4 x, t) else let (y, u) := t.readHalf d (off + 4); (leBytes 4 x ++ leBytes 4 y, u)

/-- May an access reach a control window: aligned, of 4 or 8 bytes (24 R422)? -/
def winOk (d off n : Nat) : Bool := d < 4 && (n = 4 || n = 8) && off % n = 0

/-- Is an agent a firmware core? -/
def isFirm : Master → Bool
  | .firm _ => true
  | .hart _ => false

/-- REGISTER_WRITE: an aligned write of 4 or 8 bytes to a control window by an agent; any other is refused. -/
def execRegisterWrite (d off n : Nat) (v : DWord) (m : Master) (s : State) : Host.Outcome State Fault Refusal :=
  .next (if !s.acts m then s else if winOk d off n then (s.except m none).storeWin d off n v.toNat (isFirm m) else s.refuse m)

/-! ## Accesses by physical address (24 R421) -/

/-- The interrupt file at a physical address. -/
def imsicFile (pa : Nat) : Option Nat :=
  if (0x2400000000 ≤ pa && pa < 0x2400020000) || (0x2410000000 ≤ pa && pa < 0x2410100000) then some (pa / 4096 * 4096) else none

/-- The APLIC at a physical address: die, whether the S-level domain, offset. -/
def aplicAt (pa : Nat) : Option (Nat × Bool × Nat) :=
  let o := pa - 0x2500000000
  if 0x2500000000 ≤ pa && o < 0x400000 && o % 0x100000 < 0x8000 then some (o / 0x100000, o / 0x4000 % 2 = 1, o % 0x4000) else none

/-- The memory window of a link. -/
def inWindow (k pa : Nat) : Bool := 0x4000000000 * (k + 1) ≤ pa && pa < 0x4000000000 * (k + 2)

/-- Is a range in the ECAM? -/
def inEcam (pa : Nat) : Bool := 0x3000000000 ≤ pa && pa < 0x3010000000

/-- Does the ECAM have a device: on bus 0, the root ports 4 k to 4 k + 3 that the bifurcation in force gives a link (24 R431)? -/
def State.hasPort (s : State) (pa : Nat) : Bool :=
  let o := pa - 0x3000000000
  let dev := o / 2 ^ 15 % 32
  o / 2 ^ 20 ≠ 0 || (dev < 8 && o / 2 ^ 12 % 8 = 0 && dev % 4 < 2 ^ (s.die (if dev < 4 then 0 else 3)).linkcfgOn.toNat)

/-- A read of a device of the map: what it gives; none where the map names nothing. Interrupt files read as zero; configuration space of a port above the
configured count reads as ones; what a device or a link's own window gives is any value (log 34). -/
def State.mapRead (s : State) (pa n : Nat) : Option (List Byte) :=
  if (imsicFile pa).isSome then some (List.replicate n 0)
  else match aplicAt pa with
    | some (d, low, o) => if n = 4 && o % 4 = 0 then some (leBytes 4 ((s.die d).aplicRead low o)) else none
    | none =>
      if inCapWindow pa n then some (s.capBytes pa n)
      else if inEcam pa && !s.hasPort pa then some (List.replicate n 0xFF)
      else if inEcam pa || inWindow 0 pa || inWindow 1 pa then some ((List.range n).map (fun i => Config.byte s.free (pa + i)))
      else none

/-- A write of a device of the map: an identity written to an interrupt file is a message; none where the map names nothing. -/
def State.mapWrite (s : State) (pa : Nat) (data : List Byte) : Option State :=
  match imsicFile pa, aplicAt pa with
  | some f, _ => some (if data.length = 4 && pa % 4096 = 0 then s.msi f (leNat data) else s)
  | none, some (d, low, o) => if data.length = 4 && o % 4 = 0 then some (s.aplicStore d low o (BitVec.ofNat 32 (leNat data))) else none
  | none, none => if inCapWindow pa data.length || inEcam pa || inWindow 0 pa || inWindow 1 pa then some s else none

/-- The record of a hart's or a peer's release: system scope, of an agent beyond every core. -/
def State.outRel (s : State) (rel : Bool) (loc : Nat) (amo : Bool) : Option RelRec := if rel then some sysRel else if amo then s.relAt loc else none

/-- An access of DRAM performed at its home for a requester of a die; what it read, or nothing, is left in `ans`. -/
def State.busDram (s : State) (reqDie loc : Nat) (o : BusOp) : State :=
  match o with
  | .read n => { s.linesServed reqDie [(loc, n)] with ans := some (s.bytesAt loc n) }
  | .write data rel => { (s.linesServed reqDie [(loc, data.length)]).writeAt loc data (s.outRel rel loc false) with ans := some [] }
  | .amoadd v rel =>
    { (s.linesServed reqDie [(loc, 8)]).writeAt loc (leBytes 8 ((s.numAt loc 8 + v.toNat) % 2 ^ 64)) (s.outRel rel loc true) with
      ans := some (s.bytesAt loc 8) }

/-- A hart's or a firmware core's access that waits for nothing: DRAM, a control window, another device of the map; any other address is refused. AMOADD.D
is performed in DRAM alone. -/
def State.bus (s : State) (m : Master) (pa loc : Nat) (o : BusOp) : State :=
  let w := pa - 0x2000000000
  if pa + o.size ≤ 2 ^ 37 then ((s.except m none).busDram (masterDie m) loc o).tickFree
  else if 0x2000000000 ≤ pa && pa < 0x2040000000 then
    if !winOk (w / 0x10000000) (w % 0x10000000) o.size then s.refuse m
    else match o with
      | .read n => let r := (s.except m none).loadWin (w / 0x10000000) (w % 0x10000000) n; { r.2 with ans := some r.1 }.tickFree
      | .write data _ => { (s.except m none).storeWin (w / 0x10000000) (w % 0x10000000) data.length (leNat data) (isFirm m) with ans := some [] }
      | .amoadd _ _ => s.refuse m
  else match o with
    | .read n => (match s.mapRead pa n with | some b => ({ s.except m none with ans := some b } : State).tickFree | none => s.refuse m)
    | .write data _ => (match (s.except m none).mapWrite pa data with | some t => { t with ans := some [] } | none => s.refuse m)
    | .amoadd _ _ => s.refuse m

/-- An access that waits, behind those of the same agent that wait already: a write, until its frame is no longer in FREEZE (23 R405). -/
def State.park (s : State) (i : Access) : State := ({ s with parked := s.parked ++ [i] } : State).addDue [.parked]
/-- Does an access of the agent wait? -/
def State.waitsBehind (s : State) (i : Access) : Bool := s.parked.any (fun j => j.agent == i.agent)

/-- An access of a hart or a firmware core: one of an agent that does not act is none. -/
def State.busAccess (s : State) (m : Master) (pa place : Nat) (o : BusOp) : State :=
  let loc := dramLoc (s.hartPlace m pa place) pa
  if !s.acts m then s
  else if s.waitsBehind (.bus m pa place o) || (pa + o.size ≤ 2 ^ 37 && o.writes && s.frozen loc) then s.park (.bus m pa place o)
  else s.bus m pa loc o

/-- MEMORY_REQUEST_SERVE: a request of a core's memory unit, or an access of a hart or firmware core. -/
def execMemoryRequestServe (q : ServeReq) (s : State) : Host.Outcome State Fault Refusal :=
  .next (match q with
    | .core c id err => s.serveCore c id err
    | .bus m pa place o => s.busAccess m pa place o)

/-! ## PCI Express peers (24 R421, R432, 05 R135) -/

/-- The walk of one stage of an IOMMU: `at_` gives the physical address of a guest's table entry, and the top table of a second stage has 2,048 entries. -/
def State.ioWalk (s : State) (at_ : Nat → Option Nat) (second : Bool) (va : Nat) : Nat → Nat → Option (Nat × Nat)
  | level, table =>
    let idx := if level = 3 && second then va / 2 ^ 39 % 2048 else va / 2 ^ (12 + 9 * level) % 512
    match at_ (table + 8 * idx) with
    | none => none
    | some a =>
      let pte := s.numAt (dramLoc 0 a) 8
      if a + 8 > 2 ^ 37 || s.eccIn (dramLoc 0 a) 8 || (pteFault level pte).isSome then none
      else if pteNonLeaf pte then
        (match level with
         | 0 => none
         | l + 1 => s.ioWalk at_ second va l (field pte 53 10 * 4096))
      else some (level, pte)

/-- The address that a leaf of an IOMMU gives, with its PLACE: bits [60:54] are read as compute walkers read them (04 R104, R106, R107). -/
def State.ioLeaf (s : State) (va : Nat) (k : AccKind) (x : Nat × Nat) : Option (Nat × Nat) :=
  let pa := leafPa x.1 x.2 va
  let place := field x.2 60 59
  if (leafFault x.1 x.2 k).isSome || (pa < 2 ^ 37 && !s.placeOk place pa) then none else some (pa, place)

/-- The second stage, Sv48x4. -/
def State.ioSecond (s : State) (root : Option DWord) (k : AccKind) (gpa : Nat) : Option (Nat × Nat) :=
  match root with
  | none => some (gpa, 0)
  | some r =>
    if field r.toNat 63 60 ≠ 9 || gpa ≥ 2 ^ 50 then none
    else (s.ioWalk some true gpa 3 (field r.toNat 43 0 / 4 * 4 * 4096)).bind (s.ioLeaf gpa k)

/-- A peer's address translated: by neither, one or both stages; the PLACE is that of the last stage that has page tables (log 34). -/
def State.ioPlace (s : State) (a : PeerAddr) (k : AccKind) : Option (Nat × Nat) :=
  match a with
  | .pa a place => some (a, place)
  | .va a none second => s.ioSecond second k a
  | .va a (some r) second =>
    if field r.toNat 63 60 ≠ 9 || !(a < 2 ^ 47 || (2 ^ 64 - 2 ^ 47 ≤ a && a < 2 ^ 64)) then none
    else
      (((s.ioWalk (fun t => (s.ioSecond second .read t).map (·.1)) false (a % 2 ^ 48) 3 (field r.toNat 43 0 * 4096)).bind (s.ioLeaf (a % 2 ^ 48) k))).bind
        (fun x => match second with | none => some x | some _ => s.ioSecond second k x.1)

/-- May a peer behind link k reach an address above DRAM: not a control window, nor another link's window (24 R422, R432)? -/
def peerReaches (k pa : Nat) : Bool := !(0x2000000000 ≤ pa && pa < 0x2040000000) && !inWindow (1 - k) pa

/-- A request of a peer behind link k, through the link's IOMMU; a port's requests are performed in order, so that one behind a write that waits, waits. -/
def State.peerAccess (s : State) (k : Nat) (r : PeerReq) : State :=
  let d := if k = 0 then 0 else 3
  let refused : State := { s with ans := none }
  if k ≥ 2 then refused
  else if s.waitsBehind (.peer k r) then s.park (.peer k r)
  else match r with
    | .read a n =>
      (match s.ioPlace a .read with
       | none => refused
       | some (pa, place) =>
         if pa + n ≤ 2 ^ 37 then s.busDram d (dramLoc place pa) (.read n)
         else if !peerReaches k pa then refused
         else match s.mapRead pa n with | some b => ({ s with ans := some b } : State).tickFree | none => refused)
    | .write a data ro =>
      match s.ioPlace a .write with
      | none => refused
      | some (pa, place) =>
        if pa + data.length ≤ 2 ^ 37 then
          if s.frozen (dramLoc place pa) then s.park (.peer k r) else s.busDram d (dramLoc place pa) (.write data (!ro))
        else if !peerReaches k pa then refused
        else match s.mapWrite pa data with | some t => { t with ans := some [] } | none => refused

/-- PCIE_PEER_REQUEST: a read is answered with its bytes; a write without the relaxed-ordering attribute is a release at system scope; a write to an interrupt
file is a message; a request to the link's own window leaves the part; one that fails translation, and every other address, is refused: no answer. -/
def execPciePeerRequest (k : Nat) (r : PeerReq) (s : State) : Host.Outcome State Fault Refusal := .next (s.peerAccess k r)

/-- The accesses that wait tried again, in order. -/
def State.unpark (s : State) : State :=
  s.parked.foldl (fun s i => match i with | .bus m pa place o => s.busAccess m pa place o | .peer k r => s.peerAccess k r) { s with parked := [] }

/-! ## Boot and resets (24 R433, R434, 00 R12) -/

/-- COLD_RESET: the machine as cold reset leaves it, and then the boot steps: each die's own, the election, and the leader's images; each firmware core then
releases its eight harts at the runtime's entry. -/
def execColdReset (s : State) : Host.Outcome State Fault Refusal :=
  let okay := match bootLeader with | some l => imageOkay 2 (Config.flash l 2) && imageOkay 3 (Config.flash l 3) | none => false
  let entry : DWord := match bootLeader with | some l => BitVec.ofNat 64 (leNat (((Config.flash l 2).drop 24).take 8)) | none => 0
  let t : State := { State.reset with agenda := s.agenda }
  let t := (List.range 4).foldl (fun (t : State) d =>
    let b := bootStep d
    let fail := b.1 < 5 || (!okay && bootLeader = some d)
    let code : Byte := if b.1 < 5 then b.2 else if fail then Config.failCode d 6 else 0
    let step := if b.1 < 5 then b.1 else if okay then 7 else 5
    let cfg := if b.1 = 5 && (d = 0 || d = 3) then BitVec.ofNat 2 ((Config.linkcfg d).toNat % 3) else 0
    let t := t.putDie d { t.die d with bootstat := BitVec.ofNat 16 (step * 256 + code.toNat), fwstop := fail, linkcfg := cfg, linkcfgOn := cfg }
    if step = 7 then (List.range 8).foldl (fun (t : State) n => t.putHart (mhartid d n) { entry := some entry }) t else t) t
  let t := if bootUp = [] then t else { t with il4 := Config.range4, il64 := Config.range64, pool := Config.poolFrames }
  .next (match bootLeader with
    | some l => t.exchange l t.lease (leaseWord l 1 (timeAt l 0 + 28000000))
    | none => t)

/-- A queue after a warm reset: its registers at their reset values; commands already consumed run to completion. -/
def Queue.warm (x : Queue) : Queue :=
  { live := x.live.map (fun c => { c with now := false }), cur := x.cur, wait := x.wait }

/-- A link after a warm reset: FLSTAT and the injector at their reset values; counters and flits as they are. -/
def Link.warm (x : Link) : Link :=
  { x with evt := false, lanes := 0xFF, good := 0xFF, width := 0, down := false, up := false, finjctl := 0, finjcnt := 0 }

/-- A die after a warm reset. -/
def Die.warm (x : Die) : Die :=
  { x with
    queues := x.queues.map (fun q => (q.1, q.2.warm)), trbase := 0, trEn := false, trLog2 := 6, trhead := 0, trtail := 0, trpc := 0
    migsrc := 0, migdst := 0, migst := .idle, migdirty := [], introute := [], intpend := 0, scval := [], fwstatus := 0, fwbusy := false
    links := x.links.map (fun l => (l.1, l.2.warm)), lead := none, wcache := [] }

/-- The bucket with every refill that is due and every write not yet in force (25 R443). -/
def Slice.tokSettled (x : Slice) (c : Nat) : Slice :=
  let y := x.refills c
  y.tokNext.foldl (fun (x : Slice) w => x.takeTok w.2) { y with tokNext := [] }

/-- WARM_RESET: every field of a register map takes its reset value but those that their maps leave unchanged: the clock ratios, CYC and TIME, the
counters, TOKBAL beside EN, LQCURALM and LQPWRCTL, and LQENERGY; what is no field of a map goes on. -/
def execWarmReset (s : State) : Host.Outcome State Fault Refusal :=
  let t : State := ({ s with
    slices := s.slices.map (fun x => (x.1, { (s.idled x.1 s.now).tokSettled (s.now / 10) with slottab := [], tokEn := false }))
    cores := s.cores.map (fun c => (c.1, { c.2 with
      passcnt := 0, observed := 0, tlb1 := [], tlb := [], invals := c.2.invals.map (fun i => (0, i.2))
      tags := c.2.tags.map (fun t => (t.1, { t.2 with gen := 0 })), jobs := c.2.jobs.map (fun j => { j with gen := 0 }) }))
    blocks := s.blocks.map (fun b => (b.1, { b.2 with
      sgroups := b.2.sgroups.map (fun g => { g with tgen := 0 }), stags := b.2.stags.map (fun t => (t.1, { t.2 with gen := 0 }))
      sjobs := b.2.sjobs.map (fun j => { j with gen := 0 }) }))
    dies := s.dies.map (fun d => (d.1, d.2.warm))
    groups := s.groups.map (fun g => (g.1, { g.2 with tgen := 0 }))
    launches := s.launches.map (fun l => (l.1, { l.2 with tgen := 0 }))
    tgen := 0, lease := 0, handover := 0, harts := s.harts.map (fun h => (h.1, { h.2 with ign := false })), pwrAvg := 0, diePwr := 0, temp := 0, dramWin := 0x03E803E803E803E8 } : State).reboost
  -- no EVT bit is set any more (26 R455)
  .next ((List.range 4).foldl (fun t d => t.setWired d 19 false) t)

end Sys2Proof.Machine
end

