-- ==== Sys2Proof/Machine/Dispatch.lean ====
section
/-! DEFINITION. One arm per instruction: a direct call of its meaning. -/

namespace Sys2Proof.Machine

open Sys2Proof

/-- The meaning of an instruction. -/
def exec (i : Instr) (s : State) : Host.Outcome State Fault Refusal :=
  match i with
  | .bra o => Sys2Proof.Machine.execBra o s
  | .brx o => Sys2Proof.Machine.execBrx o s
  | .call o => Sys2Proof.Machine.execCall o s
  | .callx o => Sys2Proof.Machine.execCallx o s
  | .join o => Sys2Proof.Machine.execJoin o s
  | .mballot o => Sys2Proof.Machine.execMballot o s
  | .mlogAnd o => Sys2Proof.Machine.execMlogAnd o s
  | .mlogOr o => Sys2Proof.Machine.execMlogOr o s
  | .mlogXor o => Sys2Proof.Machine.execMlogXor o s
  | .mlogAndn o => Sys2Proof.Machine.execMlogAndn o s
  | .mlogMov o => Sys2Proof.Machine.execMlogMov o s
  | .mtest o => Sys2Proof.Machine.execMtest o s
  | .mpop o => Sys2Proof.Machine.execMpop o s
  | .voteAny o => Sys2Proof.Machine.execVoteAny o s
  | .voteAll o => Sys2Proof.Machine.execVoteAll o s
  | .voteBallot o => Sys2Proof.Machine.execVoteBallot o s
  | .brvAny o => Sys2Proof.Machine.execBrvAny o s
  | .brvAll o => Sys2Proof.Machine.execBrvAll o s
  | .brvNone o => Sys2Proof.Machine.execBrvNone o s
  | .pass o => Sys2Proof.Machine.execPass o s
  | .passAny o => Sys2Proof.Machine.execPassAny o s
  | .barArrive lvl o => Sys2Proof.Machine.execBarArrive lvl o s
  | .barWait lvl o => Sys2Proof.Machine.execBarWait lvl o s
  | .barSync lvl o => Sys2Proof.Machine.execBarSync lvl o s
  | .add o => Sys2Proof.Machine.execAdd o s
  | .sub o => Sys2Proof.Machine.execSub o s
  | .mul o => Sys2Proof.Machine.execMul o s
  | .mulhi o => Sys2Proof.Machine.execMulhi o s
  | .mad o => Sys2Proof.Machine.execMad o s
  | .madhi o => Sys2Proof.Machine.execMadhi o s
  | .wmul o => Sys2Proof.Machine.execWmul o s
  | .add64 o => Sys2Proof.Machine.execAdd64 o s
  | .min o => Sys2Proof.Machine.execMin o s
  | .max o => Sys2Proof.Machine.execMax o s
  | .absd o => Sys2Proof.Machine.execAbsd o s
  | .neg o => Sys2Proof.Machine.execNeg o s
  | .divstep o => Sys2Proof.Machine.execDivstep o s
  | .divfix o => Sys2Proof.Machine.execDivfix o s
  | .and o => Sys2Proof.Machine.execAnd o s
  | .or o => Sys2Proof.Machine.execOr o s
  | .xor o => Sys2Proof.Machine.execXor o s
  | .andn o => Sys2Proof.Machine.execAndn o s
  | .mix3 o => Sys2Proof.Machine.execMix3 o s
  | .shl o => Sys2Proof.Machine.execShl o s
  | .shr o => Sys2Proof.Machine.execShr o s
  | .sar o => Sys2Proof.Machine.execSar o s
  | .fshf o => Sys2Proof.Machine.execFshf o s
  | .popc o => Sys2Proof.Machine.execPopc o s
  | .clz o => Sys2Proof.Machine.execClz o s
  | .brev o => Sys2Proof.Machine.execBrev o s
  | .bfe o => Sys2Proof.Machine.execBfe o s
  | .bfi o => Sys2Proof.Machine.execBfi o s
  | .cmpEq o => Sys2Proof.Machine.execCmpEq o s
  | .cmpNe o => Sys2Proof.Machine.execCmpNe o s
  | .cmpLt o => Sys2Proof.Machine.execCmpLt o s
  | .cmpLe o => Sys2Proof.Machine.execCmpLe o s
  | .cmpGt o => Sys2Proof.Machine.execCmpGt o s
  | .cmpGe o => Sys2Proof.Machine.execCmpGe o s
  | .plogAnd o => Sys2Proof.Machine.execPlogAnd o s
  | .plogOr o => Sys2Proof.Machine.execPlogOr o s
  | .plogXor o => Sys2Proof.Machine.execPlogXor o s
  | .plogAndn o => Sys2Proof.Machine.execPlogAndn o s
  | .plogMov o => Sys2Proof.Machine.execPlogMov o s
  | .sel o => Sys2Proof.Machine.execSel o s
  | .mov o => Sys2Proof.Machine.execMov o s
  | .movxSv o => Sys2Proof.Machine.execMovxSv o s
  | .movxPv o => Sys2Proof.Machine.execMovxPv o s
  | .movxVp o => Sys2Proof.Machine.execMovxVp o s
  | .movxSw o => Sys2Proof.Machine.execMovxSw o s
  | .movxWs o => Sys2Proof.Machine.execMovxWs o s
  | .movxMs o => Sys2Proof.Machine.execMovxMs o s
  | .movxSm o => Sys2Proof.Machine.execMovxSm o s
  | .shflIdx o => Sys2Proof.Machine.execShflIdx o s
  | .shflUp o => Sys2Proof.Machine.execShflUp o s
  | .shflDown o => Sys2Proof.Machine.execShflDown o s
  | .shflXor o => Sys2Proof.Machine.execShflXor o s
  | .rdlane o => Sys2Proof.Machine.execRdlane o s
  | .fadd o => Sys2Proof.Machine.execFadd o s
  | .fmul o => Sys2Proof.Machine.execFmul o s
  | .fma o => Sys2Proof.Machine.execFma o s
  | .fnma o => Sys2Proof.Machine.execFnma o s
  | .fmin o => Sys2Proof.Machine.execFmin o s
  | .fmax o => Sys2Proof.Machine.execFmax o s
  | .fabs o => Sys2Proof.Machine.execFabs o s
  | .fneg o => Sys2Proof.Machine.execFneg o s
  | .fcpsgn o => Sys2Proof.Machine.execFcpsgn o s
  | .fcmpEq o => Sys2Proof.Machine.execFcmpEq o s
  | .fcmpNe o => Sys2Proof.Machine.execFcmpNe o s
  | .fcmpLt o => Sys2Proof.Machine.execFcmpLt o s
  | .fcmpLe o => Sys2Proof.Machine.execFcmpLe o s
  | .fcmpGt o => Sys2Proof.Machine.execFcmpGt o s
  | .fcmpGe o => Sys2Proof.Machine.execFcmpGe o s
  | .fcmpUn o => Sys2Proof.Machine.execFcmpUn o s
  | .fcmpOrd o => Sys2Proof.Machine.execFcmpOrd o s
  | .fclass o => Sys2Proof.Machine.execFclass o s
  | .fscale o => Sys2Proof.Machine.execFscale o s
  | .frnd o => Sys2Proof.Machine.execFrnd o s
  | .frcp o => Sys2Proof.Machine.execFrcp o s
  | .frsq o => Sys2Proof.Machine.execFrsq o s
  | .fsqrt o => Sys2Proof.Machine.execFsqrt o s
  | .fex2 o => Sys2Proof.Machine.execFex2 o s
  | .flg2 o => Sys2Proof.Machine.execFlg2 o s
  | .fsin o => Sys2Proof.Machine.execFsin o s
  | .fcos o => Sys2Proof.Machine.execFcos o s
  | .ftanh o => Sys2Proof.Machine.execFtanh o s
  | .fadd2 o => Sys2Proof.Machine.execFadd2 o s
  | .fmul2 o => Sys2Proof.Machine.execFmul2 o s
  | .fma2 o => Sys2Proof.Machine.execFma2 o s
  | .fdot2 o => Sys2Proof.Machine.execFdot2 o s
  | .cvt src o => Sys2Proof.Machine.execCvt src o s
  | .cvtpk fmt o => Sys2Proof.Machine.execCvtpk fmt o s
  | .cvtwd fmt o => Sys2Proof.Machine.execCvtwd fmt o s
  | .qscaleE8m0 o => Sys2Proof.Machine.execQscaleE8m0 o s
  | .qscaleE4m3 o => Sys2Proof.Machine.execQscaleE4m3 o s
  | .qscaleF32 o => Sys2Proof.Machine.execQscaleF32 o s
  | .qscaleF16 o => Sys2Proof.Machine.execQscaleF16 o s
  | .redAdd o => Sys2Proof.Machine.execRedAdd o s
  | .redMin o => Sys2Proof.Machine.execRedMin o s
  | .redMax o => Sys2Proof.Machine.execRedMax o s
  | .redAnd o => Sys2Proof.Machine.execRedAnd o s
  | .redOr o => Sys2Proof.Machine.execRedOr o s
  | .redXor o => Sys2Proof.Machine.execRedXor o s
  | .scanAdd o => Sys2Proof.Machine.execScanAdd o s
  | .scanMin o => Sys2Proof.Machine.execScanMin o s
  | .scanMax o => Sys2Proof.Machine.execScanMax o s
  | .scanAnd o => Sys2Proof.Machine.execScanAnd o s
  | .scanOr o => Sys2Proof.Machine.execScanOr o s
  | .scanXor o => Sys2Proof.Machine.execScanXor o s
  | .ld o => Sys2Proof.Machine.execLd o s
  | .st o => Sys2Proof.Machine.execSt o s
  | .lda o => Sys2Proof.Machine.execLda o s
  | .str o => Sys2Proof.Machine.execStr o s
  | .ldfmt o => Sys2Proof.Machine.execLdfmt o s
  | .ldu o => Sys2Proof.Machine.execLdu o s
  | .stu o => Sys2Proof.Machine.execStu o s
  | .stmc o => Sys2Proof.Machine.execStmc o s
  | .stredAdd o => Sys2Proof.Machine.execStredAdd o s
  | .stredAnd o => Sys2Proof.Machine.execStredAnd o s
  | .stredOr o => Sys2Proof.Machine.execStredOr o s
  | .stredXor o => Sys2Proof.Machine.execStredXor o s
  | .stredMin o => Sys2Proof.Machine.execStredMin o s
  | .stredMax o => Sys2Proof.Machine.execStredMax o s
  | .fenceAcq o => Sys2Proof.Machine.execFenceAcq o s
  | .fenceRel o => Sys2Proof.Machine.execFenceRel o s
  | .fenceFull o => Sys2Proof.Machine.execFenceFull o s
  | .brmake o => Sys2Proof.Machine.execBrmake o s
  | .brsetBase o => Sys2Proof.Machine.execBrsetBase o s
  | .brsetStride o => Sys2Proof.Machine.execBrsetStride o s
  | .brsetExtent o => Sys2Proof.Machine.execBrsetExtent o s
  | .brsetSwz o => Sys2Proof.Machine.execBrsetSwz o s
  | .brsetEsz o => Sys2Proof.Machine.execBrsetEsz o s
  | .brsetOobf o => Sys2Proof.Machine.execBrsetOobf o s
  | .brgetBase o => Sys2Proof.Machine.execBrgetBase o s
  | .brgetStride o => Sys2Proof.Machine.execBrgetStride o s
  | .brgetExtent o => Sys2Proof.Machine.execBrgetExtent o s
  | .brgetSwz o => Sys2Proof.Machine.execBrgetSwz o s
  | .brgetEsz o => Sys2Proof.Machine.execBrgetEsz o s
  | .brgetOobf o => Sys2Proof.Machine.execBrgetOobf o s
  | .bradv o => Sys2Proof.Machine.execBradv o s
  | .lea o => Sys2Proof.Machine.execLea o s
  | .atomAdd o => Sys2Proof.Machine.execAtomAdd o s
  | .atomAnd o => Sys2Proof.Machine.execAtomAnd o s
  | .atomOr o => Sys2Proof.Machine.execAtomOr o s
  | .atomXor o => Sys2Proof.Machine.execAtomXor o s
  | .atomMin o => Sys2Proof.Machine.execAtomMin o s
  | .atomMax o => Sys2Proof.Machine.execAtomMax o s
  | .atomXchg o => Sys2Proof.Machine.execAtomXchg o s
  | .cas o => Sys2Proof.Machine.execCas o s
  | .atomnAdd o => Sys2Proof.Machine.execAtomnAdd o s
  | .atomnAnd o => Sys2Proof.Machine.execAtomnAnd o s
  | .atomnOr o => Sys2Proof.Machine.execAtomnOr o s
  | .atomnXor o => Sys2Proof.Machine.execAtomnXor o s
  | .atomnMin o => Sys2Proof.Machine.execAtomnMin o s
  | .atomnMax o => Sys2Proof.Machine.execAtomnMax o s
  | .ldwE o => Sys2Proof.Machine.execLdwE o s
  | .ldf o => Sys2Proof.Machine.execLdf o s
  | .fill o => Sys2Proof.Machine.execFill o s
  | .empty o => Sys2Proof.Machine.execEmpty o s
  | .feget o => Sys2Proof.Machine.execFeget o s
  | .cpyb o => Sys2Proof.Machine.execCpyb o s
  | .cpyk o => Sys2Proof.Machine.execCpyk o s
  | .cpyw o => Sys2Proof.Machine.execCpyw o s
  | .cpyq o => Sys2Proof.Machine.execCpyq o s
  | .job o => Sys2Proof.Machine.execJob o s
  | .jobp o => Sys2Proof.Machine.execJobp o s
  | .jwait o => Sys2Proof.Machine.execJwait o s
  | .jstat o => Sys2Proof.Machine.execJstat o s
  | .tdset wd o => Sys2Proof.Machine.execTdset wd o s
  | .tdget wd o => Sys2Proof.Machine.execTdget wd o s
  | .bsld o => Sys2Proof.Machine.execBsld o s
  | .accrd o => Sys2Proof.Machine.execAccrd o s
  | .accwr o => Sys2Proof.Machine.execAccwr o s
  | .accz o => Sys2Proof.Machine.execAccz o s
  | .jchk o => Sys2Proof.Machine.execJchk o s
  | .emit o => Sys2Proof.Machine.execEmit o s
  | .take o => Sys2Proof.Machine.execTake o s
  | .done o => Sys2Proof.Machine.execDone o s
  | .syscall o => Sys2Proof.Machine.execSyscall o s
  | .brk o => Sys2Proof.Machine.execBrk o s
  | .timerarm o => Sys2Proof.Machine.execTimerarm o s
  | .rdsr o => Sys2Proof.Machine.execRdsr o s
  | .wrsr o => Sys2Proof.Machine.execWrsr o s
  | .rdcnt o => Sys2Proof.Machine.execRdcnt o s
  | .hintClass o => Sys2Proof.Machine.execHintClass o s
  | .hintIdle o => Sys2Proof.Machine.execHintIdle o s
  | .compactAddV o => Sys2Proof.Machine.execCompactAddV o s
  | .compactAddVi o => Sys2Proof.Machine.execCompactAddVi o s
  | .compactSubV o => Sys2Proof.Machine.execCompactSubV o s
  | .compactMulV o => Sys2Proof.Machine.execCompactMulV o s
  | .compactMulVi o => Sys2Proof.Machine.execCompactMulVi o s
  | .compactMin o => Sys2Proof.Machine.execCompactMin o s
  | .compactMax o => Sys2Proof.Machine.execCompactMax o s
  | .compactAndV o => Sys2Proof.Machine.execCompactAndV o s
  | .compactAndVi o => Sys2Proof.Machine.execCompactAndVi o s
  | .compactOrV o => Sys2Proof.Machine.execCompactOrV o s
  | .compactOrVi o => Sys2Proof.Machine.execCompactOrVi o s
  | .compactXorV o => Sys2Proof.Machine.execCompactXorV o s
  | .compactXorVi o => Sys2Proof.Machine.execCompactXorVi o s
  | .compactShlV o => Sys2Proof.Machine.execCompactShlV o s
  | .compactShlVi o => Sys2Proof.Machine.execCompactShlVi o s
  | .compactShrVi o => Sys2Proof.Machine.execCompactShrVi o s
  | .compactSarVi o => Sys2Proof.Machine.execCompactSarVi o s
  | .compactMovV o => Sys2Proof.Machine.execCompactMovV o s
  | .compactMovVi o => Sys2Proof.Machine.execCompactMovVi o s
  | .compactAddS o => Sys2Proof.Machine.execCompactAddS o s
  | .compactAddSi o => Sys2Proof.Machine.execCompactAddSi o s
  | .compactMovS o => Sys2Proof.Machine.execCompactMovS o s
  | .compactMovSi o => Sys2Proof.Machine.execCompactMovSi o s
  | .compactCmpEq o => Sys2Proof.Machine.execCompactCmpEq o s
  | .compactCmpLt o => Sys2Proof.Machine.execCompactCmpLt o s
  | .compactCmpLtU32 o => Sys2Proof.Machine.execCompactCmpLtU32 o s
  | .compactCmpLtI o => Sys2Proof.Machine.execCompactCmpLtI o s
  | .compactFadd o => Sys2Proof.Machine.execCompactFadd o s
  | .compactFmul o => Sys2Proof.Machine.execCompactFmul o s
  | .compactFmin o => Sys2Proof.Machine.execCompactFmin o s
  | .compactFmax o => Sys2Proof.Machine.execCompactFmax o s
  | .compactLdV o => Sys2Proof.Machine.execCompactLdV o s
  | .compactLdI o => Sys2Proof.Machine.execCompactLdI o s
  | .compactSt o => Sys2Proof.Machine.execCompactSt o s
  | .compactLdu o => Sys2Proof.Machine.execCompactLdu o s
  | .compactPopc o => Sys2Proof.Machine.execCompactPopc o s
  | .compactShflXor o => Sys2Proof.Machine.execCompactShflXor o s
  | .compactShflIdx o => Sys2Proof.Machine.execCompactShflIdx o s
  | .sliceCycle sl => Sys2Proof.Machine.execSliceCycle sl s
  | .nop => Sys2Proof.Machine.execNop s
  | .ret => Sys2Proof.Machine.execRet s
  | .park => Sys2Proof.Machine.execPark s
  | .exit => Sys2Proof.Machine.execExit s
  | .fenceOpr => Sys2Proof.Machine.execFenceOpr s
  | .tret => Sys2Proof.Machine.execTret s
  | .tretW => Sys2Proof.Machine.execTretW s
  | .ckpt => Sys2Proof.Machine.execCkpt s
  | .compactNop => Sys2Proof.Machine.execCompactNop s
  | .compactExit => Sys2Proof.Machine.execCompactExit s
  | .ceiling g => Sys2Proof.Machine.execCeiling g s
  | .instructionLineFill core root va soft => Sys2Proof.Machine.execInstructionLineFill core root va soft s
  | .operandCollect x => Sys2Proof.Machine.execOperandCollect x s
  | .resultWriteback sl => Sys2Proof.Machine.execResultWriteback sl s
  | .wRegisterApply core => Sys2Proof.Machine.execWRegisterApply core s
  | .joinTest g => Sys2Proof.Machine.execJoinTest g s
  | .barrierRelease blk lv n => Sys2Proof.Machine.execBarrierRelease blk lv n s
  | .hintIdleWake sl => Sys2Proof.Machine.execHintIdleWake sl s
  | .memoryRequestServe r => Sys2Proof.Machine.execMemoryRequestServe r s
  | .loadReply core id => Sys2Proof.Machine.execLoadReply core id s
  | .inboundDrain core => Sys2Proof.Machine.execInboundDrain core s
  | .creditAcknowledge src tgt => Sys2Proof.Machine.execCreditAcknowledge src tgt s
  | .creditReturn src tgt => Sys2Proof.Machine.execCreditReturn src tgt s
  | .denialNotice id => Sys2Proof.Machine.execDenialNotice id s
  | .fullEmptyAnswer core id => Sys2Proof.Machine.execFullEmptyAnswer core id s
  | .ldwEWake core id => Sys2Proof.Machine.execLdwEWake core id s
  | .promotionDemand id => Sys2Proof.Machine.execPromotionDemand id s
  | .promotionAnswer id => Sys2Proof.Machine.execPromotionAnswer id s
  | .atomicPerform core id lost err => Sys2Proof.Machine.execAtomicPerform core id lost err s
  | .atomicReplay core id => Sys2Proof.Machine.execAtomicReplay core id s
  | .streamPrefetch die line => Sys2Proof.Machine.execStreamPrefetch die line s
  | .copyElement core tag k err => Sys2Proof.Machine.execCopyElement core tag k err s
  | .copyRetire core tag => Sys2Proof.Machine.execCopyRetire core tag s
  | .copyFault core tag => Sys2Proof.Machine.execCopyFault core tag s
  | .bsldComplete core id => Sys2Proof.Machine.execBsldComplete core id s
  | .jobStart core => Sys2Proof.Machine.execJobStart core s
  | .anvilIteration core soft => Sys2Proof.Machine.execAnvilIteration core soft s
  | .anvilDrain core => Sys2Proof.Machine.execAnvilDrain core s
  | .jobDone core => Sys2Proof.Machine.execJobDone core s
  | .jobFault core => Sys2Proof.Machine.execJobFault core s
  | .recordArrival die => Sys2Proof.Machine.execRecordArrival die s
  | .overflowRefill gr node q => Sys2Proof.Machine.execOverflowRefill gr node q s
  | .binfull g => Sys2Proof.Machine.execBinfull g s
  | .binEvaluation die => Sys2Proof.Machine.execBinEvaluation die s
  | .binTimerExpiry gr node q => Sys2Proof.Machine.execBinTimerExpiry gr node q s
  | .vaneDone die => Sys2Proof.Machine.execVaneDone die s
  | .vaneTake die => Sys2Proof.Machine.execVaneTake die s
  | .nodeStatusWrite gr => Sys2Proof.Machine.execNodeStatusWrite gr s
  | .graphComplete gr => Sys2Proof.Machine.execGraphComplete gr s
  | .qres die q => Sys2Proof.Machine.execQres die q s
  | .qcommit die q v => Sys2Proof.Machine.execQcommit die q v s
  | .qcfg die q v => Sys2Proof.Machine.execQcfg die q v s
  | .commandConsume die q => Sys2Proof.Machine.execCommandConsume die q s
  | .nopCommand die q => Sys2Proof.Machine.execNopCommand die q s
  | .launch die q => Sys2Proof.Machine.execLaunch die q s
  | .graph die q => Sys2Proof.Machine.execGraph die q s
  | .waitmem die q => Sys2Proof.Machine.execWaitmem die q s
  | .waitmemSatisfied die q => Sys2Proof.Machine.execWaitmemSatisfied die q s
  | .writemem die q => Sys2Proof.Machine.execWritemem die q s
  | .gstatus die q => Sys2Proof.Machine.execGstatus die q s
  | .blockStart id => Sys2Proof.Machine.execBlockStart id s
  | .launchComplete id => Sys2Proof.Machine.execLaunchComplete id s
  | .blockRelease id => Sys2Proof.Machine.execBlockRelease id s
  | .leaseRenew die => Sys2Proof.Machine.execLeaseRenew die s
  | .leasePoll die => Sys2Proof.Machine.execLeasePoll die s
  | .leaderLapse die => Sys2Proof.Machine.execLeaderLapse die s
  | .leaseHandover die succ => Sys2Proof.Machine.execLeaseHandover die succ s
  | .setregion die => Sys2Proof.Machine.execSetregion die s
  | .clearregion die => Sys2Proof.Machine.execClearregion die s
  | .preempt die => Sys2Proof.Machine.execPreempt die s
  | .restore die => Sys2Proof.Machine.execRestore die s
  | .setrspace die => Sys2Proof.Machine.execSetrspace die s
  | .blockPreempt id => Sys2Proof.Machine.execBlockPreempt id s
  | .blockRestore id => Sys2Proof.Machine.execBlockRestore id s
  | .tsync die v => Sys2Proof.Machine.execTsync die v s
  | .tlbInvalidation core => Sys2Proof.Machine.execTlbInvalidation core s
  | .tableWalk core root va kind => Sys2Proof.Machine.execTableWalk core root va kind s
  | .trapDelivery die => Sys2Proof.Machine.execTrapDelivery die s
  | .trcfg die v => Sys2Proof.Machine.execTrcfg die v s
  | .tractResumeTrpc die v => Sys2Proof.Machine.execTractResumeTrpc die v s
  | .tractResumePc die v => Sys2Proof.Machine.execTractResumePc die v s
  | .tractEndGroup die v => Sys2Proof.Machine.execTractEndGroup die v s
  | .tractKill die v => Sys2Proof.Machine.execTractKill die v s
  | .migctlGo die => Sys2Proof.Machine.execMigctlGo die s
  | .migrationFreeze die => Sys2Proof.Machine.execMigrationFreeze die s
  | .migrationDone die => Sys2Proof.Machine.execMigrationDone die s
  | .rollback id => Sys2Proof.Machine.execRollback id s
  | .launchKill id cause => Sys2Proof.Machine.execLaunchKill id cause s
  | .syscallTicketDraw g => Sys2Proof.Machine.execSyscallTicketDraw g s
  | .scdone die h v => Sys2Proof.Machine.execScdone die h v s
  | .syscallCompletion id => Sys2Proof.Machine.execSyscallCompletion id s
  | .introute die k v => Sys2Proof.Machine.execIntroute die k v s
  | .comparatorFire core n => Sys2Proof.Machine.execComparatorFire core n s
  | .lqdevattr h o => Sys2Proof.Machine.execLqdevattr h o s
  | .lqcuralm a ev => Sys2Proof.Machine.execLqcuralm a ev s
  | .lqpwrctl r => Sys2Proof.Machine.execLqpwrctl r s
  | .currentAlarm k => Sys2Proof.Machine.execCurrentAlarm k s
  | .boostGrant on => Sys2Proof.Machine.execBoostGrant on s
  | .telemetryUpdate avg pwr tmp uj => Sys2Proof.Machine.execTelemetryUpdate avg pwr tmp uj s
  | .slottabWrite sl row v => Sys2Proof.Machine.execSlottabWrite sl row v s
  | .clkratWrite sl v => Sys2Proof.Machine.execClkratWrite sl v s
  | .passcntWrite core v => Sys2Proof.Machine.execPasscntWrite core v s
  | .tokbalWrite sl v => Sys2Proof.Machine.execTokbalWrite sl v s
  | .tokenRefill sl => Sys2Proof.Machine.execTokenRefill sl s
  | .sgate sl => Sys2Proof.Machine.execSgate sl s
  | .cgate core => Sys2Proof.Machine.execCgate core s
  | .coff core => Sys2Proof.Machine.execCoff core s
  | .unitWake core => Sys2Proof.Machine.execUnitWake core s
  | .coldReset => Sys2Proof.Machine.execColdReset s
  | .warmReset => Sys2Proof.Machine.execWarmReset s
  | .flitSend d pay => Sys2Proof.Machine.execFlitSend d pay s
  | .flitReceive d lane => Sys2Proof.Machine.execFlitReceive d lane s
  | .ackReceive d => Sys2Proof.Machine.execAckReceive d s
  | .nakReceive d => Sys2Proof.Machine.execNakReceive d s
  | .ackTimeout d => Sys2Proof.Machine.execAckTimeout d s
  | .laneShed l => Sys2Proof.Machine.execLaneShed l s
  | .linkReset l => Sys2Proof.Machine.execLinkReset l s
  | .finjctl l v => Sys2Proof.Machine.execFinjctl l v s
  | .collctlGo die => Sys2Proof.Machine.execCollctlGo die s
  | .collectiveComplete die => Sys2Proof.Machine.execCollectiveComplete die s
  | .attctlGo die => Sys2Proof.Machine.execAttctlGo die s
  | .quoteSign die => Sys2Proof.Machine.execQuoteSign die s
  | .twinCompare t => Sys2Proof.Machine.execTwinCompare t s
  | .ckptRendezvous t => Sys2Proof.Machine.execCkptRendezvous t s
  | .pciePeerRequest k r => Sys2Proof.Machine.execPciePeerRequest k r s
  | .registerWrite die off n v m => Sys2Proof.Machine.execRegisterWrite die off n v m s
  | .aplicWiredSource die src on => Sys2Proof.Machine.execAplicWiredSource die src on s
  | .pcieLinkReset k => Sys2Proof.Machine.execPcieLinkReset k s
  | .retrainComplete l ok => Sys2Proof.Machine.execRetrainComplete l ok s
  | .dramActivationWindow die v => Sys2Proof.Machine.execDramActivationWindow die v s
  | .badreq die => Sys2Proof.Machine.execBadreq die s

end Sys2Proof.Machine
end

