-- ==== Sys2Proof/Machine/Work.lean ====
section
/-! DEFINITION. Work that the part has in hand: each item is one step of the part, whose meaning is that of the event it names; an item that can do
nothing yet goes to the back. -/

namespace Sys2Proof.Machine

open Sys2Proof

/-- The events of one core cycle met by a die's Vane, in order. -/
def State.vaneEvents (s : State) (die cyc : Nat) : Nat → State
  | 0 => s
  | k + 1 =>
    if s.vaneCycle die != some cyc then s
    else (s.after (match s.nextEmitted die, s.nextVop die with
      | some _, _ => execRecordArrival die s
      | none, some o => if o.take then execVaneTake die s else execVaneDone die s
      | none, none => .next s)).vaneEvents die cyc k

/-- The end of a core cycle at a die's Vane: room appears, arrivals that wait are tried again, and bins and queues are evaluated (07 R171, R172). -/
def State.vaneEnd (s : State) (die : Nat) : State :=
  let s := (s.queuesOf die).foldl (fun (s : State) (x : Nat × Nat × Nat) => s.after (execOverflowRefill x.1 x.2.1 x.2.2 s)) s
  s.after (execBinEvaluation die s)

/-- The core cycles that have ended, one after the other: the events of each, then its evaluation. -/
def State.vaneCycles (s : State) (die : Nat) : Nat → State
  | 0 => s
  | k + 1 => match s.vaneCycle die with
    | some c => ((s.vaneEvents die c (s.emitted.length + s.vops.length)).vaneEnd die).vaneCycles die k
    | none => s

/-- The next step of a die's Vane: the events of the core cycles that have ended, bins and queues evaluated, and graphs that have completed. -/
def State.vaneStep (s : State) (die : Nat) : State :=
  let s := (s.vaneCycles die (s.emitted.length + s.vops.length)).vaneEnd die
  s.graphs.foldl (fun (s : State) (g : Nat × Graph) => if s.graphDie g.1 = die then s.after (execGraphComplete g.1 s) else s) s

/-- The command at hand of a queue passed on. -/
def State.passOn (s : State) (d q : Nat) : State :=
  match (s.queue d q).now? with
  | none => s
  | some c => s.after (match c.code with
    | 0 => execNopCommand d q s
    | 1 => execLaunch d q s
    | 2 => execGraph d q s
    | 3 => execWaitmem d q s
    | 4 => execWritemem d q s
    | _ => execGstatus d q s)

/-- A mailbox request served by its code. -/
def State.mailbox (s : State) (d : Nat) : State :=
  let s := s.after (execBadreq d s)
  match (s.die d).code with
  | 1 => s.after (execSetregion d s)
  | 2 => s.after (execClearregion d s)
  | 3 => s.after (execPreempt d s)
  | 4 => s.after (execRestore d s)
  | 5 => s.after (execSetrspace d s)
  | _ => s

/-- A migration's next state. -/
def State.migrate (s : State) (d : Nat) : State :=
  match (s.die d).migst with
  | .copy => s.after (execMigrationFreeze d s)
  | .freeze => s.after (execMigrationDone d s)
  | _ => s

/-- One item done. -/
def State.work (s : State) : Work → State
  | .serve c id => s.after (execMemoryRequestServe (.core c id .none) s)
  | .reply c id => s.after (execLoadReply c id s)
  | .perform c id => s.after (execAtomicPerform c id false .none s)
  | .answer c id => s.after (execFullEmptyAnswer c id s)
  | .wake c id => s.after (execLdwEWake c id s)
  | .drain c => s.after (execInboundDrain c s)
  | .ack src tgt => s.after (execCreditAcknowledge src tgt s)
  | .credit src tgt => s.after (execCreditReturn src tgt s)
  | .notice id => s.after (execDenialNotice id s)
  | .demand _ id => s.after (execPromotionDemand id s)
  | .promoted _ id => s.after (execPromotionAnswer id s)
  | .copy c t => s.after (s.copyStep c t)
  | .bsld c id => s.after (execBsldComplete c id s)
  | .anvil c => s.after (s.anvilStep c)
  | .vane d => s.vaneStep d
  | .trap d => s.after (execTrapDelivery d s)
  | .wapply c => s.after (execWRegisterApply c s)
  | .fill c root va => s.after (execInstructionLineFill c root va false s)
  | .timer c n => s.after (execComparatorFire c n s)
  | .twin t => s.after (s.twinStep t)
  | .barrier b lv n => s.after (execBarrierRelease b lv n s)
  | .inval c => s.after (execTlbInvalidation c s)
  | .consume d q => s.after (execCommandConsume d q s)
  | .command d q => s.passOn d q
  | .waitmem d q => s.after (execWaitmemSatisfied d q s)
  | .writemem d q => s.after (execWritemem d q s)
  | .start id => s.after (execBlockStart id s)
  | .complete id => s.after (execLaunchComplete id s)
  | .release b => s.after (execBlockRelease b s)
  | .sysdone id => s.after (execSyscallCompletion id s)
  | .rollback id cause => s.after (s.consumeError id cause)
  | .preempt b => s.after (execBlockPreempt b s)
  | .restore b => s.after (execBlockRestore b s)
  | .mail d => s.mailbox d
  | .migrate d => s.migrate d
  | .collective d => s.after (execCollectiveComplete d s)
  | .quote d => s.after (execQuoteSign d s)
  | .unit c => s.after (execUnitWake c s)
  | .parked => s.unpark

/-- Has an item still something to do? -/
def State.again (s : State) : Work → Bool
  | .serve c id => (match s.req? c id with
    | some r => r.st == .queued && (r.open_ != [] || (match r.kind with | .fence _ _ | .tretw => true | _ => false))
    | none => false)
  | .perform c id => (match s.req? c id with | some r => r.st == .queued | none => false)
  | .demand _ id => (match s.reqAnywhere id with | some (_, r) => r.promo.any (fun p => p.2 == .sent) | none => false)
  | .reply c id => (match s.req? c id with | some r => r.st == .done | none => false)
  | .answer c id => (match s.req? c id with
    | some r => (match r.kind with
      | .ldwe | .tretw => r.accs.any (fun a => a.st == .done || a.st == .skip) && !(r.cmpd && r.accs.any (fun a => a.st == .todo || a.st == .sleep))
      | _ => r.st == .done)
    | none => false)
  | .credit src tgt => SMap.get 0 (s.core src).granted tgt != 0
  | .wake c id => (match s.req? c id with | some r => r.st != .held && s.woken r != [] | none => false)
  | .copy c t => s.copyBusy c t
  | .bsld c id => (s.core c).bslds.any (fun x => x.id == id)
  | .anvil c => s.anvilBusy c
  | .vane d => s.graphs.any (fun g => s.graphDie g.1 == d)
  | .trap d => !(s.die d).traps.isEmpty
  | .wapply c => !(s.core c).wq.isEmpty
  | .timer c n => SMap.get 0 (s.core c).tmrcmp n != 0
  | .twin t => s.twinBusy t || s.ckptWaits t
  | .command d q => (s.queue d q).cur.isSome
  | .waitmem d q => (s.queue d q).wait.isSome
  | .start id => (match s.launch? id with | some l => !l.isGraph && l.started < l.total | none => false)
  | .release b => (match s.block? b with | some x => x.ended | none => false)
  | .preempt b => (match s.block? b with | some x => x.stopped | none => false)
  | .restore b => (match s.block? b with | some x => x.saved.isSome && (match s.susp.find? x.region with | some y => y.restore && y.busy | none => false) | none => false)
  | .mail d => (s.die d).fwbusy && (s.leader?.isNone && [1, 2, 5].contains (s.die d).code)
  | .migrate d => (s.die d).migst == .copy || (s.die d).migst == .freeze
  | .collective d => (s.die d).collbusy
  | .quote d => (s.die d).attbusy
  | .parked => s.parked != []
  | _ => false

/-- The oldest item done, and put back while it has something left to do. -/
def State.runDue (s : State) : State :=
  match s.due with
  | [] => s
  | w :: rest =>
    let t := ({ s with due := rest } : State).work w
    if t.again w && !t.due.contains w then t.addDue [w] else t

end Sys2Proof.Machine
end

