-- ==== Sys2Proof/Machine/Run.lean ====
section
/-! DEFINITION. What one step does around the meaning of an instruction: what a slice cycle issues next, acceptance by the memory unit, the
registers that two instructions of one cycle share, and what the part does between instructions. -/

namespace Sys2Proof.Machine

open Sys2Proof

/-- An instruction about to be executed: itself, the state in which it is executed, the state to go back to when the memory unit does not accept it. -/
structure Ready where
  i : Instr
  s : State
  deriving DecidableEq, Repr

/-- What the pick of a slice cycle finds at its address: nothing to issue any more, a trap, or an instruction. -/
inductive Pres where
  | gone
  /-- a trap of fetch or decode, found before issue, or of an instruction whose guard is poisoned, which has issued (08 R206, 23 R397) -/
  | trap (t : Trap) (by_ : Option (Instr × Cur))
  | go (r : Ready)
  deriving DecidableEq, Repr

/-- The registers held per group as another group has them (03 R72). -/
def Group.withShared (g was : Group) : Group := { g with m := was.m, b := was.b, t := was.t }

/-- Forms of which only the lowest executing lane's value is taken, so that only its poison is consumed (12 R264, 15 R325, 16 R346, 14 R298, 06 R142). -/
def takesLowest (i : Instr) : Bool :=
  match i with
  | .movxMs _ | .movxWs _ | .brmake _ | .brsetBase _ | .brsetStride _ | .brsetExtent _ | .brsetSwz _ | .brsetEsz _ | .brsetOobf _ | .bradv _
  | .cpyb _ | .cpyk _ | .cpyw _ | .cpyq _ | .job _ | .jobp _ | .jwait _ | .jstat _ | .tdset _ _ | .bsld _ | .accz _ | .jchk _ | .accrd _
  | .barWait _ _ | .barSync _ _ | .syscall _ | .brk _ | .timerarm _ | .rdsr _ | .wrsr _ | .hintIdle _ => true
  | _ => false

/-- Forms in which a poisoned source of any lane is consumed: branches, PASS, MBALLOT, writers of memory, ACCWR, EMIT, and DONE in a lane that holds a
record (23 R397, 06 R145, 11 R253, R255, 14 R298, 15 R325, 16 R348). -/
def takesAny (i : Instr) : Bool :=
  match i with
  | .bra _ | .brx _ | .brvAny _ | .brvAll _ | .brvNone _ | .call _ | .callx _ | .ret | .pass _ | .passAny _ | .mballot _
  | .st _ | .str _ | .stu _ | .stmc _ | .fill _ | .stredAdd _ | .stredAnd _ | .stredOr _ | .stredXor _ | .stredMin _ | .stredMax _
  | .atomAdd _ | .atomAnd _ | .atomOr _ | .atomXor _ | .atomMin _ | .atomMax _ | .atomXchg _ | .cas _ | .atomnAdd _ | .atomnAnd _
  | .atomnOr _ | .atomnXor _ | .atomnMin _ | .atomnMax _ | .empty _ | .ldwE _ | .accwr _ | .emit _ | .done _ => true
  | _ => false

/-- The lanes with a poisoned guard that consume it: such a lane counts as one with a poisoned source (23 R397). -/
def consumers (g : Group) (cur : Cur) (i : Instr) : List Nat :=
  let l := cur.psn.map (·.1)
  if takesLowest i then
    match lowest (cur.lanes ||| maskIn l) with
    | some k => if l.contains k then [k] else []
    | none => []
  else if takesAny i then (match i with | .done _ => l.filter (fun k => (g.lane k).held.isSome) | _ => l)
  else []

/-- What a poisoned guard raises before any effect: a consumption where a poisoned source would be consumed; where it spreads, UVIEW when the poisoned
lanes of a uniform destination would form a ninth view (03 R70). -/
def guardTrap (g : Group) (cur : Cur) (i : Instr) : Option Trap :=
  match (consumers g cur i.expand).filterMap (fun k => (cur.psn.find? (fun x => x.1 == k)).map (fun x => x.2)), formOf i with
  | p :: _, _ => some (g.consumed cur.pc (maskIn (consumers g cur i.expand)) p)
  | [], some (f, _, o) =>
    if (g.splitMarred f o cur.lanes cur.marred).isNone then
      some { cause := Cause.uview, pc := cur.pc, lanes := cur.lanes ||| maskIn (cur.marred.map (fun x => x.1)) }
    else none
  | [], none => none

/-- Group-held registers whose read by an instruction is unpredictable, once each (08 R202). -/
def Cur.wildShared (c : Cur) : List Nat := ((c.wild.map (·.2)).filter (328 ≤ ·)).eraseDups

/-- The pick of a slice cycle presented: the instruction at its address, its lanes (a secondary's are those that were eligible at its address at the start
of the cycle, 01 R23), and the state in which it executes. The second of a pair comes after its first in program order: one that is not ready then, or
would trap in decode, does not issue, and is presented again (08 R204). -/
def State.present (s : State) (l : Latch) (k : Pick) : Pres :=
  match l.group with
  | none => .gone
  | some key =>
    match s.group? key with
    | none => .gone
    | some g =>
      match s.look key g k true with
      | .ok c i cur =>
        let cur : Cur := { cur with
          ws := (s.slice (sliceOf key)).foundW l.baton k.pc, baton := l.baton, start := if k.sec || k.second then l.start else none }
        if cur.at_ == 0#32 || (k.second && !s.ready key (g.onLanes cur.at_ (fun _ x => { x with ready := 0 })) c i cur (s.slice (sliceOf key)).tokBal) then .gone
        else match guardTrap g cur i with
          | some t => .trap t (some (i, cur))
          | none =>
            let g := g.onLanes cur.at_ (fun _ x => { x with ready := 0 })
            let g := match k.sec, l.start with | true, some x => g.withShared x.group | _, _ => g
            let g := cur.wildShared.foldl (fun g r => g.loosen s.free r) g
            .go { i, s := { s.putGroup key g with cur } }
      | .trap c => if k.second then .gone else .trap { cause := c, pc := k.pc, addr := if c = Cause.badtgt then k.pc else 0, lanes := g.atPc k.pc } none
      | .absent => .gone

/-- The state with a core's copies as they stood at the start of the cycle (01 R25). -/
def State.atStart (s : State) (l : Latch) (core : Nat) : State :=
  match l.start with
  | some x => s.putCore core { s.core core with tags := x.core.tags }
  | none => s

/-- After an instruction of a cycle: when the memory unit does not accept it, nothing of it has happened; else its cycle goes on. -/
def State.settle (s : State) (l : Latch) (k : Pick) (r : Ready) (t : State) : State :=
  if !(if k.sec || k.second then (s.atStart l r.s.cur.core).memAccepts t r.s.cur.core else s.memAccepts t r.s.cur.core) then
    { s.sendAsk t r.s.cur.core with latch := some { l with todo := if k.sec || k.second then l.todo.drop 1 else [] } }
  else
    let u := t.finish r.i r.s.cur l
    match s.group? r.s.cur.key, u.group? r.s.cur.key with
    | some was, some g =>
      -- group-held registers read as unpredictable and not written are as they were; of two writes of a cycle the primary's persists (03 R72)
      let wrote := match formOf r.i with | some (f, _, o) => formWrites f o | none => []
      let h := (r.s.cur.wildShared.filter (fun x => !wrote.contains x)).foldl (fun (h : Group) x => h.likeIn was x) g
      let h := if k.sec then h.keepFirst was l.first
        else if k.second then h.keepFirst was (l.first.filter (fun x => !(r.s.cur.spoilt.any (fun y => y.2 == x)))) else h
      if h = g then u else u.putGroup r.s.cur.key h
    | _, _ => u

/-- A pick that traps at its address, or finds nothing there: the cycle issues it no more; one whose guard is poisoned has issued. -/
def State.skip (s : State) (l : Latch) (t : Option (Trap × Option (Instr × Cur))) : State :=
  match t, l.group with
  | some (t, some (i, cur)), some key => (s.raiseAt key t).finish i cur l
  | some (t, none), some key => ({ s with latch := some { l with todo := l.todo.drop 1 } }).raiseAt key t
  | _, _ => { s with latch := some { l with todo := l.todo.drop 1 } }

/-- The slice whose next cycle begins first, among those with a resident group. -/
def State.nextSlice (s : State) : Option Nat :=
  (s.groups.foldl (fun (m : Option (Nat × Nat)) g =>
    let sl := sliceOf g.1
    let t := (s.slice sl).tick
    match m with
    | none => some (t, sl)
    | some (u, k) => if t < u then some (t, sl) else some (u, k)) none).map (·.2)

/-- Before a slice's cycle: a slice with an eligible thread wakes, a SYSCALL that waits draws again, an EMIT that has waited too long traps. -/
def State.beforeCycle (s : State) (sl : Nat) : State :=
  let s := if (s.slice sl).gated && s.sliceAwake sl then s.after (execUnitWake (sl / 6) s) else s
  (s.groups.filter (fun g => sliceOf g.1 == sl)).foldl (fun s g =>
    let s := if g.2.draw.isSome then s.after (execSyscallTicketDraw g.1 s) else s
    if g.2.emitWait.isSome then s.after (execBinfull g.1 s) else s) s

/-- With nothing from outside at hand: the part's work and the cycles of its slices by turns; with neither, one core cycle passes. -/
def State.goOn (s : State) : State :=
  if s.turn && !s.due.isEmpty then { s with turn := false }.runDue
  else
    let s := { s with turn := true }
    match s.nextSlice with
    | some sl => s.after (execSliceCycle sl (s.beforeCycle sl))
    | none => { s with now := s.now + 10 }

/-! ## A word placed where the next step fetches it -/

/-- The line that holds one instruction in its first slots, with its templates and parity. -/
def lineFor (nbits w : Nat) : List Byte :=
  let (t, bs) := tableBytes nbits w
  let code : Nat := match t with | .op => 0 | .pair => 1 | .pfx => 2 | .empty => 3
  let tpl := 2 ^ 5 * code + (if nbits > 96 then 0 else 2 ^ 7 * 3) + 2 ^ 9 * 3 + 2 ^ 11 * 3 + 2 ^ 13 * 3
  let body := bs ++ List.replicate (60 - bs.length) 0
  let x := (body ++ leBytes 4 tpl).foldl (fun (x : BitVec 4) b => (x ^^^ b.extractLsb' 0 4) ^^^ b.extractLsb' 4 4) 0
  body ++ leBytes 4 (tpl + x.toNat * 2 ^ 28)

/-- A block of one group on core 0, slice 0, slot 0, that holds baton 0, at address 0 of its process, whose line is in the core's cache, in a slice
cycle that has chosen that address for issue. -/
def State.placeWord (s : State) (nbits w : Nat) : State :=
  let one : Lane := { pc := 0 }
  let g : Group := { blk := 0, idx := 0, nv := 256, lanes := (List.range 32).map (fun l => (l, one)), m := [(0, 0xFFFFFFFF)], baton := some 0 }
  let e : Eff := { rid := 1, tmrgrant := 15, ceil := 3, nbat := 4, share := 64, w := 8, h := 12, diemask := 15 }
  let l : Launch := { die := 0, queue := 0, ticket := 0, root := 0, desc := 0, eff := e, started := 1 }
  let b : Block := { launch := 0, lin := 0, core := 0, region := 1, threads := 32, groups := 1, nv := 256, place := [(0, 0)], tiles := [0, 1, 2, 3, 4, 5, 6, 7] }
  let lat : Latch := { slice := 0, todo := [{ pc := 0 }], group := some 0, elig := 0xFFFFFFFF, chosen := 0xFFFFFFFF }
  let s := (s.putSlice 0 { s.slice 0 with batons := [(0, .held 0 0)] }).putCore 0 { s.core 0 with icache := [(0, 0, 0, lineFor nbits w)] }
  { s with groups := s.groups.put 0 g, launches := s.launches.put 0 l, blocks := s.blocks.put 0 b, latch := some lat }

end Sys2Proof.Machine
end

