-- ==== Sys2Proof/Machine/Step.lean ====
section
/-! DEFINITION. One step of the machine: the next instruction of the slice cycle in progress; else what comes from outside; else the part's own work. -/

namespace Sys2Proof.Machine

open Sys2Proof

/-- One step. -/
def step (s : State) : Host.Outcome State Fault Refusal :=
  match s.latch with
  | some l =>
    (match l.todo with
     | [] => .next (s.endCycle l)
     | k :: _ =>
       (match s.present l k with
        | .gone => .next (s.skip l none)
        | .trap t i => .next (s.skip l (some (t, i)))
        | .go r =>
          (match exec r.i r.s with
           | .next t => .next (s.settle l k r t)
           | .fault e => .fault e
           | .refused e => .refused e)))
  | none =>
    (match s.agenda with
     | i :: rest => exec i { s with agenda := rest }
     | [] => .next s.goOn)

/-- The state with an instruction stored where the next step fetches it. -/
def State.withFetchWord (s : State) (nbits w : Nat) : State := s.placeWord nbits w

end Sys2Proof.Machine
end

