-- ==== Sys2Proof/WellFormed.lean ====
section
/-! DEFINITION. Which instructions are well-formed: an encoded form passes every check of 08 R207 that its fields decide, and a step of the
part names units that the package has (00 R4). -/

namespace Sys2Proof

/-- Numbers below the counts of the package: dies, cores, slices, groups and fabric link ends (00 R4, 26 R452). -/
def isDie (d : Nat) : Bool := d < Config.numDies
def isCore (c : Nat) : Bool := c < Config.numCores
def isSlice (sl : Nat) : Bool := sl < 6 * Config.numCores
def isGroup (g : Nat) : Bool := g < 96 * Config.numCores

/-- A step of the part names units that exist; an encoded form names none. -/
def Instr.unitsOk : Instr → Bool
  | .operandCollect x => isSlice x.slice
  | .sliceCycle sl | .resultWriteback sl | .hintIdleWake sl | .slottabWrite sl _ _ | .clkratWrite sl _
  | .tokbalWrite sl _ | .tokenRefill sl | .sgate sl => isSlice sl
  | .ceiling g | .joinTest g | .binfull g | .syscallTicketDraw g => isGroup g
  | .instructionLineFill c _ _ _ | .wRegisterApply c | .loadReply c _ | .inboundDrain c | .fullEmptyAnswer c _ | .ldwEWake c _
  | .atomicPerform c _ _ _ | .atomicReplay c _ | .copyElement c _ _ _ | .copyRetire c _ | .copyFault c _ | .bsldComplete c _
  | .jobStart c | .anvilIteration c _ | .anvilDrain c | .jobDone c | .jobFault c | .tlbInvalidation c | .tableWalk c _ _ _
  | .comparatorFire c _ | .passcntWrite c _ | .cgate c | .coff c | .unitWake c => isCore c
  | .creditAcknowledge a b | .creditReturn a b => isCore a && isCore b
  | .recordArrival d | .binEvaluation d | .vaneDone d | .vaneTake d | .leaseRenew d | .leasePoll d | .leaderLapse d
  | .setregion d | .clearregion d | .preempt d | .restore d | .setrspace d | .tsync d _ | .trapDelivery d | .trcfg d _
  | .tractResumeTrpc d _ | .tractResumePc d _ | .tractEndGroup d _ | .tractKill d _ | .migctlGo d | .migrationFreeze d
  | .migrationDone d | .introute d _ _ | .collctlGo d | .collectiveComplete d | .attctlGo d | .quoteSign d
  | .registerWrite d _ _ _ _ | .aplicWiredSource d _ _ | .dramActivationWindow d _ | .badreq d | .streamPrefetch d _
  | .qres d _ | .qcommit d _ _ | .qcfg d _ _ | .commandConsume d _ | .nopCommand d _ | .launch d _ | .graph d _ | .waitmem d _
  | .waitmemSatisfied d _ | .writemem d _ | .gstatus d _ | .scdone d _ _ => isDie d
  | .leaseHandover d succ => isDie d && isDie succ
  | _ => true

/-- The first check that an instruction fails, the units of a step of the part among them (08 R207, 00 R4). -/
def Instr.wellFormed (i : Instr) : Bool := i.reject?.isNone && i.unitsOk

/-- A word of a program is well-formed with its STALL, GUARD and modifying slot (08 R192, R196). -/
def Instr.encodable (c : Coding) (i : Instr) : Bool := i.wellFormed && c.fits i

end Sys2Proof
end

