-- ==== Sys2Proof/Safety.lean ====
section
/-! DEFINITION. What counts as a safe run, and the words that statements about instructions are written in: what a step answers, and what a write
of registers leaves. -/

namespace Sys2Proof.Machine

open Sys2Proof

/-! ## Safe runs -/

/-- The bytes of DRAM, of the scratchpads and of the B-stores are in canonical form: equal contents are equal data. -/
def State.memWf (s : State) : Bool := s.dram.wf && s.sram.wf && s.bst.wf

/-- A run of `n` steps that neither faults nor is refused, in whose every state memory is canonical. -/
def safeRun : Nat → State → Prop
  | 0, s => s.memWf = true
  | n + 1, s => s.memWf = true ∧ ∃ t, step s = .next t ∧ safeRun n t

/-! ## What an instruction answers -/

/-- The instruction answers a next state of which a condition holds. -/
def Answers (i : Instr) (s : State) (P : State → Prop) : Prop := ∃ t, exec i s = .next t ∧ P t

/-- An instruction of the group in the issuing slot `g` that changes that group alone: the group after it satisfies a condition, every other part
of the state (all of memory among it) is as it was, and the free counter has moved on. -/
def ActsOnGroup (i : Instr) (s : State) (P : Group → Prop) : Prop :=
  ∃ h, exec i s = .next { s with groups := s.groups.put s.cur.key h, free := s.free + 1 } ∧ P h

/-! ## What a write of registers leaves (03 R62, R63, R68) -/

/-- What a destination gives register `vr` out of a lane's results: nothing, if it does not name it. -/
def Sel.vGets (d : Sel) (r : Nat) (xs : List Val) : Option Val :=
  match d with | .v n => if n.toNat ≤ r then xs[r - n.toNat]? else none | _ => none

/-- What it gives register `sr`. -/
def Sel.uGets (d : Sel) (r : Nat) (xs : List Val) : Option Val :=
  match d with | .s n => if n.toNat ≤ r then xs[r - n.toNat]? else none | _ => none

/-- What it gives predicate `pr`: nothing to p7. -/
def Sel.pGets (d : Sel) (r : Nat) (xs : List Val) : Option PVal :=
  match d with | .p n => if r = n.toNat ∧ r ≠ 7 then xs.getLast?.map (fun x => ⟨x.bits != 0, x.psn⟩) else none | _ => none

/-- The written bits that a destination of `k` registers sets (03 R68). -/
def Sel.marks (d : Sel) (k : Nat) : DWord :=
  match d with | .s n => (List.range k).foldl (fun a i => a ||| (1 <<< (n.toNat + i))) 0 | _ => 0

/-- The destination stands within its class: a uniform pair at s63 does not. -/
def Sel.within (d : Sel) (k : Nat) : Bool := match d with | .s n => n.toNat + k ≤ 64 | _ => true

/-- The group `h` is `g` with a destination written in the lanes `m`, lane by lane, and nothing else: no other register of any class, no other
lane, no other field of a lane but the written bits. -/
structure Wrote (m : BitVec 32) (d : Sel) (xs : Nat → List Val) (g h : Group) : Prop where
  rest : h = { g with v := h.v, u := h.u, p := h.p, lanes := h.lanes }
  vAt : ∀ r l, l < 32 → h.vAt r l = if m.getLsbD l then (Sel.vGets d r (xs l)).getD (g.vAt r l) else g.vAt r l
  uAt : ∀ r l, r < 64 → l < 32 → h.uAt r l = if m.getLsbD l then (Sel.uGets d r (xs l)).getD (g.uAt r l) else g.uAt r l
  pAt : ∀ r l, r < 8 → l < 32 → h.pAt r l = if m.getLsbD l then (Sel.pGets d r (xs l)).getD (g.pAt r l) else g.pAt r l
  lane : ∀ l, l < 32 → h.lane l =
    if m.getLsbD l then { g.lane l with written := (g.lane l).written ||| Sel.marks d (xs l).length } else g.lane l

/-- An instruction that writes a destination in its executing lanes, from the group as it stands when the instruction issues, and does nothing
else: its lanes go on, a uniform destination splits views (03 R69; without a ninth view, 03 R70), and each executing lane takes its results. -/
def WritesLanes (i : Instr) (d : Sel) (xs : State → Group → Nat → List Val) : Prop :=
  ∀ s g g0, s.group? s.cur.key = some g → s.viewsFor (g.advance s.cur) d = .ok g0 →
    (∀ l < 32, Sel.within d (xs s g l).length = true) →
    ActsOnGroup i s (Wrote s.cur.lanes d (xs s g) g0)

/-- The poison of the first poisoned source (12 R264). -/
def firstPsn (l : List Val) : Option Nat := l.findSome? (·.psn)

/-- An arithmetic form that gives each executing lane one value, computed from its sources SA, SB and SC, and poisoned by the first of them. -/
def LaneGives (i : Instr) (f : Form) (n : Nat) (o : OpA) (op : Nat → Word → Word → Word → Word) : Prop :=
  WritesLanes i o.dst (fun s g l =>
    let a := s.source g f n (.a o) 2 l
    let b := s.source g f n (.a o) 3 l
    let c := s.source g f n (.a o) 4 l
    [⟨op l a.bits b.bits c.bits, firstPsn [a, b, c]⟩])

/-- A form with a rounding slot that gives each executing lane one value, told the rounding: besides the destination, the seed it draws on moves on
once when it draws and a lane executes it (10 R234). -/
def LaneRounds (i : Instr) (f : Form) (n : Nat) (o : OpA) (op : Rnd → Nat → Word → Word → Word → Word) : Prop :=
  ∀ s g g0, s.group? s.cur.key = some g → s.viewsFor (g.advance s.cur) o.dst = .ok g0 →
    ActsOnGroup i s (fun h => ∃ h0, h = { h0 with seed := (g.advanceSeed o.pfx o.rnd s.cur.lanes).seed } ∧
      Wrote s.cur.lanes o.dst (fun l =>
        let a := s.source g f n (.a o) 2 l
        let b := s.source g f n (.a o) 3 l
        let c := s.source g f n (.a o) 4 l
        [⟨op (g.rndOf o) l a.bits b.bits c.bits, firstPsn [a, b, c]⟩]) g0 h0)

/-- A compact form that gives each executing lane one value from registers of its own class (08 R200): `x` and `y` read the lane's two sources. -/
def CompactGives (i : Instr) (d : Sel) (x y : State → Group → Nat → Val) (op : Word → Word → Word) : Prop :=
  WritesLanes i d (fun s g l => [⟨op (x s g l).bits (y s g l).bits, firstPsn [x s g l, y s g l]⟩])

/-- `vn` of a compact op, as the instruction reads it. -/
def kv (n : BitVec 8) (s : State) (g : Group) (l : Nat) : Val := s.readV g n.toNat l
/-- `sn` of a compact op. -/
def ks (n : BitVec 8) (s : State) (g : Group) (l : Nat) : Val := s.readU g (n.toNat % 64) l
/-- The immediate of a compact op, sign-extended, zero-extended, or absent. -/
def kx (n : BitVec 16) (_ : State) (_ : Group) (_ : Nat) : Val := ⟨n.signExtend 32, none⟩
def kz (n : BitVec 16) (_ : State) (_ : Group) (_ : Nat) : Val := ⟨n.setWidth 32, none⟩
def k0 (_ : State) (_ : Group) (_ : Nat) : Val := ⟨0, none⟩

end Sys2Proof.Machine
end

