-- ==== Sys2Proof/Certificates/Slice0/Obligations.lean ====
section
/-! DEFINITION. The statements for the provers: what each rule of the spec says an instruction, a step of the part, the encoding or the
machine does. Where a clause rests on the model's own choice, its docstring names the log entry. -/

namespace Sys2Proof.Machine

open Sys2Proof

/-! ## Words of the statements about integers (spec 12) -/

/-- A word as the number that a signed or unsigned type reads. -/
def num (sg : Bool) (w : Word) : Int := if sg then w.toInt else w.toNat
/-- A number that wraps modulo 2^32. -/
def wrap (x : Int) : Word := BitVec.ofInt 32 x
/-- A number clamped to the range of a type. -/
def clampTo (sg : Bool) (x : Int) : Word := wrap (if sg then max (-2147483648) (min x 2147483647) else max 0 (min x 4294967295))
/-- The result of an exact number under .nosat or .sat (12 R265). -/
def result (sg sat : Bool) (x : Int) : Word := if sat then clampTo sg x else wrap x
/-- Bit `i` of a word made from a condition. -/
def bitsOf (p : Nat → Bool) : Word := maskOf p

/-- One of the eight steps of DIVSTEP (12 R267): the partial quotient and remainder after it. -/
def divOne (dv : Nat) (x : Nat × Nat) : Nat × Nat :=
  let t := 2 * x.2 + x.1 / 2147483648
  let q := 2 * x.1 % 4294967296
  if dv ≤ t then (q + 1, (t - dv) % 4294967296) else (q, t % 4294967296)

/-- Low and high register of a pair, each with a poison. -/
def pairResult (lo hi : Word) (psn : Option Nat) : List Val := [⟨lo, psn⟩, ⟨hi, psn⟩]

/-- The field that BFE extracts (12 R270): from bit `pos` of the source extended without limit. -/
def fieldOf (sg : Bool) (a ctl : Word) : Word :=
  let pos := ctl.toNat % 256
  let len := min (ctl.toNat / 256 % 256) 32
  let x : BitVec 320 := if sg then a.signExtend 320 else a.setWidth 320
  if len = 0 then 0
  else bitsOf (fun i => if i < len then x.getLsbD (pos + i) else sg && x.getLsbD (pos + len - 1))

end Sys2Proof.Machine

open Sys2Proof Sys2Proof.Machine

namespace Sys2Proof.Machine

/-! ## Words of the statements about records, masks and floating-point numbers -/

/-- A value with one field replaced, and every other bit as it was. -/
def Replaced {n : Nat} (old x : BitVec n) (lo w : Nat) (v : BitVec w) : Prop :=
  x.extractLsb' lo w = v ∧ ∀ i < n, i < lo ∨ lo + w ≤ i → x.getLsbD i = old.getLsbD i

/-- The mask of the lowest executing lane. -/
def lowMask (s : State) : BitVec 32 := maskOf (fun k => lowest s.cur.lanes == some k)

/-- A form that acts once for the group: with a lane executing and no poison among its sources it leaves the group as given (12 R272, 12 R274), with a
poisoned source the lanes `who` raise its consumption (12 R264, 23 R398; log 13), and with no lane executing it has no effect. -/
def ActsOnce (i : Instr) (who : State → Group → BitVec 32) (psn : State → Group → Option Nat) (after : State → Group → Group → Prop) : Prop :=
  ∀ s g, s.group? s.cur.key = some g →
    (s.cur.lanes ≠ 0 → psn s g = none → ActsOnGroup i s (after s (g.advance s.cur))) ∧
    (s.cur.lanes ≠ 0 → ∀ p, psn s g = some p → ActsOnGroup i s (fun h => h = g.raise (g.consumed s.cur.pc (who s g) p))) ∧
    (s.cur.lanes = 0 → ActsOnGroup i s (fun h => h = g.advance s.cur))

/-- The group `h` is `g` with a buffer record register changed, and nothing else. -/
def SetsBrec (n : Nat) (P : BitVec 128 → Prop) (g h : Group) : Prop := ∃ x, h = g.setB n x ∧ P x

/-- The exact value that a source of a floating form has, in a floating TYPE, subnormals flushed under !ftz (10 R224, R232). -/
def fval (f : Form) (o : OpA) (w : Word) : FV :=
  (fmtOf (f.effTy (.a o))).value (ftzOf o.pfx) (lowBits (f.effTy (.a o)) w)

/-- The one rounded result of 10 R232 in the TYPE, for element 0 of a lane. -/
def rounded (f : Form) (o : OpA) (r : Rnd) (l : Nat) (v : FV) : Word :=
  BitVec.ofNat 32 ((fmtOf (f.effTy (.a o))).round r.mode (drawOf r.seed l 0) r.sat r.ftz v)

/-- The two results of a two-wide form, element 0 in the low half (13 R287). -/
def roundedTwo (f : Form) (o : OpA) (r : Rnd) (l : Nat) (v : Nat → FV) : Word :=
  BitVec.ofNat 32 ((fmtOf (f.effTy (.a o))).round r.mode (drawOf r.seed l 0) r.sat r.ftz (v 0)
    + 65536 * (fmtOf (f.effTy (.a o))).round r.mode (drawOf r.seed l 1) r.sat r.ftz (v 1))

/-- Element `e` of a register of a two-wide form, as a value. -/
def fvalAt (f : Form) (o : OpA) (e : Nat) (w : Word) : FV :=
  (fmtOf (f.effTy (.a o))).value (ftzOf o.pfx) (w.toNat / 2 ^ (16 * e) % 65536)

/-- Is a value NaN? -/
def FV.isNan : FV → Bool | .nan => true | _ => false

/-- The bits of a source in its TYPE that give a value a sign and keep its magnitude; a NaN gives the canonical NaN (13 R283). -/
def resigned (f : Form) (o : OpA) (neg : Bool) (w : Word) : Word :=
  BitVec.ofNat 32 (match fval f o w with
    | .nan => (fmtOf (f.effTy (.a o))).canonNan
    | .inf _ => (fmtOf (f.effTy (.a o))).signed neg (fmtOf (f.effTy (.a o))).infCode
    | .fin _ m e => (fmtOf (f.effTy (.a o))).round .rne 0 false false (.fin neg m e))

end Sys2Proof.Machine

/-! ## Integer, logic, predicate and move instructions -/

/-- 12 R265: ADD, SUB, MUL, MULHI, MAD, MADHI, MIN, MAX, ABSD and NEG, for every operand form and both types, complete and give each executing lane
the exact result, wrapped or clamped; nothing else of the machine changes. -/
def Obligations.IntegerArithmetic : Prop :=
  (∀ o, LaneGives (.add o) Forms.add 0 o (fun _ a b _ => let sg := signedOf Forms.add o; result sg (satOf o) (num sg a + num sg b))) ∧
  (∀ o, LaneGives (.sub o) Forms.sub 0 o (fun _ a b _ => let sg := signedOf Forms.sub o; result sg (satOf o) (num sg a - num sg b))) ∧
  (∀ o, LaneGives (.mul o) Forms.mul 0 o (fun _ a b _ => let sg := signedOf Forms.mul o; result sg (satOf o) (num sg a * num sg b))) ∧
  (∀ o, LaneGives (.mulhi o) Forms.mulhi 0 o (fun _ a b _ =>
    let sg := signedOf Forms.mulhi o; (BitVec.ofInt 64 (num sg a * num sg b)).extractLsb' 32 32)) ∧
  (∀ o, LaneGives (.mad o) Forms.mad 0 o (fun _ a b c =>
    let sg := signedOf Forms.mad o; result sg (satOf o) (num sg a * num sg b + num sg c))) ∧
  (∀ o, LaneGives (.madhi o) Forms.madhi 0 o (fun _ a b c =>
    let sg := signedOf Forms.madhi o; (BitVec.ofInt 64 (num sg a * num sg b + num sg c)).extractLsb' 32 32)) ∧
  (∀ o, LaneGives (.min o) Forms.min 0 o (fun _ a b _ => let sg := signedOf Forms.min o; if num sg a ≤ num sg b then a else b)) ∧
  (∀ o, LaneGives (.max o) Forms.max 0 o (fun _ a b _ => let sg := signedOf Forms.max o; if num sg a ≤ num sg b then b else a)) ∧
  (∀ o, (Instr.absd o).wellFormed = true → LaneGives (.absd o) Forms.absd 0 o (fun _ a b _ =>
    let sg := signedOf Forms.absd o; BitVec.ofNat 32 (num sg a - num sg b).natAbs)) ∧
  (∀ o, LaneGives (.neg o) Forms.neg 0 o (fun _ a _ _ => let sg := signedOf Forms.neg o; result sg (satOf o) (0 - num sg a)))

/-- 12 R266 to R268: WMUL, ADD64, DIVSTEP and DIVFIX complete and write their destination pair. -/
def Sys2Proof.Claims.IntegerPairs : Prop :=
  (∀ o, WritesLanes (.wmul o) o.dst (fun s g l =>
    let a := s.source g Forms.wmul 0 (.a o) 2 l
    let b := s.source g Forms.wmul 0 (.a o) 3 l
    let x := BitVec.ofInt 64 (num (signedOf Forms.wmul o) a.bits * num (signedOf Forms.wmul o) b.bits)
    pairResult (x.extractLsb' 0 32) (x.extractLsb' 32 32) (firstPsn [a, b]))) ∧
  (∀ o, WritesLanes (.add64 o) o.dst (fun s g l =>
    let a := s.sourcePair g Forms.add64 0 (.a o) 2 l
    let b := s.sourcePair g Forms.add64 0 (.a o) 3 l
    pairResult ((a.1 + b.1).extractLsb' 0 32) ((a.1 + b.1).extractLsb' 32 32) (a.2 <|> b.2))) ∧
  (∀ o, WritesLanes (.divstep o) o.dst (fun s g l =>
    let a := s.sourcePair g Forms.divstep 0 (.a o) 2 l
    let b := s.source g Forms.divstep 0 (.a o) 3 l
    let dv := if signedOf Forms.divstep o then b.bits.toInt.natAbs else b.bits.toNat
    let r := (List.range 8).foldl (fun x _ => divOne dv x) (a.1.toNat % 2 ^ 32, a.1.toNat / 2 ^ 32)
    pairResult (BitVec.ofNat 32 r.1) (BitVec.ofNat 32 r.2) (a.2 <|> b.psn))) ∧
  (∀ o, WritesLanes (.divfix o) o.dst (fun s g l =>
    let a := s.sourcePair g Forms.divfix 0 (.a o) 2 l
    let b := s.source g Forms.divfix 0 (.a o) 3 l
    let x := s.source g Forms.divfix 0 (.a o) 4 l
    let q := a.1.extractLsb' 0 32
    let r := a.1.extractLsb' 32 32
    let psn := a.2 <|> b.psn <|> x.psn
    if signedOf Forms.divfix o = false then pairResult q r psn
    else if b.bits = 0 then pairResult 0xFFFFFFFF x.bits psn
    else pairResult (if decide (x.bits.toInt < 0) = decide (b.bits.toInt < 0) then q else -q) (if x.bits.toInt < 0 then -r else r) psn))

/-- 12 R267, R268: four DIVSTEPs from the pair (x, 0) leave the unsigned quotient and remainder of x by a nonzero divisor, and 0xFFFF_FFFF and x
for a zero one: the arithmetic on which integer division rests. -/
def Obligations.DivisionSteps : Prop :=
  ∀ (x dv : Word),
    let next := fun (r : Nat × Nat) => divSteps dv.toNat 8 r.1 r.2
    next (next (next (next (x.toNat, 0)))) = (if dv = 0 then (4294967295, x.toNat) else (x.toNat / dv.toNat, x.toNat % dv.toNat))

/-- 12 R269, R270: AND, OR, XOR, ANDN, MIX3, SHL, SHR, SAR, FSHF, POPC, CLZ, BREV, BFE and BFI complete with their results. -/
def Sys2Proof.Claims.LogicAndShifts : Prop :=
  (∀ o, LaneGives (.and o) Forms.and 0 o (fun _ a b _ => a &&& b)) ∧
  (∀ o, LaneGives (.or o) Forms.or 0 o (fun _ a b _ => a ||| b)) ∧
  (∀ o, LaneGives (.xor o) Forms.xor 0 o (fun _ a b _ => a ^^^ b)) ∧
  (∀ o, LaneGives (.andn o) Forms.andn 0 o (fun _ a b _ => a &&& ~~~b)) ∧
  (∀ o, LaneGives (.mix3 o) Forms.mix3 0 o (fun _ a b c =>
    bitsOf (fun i => o.imm.getLsbD ((if a.getLsbD i then 1 else 0) + (if b.getLsbD i then 2 else 0) + (if c.getLsbD i then 4 else 0))))) ∧
  (∀ o, LaneGives (.shl o) Forms.shl 0 o (fun _ a b _ => if 32 ≤ b.toNat then 0 else wrap (a.toNat * 2 ^ b.toNat))) ∧
  (∀ o, LaneGives (.shr o) Forms.shr 0 o (fun _ a b _ => if 32 ≤ b.toNat then 0 else BitVec.ofNat 32 (a.toNat / 2 ^ b.toNat))) ∧
  (∀ o, LaneGives (.sar o) Forms.sar 0 o (fun _ a b _ =>
    if 32 ≤ b.toNat then (if a.getLsbD 31 then 0xFFFFFFFF else 0) else wrap (a.toInt / 2 ^ b.toNat))) ∧
  (∀ o, LaneGives (.fshf o) Forms.fshf 0 o (fun _ a b c => (b ++ a).extractLsb' (min c.toNat 32) 32)) ∧
  (∀ o, LaneGives (.popc o) Forms.popc 0 o (fun _ a _ _ => BitVec.ofNat 32 ((List.range 32).countP (fun i => a.getLsbD i)))) ∧
  (∀ o, LaneGives (.clz o) Forms.clz 0 o (fun _ a _ _ => if a = 0 then 32 else BitVec.ofNat 32 (31 - Nat.log2 a.toNat))) ∧
  (∀ o, LaneGives (.brev o) Forms.brev 0 o (fun _ a _ _ => a.reverse)) ∧
  (∀ o, LaneGives (.bfe o) Forms.bfe 0 o (fun _ a b _ => fieldOf (signedOf Forms.bfe o) a b)) ∧
  (∀ o, LaneGives (.bfi o) Forms.bfi 0 o (fun _ a b c =>
    bitsOf (fun i => if c.toNat % 256 ≤ i ∧ i < c.toNat % 256 + min (c.toNat / 256 % 256) 32 then a.getLsbD (i - c.toNat % 256) else b.getLsbD i)))

/-- 12 R271: CMP.cc, PLOG and SEL complete; the executing lanes alone take the truth value, and p7 takes none. -/
def Sys2Proof.Claims.ComparePredicateSelect : Prop :=
  (∀ o, LaneGives (.cmpEq o) Forms.cmpEq 0 o (fun _ a b _ => if a = b then 1 else 0)) ∧
  (∀ o, LaneGives (.cmpNe o) Forms.cmpNe 0 o (fun _ a b _ => if a = b then 0 else 1)) ∧
  (∀ o, LaneGives (.cmpLt o) Forms.cmpLt 0 o (fun _ a b _ => let sg := signedOf Forms.cmpLt o; if num sg a < num sg b then 1 else 0)) ∧
  (∀ o, LaneGives (.cmpLe o) Forms.cmpLe 0 o (fun _ a b _ => let sg := signedOf Forms.cmpLe o; if num sg a ≤ num sg b then 1 else 0)) ∧
  (∀ o, LaneGives (.cmpGt o) Forms.cmpGt 0 o (fun _ a b _ => let sg := signedOf Forms.cmpGt o; if num sg b < num sg a then 1 else 0)) ∧
  (∀ o, LaneGives (.cmpGe o) Forms.cmpGe 0 o (fun _ a b _ => let sg := signedOf Forms.cmpGe o; if num sg b ≤ num sg a then 1 else 0)) ∧
  (∀ o, LaneGives (.plogAnd o) Forms.plogAnd 0 o (fun _ a b _ => if a ≠ 0 ∧ b ≠ 0 then 1 else 0)) ∧
  (∀ o, LaneGives (.plogOr o) Forms.plogOr 0 o (fun _ a b _ => if a ≠ 0 ∨ b ≠ 0 then 1 else 0)) ∧
  (∀ o, LaneGives (.plogXor o) Forms.plogXor 0 o (fun _ a b _ => if (a ≠ 0) ↔ (b ≠ 0) then 0 else 1)) ∧
  (∀ o, LaneGives (.plogAndn o) Forms.plogAndn 0 o (fun _ a b _ => if a ≠ 0 ∧ b = 0 then 1 else 0)) ∧
  (∀ o, LaneGives (.plogMov o) Forms.plogMov 0 o (fun _ a _ _ => if a ≠ 0 then 1 else 0)) ∧
  (∀ o, LaneGives (.sel o) Forms.sel 0 o (fun _ a b c => if c ≠ 0 then a else b))

/-- 12 R272: MOV and the members of MOVX complete. The lowest value is that of the lowest-numbered executing lane; a write of a mask or of a
block-shared register consumes its poison; the block-shared write waits in the core for its core cycle (03 R73). -/
def Sys2Proof.Claims.Moves : Prop :=
  (∀ o, LaneGives (.mov o) Forms.mov 0 o (fun _ a _ _ => a)) ∧
  (∀ o, LaneGives (.movxPv o) Forms.movxPv 0 o (fun _ a _ _ => if a ≠ 0 then 1 else 0)) ∧
  (∀ o, LaneGives (.movxVp o) Forms.movxVp 0 o (fun _ a _ _ => a)) ∧
  (∀ o, WritesLanes (.movxSv o) o.dst (fun s g _ => [s.low g Forms.movxSv 0 (.a o) 2])) ∧
  (∀ o, WritesLanes (.movxSw o) o.dst (fun s g _ => [⟨s.wAt g.blk o.sa.num, none⟩])) ∧
  (∀ o, WritesLanes (.movxSm o) o.dst (fun _ g _ => [⟨g.mAt o.sa.num, none⟩])) ∧
  (∀ o s g, s.group? s.cur.key = some g → s.cur.lanes ≠ 0 → (s.low g Forms.movxMs 0 (.a o) 2).psn = none →
    ActsOnGroup (.movxMs o) s (fun h => h = (g.advance s.cur).setM o.dst.num (s.low g Forms.movxMs 0 (.a o) 2).bits)) ∧
  (∀ o s g, s.group? s.cur.key = some g → s.cur.lanes ≠ 0 → (s.low g Forms.movxWs 0 (.a o) 2).psn = none →
    Answers (.movxWs o) s (fun t =>
      t.group? s.cur.key = some (g.advance s.cur) ∧ t.blocks = s.blocks ∧
      ∃ w, (t.core s.cur.core).wq = (s.core s.cur.core).wq ++ [w] ∧ w.blk = g.blk ∧ w.reg = o.dst.num ∧
        w.bits = (s.low g Forms.movxWs 0 (.a o) 2).bits ∧ .wapply s.cur.core ∈ t.due)) ∧
  (∀ o s g, s.group? s.cur.key = some g → s.cur.lanes = 0 →
    ActsOnGroup (.movxMs o) s (fun h => h = g.advance s.cur) ∧ ActsOnGroup (.movxSv o) s (fun h => h = g.advance s.cur) ∧
    ActsOnGroup (.movxWs o) s (fun h => h = g.advance s.cur)) ∧
  (∀ o s g p, s.group? s.cur.key = some g → s.cur.lanes ≠ 0 →
    ((s.low g Forms.movxMs 0 (.a o) 2).psn = some p → ActsOnGroup (.movxMs o) s (fun h => h = g.raise (g.consumed s.cur.pc (lowMask s) p))) ∧
    ((s.low g Forms.movxWs 0 (.a o) 2).psn = some p → ActsOnGroup (.movxWs o) s (fun h => h = g.raise (g.consumed s.cur.pc (lowMask s) p))))

/-- 12 R273: SHFL and RDLANE complete; each executing lane takes SA of its source lane, whatever that lane's state, or its own. -/
def Sys2Proof.Claims.LaneExchanges : Prop :=
  (∀ o, WritesLanes (.shflIdx o) o.dst (fun s g l =>
    let n := s.source g Forms.shflIdx 0 (.a o) 3 l
    let a := s.source g Forms.shflIdx 0 (.a o) 2 (n.bits.toNat % 32)
    [⟨a.bits, firstPsn [a, n]⟩])) ∧
  (∀ o, WritesLanes (.shflUp o) o.dst (fun s g l =>
    let n := s.source g Forms.shflUp 0 (.a o) 3 l
    let a := s.source g Forms.shflUp 0 (.a o) 2 (if n.bits.toNat ≤ l then l - n.bits.toNat else l)
    [⟨a.bits, firstPsn [a, n]⟩])) ∧
  (∀ o, WritesLanes (.shflDown o) o.dst (fun s g l =>
    let n := s.source g Forms.shflDown 0 (.a o) 3 l
    let a := s.source g Forms.shflDown 0 (.a o) 2 (if l + n.bits.toNat ≤ 31 then l + n.bits.toNat else l)
    [⟨a.bits, firstPsn [a, n]⟩])) ∧
  (∀ o, WritesLanes (.shflXor o) o.dst (fun s g l =>
    let n := s.source g Forms.shflXor 0 (.a o) 3 l
    let a := s.source g Forms.shflXor 0 (.a o) 2 (Nat.xor l (n.bits.toNat % 32))
    [⟨a.bits, firstPsn [a, n]⟩])) ∧
  (∀ o, WritesLanes (.rdlane o) o.dst (fun s g l =>
    let n := s.source g Forms.rdlane 0 (.a o) 3 l
    let a := s.source g Forms.rdlane 0 (.a o) 2 (n.bits.toNat % 32)
    [⟨a.bits, firstPsn [a, n]⟩]))

/-! ## Buffer records (12 R274 to R277) -/

/-- 12 R274, R275, R276: BRMAKE, the six BRSET members and BRADV complete and write one buffer record register, field by field. -/
def Sys2Proof.Claims.BufferRecordWrites : Prop :=
  (∀ o, ActsOnce (.brmake o) (fun s _ => lowMask s)
    (fun s g => (s.lowPair g Forms.brmake 0 (.x o) 2).2 <|> (s.low g Forms.brmake 0 (.x o) 3).psn <|> (s.low g Forms.brmake 0 (.x o) 4).psn)
    (fun s g => SetsBrec o.dst.num (fun x =>
      x.extractLsb' 64 64 = (s.lowPair g Forms.brmake 0 (.x o) 2).1 ∧ x.extractLsb' 8 32 = (s.low g Forms.brmake 0 (.x o) 3).bits ∧
      x.extractLsb' 40 24 = (s.low g Forms.brmake 0 (.x o) 4).bits.extractLsb' 8 24 ∧
      x.extractLsb' 2 6 = (s.low g Forms.brmake 0 (.x o) 4).bits.extractLsb' 2 6 ∧ x.extractLsb' 0 2 = 0) g)) ∧
  (∀ o, ActsOnce (.brsetBase o) (fun s _ => lowMask s) (fun s g => (s.lowPair g Forms.brsetBase 0 (.x o) 3).2)
    (fun s g => SetsBrec o.dst.num (fun x => Replaced (g.bAt o.sa.num) x 64 64 (s.lowPair g Forms.brsetBase 0 (.x o) 3).1) g)) ∧
  (∀ o, ActsOnce (.brsetStride o) (fun s _ => lowMask s) (fun s g => (s.low g Forms.brsetStride 0 (.x o) 3).psn)
    (fun s g => SetsBrec o.dst.num
      (fun x => Replaced (g.bAt o.sa.num) x 40 24 ((s.low g Forms.brsetStride 0 (.x o) 3).bits.extractLsb' 0 24)) g)) ∧
  (∀ o, ActsOnce (.brsetExtent o) (fun s _ => lowMask s) (fun s g => (s.low g Forms.brsetExtent 0 (.x o) 3).psn)
    (fun s g => SetsBrec o.dst.num (fun x => Replaced (g.bAt o.sa.num) x 8 32 (s.low g Forms.brsetExtent 0 (.x o) 3).bits) g)) ∧
  (∀ o, ActsOnce (.brsetSwz o) (fun s _ => lowMask s) (fun s g => (s.low g Forms.brsetSwz 0 (.x o) 3).psn)
    (fun s g => SetsBrec o.dst.num
      (fun x => Replaced (g.bAt o.sa.num) x 5 3 ((s.low g Forms.brsetSwz 0 (.x o) 3).bits.extractLsb' 0 3)) g)) ∧
  (∀ o, ActsOnce (.brsetEsz o) (fun s _ => lowMask s) (fun s g => (s.low g Forms.brsetEsz 0 (.x o) 3).psn)
    (fun s g => SetsBrec o.dst.num
      (fun x => Replaced (g.bAt o.sa.num) x 3 2 ((s.low g Forms.brsetEsz 0 (.x o) 3).bits.extractLsb' 0 2)) g)) ∧
  (∀ o, ActsOnce (.brsetOobf o) (fun s _ => lowMask s) (fun s g => (s.low g Forms.brsetOobf 0 (.x o) 3).psn)
    (fun s g => SetsBrec o.dst.num
      (fun x => Replaced (g.bAt o.sa.num) x 2 1 ((s.low g Forms.brsetOobf 0 (.x o) 3).bits.extractLsb' 0 1)) g)) ∧
  (∀ o, ActsOnce (.bradv o) (fun s _ => lowMask s) (fun s g => (s.low g Forms.bradv 0 (.x o) 3).psn)
    (fun s g => SetsBrec o.dst.num (fun x =>
      let old := g.bAt o.sa.num
      let n := (s.low g Forms.bradv 0 (.x o) 3).bits.toNat
      x.extractLsb' 124 4 = old.extractLsb' 124 4 ∧
      (x.extractLsb' 64 60).toNat = ((old.extractLsb' 64 60).toNat + n * (old.extractLsb' 40 24).toNat) % 2 ^ 60 ∧
      x.extractLsb' 40 24 = old.extractLsb' 40 24 ∧ (x.extractLsb' 8 32).toNat = (old.extractLsb' 8 32).toNat - n ∧
      x.extractLsb' 0 8 = old.extractLsb' 0 8) g))

/-- 12 R275, R277: the six BRGET members write one field, zero-extended; LEA writes each lane's address by 04 R86 and whether it is in bounds, makes
no access, and traps only on a record whose reserved bits are not zero, with the lowest executing lane's address (04 R88). -/
def Sys2Proof.Claims.BufferRecordReads : Prop :=
  (∀ o, WritesLanes (.brgetBase o) o.dst (fun _ g _ =>
    [⟨(g.bAt o.sa.num).extractLsb' 64 32, none⟩, ⟨(g.bAt o.sa.num).extractLsb' 96 32, none⟩])) ∧
  (∀ o, WritesLanes (.brgetStride o) o.dst (fun _ g _ => [⟨((g.bAt o.sa.num).extractLsb' 40 24).setWidth 32, none⟩])) ∧
  (∀ o, WritesLanes (.brgetExtent o) o.dst (fun _ g _ => [⟨(g.bAt o.sa.num).extractLsb' 8 32, none⟩])) ∧
  (∀ o, WritesLanes (.brgetSwz o) o.dst (fun _ g _ => [⟨((g.bAt o.sa.num).extractLsb' 5 3).setWidth 32, none⟩])) ∧
  (∀ o, WritesLanes (.brgetEsz o) o.dst (fun _ g _ => [⟨((g.bAt o.sa.num).extractLsb' 3 2).setWidth 32, none⟩])) ∧
  (∀ o, WritesLanes (.brgetOobf o) o.dst (fun _ g _ => [⟨((g.bAt o.sa.num).extractLsb' 2 1).setWidth 32, none⟩])) ∧
  (∀ o s g g0, s.group? s.cur.key = some g → s.viewsFor (g.advance s.cur) o.data = .ok g0 → Sel.within o.data 2 = true →
    isUniform o.aux = false → (g.bAt o.brec.toNat).extractLsb' 0 2 = 0 →
    let b := g.bAt o.brec.toNat
    let idx := fun l => ((s.index g o l).bits + memImm o).toNat
    let off := fun l => swizzle (b.extractLsb' 5 3).toNat (idx l * (b.extractLsb' 40 24).toNat)
    let addr := fun l => b.extractLsb' 124 4 ++ BitVec.ofNat 60 ((b.extractLsb' 64 60).toNat + off l)
    ActsOnGroup (.lea o) s (fun h => ∃ h0,
      Wrote s.cur.lanes o.data (fun l =>
        [⟨(addr l).extractLsb' 0 32, (s.index g o l).psn⟩, ⟨(addr l).extractLsb' 32 32, (s.index g o l).psn⟩]) g0 h0 ∧
      Wrote s.cur.lanes o.aux (fun l => [⟨if idx l < (b.extractLsb' 8 32).toNat then 1 else 0, (s.index g o l).psn⟩]) h0 h)) ∧
  (∀ o s g l, s.group? s.cur.key = some g → lowest s.cur.lanes = some l → (g.bAt o.brec.toNat).extractLsb' 0 2 ≠ 0 →
    let b := g.bAt o.brec.toNat
    let idx := ((s.index g o l).bits + memImm o).toNat
    ActsOnGroup (.lea o) s (fun h => h = g.raise
      { cause := Cause.illegal, pc := s.cur.pc, lanes := s.cur.lanes,
        addr := b.extractLsb' 124 4 ++ BitVec.ofNat 60 ((b.extractLsb' 64 60).toNat + swizzle (b.extractLsb' 5 3).toNat (idx * (b.extractLsb' 40 24).toNat)) }))

/-! ## Floating point (spec 10, 13) -/

/-- 13 R282: FADD, FMUL, FMA, FNMA, FSQRT, FSCALE and FRND complete with the exact result of each lane rounded once. -/
def Sys2Proof.Claims.FloatArithmetic : Prop :=
  (∀ o, LaneRounds (.fadd o) Forms.fadd 0 o (fun r l a b _ =>
    rounded Forms.fadd o r l (FV.add r.mode (fval Forms.fadd o a) (fval Forms.fadd o b)))) ∧
  (∀ o, LaneRounds (.fmul o) Forms.fmul 0 o (fun r l a b _ => rounded Forms.fmul o r l (FV.mul (fval Forms.fmul o a) (fval Forms.fmul o b)))) ∧
  (∀ o, LaneRounds (.fma o) Forms.fma 0 o (fun r l a b c =>
    rounded Forms.fma o r l (FV.add r.mode (FV.mul (fval Forms.fma o a) (fval Forms.fma o b)) (fval Forms.fma o c)))) ∧
  (∀ o, LaneRounds (.fnma o) Forms.fnma 0 o (fun r l a b c =>
    rounded Forms.fnma o r l (FV.add r.mode (FV.negate (FV.mul (fval Forms.fnma o a) (fval Forms.fnma o b))) (fval Forms.fnma o c)))) ∧
  (∀ o, LaneRounds (.fsqrt o) Forms.fsqrt 0 o (fun r l a _ _ => rounded Forms.fsqrt o r l (FV.sqrt (fval Forms.fsqrt o a)))) ∧
  (∀ o, LaneRounds (.fscale o) Forms.fscale 0 o (fun r l a b _ =>
    rounded Forms.fscale o r l (match fval Forms.fscale o a with | .fin n m e => .fin n m (e + b.toInt) | v => v))) ∧
  (∀ o, LaneRounds (.frnd o) Forms.frnd 0 o (fun r l a _ _ =>
    BitVec.ofNat 32 ((fmtOf (Forms.frnd.effTy (.a o))).round .rne 0 false r.ftz
      (match fval Forms.frnd o a with
       | .fin n m e => if 0 ≤ e then .fin n m e else .fin n (roundShift r.mode (drawOf r.seed l 0) n m (-e).toNat) 0
       | v => v))))

/-- 13 R283, R285: FMIN, FMAX, FABS, FNEG, FCPSGN and FCLASS complete: one NaN gives the other source, two give the canonical NaN, -0 counts as less
than +0, a sign change keeps the magnitude, and FCLASS sets exactly one bit. -/
def Sys2Proof.Claims.FloatSigns : Prop :=
  (∀ o, LaneGives (.fmin o) Forms.fmin 0 o (fun _ a b _ =>
    let x := fval Forms.fmin o a
    let y := fval Forms.fmin o b
    let low := decide (FV.cmp x y < 0) || (decide (FV.cmp x y = 0) && FV.neg? x && !FV.neg? y)
    BitVec.ofNat 32 ((fmtOf (Forms.fmin.effTy (.a o))).round .rne 0 false false (if FV.isNan x then y else if FV.isNan y then x else if low then x else y)))) ∧
  (∀ o, LaneGives (.fmax o) Forms.fmax 0 o (fun _ a b _ =>
    let x := fval Forms.fmax o a
    let y := fval Forms.fmax o b
    let low := decide (FV.cmp x y < 0) || (decide (FV.cmp x y = 0) && FV.neg? x && !FV.neg? y)
    BitVec.ofNat 32 ((fmtOf (Forms.fmax.effTy (.a o))).round .rne 0 false false (if FV.isNan x then y else if FV.isNan y then x else if low then y else x)))) ∧
  (∀ o, LaneGives (.fabs o) Forms.fabs 0 o (fun _ a _ _ => resigned Forms.fabs o false a)) ∧
  (∀ o, LaneGives (.fneg o) Forms.fneg 0 o (fun _ a _ _ =>
    resigned Forms.fneg o (!(a.getLsbD (fmtOf (Forms.fneg.effTy (.a o))).signBit)) a)) ∧
  (∀ o, LaneGives (.fcpsgn o) Forms.fcpsgn 0 o (fun _ a b _ =>
    resigned Forms.fcpsgn o (b.getLsbD (fmtOf (Forms.fcpsgn.effTy (.a o))).signBit) a)) ∧
  (∀ o, LaneGives (.fclass o) Forms.fclass 0 o (fun _ a _ _ =>
    let f := fmtOf (Forms.fclass.effTy (.a o))
    let neg := a.getLsbD f.signBit
    BitVec.ofNat 32 (2 ^ (match fval Forms.fclass o a with
      | .nan => if a.getLsbD (f.mb - 1) then 9 else 8
      | .inf _ => if neg then 0 else 7
      | .fin _ m _ => if m = 0 then (if neg then 3 else 4) else if m < 2 ^ f.mb then (if neg then 2 else 5) else (if neg then 1 else 6)))))

/-- 13 R284: FCMP.EQ, NE, LT, LE, GT, GE, UN and ORD complete; with a NaN source only NE and UN are true. -/
def Sys2Proof.Claims.FloatCompare : Prop :=
  let verdict := fun (f : Form) (o : OpA) (un : Bool) (cc : Int → Bool) (_ : Nat) (a b _ : Word) =>
    if FV.isNan (fval f o a) || FV.isNan (fval f o b) then (if un then (1 : Word) else 0)
    else if cc (FV.cmp (fval f o a) (fval f o b)) then 1 else 0
  (∀ o, LaneGives (.fcmpEq o) Forms.fcmpEq 0 o (verdict Forms.fcmpEq o false (fun x => decide (x = 0)))) ∧
  (∀ o, LaneGives (.fcmpNe o) Forms.fcmpNe 0 o (verdict Forms.fcmpNe o true (fun x => decide (x ≠ 0)))) ∧
  (∀ o, LaneGives (.fcmpLt o) Forms.fcmpLt 0 o (verdict Forms.fcmpLt o false (fun x => decide (x < 0)))) ∧
  (∀ o, LaneGives (.fcmpLe o) Forms.fcmpLe 0 o (verdict Forms.fcmpLe o false (fun x => decide (x ≤ 0)))) ∧
  (∀ o, LaneGives (.fcmpGt o) Forms.fcmpGt 0 o (verdict Forms.fcmpGt o false (fun x => decide (0 < x)))) ∧
  (∀ o, LaneGives (.fcmpGe o) Forms.fcmpGe 0 o (verdict Forms.fcmpGe o false (fun x => decide (0 ≤ x)))) ∧
  (∀ o, LaneGives (.fcmpUn o) Forms.fcmpUn 0 o (verdict Forms.fcmpUn o true (fun _ => false))) ∧
  (∀ o, LaneGives (.fcmpOrd o) Forms.fcmpOrd 0 o (verdict Forms.fcmpOrd o false (fun _ => true)))

/-- 13 R286: FRCP, FRSQ, FEX2, FLG2, FSIN, FCOS and FTANH complete with the form's fixed function of the source and !ftz, and the exact values of
the table hold: ±0, infinities, NaN and the powers of two. The rest of each function is the part's own, a free value (log 8). -/
def Sys2Proof.Claims.Approximations : Prop :=
  (∀ o, LaneGives (.frcp o) Forms.frcp 0 o (fun _ a _ _ => BitVec.ofNat 32 (frcp a (ftzOf o.pfx) (FFmt.f32.value (ftzOf o.pfx) a.toNat)))) ∧
  (∀ o, LaneGives (.frsq o) Forms.frsq 0 o (fun _ a _ _ => BitVec.ofNat 32 (frsq a (ftzOf o.pfx) (FFmt.f32.value (ftzOf o.pfx) a.toNat)))) ∧
  (∀ o, LaneGives (.fex2 o) Forms.fex2 0 o (fun _ a _ _ => BitVec.ofNat 32 (fex2 a (ftzOf o.pfx) (FFmt.f32.value (ftzOf o.pfx) a.toNat)))) ∧
  (∀ o, LaneGives (.flg2 o) Forms.flg2 0 o (fun _ a _ _ => BitVec.ofNat 32 (flg2 a (ftzOf o.pfx) (FFmt.f32.value (ftzOf o.pfx) a.toNat)))) ∧
  (∀ o, LaneGives (.fsin o) Forms.fsin 0 o (fun _ a _ _ => BitVec.ofNat 32 (fsin a (ftzOf o.pfx) (FFmt.f32.value (ftzOf o.pfx) a.toNat)))) ∧
  (∀ o, LaneGives (.fcos o) Forms.fcos 0 o (fun _ a _ _ => BitVec.ofNat 32 (fcos a (ftzOf o.pfx) (FFmt.f32.value (ftzOf o.pfx) a.toNat)))) ∧
  (∀ o, LaneGives (.ftanh o) Forms.ftanh 0 o (fun _ a _ _ => BitVec.ofNat 32 (ftanh a (ftzOf o.pfx) (FFmt.f32.value (ftzOf o.pfx) a.toNat)))) ∧
  (∀ w z n e, frcp w z (.fin n 0 e) = FFmt.f32.signed n 0x7F800000 ∧ frcp w z (.inf n) = FFmt.f32.signed n 0 ∧
    frsq w z (.fin n 0 e) = FFmt.f32.signed n 0x7F800000 ∧ frsq w z (.inf false) = 0 ∧
    fex2 w z (.inf n) = (if n then 0 else 0x7F800000) ∧ flg2 w z (.fin n 0 e) = 0xFF800000 ∧ flg2 w z (.inf false) = 0x7F800000 ∧
    fcos w z (.fin n 0 e) = 0x3F800000 ∧ ftanh w z (.inf n) = FFmt.f32.signed n 0x3F800000 ∧
    fsin w z (.fin n 0 e) = FFmt.f32.signed n 0 ∧ fsin w z (.inf n) = 0x7FC00000 ∧ fcos w z (.inf n) = 0x7FC00000) ∧
  (∀ w z, frcp w z .nan = 0x7FC00000 ∧ frsq w z .nan = 0x7FC00000 ∧ fex2 w z .nan = 0x7FC00000 ∧ flg2 w z .nan = 0x7FC00000 ∧
    fsin w z .nan = 0x7FC00000 ∧ fcos w z .nan = 0x7FC00000 ∧ ftanh w z .nan = 0x7FC00000) ∧
  (∀ w z m e, m ≠ 0 → frsq w z (.fin true m e) = 0x7FC00000 ∧ flg2 w z (.fin true m e) = 0x7FC00000) ∧
  (∀ w n e, frcp w false (.fin n 1 e) = FFmt.f32.signed n (FFmt.f32.round .rne 0 false false (.fin false 1 (-e)))) ∧
  (∀ w e, flg2 w false (.fin false 1 e) = FFmt.f32.round .rne 0 false false (FV.ofInt e)) ∧
  (∀ w (k : Int), -4096 < k → k < 4096 → fex2 w false (FV.ofInt k) = FFmt.f32.round .rne 0 false false (.fin false 1 k))

/-- 13 R287: FADD2, FMUL2, FMA2 and FDOT2 complete: each of the two elements is rounded by itself, and FDOT2 rounds the sum of both products and the
.f32 addend, formed as 13 R287 orders it. -/
def Sys2Proof.Claims.FloatTwoWide : Prop :=
  (∀ o, LaneRounds (.fadd2 o) Forms.fadd2 0 o (fun r l a b _ =>
    roundedTwo Forms.fadd2 o r l (fun e => FV.add r.mode (fvalAt Forms.fadd2 o e a) (fvalAt Forms.fadd2 o e b)))) ∧
  (∀ o, LaneRounds (.fmul2 o) Forms.fmul2 0 o (fun r l a b _ =>
    roundedTwo Forms.fmul2 o r l (fun e => FV.mul (fvalAt Forms.fmul2 o e a) (fvalAt Forms.fmul2 o e b)))) ∧
  (∀ o, LaneRounds (.fma2 o) Forms.fma2 0 o (fun r l a b c =>
    roundedTwo Forms.fma2 o r l (fun e =>
      FV.add r.mode (FV.mul (fvalAt Forms.fma2 o e a) (fvalAt Forms.fma2 o e b)) (fvalAt Forms.fma2 o e c)))) ∧
  (∀ o, LaneRounds (.fdot2 o) Forms.fdot2 0 o (fun r l a b c =>
    let p := fun e => FV.mul (fvalAt Forms.fdot2 o e a) (fvalAt Forms.fdot2 o e b)
    BitVec.ofNat 32 (FFmt.f32.round r.mode (drawOf r.seed l 0) r.sat r.ftz
      (FV.add r.mode (FV.add r.mode (p 0) (p 1)) (FFmt.f32.value (ftzOf o.pfx) c.toNat)))))

/-- 13 R288 to R291, 10 R238: CVT, CVTPK, CVTWD and the four QSCALE members complete with the conversion of each lane. -/
def Obligations.Conversions : Prop :=
  (∀ src o, LaneRounds (.cvt src o) Forms.cvt src.code.toNat o (fun r l a _ _ =>
    convert src (Forms.cvt.effTy (.a o)) r.mode (drawOf r.seed l 0) r.sat r.ftz a)) ∧
  (∀ f o, LaneRounds (.cvtpk f o) Forms.cvtpk f.code o (fun r l a b c =>
    let el := fun (e : Nat) (x : Word) => elemOf f r.mode (drawOf r.seed l e) r.sat r.ftz (FFmt.f32.value r.ftz x.toNat)
    let k := o.imm.toNat
    let d := putElem (putElem c.toNat f.bits k (el k a)) f.bits (k + 1) (el (k + 1) b)
    BitVec.ofNat 32 (if f.bits = 6 then d % 2 ^ 24 else d))) ∧
  (∀ f o, LaneGives (.cvtwd f o) Forms.cvtwd f.code o (fun _ a _ _ =>
    BitVec.ofNat 32 (FFmt.f32.round .rne 0 false (ftzOf o.pfx) (elemValue f (ftzOf o.pfx) (a.toNat / 2 ^ (f.bits * o.imm.toNat) % 2 ^ f.bits))))) ∧
  (∀ o, LaneRounds (.qscaleE8m0 o) Forms.qscaleE8m0 0 o (fun r l a b _ =>
    BitVec.ofNat 32 (FFmt.f32.round r.mode (drawOf r.seed l 0) r.sat r.ftz (FV.mul (FFmt.f32.value r.ftz a.toNat)
      (if b.toNat % 256 = 255 then .nan else .fin false 1 ((b.toNat % 256 : Nat) - 127)))))) ∧
  (∀ o, LaneRounds (.qscaleE4m3 o) Forms.qscaleE4m3 1 o (fun r l a b _ =>
    BitVec.ofNat 32 (FFmt.f32.round r.mode (drawOf r.seed l 0) r.sat r.ftz
      (FV.mul (FFmt.f32.value r.ftz a.toNat) (FFmt.e4m3.value r.ftz (b.toNat % 256)))))) ∧
  (∀ o, LaneRounds (.qscaleF32 o) Forms.qscaleF32 2 o (fun r l a b _ =>
    BitVec.ofNat 32 (FFmt.f32.round r.mode (drawOf r.seed l 0) r.sat r.ftz
      (FV.mul (FFmt.f32.value r.ftz a.toNat) (FFmt.f32.value r.ftz b.toNat))))) ∧
  (∀ o, LaneRounds (.qscaleF16 o) Forms.qscaleF16 3 o (fun r l a b _ =>
    BitVec.ofNat 32 (FFmt.f32.round r.mode (drawOf r.seed l 0) r.sat r.ftz
      (FV.mul (FFmt.f32.value r.ftz a.toNat) (FFmt.f16.value r.ftz (b.toNat % 65536))))))

/-- 10 R224, R232: an encoding of a format that is no NaN, read and rounded back in any mode without flush, is itself: every finite value and
every infinity of FP32, BF16, FP16, E4M3, E5M2, E3M2, E2M3 and E2M1 is represented exactly. -/
def Obligations.RoundingIsExactOnTheFormat : Prop :=
  ∀ f ∈ [FFmt.f32, FFmt.bf16, FFmt.f16, FFmt.e4m3, FFmt.e5m2, FFmt.e3m2, FFmt.e2m3, FFmt.e2m1],
    ∀ (mode : RMode) (draw n : Nat), n < 2 ^ (f.signBit + 1) → FV.isNan (f.value false n) = false →
      f.round mode draw false false (f.value false n) = n

/-- 10 R243, R244, 13 R293, R294: RED and SCAN of ADD, MIN, MAX, AND, OR and XOR complete: each executing lane takes the fixed tree of combinations
over the executing lanes (SCAN: those up to its own), and .f32 additions draw on the seed. -/
def Sys2Proof.Claims.ReductionsAndScans : Prop :=
  let claim := fun (i : OpA → Instr) (f : Form) (k : Comb) (scan : Bool) => ∀ o s g g0,
    s.group? s.cur.key = some g → s.viewsFor (g.advance s.cur) o.dst = .ok g0 →
      ActsOnGroup (i o) s (fun h => ∃ h0, h = { h0 with seed := (g.advanceSeed o.pfx o.rnd s.cur.lanes).seed } ∧
        Wrote s.cur.lanes o.dst (fun l =>
          let m : BitVec 32 := if scan then maskOf (fun j => s.cur.lanes.getLsbD j && decide (j ≤ l)) else s.cur.lanes
          let leaf := fun j => if m.getLsbD j then some (s.source g f 0 (.a o) 2 j).bits else none
          match treeOf (fun d j => k.op (f.effTy (.a o)) (g.rndOf o) (drawOf (g.rndOf o).seed j d)) leaf 5 0 with
          | some w => [⟨w, firstPsn ((lanesOf m).map (fun j => s.source g f 0 (.a o) 2 j))⟩]
          | none => []) g0 h0)
  claim .redAdd Forms.redAdd .add false ∧ claim .redMin Forms.redMin .min false ∧ claim .redMax Forms.redMax .max false ∧
  claim .redAnd Forms.redAnd .and false ∧ claim .redOr Forms.redOr .or false ∧ claim .redXor Forms.redXor .xor false ∧
  claim .scanAdd Forms.scanAdd .add true ∧ claim .scanMin Forms.scanMin .min true ∧ claim .scanMax Forms.scanMax .max true ∧
  claim .scanAnd Forms.scanAnd .and true ∧ claim .scanOr Forms.scanOr .or true ∧ claim .scanXor Forms.scanXor .xor true

/-- 10 R243: over the 32 lanes, the tree of a combination that is associative and has no order of rounding to keep gives the combination of every
value present: integer addition without saturation is the sum of the executing lanes modulo 2^32. -/
def Obligations.ReductionIsTheSum : Prop :=
  ∀ (leaf : Nat → Option Word) (r : Rnd), r.sat = false →
    (treeOf (fun d j => Comb.add.op .s32 r (drawOf r.seed j d)) leaf 5 0).getD 0 =
      BitVec.ofInt 32 (((List.range 32).map (fun j => ((leaf j).getD 0).toInt)).foldl (· + ·) 0)

namespace Sys2Proof.Machine

/-! ## Words of the statements about control -/

/-- No byte of memory differs, nor a full/empty bit. -/
def SameMemory (s t : State) : Prop := t.dram = s.dram ∧ t.sram = s.sram ∧ t.bst = s.bst ∧ t.emptyw = s.emptyw

/-- The address that a call pushes: the instruction that follows it on the path, beyond the empty slots (11 R252, 08 R187). -/
def returnTo (s : State) (g : Group) : DWord := s.firstSlot s.cur.core (s.fetchRoot g) s.cur.npc (2 ^ 42)

/-- The group with the executing lanes sent to their targets, each after its redirect cycle, and the other issuing lanes at the next
instruction (11 R247). -/
def jumped (s : State) (g : Group) (pc : Nat → DWord) : Group :=
  (g.advance s.cur).onLanes s.cur.lanes (fun l x => { x with pc := pc l, ready := 1 })

/-- May every executing lane be sent to its target (08 R191)? -/
def targetsOk (s : State) (g : Group) (btm : Bool) (pc : Nat → DWord) : Bool :=
  (lanesOf s.cur.lanes).all (fun l => s.targetOk s.cur.core (s.fetchRoot g) btm (pc l))

/-- The direct target of a transfer: its line, LDISP lines and TSLOT slots on (11 R248). -/
def directTo (pc : DWord) (o : OpC) : DWord :=
  BitVec.ofInt 64 ((pc.toNat / 64 * 64 : Nat) + 64 * o.ldisp.toInt + 12 * (o.tslot.toNat : Int))

/-- A transfer's lanes go to legal targets; with illegal ones it is BADTGT, raised by the lanes that have
them, which names the lowest such lane's target (08 R191, 23 R398; log 13). -/
def Sends (i : Instr) (s : State) (g : Group) (pc : Nat → DWord) : Prop :=
  (targetsOk s g true pc = true → ActsOnGroup i s (fun h => h = jumped s g pc)) ∧
  (∀ l, (lanesOf s.cur.lanes).find? (fun l => !s.targetOk s.cur.core (s.fetchRoot g) true (pc l)) = some l →
    ActsOnGroup i s (fun h => h = g.raise
      { cause := 0x003, pc := s.cur.pc, addr := pc l, lanes := maskOf (fun k => s.cur.lanes.getLsbD k && !s.targetOk s.cur.core (s.fetchRoot g) true (pc k)) }))

/-- The executing lanes in which a predicate operand is poisoned. -/
def predPoisoned (s : State) (g : Group) (x : Sel) : BitVec 32 := maskOf (fun k => s.cur.lanes.getLsbD k && (s.sourceP g x k).psn.isSome)

/-- The number of executing lanes in which a predicate operand holds. -/
def votes (s : State) (g : Group) (x : Sel) : Nat := (lanesOf s.cur.lanes).countP (fun l => (s.sourceP g x l).b)

/-- No executing lane holds poison in a predicate operand. -/
def unpoisoned (s : State) (g : Group) (x : Sel) : Prop := ∀ l ∈ lanesOf s.cur.lanes, (s.sourceP g x l).psn = none

/-- The first poison that an executing lane's target pair holds. -/
def pairPsn (s : State) (g : Group) (x : Sel) : Option Nat :=
  (lanesOf s.cur.lanes).findSome? (fun l => (s.readSel g x 0 l).psn <|> (s.readSel g x 1 l).psn)

/-- The executing lanes whose target pair is poisoned. -/
def pairPoisoned (s : State) (g : Group) (x : Sel) : BitVec 32 :=
  maskOf (fun k => s.cur.lanes.getLsbD k && ((s.readSel g x 0 k).psn.isSome || (s.readSel g x 1 k).psn.isSome))

/-- The outcome code of a PASS to a slot, in the order of 06 R143. -/
def outcome (s : State) (key slot : Nat) : Nat :=
  match s.group? key, s.group? (16 * (key / 16) + slot) with
  | none, _ => 6
  | some g, h =>
    if g.baton = none then 6
    else if slot = key % 16 then 5
    else match h with
      | none => 3
      | some h =>
        if h.exited then 3 else if h.blk ≠ g.blk then 4 else if h.fault.isSome then 1 else if h.baton.isSome then 2 else 0

/-- Does a PASS carry `vr` (06 R144)? -/
def carries (o : OpC) (r : Nat) : Bool := match o.carry with | .v n => n.toNat ≤ r && r ≤ n.toNat + o.clen.toNat | _ => false

/-- The registers that it carries, ascending. -/
def carriedBy (o : OpC) : List Nat := (List.range 260).filter (carries o)

/-- The place of a slot in the order in which PASS.ANY prefers its candidates (06 R143): those with an eligible thread before the others, and rising
from the slot after the passer's. -/
def rankOf (s : State) (key k : Nat) : Nat :=
  (match s.group? (16 * (key / 16) + k) with | some h => if h.eligible = 0 then 16 else 0 | none => 16) + (k + 15 - key % 16) % 16

/-- A PASS with its outcome code: sd takes the code and pd whether it moved, in every executing lane; on MOVED alone the passer's baton goes to the
slot, whose live lanes are unparked and whose carried registers, in the lanes that executed, are the passer's; nothing else of either changes (06 R143,
R144). `g0` is the group with the views that the write of sd leaves. -/
def Passes (i : Instr) (o : OpC) (s : State) (g g0 : Group) (code slot : Nat) : Prop :=
  Answers i s (fun t => ∃ x y, Wrote s.cur.lanes o.d2 (fun _ => [⟨BitVec.ofNat 32 code, none⟩]) g0 x ∧
    Wrote s.cur.lanes o.d1 (fun _ => [⟨if code = 0 then 1 else 0, none⟩]) x y ∧ SameMemory s t ∧
    (code ≠ 0 → t.groups = s.groups.put s.cur.key y ∧ t.slices = s.slices) ∧
    (code = 0 → ∀ n h, g.baton = some n → s.group? (groupKey s.cur.core s.cur.slice slot) = some h →
      t.group? s.cur.key = some { y with baton := none, overCls := none } ∧
      (t.slice (sliceKey s.cur.core s.cur.slice)).baton n = .held h.blk slot ∧
      (∀ k, k ≠ s.cur.key → k ≠ groupKey s.cur.core s.cur.slice slot → t.group? k = s.group? k) ∧
      ∃ b, t.group? (groupKey s.cur.core s.cur.slice slot) = some b ∧ b.baton = some n ∧
        (∀ l < 32, (b.lane l).exited = (h.lane l).exited ∧ (b.lane l).pc = (h.lane l).pc ∧ (b.lane l).wait = (h.lane l).wait ∧
          ((b.lane l).parked = true → (h.lane l).exited = true)) ∧
        (∀ r l, l < 32 → b.vAt r l = if s.cur.lanes.getLsbD l && carries o r then s.readV g r l else h.vAt r l) ∧
        b.u = h.u ∧ b.p = h.p ∧ b.m = h.m ∧ b.b = h.b ∧ b.t = h.t))

/-- What a PASS of either kind checks before it resolves: with a lane executing, a successor without poison and within its bits, and no poison in what
it carries; `g0` is the group with the views that the write of sd leaves. -/
structure PassReady (o : OpC) (s : State) (g g0 : Group) (v : Val) (width : Nat) : Prop where
  group : s.group? s.cur.key = some g
  lanes : s.cur.lanes ≠ 0
  slot : s.cur.slot < 16
  succ : s.successor g o.sa (o.ldisp.extractLsb' 0 16).toNat = some v
  clean : v.psn = none
  fits : v.bits.toNat < 2 ^ width
  carry : ∀ l ∈ lanesOf s.cur.lanes, ∀ r, carries o r = true → (s.readV g r l).psn = none
  sd : (∃ n, o.d2 = .s n ∧ n.toNat < 64) ∨ o.d2 = .none
  pd : (∃ q, o.d1 = .p q) ∨ o.d1 = .none
  views : s.viewsFor (g.advance s.cur) o.d2 = .ok g0

end Sys2Proof.Machine

/-! ## Control, masks, batons, barriers and futures (spec 06, 11) -/

/-- 11 R247 to R250, 08 R191: NOP only advances; BRA, BRX and the members of BRV transfer their executing lanes, or BRV passes when its vote fails;
a bad target is BADTGT before any effect, and poison in an indirect target or a vote is consumed. -/
def Sys2Proof.Claims.Transfers : Prop :=
  (∀ (s : State) (g : Group), s.group? s.cur.key = some g → ActsOnGroup .nop s (fun h => h = g.advance s.cur)) ∧
  (∀ (o : OpC) (s : State) (g : Group), s.group? s.cur.key = some g → Sends (.bra o) s g (fun _ => directTo s.cur.pc o)) ∧
  (∀ (o : OpC) (s : State) (g : Group), s.group? s.cur.key = some g → (∀ l ∈ lanesOf s.cur.lanes, (s.readSel g o.sa 0 l).psn = none ∧ (s.readSel g o.sa 1 l).psn = none) →
    Sends (.brx o) s g (fun l => (s.readSel g o.sa 1 l).bits ++ (s.readSel g o.sa 0 l).bits)) ∧
  (∀ (o : OpC) (s : State) (g : Group), s.group? s.cur.key = some g → unpoisoned s g o.sa →
    (0 < votes s g o.sa → Sends (.brvAny o) s g (fun _ => directTo s.cur.pc o)) ∧
    (votes s g o.sa = 0 → ActsOnGroup (.brvAny o) s (fun h => h = g.advance s.cur)) ∧
    (s.cur.lanes ≠ 0 → votes s g o.sa = (lanesOf s.cur.lanes).length → Sends (.brvAll o) s g (fun _ => directTo s.cur.pc o)) ∧
    (votes s g o.sa < (lanesOf s.cur.lanes).length → ActsOnGroup (.brvAll o) s (fun h => h = g.advance s.cur)) ∧
    (s.cur.lanes ≠ 0 → votes s g o.sa = 0 → Sends (.brvNone o) s g (fun _ => directTo s.cur.pc o)) ∧
    (0 < votes s g o.sa → ActsOnGroup (.brvNone o) s (fun h => h = g.advance s.cur))) ∧
  (∀ (i : Instr) (o : OpC) (s : State) (g : Group) (p : Nat), (i = .brvAny o ∨ i = .brvAll o ∨ i = .brvNone o) → s.group? s.cur.key = some g →
    (lanesOf s.cur.lanes).findSome? (fun l => (s.sourceP g o.sa l).psn) = some p →
    ActsOnGroup i s (fun h => h = g.raise (g.consumed s.cur.pc (predPoisoned s g o.sa) p))) ∧
  (∀ (i : Instr) (o : OpC) (s : State) (g : Group) (p : Nat), (i = .brx o ∨ i = .callx o) → s.group? s.cur.key = some g → pairPsn s g o.sa = some p →
    ActsOnGroup i s (fun h => h = g.raise (g.consumed s.cur.pc (pairPoisoned s g o.sa) p)))

/-- 11 R251 to R253: CALL and CALLX with room on the lanes' return stacks push the address of the next instruction and transfer; RET of lanes whose
stacks hold an entry returns to the newest and pops it, RET of a lane whose stack is empty reads the address that was spilled last; a RET with
nothing to return to is RSEMPTY. A call that finds a lane's stack full spills its oldest entry. -/
def Sys2Proof.Claims.CallsAndReturns : Prop :=
  (∀ (o : OpC) (s : State) (g : Group), s.group? s.cur.key = some g → (s.block? g.blk).isSome → (∀ l ∈ lanesOf s.cur.lanes, (g.lane l).stk.length < 16) →
    targetsOk s g true (fun _ => directTo s.cur.pc o) = true →
    ActsOnGroup (.call o) s (fun h => h =
      (g.advance s.cur).onLanes s.cur.lanes (fun _ x => { x with pc := directTo s.cur.pc o, ready := 1, stk := x.stk ++ [returnTo s g] }))) ∧
  (∀ (o : OpC) (s : State) (g : Group), s.group? s.cur.key = some g → (s.block? g.blk).isSome → (∀ l ∈ lanesOf s.cur.lanes, (g.lane l).stk.length < 16) →
    (∀ l ∈ lanesOf s.cur.lanes, (s.readSel g o.sa 0 l).psn = none ∧ (s.readSel g o.sa 1 l).psn = none) →
    targetsOk s g true (fun l => (s.readSel g o.sa 1 l).bits ++ (s.readSel g o.sa 0 l).bits) = true →
    ActsOnGroup (.callx o) s (fun h => h = (g.advance s.cur).onLanes s.cur.lanes (fun l x =>
      { x with pc := (s.readSel g o.sa 1 l).bits ++ (s.readSel g o.sa 0 l).bits, ready := 1, stk := x.stk ++ [returnTo s g] }))) ∧
  (∀ (s : State) (g : Group), s.group? s.cur.key = some g → (s.block? g.blk).isSome → (∀ l ∈ lanesOf s.cur.lanes, (g.lane l).stk ≠ []) →
    targetsOk s g false (fun l => (g.lane l).stk.getLastD 0) = true →
    ActsOnGroup .ret s (fun h => h = (g.advance s.cur).onLanes s.cur.lanes (fun l x =>
      { x with pc := (g.lane l).stk.getLastD 0, ready := 1, stk := x.stk.dropLast }))) ∧
  (∀ (s : State) (g : Group) (l : Nat), s.group? s.cur.key = some g → l ∈ lanesOf s.cur.lanes → (g.lane l).stk = [] → (g.lane l).spc = 0 →
    ActsOnGroup .ret s (fun h => h = g.raise
      { cause := 0x006, pc := s.cur.pc, lanes := maskOf (fun k => s.cur.lanes.getLsbD k && (g.lane k).stk == [] && (g.lane k).spc == 0) })) ∧
  (∀ (o : OpC) (s : State) (g : Group) (b : Block) (accs : List Acc) (t : State), s.group? s.cur.key = some g → s.block? g.blk = some b → targetsOk s g true (fun _ => directTo s.cur.pc o) = true →
    let full := (lanesOf s.cur.lanes).filter (fun l => decide (16 ≤ (g.lane l).stk.length))
    (s.putGroup s.cur.key (g.advance s.cur)).formAccs s.cur.core b (Brec.of (g.bAt 15)) true .write false 8
      (full.map (fun l => (l, (32 * (g.lane l).spc + l) % 2 ^ 32))) = ([], accs, t) →
    g.twin = none → accs ≠ [] → (∀ a ∈ accs, a.fail = none) → accs.find? (t.deniedTo b) = none →
    Answers (.call o) s (fun u => ∃ h r, u.group? s.cur.key = some h ∧ h.rsspill = true ∧ r ∈ (u.core s.cur.core).reqs ∧ r.kind = .store ∧
      r.accs = accs.map (fun a => { a with data := leBytes 8 ((g.lane a.lane).stk.headD 0).toNat }) ∧
      (∀ l ∈ lanesOf s.cur.lanes, (h.lane l).pc = directTo s.cur.pc o ∧
        (h.lane l).spc = (g.lane l).spc + (if l ∈ full then 1 else 0) ∧
        (h.lane l).stk = (if l ∈ full then (g.lane l).stk.drop 1 else (g.lane l).stk) ++ [returnTo s g]))) ∧
  (∀ (s : State) (g : Group) (b : Block) (l : Nat) (a : Acc) (t : State), s.group? s.cur.key = some g → s.block? g.blk = some b →
    lanesOf s.cur.lanes = [l] → (g.lane l).stk = [] → 0 < (g.lane l).spc →
    s.formAccs s.cur.core b (Brec.of (g.bAt 15)) true .read false 8 [(l, (32 * ((g.lane l).spc - 1) + l) % 2 ^ 32)] = ([], [a], t) →
    a.lane = l → a.n = 8 → a.st = .todo → a.fail = none → a.scale = none → s.denied b.region a.loc = false → s.eccIn a.loc 8 = false →
    s.targetOk s.cur.core (s.fetchRoot g) false (BitVec.ofNat 64 (s.numAt a.loc 8)) = true →
    Answers .ret s (fun u => SameMemory s u ∧ ∃ h, u.group? s.cur.key = some h ∧
      h.lane l = { (g.advance s.cur).lane l with pc := BitVec.ofNat 64 (s.numAt a.loc 8), ready := 1, spc := (g.lane l).spc - 1 }))

/-- 11 R255: MBALLOT, the members of MLOG, MTEST, MPOP and the votes complete with their masks, predicates and counts. -/
def Sys2Proof.Claims.MasksAndVotes : Prop :=
  (∀ o, ActsOnce (.mballot o) (fun s g => predPoisoned s g o.sa) (fun s g => (lanesOf s.cur.lanes).findSome? (fun l => (s.sourceP g o.sa l).psn))
    (fun s g h => h = g.setM o.dst.num (maskOf (fun l => s.cur.lanes.getLsbD l && (s.sourceP g o.sa l).b)))) ∧
  (∀ o, ActsOnce (.mlogAnd o) (fun s _ => lowMask s) (fun _ _ => none)
    (fun s g h => h = g.setM o.dst.num (s.maskSrc g Forms.mlogAnd o 2 &&& s.maskSrc g Forms.mlogAnd o 3))) ∧
  (∀ o, ActsOnce (.mlogOr o) (fun s _ => lowMask s) (fun _ _ => none)
    (fun s g h => h = g.setM o.dst.num (s.maskSrc g Forms.mlogOr o 2 ||| s.maskSrc g Forms.mlogOr o 3))) ∧
  (∀ o, ActsOnce (.mlogXor o) (fun s _ => lowMask s) (fun _ _ => none)
    (fun s g h => h = g.setM o.dst.num (s.maskSrc g Forms.mlogXor o 2 ^^^ s.maskSrc g Forms.mlogXor o 3))) ∧
  (∀ o, ActsOnce (.mlogAndn o) (fun s _ => lowMask s) (fun _ _ => none)
    (fun s g h => h = g.setM o.dst.num (s.maskSrc g Forms.mlogAndn o 2 &&& ~~~(s.maskSrc g Forms.mlogAndn o 3)))) ∧
  (∀ o, ActsOnce (.mlogMov o) (fun s _ => lowMask s) (fun _ _ => none) (fun s g h => h = g.setM o.dst.num (s.maskSrc g Forms.mlogMov o 2))) ∧
  (∀ o, WritesLanes (.mtest o) o.dst (fun _ g l => [⟨if (g.mAt o.sa.num).getLsbD l then 1 else 0, none⟩])) ∧
  (∀ o, WritesLanes (.mpop o) o.dst (fun _ g _ => [⟨BitVec.ofNat 32 ((List.range 32).countP (fun l => (g.mAt o.sa.num).getLsbD l)), none⟩])) ∧
  (∀ o, WritesLanes (.voteAny o) o.dst (fun s g _ =>
    [⟨if 0 < votes s g o.sa then 1 else 0, (lanesOf s.cur.lanes).findSome? (fun l => (s.sourceP g o.sa l).psn)⟩])) ∧
  (∀ o, WritesLanes (.voteAll o) o.dst (fun s g _ =>
    [⟨if votes s g o.sa = (lanesOf s.cur.lanes).length then 1 else 0, (lanesOf s.cur.lanes).findSome? (fun l => (s.sourceP g o.sa l).psn)⟩])) ∧
  (∀ o, WritesLanes (.voteBallot o) o.dst (fun s g _ =>
    [⟨maskOf (fun l => s.cur.lanes.getLsbD l && (s.sourceP g o.sa l).b), (lanesOf s.cur.lanes).findSome? (fun l => (s.sourceP g o.sa l).psn)⟩]))

/-- 06 R160, 03 R71: JOIN makes its executing lanes inside the mask wait; JOIN_TEST releases the lanes of every mask all of whose live lanes wait at a
JOIN that names it: they have one view, no written bits, and in each uniform register the value of the lowest of them that has written it, else of the
lowest; nothing else of the group changes. -/
def Sys2Proof.Claims.Joins : Prop :=
  (∀ (o : OpC) (s : State) (g : Group), s.group? s.cur.key = some g → ActsOnGroup (.join o) s (fun h => h =
    (g.advance s.cur).onLanes (s.cur.lanes &&& g.mAt o.sa.num) (fun _ x => { x with wait := .join o.sa.num }))) ∧
  (∀ (s : State) (key : Nat) (g : Group), s.group? key = some g →
    ∃ h, exec (.joinTest key) s = .next (s.putGroup key h) ∧ h = { g with lanes := h.lanes, u := h.u } ∧
      (∀ m < 8, g.joinReady m = true → ∃ v, ∀ l ∈ lanesOf (g.joiners m),
        h.lane l = { g.lane l with wait := .none, written := 0, view := v } ∧
        ∀ n < 64, h.uAt n l = g.uAt n (match (lanesOf (g.joiners m)).find? (fun k => (g.lane k).written.getLsbD n) with
          | some k => k | none => (lanesOf (g.joiners m)).headD 0)) ∧
      (∀ l < 32, (∀ m < 8, g.joinReady m = true → (g.joiners m).getLsbD l = false) →
        h.lane l = g.lane l ∧ ∀ n < 64, h.uAt n l = g.uAt n l))

/-- 06 R142 to R149: PASS writes the outcome code of R143 to sd and whether it moved to pd in every executing lane; on MOVED alone the baton goes,
the successor's lanes are unparked, and the carried registers stand in the successor in the lanes that executed. PASS.ANY goes to the first acceptable
candidate after the passer's slot, one with an eligible thread before the others, else its code is 7. Poison in the successor or in what is carried is
consumed, and a successor with a bit above its width is SUCC, before any effect (that SUCC comes before the poison of what is carried is the model's
choice, log 60). -/
def Sys2Proof.Claims.BatonPassing : Prop :=
  (∀ (i : Instr) (o : OpC) (s : State) (g : Group), (i = .pass o ∨ i = .passAny o) → s.group? s.cur.key = some g → s.cur.lanes = 0 →
    Answers i s (fun t => t.groups = (s.groups.put s.cur.key (g.advance s.cur)) ∧ t.slices = s.slices ∧ SameMemory s t)) ∧
  (∀ (o : OpC) (s : State) (g g0 : Group) (v : Val), PassReady o s g g0 v 4 →
    Passes (.pass o) o s g g0 (outcome s s.cur.key v.bits.toNat) v.bits.toNat) ∧
  (∀ (o : OpC) (s : State) (g g0 : Group) (v : Val), PassReady o s g g0 v 16 →
    (g.baton = none → Passes (.passAny o) o s g g0 6 0) ∧
    (g.baton.isSome → (∀ k < 16, v.bits.getLsbD k = true → outcome s s.cur.key k ≠ 0) → Passes (.passAny o) o s g g0 7 0) ∧
    (∀ k < 16, v.bits.getLsbD k = true → outcome s s.cur.key k = 0 →
      (∀ j < 16, v.bits.getLsbD j = true → outcome s s.cur.key j = 0 → rankOf s s.cur.key k ≤ rankOf s s.cur.key j) →
      Passes (.passAny o) o s g g0 0 k)) ∧
  (∀ (i : Instr) (o : OpC) (w : Nat) (s : State) (g : Group) (v : Val), ((i = .pass o ∧ w = 4) ∨ (i = .passAny o ∧ w = 16)) → s.group? s.cur.key = some g →
    s.cur.lanes ≠ 0 → s.successor g o.sa (o.ldisp.extractLsb' 0 16).toNat = some v →
    (∀ p, v.psn = some p → ActsOnGroup i s (fun h => h = g.raise (g.consumed s.cur.pc (lowMask s) p))) ∧
    (v.psn = none → 2 ^ w ≤ v.bits.toNat → ActsOnGroup i s (fun h => h = g.raise { cause := 0x044, pc := s.cur.pc, lanes := s.cur.lanes })) ∧
    (∀ p, v.psn = none → v.bits.toNat < 2 ^ w →
      (lanesOf s.cur.lanes).findSome? (fun l => (carriedBy o).findSome? (fun r => (s.readV g r l).psn)) = some p →
      ActsOnGroup i s (fun h => h = g.raise (g.consumed s.cur.pc
        (maskOf (fun l => s.cur.lanes.getLsbD l && (carriedBy o).any (fun r => (s.readV g r l).psn.isSome))) p))))

/-- 06 R150, R153, 11 R259: PARK parks the executing lanes, and a group left with no eligible thread holds its baton no longer (with eligible threads left it is marked, and
loses the baton where the cycle's other instruction takes the last of them); EXIT ends the executing lanes. The lanes that did not execute keep what they hold, but that a lane waiting for the future handler's end may become eligible. -/
def Sys2Proof.Claims.ParkAndExit : Prop :=
  (∀ (s : State) (g : Group), s.group? s.cur.key = some g → s.cur.lanes ≠ 0 →
    let h := (g.advance s.cur).onLanes s.cur.lanes (fun _ x => { x with parked := true })
    (h.eligible ≠ 0 → ActsOnGroup .park s (fun k => k = { h with yielded := true })) ∧
    (∀ n, h.eligible = 0 → g.baton = some n → Answers .park s (fun t => t.group? s.cur.key = some { h with baton := none, overCls := none } ∧
      (t.slice (sliceOf s.cur.key)).baton n = .unheld g.blk ∧ (n, g.heir, s.cur.key) ∈ (t.slice (sliceOf s.cur.key)).orphans))) ∧
  (∀ (s : State) (g : Group), s.group? s.cur.key = some g → Answers .exit s (fun t => ∃ h, t.group? s.cur.key = some h ∧
    ∀ l < 32, if s.cur.lanes.getLsbD l then (h.lane l).exited = true
      else (h.lane l = (g.advance s.cur).lane l ∨
        ((g.lane l).wait = .future ∧ h.lane l = { (g.advance s.cur).lane l with wait := .none })))) ∧
  (∀ (s : State) (g : Group), s.group? s.cur.key = some g → Answers .compactExit s (fun t => exec .exit s = .next t ∧
    ∃ h, t.group? s.cur.key = some h ∧ ∀ l < 32, s.cur.lanes.getLsbD l = true → (h.lane l).exited = true))

/-- 06 R156 to R159: BAR.ARRIVE, BAR.WAIT and BAR.SYNC of the four levels complete: the executing threads arrive once in a phase, a thread waits until
the phase of its latest arrival completes, a second arrival in a phase is BARTWICE, a bad successor traps before it (the model's choice, log 78), and
BARRIER_RELEASE makes eligible exactly the lanes, of the barrier's members at each level, that wait on a phase that has completed. -/
def Obligations.Barriers : Prop :=
  (∀ (lvl : BarLvl) (o : OpC) (s : State) (g : Group) (b : Block), s.group? s.cur.key = some g → s.block? g.blk = some b → s.cur.lanes ≠ 0 →
    let u := s.putGroup s.cur.key (g.advance s.cur)
    let n := o.d1.num % 8
    let x := u.bar lvl s.cur.key g.blk n
    let ths := (lanesOf s.cur.lanes).map (threadNum lvl b g.idx)
    let y := { x with arrived := x.arrived ++ ths, last := ths.foldl (fun m th => m.put th (x.phase + 1)) x.last }
    let v := u.putBar lvl s.cur.key g.blk n y
    ((∀ th ∈ ths, th ∉ x.arrived) → v.bar lvl s.cur.key g.blk n = y →
      Answers (.barArrive lvl o) s (fun t =>
        t.bar lvl s.cur.key g.blk n = (if v.barComplete lvl s.cur.key g.blk y then { y with phase := x.phase + 1, arrived := [] } else y) ∧
        t.dram = s.dram ∧ t.sram = s.sram)) ∧
    ((∃ th ∈ ths, th ∈ x.arrived) →
      ActsOnGroup (.barArrive lvl o) s (fun h => h = g.raise
        { cause := 0x0C2, pc := s.cur.pc, lanes := maskOf (fun k => s.cur.lanes.getLsbD k && x.arrived.contains (threadNum lvl b g.idx k)) }))) ∧
  (∀ (lvl : BarLvl) (o : OpC) (s : State) (g : Group) (b : Block), s.group? s.cur.key = some g → s.block? g.blk = some b → s.cur.lanes ≠ 0 →
    (∀ w, s.successor g o.sa (o.ldisp.extractLsb' 0 16).toNat = some w → w.psn = none ∧ w.bits.toNat < 16) →
    let x := (s.putGroup s.cur.key (g.advance s.cur)).bar lvl s.cur.key g.blk (o.d1.num % 8)
    ActsOnGroup (.barWait lvl o) s (fun h => h = { (g.advance s.cur).onLanes s.cur.lanes (fun l y =>
        if SMap.get 0 x.last (threadNum lvl b g.idx l) = x.phase + 1 then { y with wait := .bar lvl (o.d1.num % 8) x.phase } else y) with
      hands := g.hands ++ (match s.successor g o.sa (o.ldisp.extractLsb' 0 16).toNat with | some q => [(0, some q.bits.toNat, s.e4)] | none => []) })) ∧
  (∀ (lvl : BarLvl) (o : OpC) (s : State) (g : Group) (b : Block) (v : Option Val), s.group? s.cur.key = some g → s.block? g.blk = some b → s.cur.lanes ≠ 0 →
    s.successor g o.sa (o.ldisp.extractLsb' 0 16).toNat = v → (∀ w, v = some w → w.psn = none ∧ w.bits.toNat < 16) →
    let u := s.putGroup s.cur.key (g.advance s.cur)
    let n := o.d1.num % 8
    let x := u.bar lvl s.cur.key g.blk n
    let ths := (lanesOf s.cur.lanes).map (threadNum lvl b g.idx)
    let y := { x with arrived := x.arrived ++ ths, last := ths.foldl (fun m th => m.put th (x.phase + 1)) x.last }
    let w := u.putBar lvl s.cur.key g.blk n y
    ((∀ th ∈ ths, th ∉ x.arrived) → w.bar lvl s.cur.key g.blk n = y →
      Answers (.barSync lvl o) s (fun t => SameMemory s t ∧
        t.bar lvl s.cur.key g.blk n = (if w.barComplete lvl s.cur.key g.blk y then { y with phase := x.phase + 1, arrived := [] } else y) ∧
        ∃ h, t.group? s.cur.key = some h ∧
          h.hands = g.hands ++ (match v with | some q => [(0, some q.bits.toNat, s.e4)] | none => []) ∧
          ∀ l ∈ lanesOf s.cur.lanes, h.lane l = (if w.barComplete lvl s.cur.key g.blk y then (g.advance s.cur).lane l
            else { (g.advance s.cur).lane l with wait := .bar lvl n x.phase }))) ∧
    ((∃ th ∈ ths, th ∈ x.arrived) →
      ActsOnGroup (.barSync lvl o) s (fun h => h = g.raise
        { cause := 0x0C2, pc := s.cur.pc, lanes := maskOf (fun k => s.cur.lanes.getLsbD k && x.arrived.contains (threadNum lvl b g.idx k)) }))) ∧
  (∀ (i : Instr) (lvl : BarLvl) (o : OpC) (s : State) (g : Group) (v : Val), (i = .barWait lvl o ∨ i = .barSync lvl o) → s.group? s.cur.key = some g →
    (s.block? g.blk).isSome → s.cur.lanes ≠ 0 → s.successor g o.sa (o.ldisp.extractLsb' 0 16).toNat = some v →
    (∀ p, v.psn = some p → ActsOnGroup i s (fun h => h = g.raise (g.consumed s.cur.pc (lowMask s) p))) ∧
    (v.psn = none → 16 ≤ v.bits.toNat → ActsOnGroup i s (fun h => h = g.raise { cause := 0x044, pc := s.cur.pc, lanes := s.cur.lanes }))) ∧
  (∀ (s : State) (key blk : Nat) (lvl : BarLvl) (g : Group) (b c : Block) (n : Nat), s.group? key = some g → s.block? blk = some b → s.block? g.blk = some c →
    s.groups.sorted = true →
    let member := match lvl with
      | .grp | .blk => g.blk = blk
      | .nbh => b.launch = c.launch ∧ b.nbhId = c.nbhId
      | .grid => b.launch = c.launch ∧ b.trails = c.trails
    Answers (.barrierRelease blk lvl n) s (fun t => SameMemory s t ∧ ∃ h, t.group? key = some h ∧ h = { g with lanes := h.lanes } ∧
      ∀ l < 32,
        ((member ∧ (g.lane l).exited = false ∧ ∃ p, (g.lane l).wait = .bar lvl n p ∧ p < (s.bar lvl key g.blk n).phase) →
          h.lane l = { g.lane l with wait := .none }) ∧
        (¬(member ∧ (g.lane l).exited = false ∧ ∃ p, (g.lane l).wait = .bar lvl n p ∧ p < (s.bar lvl key g.blk n).phase) → h.lane l = g.lane l)))

/-- 06 R162 to R165, 14 R310: LDF of full words completes as a load; of empty ones it enters the handler with the words' lanes, or traps FUTNOH, or
FUTNEST inside the handler; a lane outside it waits for the handler's end; TRET returns them to FUTPC.PC, TRET.W makes them wait for the word first, and either is TRETNONE outside the handler. -/
def Obligations.Futures : Prop :=
  (∀ (o : OpM) (s : State) (g : Group) (b : Block) (a : Acc) (l : Nat), s.group? s.cur.key = some g → s.block? g.blk = some b → lanesOf s.cur.lanes = [l] → (s.index g o l).psn = none →
    (s.putGroup s.cur.key (g.advance s.cur)).formAccs s.cur.core b (Brec.of (g.bAt o.brec.toNat)) ((Brec.of (g.bAt o.brec.toNat)).oobf == 1) .read true 4 [(l, ((s.index g o l).bits + memImm o).toNat)]
      = ([], [a], s.putGroup s.cur.key (g.advance s.cur)) → a.lane = l → a.st = .todo → a.fail = none →
    s.denied b.region a.loc = false → s.isFull a.loc = false →
    (g.futh.getLsbD 0 = false → Answers (.ldf o) s (fun t => SameMemory s t ∧
      t.groups = s.groups.put s.cur.key (g.raise { cause := 0x182, pc := s.cur.pc, addr := a.ga, lanes := s.cur.lanes }))) ∧
    (g.futh.getLsbD 0 = true → g.futpc.getLsbD 0 = true → g.hlanes.getLsbD l = true → Answers (.ldf o) s (fun t => SameMemory s t ∧
      t.groups = s.groups.put s.cur.key (g.raise { cause := 0x183, pc := s.cur.pc, addr := a.ga, lanes := s.cur.lanes }))) ∧
    (g.futh.getLsbD 0 = true → g.futpc.getLsbD 0 = true → g.hlanes.getLsbD l = false → Answers (.ldf o) s (fun t => SameMemory s t ∧
      t.groups = s.groups.put s.cur.key
        ((g.advance s.cur).onLanes s.cur.lanes (fun _ x => { x with pc := s.cur.pc, wait := .future })))) ∧
    (g.futh.getLsbD 0 = true → g.futpc.getLsbD 0 = false →
      s.targetOk s.cur.core (s.fetchRoot g) true (g.futh &&& ~~~3) = true →
      Answers (.ldf o) s (fun t => SameMemory s t ∧ t.groups = s.groups.put s.cur.key
        { (g.advance s.cur).onLanes s.cur.lanes (fun _ x => { x with pc := g.futh &&& ~~~3, ready := 1 }) with
          futpc := s.cur.pc &&& ~~~1 ||| 1, futaddr := a.ga, hlanes := s.cur.lanes }))) ∧
  (∀ (o : OpM) (s : State) (g : Group) (b : Block) (a : Acc) (l : Nat), s.group? s.cur.key = some g → s.block? g.blk = some b → lanesOf s.cur.lanes = [l] → (s.index g o l).psn = none →
    (s.putGroup s.cur.key (g.advance s.cur)).formAccs s.cur.core b (Brec.of (g.bAt o.brec.toNat)) ((Brec.of (g.bAt o.brec.toNat)).oobf == 1) .read true 4 [(l, ((s.index g o l).bits + memImm o).toNat)]
      = ([], [a], s.putGroup s.cur.key (g.advance s.cur)) → a.lane = l → a.st = .todo → a.fail = none → s.isFull a.loc = true →
    Answers (.ldf o) s (fun t => ∃ r ∈ (t.core s.cur.core).reqs, r.kind = .ldf ∧ r.dst = o.data ∧ r.pc = s.cur.pc ∧ r.accs.length = 1)) ∧
  (∀ (s : State) (g : Group), s.group? s.cur.key = some g → (s.block? g.blk).isSome → s.cur.lanes ≠ 0 → g.futpc.getLsbD 0 = true → s.cur.lanes = g.hlanes →
    targetsOk s g false (fun _ => g.futpc &&& ~~~1) = true → (∀ l ∈ lanesOf g.live, (g.lane l).wait ≠ .future) →
    ActsOnGroup .tret s (fun h => ∀ l ∈ lanesOf s.cur.lanes, (h.lane l).pc = g.futpc &&& ~~~1 ∧ h.hlanes = 0 ∧ h.futpc = g.futpc &&& ~~~1)) ∧
  (∀ (s : State) (g : Group), s.group? s.cur.key = some g → s.cur.lanes ≠ 0 → g.futpc.getLsbD 0 = false →
    ActsOnGroup .tret s (fun h => h = g.raise { cause := 0x184, pc := s.cur.pc, lanes := s.cur.lanes }) ∧
    ActsOnGroup .tretW s (fun h => h = g.raise { cause := 0x184, pc := s.cur.pc, lanes := s.cur.lanes })) ∧
  (∀ (i : Instr) (s : State) (g : Group), (i = .tret ∨ i = .tretW) → s.group? s.cur.key = some g → g.futpc.getLsbD 0 = true → s.cur.lanes &&& ~~~g.hlanes ≠ 0 →
    ActsOnGroup i s (fun h => h = g.raise { cause := 0x184, pc := s.cur.pc, lanes := s.cur.lanes &&& ~~~g.hlanes })) ∧
  (∀ (s : State) (g : Group), s.group? s.cur.key = some g → (s.block? g.blk).isSome → s.cur.lanes ≠ 0 → g.futpc.getLsbD 0 = true → s.cur.lanes = g.hlanes →
    targetsOk s g false (fun _ => g.futpc &&& ~~~1) = true →
    Answers .tretW s (fun t => (∃ h, t.group? s.cur.key = some h ∧ ∀ l ∈ lanesOf s.cur.lanes, (h.lane l).wait = .word ∧ (h.lane l).pc = g.futpc &&& ~~~1) ∧
      ∃ r ∈ (t.core s.cur.core).reqs, r.kind = .tretw ∧ r.lanes = s.cur.lanes ∧ ∀ a ∈ r.accs, a.ga = g.futaddr))

namespace Sys2Proof.Machine

/-! ## Words of the statements about memory -/

/-- The state in which an instruction's accesses are formed: its group's lanes stand at the next instruction. -/
def issuing (s : State) (g : Group) : State := s.putGroup s.cur.key (g.advance s.cur)

/-- The lanes that make an access: all that execute, or the lowest alone for a uniform form (14 R301). -/
def actors (s : State) (once : Bool) : List Nat := if once then (lanesOf s.cur.lanes).take 1 else lanesOf s.cur.lanes

/-- The accesses of a memory instruction pass every check of 04 R88 and translate: `accs` are they, and `t` the state after forming them. -/
def Formed (s : State) (g : Group) (b : Block) (o : OpM) (k : AccKind) (fe once : Bool) (n : Nat) (accs : List Acc) (t : State) : Prop :=
  (issuing s g).formAccs s.cur.core b (Brec.of (g.bAt o.brec.toNat)) ((Brec.of (g.bAt o.brec.toNat)).oobf == 1) k fe n
    ((actors s once).map (fun l => (l, ((s.index g o l).bits + memImm o).toNat))) = ([], accs, t)

/-- An ordinary group of a resident block issues the instruction. -/
def Issues (s : State) (g : Group) (b : Block) : Prop :=
  s.group? s.cur.key = some g ∧ s.block? g.blk = some b ∧ g.twin = none

/-- A form that reads hands its accesses to the memory unit as one request, whose registers are outstanding in its lanes, and changes no byte. -/
def ReadIssues (i : Instr) (f : Form) (o : OpM) (kind : MKind) (n k : Nat) (acq fe once : Bool) : Prop :=
  ∀ s g b accs t g0, Issues s g b → s.viewsFor (g.advance s.cur) o.data = .ok g0 →
    (∀ l ∈ actors s once, (s.index g o l).psn = none) → Formed s g b o .read fe once n accs t → accs ≠ [] →
    (∀ a ∈ accs, a.fail ≠ some Cause.memunc) →
    Answers i s (fun u => SameMemory s u ∧ ∃ r, (u.core s.cur.core).reqs = (s.core s.cur.core).reqs ++ [r] ∧ r.kind = kind ∧ r.accs = accs ∧
      r.dst = o.data ∧ r.pc = s.cur.pc ∧ r.ty = f.effTy (.m o) ∧ r.acq = (acq && decide (o.scope ≠ 0)) ∧ (r.acq = true → r.scope = o.scope.toNat) ∧
      ∃ h, u.group? s.cur.key = some h ∧ ∀ l < 32, (h.lane l).pend = (g.lane l).pend ++
        (if (if once then s.cur.lanes else accLanes accs).getLsbD l then regsOf o.data k else []))

/-- No lane that acts holds poison in an index, data or further operand (14 R298). -/
def memClean (s : State) (g : Group) (o : OpM) (k : Nat) (once : Bool) : Prop :=
  ∀ l ∈ actors s once, (s.index g o l).psn = none ∧ (∀ i < k, (s.readSel g o.data i l).psn = none) ∧ (s.readSel g o.aux 0 l).psn = none

/-- What an access of a form stores: the low bytes of the lane's data group (14 R296). -/
def storeBytes (s : State) (g : Group) (x : Sel) (n l : Nat) : List Byte :=
  ((List.range ((n + 3) / 4)).flatMap (fun i => leBytes 4 (s.readSel g x i l).bits.toNat)).take n

/-- A form that stores hands its accesses with their data to the memory unit as one request; no byte changes before the request is served. -/
def WriteIssues (i : Instr) (f : Form) (o : OpM) (kind : MKind) (fe once : Bool) (own : Option Nat) : Prop :=
  ∀ s g b accs t, Issues s g b → s.isStage g = false → memClean s g o (memRegs f o) once → Formed s g b o .write fe once (memBytes f o) accs t →
    (∀ a ∈ accs, a.fail = none) → accs.filter (fun a => a.st == .todo) ≠ [] →
    Answers i s (fun u => SameMemory s u ∧ ∃ r, (u.core s.cur.core).reqs = (s.core s.cur.core).reqs ++ [r] ∧ r.kind = kind ∧ r.pc = s.cur.pc ∧
      r.accs.map (fun a => (a.lane, a.ga, a.loc, a.n, a.data)) =
        (accs.filter (fun a => a.st == .todo)).map (fun a => (a.lane, a.ga, a.loc, a.n, storeBytes s g o.data (memBytes f o) a.lane)) ∧
      (∀ sc, own = some sc → ∀ a ∈ r.accs, a.rel = some sc))

/-- A read-modify-write hands its accesses, each in exactly one request of its performing unit, to the memory unit, and changes no byte yet. -/
def RmwIssues (i : Instr) (f : Form) (o : OpM) (kind : MKind) (dst fe : Bool) (k : Nat) (arg cmp : Sel) (stage : Bool) : Prop :=
  ∀ s g b accs t, Issues s g b → (s.isStage g = false ∨ stage = false) → memClean s g o k false →
    Formed s g b o .rmw fe false (memBytes f o) accs t → (∀ a ∈ accs, a.fail = none) → (∀ a ∈ accs, a.st = .todo) → accs ≠ [] →
    t.deniedAcc b accs = none →
    Answers i s (fun u => SameMemory s u ∧ ∃ rs, (u.core s.cur.core).reqs = (s.core s.cur.core).reqs ++ rs ∧
      (∀ r ∈ rs, r.kind = kind ∧ r.dst = (if dst then o.data else .none) ∧ r.pc = s.cur.pc ∧ r.ty = f.effTy (.m o)) ∧
      (∀ a ∈ accs, ∃ r ∈ rs, ∃ q ∈ r.accs, q.lane = a.lane ∧ q.loc = a.loc ∧ q.n = a.n ∧ q.data = storeBytes s g arg (memBytes f o) a.lane ∧
        q.cmp = storeBytes s g cmp (memBytes f o) a.lane) ∧
      (∀ r ∈ rs, ∀ q ∈ r.accs, ∃ a ∈ accs, q.lane = a.lane ∧ q.loc = a.loc))

end Sys2Proof.Machine

/-! ## Memory, atomics, full/empty words and fences (spec 04, 05, 14) -/

/-- 14 R296, R298, R300, R301, R309: LD, LDA, LDU, FEGET and LDW.E complete by handing their checked accesses to the memory unit, with their
destinations outstanding, and change no byte of memory; LDW.E besides records its hand-off (06 R154). -/
def Sys2Proof.Claims.LoadsIssue : Prop :=
  (∀ o, ReadIssues (.ld o) Forms.ld o .load (memBytes Forms.ld o) (memRegs Forms.ld o) false false false) ∧
  (∀ o, ReadIssues (.lda o) Forms.lda o .load (memBytes Forms.lda o) (memRegs Forms.lda o) true false false) ∧
  (∀ o, ReadIssues (.ldu o) Forms.ldu o .load (memBytes Forms.ldu o) (memRegs Forms.ldu o) false false true) ∧
  (∀ o, ReadIssues (.feget o) Forms.feget o .feget 4 1 false true false) ∧
  (∀ (o : OpM) s g b accs t g0, Issues s g b → s.cur.lanes ≠ 0 → o.aux = .none → s.viewsFor (g.advance s.cur) o.data = .ok g0 →
    (∀ l ∈ lanesOf s.cur.lanes, (s.index g o l).psn = none) → Formed s g b o .read true false (memBytes Forms.ldwE o) accs t → accs ≠ [] →
    (∀ a ∈ accs, a.fail ≠ some Cause.memunc) →
    Answers (.ldwE o) s (fun u => SameMemory s u ∧ (∃ r, (u.core s.cur.core).reqs = (s.core s.cur.core).reqs ++ [r] ∧ r.kind = .ldwe ∧ r.accs = accs) ∧
      ∃ h, u.group? s.cur.key = some h ∧ h.hands = g.hands ++ [(s.uid, none, s.e4)]))

/-- 14 R302: LDFMT of one lane in bounds completes: its element and scale, translated through pages of the region's FORMAT, go to the memory unit with the
lane's draw; a region whose FORMAT is 0 is the trap FORMAT. -/
def Sys2Proof.Claims.FormattedLoad : Prop :=
  ∀ (o : OpM) s g b l x t1 t2 a, Issues s g b → lanesOf s.cur.lanes = [l] → (s.index g o l).psn = none →
    let r := Brec.of (g.bAt o.brec.toNat)
    let idx := ((s.index g o l).bits + memImm o).toNat
    r.res = 0 → idx < r.extent.toNat → r.base.toNat % 256 = 0 → r.base.extractLsb' 47 17 = 0 → r.stride = 0 → r.swz = 0 → r.esz = 0 →
    (issuing s g).translate s.cur.core (s.rootOf b.launch) r.base.toNat .read = (.ok x, t1) →
    (x.format = 0 → ActsOnGroup (.ldfmt o) s (fun h => h = g.raise
      { cause := Cause.format .read, pc := s.cur.pc, addr := r.base, lanes := s.cur.lanes })) ∧
    (x.format ≠ 0 → t1.fmtAcc s.cur.core b r.base x.format l idx = (.ok a, t2) → a.fail ≠ some Cause.memunc →
      Answers (.ldfmt o) s (fun u => SameMemory s u ∧ ∃ q, (u.core s.cur.core).reqs = (s.core s.cur.core).reqs ++ [q] ∧
        q.accs = [{ a with cmp := leBytes 3 (drawOf (g.seedAt (seedOf o.pfx)) a.lane 0) }] ∧ q.dst = o.data ∧ q.pc = s.cur.pc ∧
        (∃ md sat, q.kind = .fmt md sat (ftzOf o.pfx))))

/-- 14 R296, R298, R300, R301, R309: ST, STR, STU and FILL complete by handing their accesses, each with its lane's bytes, to the memory unit; STR at a
scope and FILL are releases. No byte changes when they issue. -/
def Sys2Proof.Claims.StoresIssue : Prop :=
  (∀ o, WriteIssues (.st o) Forms.st o .store false false none) ∧
  (∀ o, WriteIssues (.str o) Forms.str o .store false false (if o.scope = 0 then none else some o.scope.toNat)) ∧
  (∀ o, WriteIssues (.stu o) Forms.stu o .store false true none) ∧
  (∀ o, WriteIssues (.fill o) Forms.fill o .fill true false (some o.scope.toNat))

/-- 14 R303, R304: STMC and the members of STRED of one lane whose AUX names no further destination record complete: each access of the record that BREC
names, with the lane's data, is in a request of the memory unit. -/
def Sys2Proof.Claims.MulticastIssues : Prop :=
  let claim := fun (i : OpM → Instr) (f : Form) (k : AccKind) (kind : MKind) => ∀ (o : OpM) s g b l,
    Issues s g b → s.isStage g = false → lanesOf s.cur.lanes = [l] → memClean s g o (memRegs f o) false →
    (∀ j < 16, (s.readSel g o.aux 0 l).bits.getLsbD j = false) → ∀ accs t,
    Formed s g b o k false false (memBytes f o) accs t → (∀ a ∈ accs, a.fail = none ∧ a.st = .todo) → accs ≠ [] → t.deniedAcc b accs = none →
    Answers (i o) s (fun u => SameMemory s u ∧ ∃ rs, (u.core s.cur.core).reqs = (s.core s.cur.core).reqs ++ rs ∧ (∀ r ∈ rs, r.kind = kind) ∧
      ∀ a ∈ accs, ∃ r ∈ rs, ∃ q ∈ r.accs, q.lane = a.lane ∧ q.loc = a.loc ∧ q.data = storeBytes s g o.data (memBytes f o) a.lane)
  claim .stmc Forms.stmc .write .store ∧ claim .stredAdd Forms.stredAdd .rmw (.atom .add) ∧ claim .stredAnd Forms.stredAnd .rmw (.atom .and) ∧
  claim .stredOr Forms.stredOr .rmw (.atom .or) ∧ claim .stredXor Forms.stredXor .rmw (.atom .xor) ∧
  claim .stredMin Forms.stredMin .rmw (.atom .min) ∧ claim .stredMax Forms.stredMax .rmw (.atom .max)

/-- 14 R305 to R309: the members of ATOM, CAS, the members of ATOMN and EMPTY complete by handing their accesses to the memory unit, each with its
operand and comparand; no byte changes before a unit performs them. -/
def Sys2Proof.Claims.AtomicsIssue : Prop :=
  (∀ o, RmwIssues (.atomAdd o) Forms.atomAdd o (.atom .add) true false 0 o.aux .none (floatRmw Forms.atomAdd o)) ∧
  (∀ o, RmwIssues (.atomAnd o) Forms.atomAnd o (.atom .and) true false 0 o.aux .none (floatRmw Forms.atomAnd o)) ∧
  (∀ o, RmwIssues (.atomOr o) Forms.atomOr o (.atom .or) true false 0 o.aux .none (floatRmw Forms.atomOr o)) ∧
  (∀ o, RmwIssues (.atomXor o) Forms.atomXor o (.atom .xor) true false 0 o.aux .none (floatRmw Forms.atomXor o)) ∧
  (∀ o, RmwIssues (.atomMin o) Forms.atomMin o (.atom .min) true false 0 o.aux .none (floatRmw Forms.atomMin o)) ∧
  (∀ o, RmwIssues (.atomMax o) Forms.atomMax o (.atom .max) true false 0 o.aux .none (floatRmw Forms.atomMax o)) ∧
  (∀ o, RmwIssues (.atomXchg o) Forms.atomXchg o (.atom .xchg) true false 0 o.aux .none true) ∧
  (∀ o, RmwIssues (.cas o) Forms.cas o .cas true false 1 o.data o.aux true) ∧
  (∀ o, RmwIssues (.atomnAdd o) Forms.atomnAdd o (.atom .add) false false 1 o.data .none (floatRmw Forms.atomnAdd o)) ∧
  (∀ o, RmwIssues (.atomnAnd o) Forms.atomnAnd o (.atom .and) false false 1 o.data .none (floatRmw Forms.atomnAnd o)) ∧
  (∀ o, RmwIssues (.atomnOr o) Forms.atomnOr o (.atom .or) false false 1 o.data .none (floatRmw Forms.atomnOr o)) ∧
  (∀ o, RmwIssues (.atomnXor o) Forms.atomnXor o (.atom .xor) false false 1 o.data .none (floatRmw Forms.atomnXor o)) ∧
  (∀ o, RmwIssues (.atomnMin o) Forms.atomnMin o (.atom .min) false false 1 o.data .none (floatRmw Forms.atomnMin o)) ∧
  (∀ o, RmwIssues (.atomnMax o) Forms.atomnMax o (.atom .max) false false 1 o.data .none (floatRmw Forms.atomnMax o)) ∧
  (∀ o, RmwIssues (.empty o) Forms.empty o .empty true true 0 .none .none true)

/-- 05 R119, 14 R311: FENCE.ACQ holds later accesses behind a request; FENCE.REL leaves its release scope on the executing lanes for their later relaxed
atomic writes; FENCE.FULL does both; a newer one stands for the older ones of its scope or a narrower one; FENCE.OPR marks the group's operand writes as fenced. None changes a byte. -/
def Sys2Proof.Claims.Fences : Prop :=
  (∀ (o : OpM) s g b, Issues s g b → s.cur.lanes ≠ 0 → Answers (.fenceAcq o) s (fun u => SameMemory s u ∧ ∃ r,
    (u.core s.cur.core).reqs = (s.core s.cur.core).reqs ++ [r] ∧ r.kind = .fence true false ∧ r.lanes = s.cur.lanes ∧ r.acq = true ∧ r.scope = o.scope.toNat)) ∧
  (∀ (o : OpM) s g, s.group? s.cur.key = some g → s.cur.lanes ≠ 0 → ActsOnGroup (.fenceRel o) s (fun h => ∀ l < 32,
    h.lane l = if s.cur.lanes.getLsbD l then { (g.advance s.cur).lane l with
        fences := (o.scope.toNat, []) :: ((g.advance s.cur).lane l).fences.filter (fun f => o.scope.toNat < f.1) }
      else (g.advance s.cur).lane l)) ∧
  (∀ (o : OpM) s g b, Issues s g b → s.cur.lanes ≠ 0 → Answers (.fenceFull o) s (fun u => SameMemory s u ∧
    (∃ r, (u.core s.cur.core).reqs = (s.core s.cur.core).reqs ++ [r] ∧ r.kind = .fence true true ∧ r.lanes = s.cur.lanes) ∧
    ∃ h, u.group? s.cur.key = some h ∧ ∀ l ∈ lanesOf s.cur.lanes, (h.lane l).fences.head? = some (o.scope.toNat, []))) ∧
  (∀ (s : State) (g : Group), s.group? s.cur.key = some g → s.cur.lanes ≠ 0 → Answers .fenceOpr s (fun t => SameMemory s t ∧
    t.group? s.cur.key = some { g.advance s.cur with opFenced := true, opWrote := [] } ∧
    (t.core s.cur.core).jobs = (s.core s.cur.core).jobs.map (fun j => if j.key == s.cur.key && j.unfenced then { j with wrote := [] } else j)))

/-- 04 R98, 05 R116, 23 R396: a read request of the memory unit that may be performed is performed: each access takes the bytes at its place, or fails where it
is denied, and memory keeps every byte; of 16 bytes it takes one half of 8 and then the other (05 R114); its reply gives each lane the bytes read as registers, with which the request is gone. -/
def Sys2Proof.Claims.LoadsPerform : Prop :=
  (∀ (s : State) c (id : Nat) r (a : Acc), s.req? c id = some r → r.kind = .load → r.st = .queued → r.accs = [a] → a.st = .todo → a.fail = none → s.mayPerform c r = true →
    s.demandOf c r = [] → s.eccIn a.loc a.n = false → a.scale = none →
    (a.n ≠ 16 → a.half = none → Answers (.memoryRequestServe (.core c id .none)) s (fun t => SameMemory s t ∧ .reply c id ∈ t.due ∧
      ∃ q b, t.req? c id = some q ∧ q.st = .done ∧ q.accs = [b] ∧
        (if s.denied r.region a.loc then b.fail = some (Cause.global .read) else b.fail = none ∧ b.res = s.bytesAt a.loc a.n))) ∧
    (a.n = 16 → a.half = none → s.denied r.region a.loc = false → Answers (.memoryRequestServe (.core c id .none)) s (fun t => SameMemory s t ∧
      .serve c id ∈ t.due ∧ ∃ q u, t.req? c id = some q ∧ q.st = .queued ∧
        q.accs = [{ a with half := some (u, s.bytesAt (a.loc + if u then 8 else 0) 8) }])) ∧
    (∀ u bs, a.n = 16 → a.half = some (u, bs) → s.denied r.region a.loc = false → Answers (.memoryRequestServe (.core c id .none)) s (fun t =>
      SameMemory s t ∧ .reply c id ∈ t.due ∧ ∃ q b, t.req? c id = some q ∧ q.st = .done ∧ q.accs = [b] ∧ b.fail = none ∧
        b.res = if u then s.bytesAt a.loc 8 ++ bs else bs ++ s.bytesAt (a.loc + 8) 8))) ∧
  (∀ (s : State) c (id : Nat) r (a : Acc) d (g : Group), s.req? c id = some r → r.kind = .load → r.st = .done → r.accs = [a] → a.fail = none → a.n = 4 → a.res.length = 4 → r.dst = .v d → r.once = false →
    a.lane < 32 → s.group? r.key = some g → g.blk = r.blk → (g.lane a.lane).exited = false → r.cmpd = false → r.dead = false →
    s.banksFree r.key (r.fills r.accs) = true →
    Answers (.loadReply c id) s (fun t => SameMemory s t ∧ t.req? c id = none ∧ ∃ h, t.group? r.key = some h ∧
      h.vAt d.toNat a.lane = ⟨BitVec.ofNat 32 (leNat a.res), none⟩ ∧ h.u = g.u ∧ h.p = g.p ∧
      ∀ n l, l < 32 → (n ≠ d.toNat ∨ l ≠ a.lane) → h.vAt n l = g.vAt n l))

/-- 05 R116, 04 R95, 06 R154: a store to memory in place that may be performed writes exactly its bytes at its place and leaves every other byte of memory, of 16 bytes one
half of 8 and then the other (05 R114); an
access of a hart or a firmware core to DRAM reads or writes exactly its bytes, or adds to its doubleword and answers what stood there (24 R426), and waits in
order behind a write to a frame in FREEZE (23 R405). -/
def Sys2Proof.Claims.StoresPerform : Prop :=
  (∀ (s : State) c (id : Nat) r (a : Acc), s.req? c id = some r → r.kind = .store → r.st = .queued → r.accs = [a] → a.st = .todo → a.entry = false → a.data.length = a.n →
    s.mayPerform c r = true → s.demandOf c r = [] → s.denied r.region a.loc = false →
    (∀ d, (s.die d).remap = []) →
    (a.n ≠ 16 → Answers (.memoryRequestServe (.core c id .none)) s (fun t => t.req? c id = none ∧
      (∀ i < a.n, t.byteAt (a.loc + i) = a.data.getD i 0) ∧
      (∀ x, x < a.loc ∨ a.loc + a.n ≤ x → t.byteAt x = s.byteAt x) ∧ t.bst = s.bst)) ∧
    (a.n = 16 → a.half = none → Answers (.memoryRequestServe (.core c id .none)) s (fun t => .serve c id ∈ t.due ∧ ∃ u q, t.req? c id = some q ∧
      q.accs = [{ a with half := some (u, []) }] ∧ let at_ := if u then 8 else 0
      (∀ i < 8, t.byteAt (a.loc + at_ + i) = a.data.getD (at_ + i) 0) ∧
      (∀ x, x < a.loc + at_ ∨ a.loc + at_ + 8 ≤ x → t.byteAt x = s.byteAt x) ∧ t.bst = s.bst)) ∧
    (∀ u bs, a.n = 16 → a.half = some (u, bs) → Answers (.memoryRequestServe (.core c id .none)) s (fun t => t.req? c id = none ∧ let at_ := if u then 0 else 8
      (∀ i < 8, t.byteAt (a.loc + at_ + i) = a.data.getD (at_ + i) 0) ∧
      (∀ x, x < a.loc + at_ ∨ a.loc + at_ + 8 ≤ x → t.byteAt x = s.byteAt x) ∧ t.bst = s.bst))) ∧
  (∀ (s : State) (m : Master) pa (n : Nat) place, s.acts m = true → s.waitsBehind (.bus m pa place (.read n)) = false → pa + n ≤ 2 ^ 37 →
    Answers (.memoryRequestServe (.bus m pa place (.read n))) s (fun t => SameMemory s t ∧
      t.ans = some (s.bytesAt (dramLoc (s.hartPlace m pa place) pa) n))) ∧
  (∀ (s : State) (m : Master) pa place x rel, s.acts m = true → s.waitsBehind (.bus m pa place (.write [x] rel)) = false → pa + 1 ≤ 2 ^ 37 →
    s.frozen (dramLoc (s.hartPlace m pa place) pa) = false →
    Answers (.memoryRequestServe (.bus m pa place (.write [x] rel))) s (fun t =>
      t.dram = s.dram.setByte (s.moved (dramLoc (s.hartPlace m pa place) pa)) x ∧ t.sram = s.sram ∧ t.bst = s.bst ∧ t.ans = some [])) ∧
  (∀ (s : State) (m : Master) pa place v rel, s.acts m = true → s.waitsBehind (.bus m pa place (.amoadd v rel)) = false → pa + 8 ≤ 2 ^ 37 →
    s.frozen (dramLoc (s.hartPlace m pa place) pa) = false → (∀ d, (s.die d).remap = []) →
    let loc := dramLoc (s.hartPlace m pa place) pa
    Answers (.memoryRequestServe (.bus m pa place (.amoadd v rel))) s (fun t => t.ans = some (s.bytesAt loc 8) ∧
      t.numAt loc 8 = (s.numAt loc 8 + v.toNat) % 2 ^ 64 ∧ (∀ x, x < loc ∨ loc + 8 ≤ x → t.byteAt x = s.byteAt x))) ∧
  (∀ (s : State) (m : Master) pa place (o : BusOp), s.acts m = true → (s.waitsBehind (.bus m pa place o) = true ∨
      (pa + o.size ≤ 2 ^ 37 ∧ o.writes = true ∧ s.frozen (dramLoc (s.hartPlace m pa place) pa) = true)) →
    Answers (.memoryRequestServe (.bus m pa place o)) s (fun t => SameMemory s t ∧ t.parked = s.parked ++ [.bus m pa place o]))

/-- 04 R95 to R99: an entry drained at its slice writes exactly its masked bytes, or, denied, writes nothing and its notice starts; an acknowledgement gives the credit
back, a credit unused for 1,024 core cycles returns, and a notice reaches its group. -/
def Sys2Proof.Claims.InboundEntries : Prop :=
  (∀ (s : State) (core : Nat) e, (s.core core).inq = [e] → e.copy = none → e.fill = false → e.data.length ≤ 32 → s.denied e.region (sramLoc core e.addr) = false →
    Answers (.inboundDrain core) s (fun t => (t.core core).inq = [] ∧ .ack e.src core ∈ t.due ∧ t.dram = s.dram ∧
      (∀ i < e.data.length, t.byteAt (sramLoc core e.addr + i) = ((e.data.getD i none).getD (s.byteAt (sramLoc core e.addr + i)))) ∧
      (∀ x, x < sramLoc core e.addr ∨ sramLoc core e.addr + e.data.length ≤ x → t.byteAt x = s.byteAt x))) ∧
  (∀ (s : State) (core : Nat) e, (s.core core).inq = [e] → e.copy = none → s.denied e.region (sramLoc core e.addr) = true →
    Answers (.inboundDrain core) s (fun t => SameMemory s t ∧ (t.core core).inq = [] ∧ .ack e.src core ∈ t.due ∧
      ∃ n ∈ t.notices, n.key = e.key ∧ n.blk = e.blk ∧ n.addr = e.ga)) ∧
  (∀ (s : State) src tgt, s.entriesOf src tgt < SMap.get 0 (s.core src).spent tgt →
    Answers (.creditAcknowledge src tgt) s (fun t => SameMemory s t ∧
      SMap.get 0 (t.core src).spent tgt = SMap.get 0 (s.core src).spent tgt - 1 ∧ SMap.get 0 (t.core src).granted tgt = SMap.get 0 (s.core src).granted tgt +
        (if s.grantedAt tgt < 128 ∧ SMap.get 0 (s.core src).granted tgt < 7 then 1 else 0))) ∧
  (∀ (s : State) src tgt since, SMap.get 0 (s.core src).granted tgt ≠ 0 → ((s.core src).unused tgt).getLast? = some since → since + 10240 ≤ s.now →
    Answers (.creditReturn src tgt) s (fun t => SameMemory s t ∧ SMap.get 0 (t.core src).granted tgt = SMap.get 0 (s.core src).granted tgt - 1 ∧
      (t.core src).unused tgt = ((s.core src).unused tgt).dropLast)) ∧
  (∀ (s : State) (n : Notice) (g : Group), s.notices = [n] → (s.block? n.blk).isSome → s.group? n.key = some g → g.blk = n.blk → g.exited = false → g.baton.isSome → g.eligible ≠ 0 →
    Answers (.denialNotice n.id) s (fun t => SameMemory s t ∧ t.notices = [] ∧ t.group? n.key = some { g with denied := g.denied ++ [n.addr] })) ∧
  (∀ (s : State) (n : Notice) (g : Group), s.notices = [n] → (s.block? n.blk).isSome → s.group? n.key = some g → g.exited = true →
    Answers (.denialNotice n.id) s (fun t => SameMemory s t ∧ t.notices = [] ∧ t.group? n.key = some g ∧
      ∃ r ∈ (t.die (dieOf (coreOf n.key))).traps, r.key = n.key ∧ r.trap.addr = n.addr ∧ r.trap.cause = Cause.global .write))

/-- 06 R154, R164, 14 R309: LDW.E and TRET.W of a full word are performed at its slice, of an empty one they sleep there while one of its 256 waiting places
is free, and are tested again otherwise; the answer makes the lanes of empty words sleep; FILL writes its word, makes it full and wakes what sleeps on it, in
the order of arrival: a wake performs the access that arrived first. EMPTY makes its word empty and gives what stood there, FEGET gives whether it is full. -/
def Obligations.FullEmptyWords : Prop :=
  (∀ (s : State) c (id : Nat) r (a : Acc) (g : Group), s.req? c id = some r → r.kind = .ldwe → r.accs = [a] → a.st = .sleep → r.cmpd = false → r.dead = false → a.lane < 32 → s.group? r.key = some g → g.blk = r.blk →
    (g.lane a.lane).exited = false →
    Answers (.fullEmptyAnswer c id) s (fun t => SameMemory s t ∧ ∃ h, t.group? r.key = some h ∧ (h.lane a.lane).wait = .word ∧ h.v = g.v)) ∧
  (∀ (s : State) c (id : Nat) r (a : Acc), s.req? c id = some r → r.kind = .ldwe → r.accs = [a] → a.st = .sleep → r.st ≠ .held → s.isFull a.loc = true → s.denied r.region a.loc = false →
    (∀ x ∈ s.sleepersOn a.loc, x.2.2 = id ∨ a.stamp < x.1) →
    s.eccIn a.loc a.n = false → a.n = 4 → a.scale = none → a.half = none → r.promo.all (fun p => p.2 == .back) = true →
    s.demandOf c { r with accs := [{ a with st := .todo }] } = [] →
    Answers (.ldwEWake c id) s (fun t => SameMemory s t ∧ .answer c id ∈ t.due ∧ ∃ q b, t.req? c id = some q ∧ q.accs = [b] ∧ b.st = .done ∧
      b.res = s.bytesAt a.loc a.n)) ∧
  (∀ (s : State) c (id : Nat) r (a : Acc), s.req? c id = some r → (r.kind = .ldwe ∨ r.kind = .tretw) → r.st = .queued → r.accs = [a] → a.st = .todo → a.n = 4 →
    a.scale = none → a.half = none → r.cmpd = false →
    s.twinOf r.key = none → s.mayPerform c r = true → s.demandOf c r = [] → s.denied r.region a.loc = false →
    (s.isFull a.loc = false → s.sleepersAt (sramCore a.loc) < 256 → Answers (.memoryRequestServe (.core c id .none)) s (fun t => SameMemory s t ∧
      .answer c id ∈ t.due ∧ ∃ q b, t.req? c id = some q ∧ q.accs = [b] ∧ b.st = .sleep)) ∧
    (s.isFull a.loc = false → 256 ≤ s.sleepersAt (sramCore a.loc) → Answers (.memoryRequestServe (.core c id .none)) s (fun t => SameMemory s t ∧
      .serve c id ∈ t.due ∧ ∃ q, t.req? c id = some q ∧ q.accs = [a])) ∧
    (s.isFull a.loc = true → s.eccIn a.loc 4 = false → Answers (.memoryRequestServe (.core c id .none)) s (fun t => SameMemory s t ∧
      .answer c id ∈ t.due ∧ ∃ q b, t.req? c id = some q ∧ q.accs = [b] ∧ b.st = .done ∧ b.res = s.bytesAt a.loc 4))) ∧
  (∀ (s : State) c (id : Nat) r (a : Acc), s.req? c id = some r → r.kind = .empty → r.st = .queued → r.accs = [a] → a.st = .todo → a.n = 4 →
    s.mayPerform c r = true → s.demandOf c r = [] → s.eccIn a.loc 4 = false →
    Answers (.memoryRequestServe (.core c id .none)) s (fun t => t.dram = s.dram ∧ t.sram = s.sram ∧ t.bst = s.bst ∧ t.isFull a.loc = false ∧
      (∀ x, wordLoc x ≠ wordLoc a.loc → t.isFull x = s.isFull x) ∧ .answer c id ∈ t.due ∧
      ∃ q b, t.req? c id = some q ∧ q.accs = [b] ∧ b.st = .done ∧ b.res = s.bytesAt a.loc 4)) ∧
  (∀ (s : State) c (id : Nat) r (a : Acc), s.req? c id = some r → r.kind = .feget → r.st = .queued → r.accs = [a] → a.st = .todo → a.n = 4 →
    a.scale = none → a.half = none → s.mayPerform c r = true → s.demandOf c r = [] → s.denied r.region a.loc = false → s.eccIn a.loc 4 = false →
    Answers (.memoryRequestServe (.core c id .none)) s (fun t => SameMemory s t ∧ .answer c id ∈ t.due ∧
      ∃ q b, t.req? c id = some q ∧ q.accs = [b] ∧ b.st = .done ∧ b.res = [if s.isFull a.loc then 1 else 0, 0, 0, 0])) ∧
  (∀ (s : State) c (id : Nat) r (a : Acc), s.req? c id = some r → r.kind = .fill → r.st = .queued → r.accs = [a] → a.st = .todo → a.n = 4 →
    a.entry = false → a.data.length = 4 → isSram a.loc = true → a.loc % 4 = 0 → s.mayPerform c r = true → s.demandOf c r = [] → s.denied r.region a.loc = false →
    Answers (.memoryRequestServe (.core c id .none)) s (fun t => t.req? c id = none ∧ t.dram = s.dram ∧ t.bst = s.bst ∧
      t.bytesAt a.loc 4 = a.data ∧ t.isFull a.loc = true ∧ (∀ x ∈ s.sleepersOn a.loc, .wake x.2.1 x.2.2 ∈ t.due) ∧
      (∀ x, x < a.loc ∨ a.loc + 4 ≤ x → t.byteAt x = s.byteAt x)))

/-- 05 R127: a demand whose core has completed its earlier writes promotes that core's narrow releases to the demander's scope, and its answer comes back to the request;
before every demand of a request has its answer, the request does not perform. -/
def Sys2Proof.Claims.Promotion : Prop :=
  (∀ (s : State) (id : Nat) (core : Nat) c r, s.reqAnywhere id = some (core, r) → r.promo.find? (fun p => p.2 == .sent && s.demandReady p.1) = some (c, .sent) →
    Answers (.promotionDemand id) s (fun t => SameMemory s t ∧ .promoted core id ∈ t.due ∧
      (s.req? core id = some r → t.req? core id = some (r.demandAt c .met)) ∧
      ∀ x y, s.rels.find? x = some y → y.by_.core = c → y.scope ≤ 2 →
        t.rels.find? x = some { y with scope := if dieOf c = dieOf core then 4 else 5 })) ∧
  (∀ (s : State) (id : Nat) (core : Nat) c r, s.reqAnywhere id = some (core, r) → r.promo.find? (fun p => p.2 == .met) = some (c, .met) → s.req? core id = some r →
    (r.asks && !((s.group? r.key).any (fun g => g.blk = r.blk))) = false →
    Answers (.promotionAnswer id) s (fun t => SameMemory s t ∧ t.req? core id = some (r.demandAt c .back))) ∧
  (∀ (s : State) (core : Nat) r, (∃ p ∈ r.promo, p.2 ≠ .back) → s.mayPerform core r = false)

/-- 14 R305 to R308: an atomic that may be performed is applied once at its place: the word takes the operation's result, the lane the old value, no other byte
changes, and the result is kept under its tag; a lost reply leads, 20 µs after the request's sending (26 R453), to a
replay that does not apply it again; a prefetch asks for a line and its fill then comes (26 R462), and changes no byte. -/
def Sys2Proof.Claims.AtomicsPerform : Prop :=
  (∀ (s : State) c (id : Nat) r (a : Acc) op, s.req? c id = some r → r.kind = .atom op → r.ty = .u32 → r.st = .queued → r.accs = [a] → a.st = .todo → a.n = 4 → isSram a.loc = true → r.acq = false →
    r.relaxed = false → s.mayPerform c r = true → s.eccIn a.loc 4 = false → a.data.length = 4 →
    Answers (.atomicPerform c id false .none) s (fun t => .reply c id ∈ t.due ∧ t.dram = s.dram ∧ t.bst = s.bst ∧
      (∃ q b, t.req? c id = some q ∧ q.st = .done ∧ q.accs = [b] ∧ b.res = s.bytesAt a.loc 4) ∧
      (t.bytesAt a.loc 4 = leBytes 4 (AOp.apply op .u32 (BitVec.ofNat 32 (leNat (s.bytesAt a.loc 4))) (BitVec.ofNat 32 (leNat a.data))).toNat) ∧
      (∀ x, x < a.loc ∨ a.loc + 4 ≤ x → t.byteAt x = s.byteAt x) ∧
      (∃ y ∈ t.results a, y.src = c ∧ y.seq = r.seq.getD 0 ∧ y.res = [s.bytesAt a.loc 4]))) ∧
  (∀ (s : State) c (id : Nat) r, s.req? c id = some r → r.st = .lost → r.sentAt + 280000 ≤ s.now →
    Answers (.atomicReplay c id) s (fun t => t = (s.putReq c { r with sentAt := s.now }).addDue [.perform c id])) ∧
  (∀ (s : State) c (id : Nat) r, s.req? c id = some r → (r.st ≠ .lost ∨ s.now < r.sentAt + 280000) → Answers (.atomicReplay c id) s (fun t => t = s)) ∧
  (∀ (s : State) c (id : Nat) r (a : Acc) x op, s.req? c id = some r → r.kind = .atom op → r.st = .lost → r.accs = [a] → r.acq = false →
    (s.results a).find? (fun x => x.src = c && some x.seq = r.seq) = some x → x.res.length = 1 →
    Answers (.atomicPerform c id false .none) s (fun t => SameMemory s t ∧ .reply c id ∈ t.due ∧
      ∃ q b, t.req? c id = some q ∧ q.accs = [b] ∧ some b.res = x.res.head?)) ∧
  (∀ (s : State) (die : Nat) line, line / 2 ^ 27 = die → (∀ c ∈ (s.die die).cache, c.1 ≠ line) →
    Answers (.streamPrefetch die line) s (fun t => SameMemory s t ∧ (line, true, true) ∈ (t.die die).cache)) ∧
  (∀ (s : State) (die : Nat) line pre, line / 2 ^ 27 = die → (s.die die).cache.find? (fun c => c.1 = line) = some (line, pre, true) →
    Answers (.streamPrefetch die line) s (fun t => SameMemory s t ∧ (line, pre, false) ∈ (t.die die).cache ∧
      SMap.get 0 (t.die die).dc 3 = (SMap.get 0 (s.die die).dc 3 + 1) % 2 ^ 64))

/-- 14 R306: what the operations make of the old value and the operand, for the unsigned and signed words. -/
def Sys2Proof.Claims.AtomicOperations : Prop :=
  ∀ old x : Word,
    AOp.apply .add .u32 old x = old + x ∧ AOp.apply .add .s32 old x = old + x ∧ AOp.apply .and .u32 old x = old &&& x ∧ AOp.apply .or .u32 old x = old ||| x ∧
    AOp.apply .xor .u32 old x = old ^^^ x ∧ AOp.apply .xchg .u32 old x = x ∧
    (AOp.apply .min .u32 old x).toNat = min old.toNat x.toNat ∧ (AOp.apply .max .u32 old x).toNat = max old.toNat x.toNat ∧
    (AOp.apply .min .s32 old x).toInt = min old.toInt x.toInt ∧ (AOp.apply .max .s32 old x).toInt = max old.toInt x.toInt


namespace Sys2Proof.Machine

/-! ## Words of the statements about compact forms -/

/-- An FP32 number as a compact form reads it: no prefix, so subnormals are kept (08 R200, 10 R232). -/
def f32In (w : Word) : FV := FFmt.f32.value false w.toNat
/-- An exact value rounded to FP32 by the default mode, to nearest, ties to even. -/
def f32Out (v : FV) : Word := BitVec.ofNat 32 (FFmt.f32.round .rne 0 false false v)
/-- Is the first of two FP32 numbers below the second, -0 below +0? -/
def f32Below (x y : FV) : Bool := decide (FV.cmp x y < 0) || (decide (FV.cmp x y = 0) && FV.neg? x && !FV.neg? y)

end Sys2Proof.Machine

/-- 08 R200, 09 R222: every compact form with a result per lane completes with the result of the 96-bit op that its COP names, on the registers and
the immediate of its own fields. -/
def Sys2Proof.Claims.CompactResults : Prop :=
  (∀ o, CompactGives (.compactAddV o) (.v o.dst) (kv o.sa) (kv o.sb) (fun a b => a + b)) ∧
  (∀ o, CompactGives (.compactAddVi o) (.v o.dst) (kv o.sa) (kx o.imm) (fun a b => a + b)) ∧
  (∀ o, CompactGives (.compactSubV o) (.v o.dst) (kv o.sa) (kv o.sb) (fun a b => a - b)) ∧
  (∀ o, CompactGives (.compactMulV o) (.v o.dst) (kv o.sa) (kv o.sb) (fun a b => a * b)) ∧
  (∀ o, CompactGives (.compactMulVi o) (.v o.dst) (kv o.sa) (kx o.imm) (fun a b => a * b)) ∧
  (∀ o, CompactGives (.compactMin o) (.v o.dst) (kv o.sa) (kv o.sb) (fun a b => if a.toInt ≤ b.toInt then a else b)) ∧
  (∀ o, CompactGives (.compactMax o) (.v o.dst) (kv o.sa) (kv o.sb) (fun a b => if a.toInt ≤ b.toInt then b else a)) ∧
  (∀ o, CompactGives (.compactAndV o) (.v o.dst) (kv o.sa) (kv o.sb) (fun a b => a &&& b)) ∧
  (∀ o, CompactGives (.compactAndVi o) (.v o.dst) (kv o.sa) (kz o.imm) (fun a b => a &&& b)) ∧
  (∀ o, CompactGives (.compactOrV o) (.v o.dst) (kv o.sa) (kv o.sb) (fun a b => a ||| b)) ∧
  (∀ o, CompactGives (.compactOrVi o) (.v o.dst) (kv o.sa) (kz o.imm) (fun a b => a ||| b)) ∧
  (∀ o, CompactGives (.compactXorV o) (.v o.dst) (kv o.sa) (kv o.sb) (fun a b => a ^^^ b)) ∧
  (∀ o, CompactGives (.compactXorVi o) (.v o.dst) (kv o.sa) (kz o.imm) (fun a b => a ^^^ b)) ∧
  (∀ o, CompactGives (.compactShlV o) (.v o.dst) (kv o.sa) (kv o.sb) (fun a b => if 32 ≤ b.toNat then 0 else wrap (a.toNat * 2 ^ b.toNat))) ∧
  (∀ o, CompactGives (.compactShlVi o) (.v o.dst) (kv o.sa) (kz o.imm) (fun a b => if 32 ≤ b.toNat then 0 else wrap (a.toNat * 2 ^ b.toNat))) ∧
  (∀ o, CompactGives (.compactShrVi o) (.v o.dst) (kv o.sa) (kz o.imm)
    (fun a b => if 32 ≤ b.toNat then 0 else BitVec.ofNat 32 (a.toNat / 2 ^ b.toNat))) ∧
  (∀ o, CompactGives (.compactSarVi o) (.v o.dst) (kv o.sa) (kz o.imm)
    (fun a b => if 32 ≤ b.toNat then (if a.getLsbD 31 then 0xFFFFFFFF else 0) else wrap (a.toInt / 2 ^ b.toNat))) ∧
  (∀ o, CompactGives (.compactMovV o) (.v o.dst) (kv o.sa) k0 (fun a _ => a)) ∧
  (∀ o, CompactGives (.compactMovVi o) (.v o.dst) (kx o.imm) k0 (fun a _ => a)) ∧
  (∀ o, CompactGives (.compactAddS o) (kS o.dst) (ks o.sa) (ks o.sb) (fun a b => a + b)) ∧
  (∀ o, CompactGives (.compactAddSi o) (kS o.dst) (ks o.sa) (kx o.imm) (fun a b => a + b)) ∧
  (∀ o, CompactGives (.compactMovS o) (kS o.dst) (ks o.sa) k0 (fun a _ => a)) ∧
  (∀ o, CompactGives (.compactMovSi o) (kS o.dst) (kx o.imm) k0 (fun a _ => a)) ∧
  (∀ o, CompactGives (.compactCmpEq o) (kP o.dst) (kv o.sa) (kv o.sb) (fun a b => if a = b then 1 else 0)) ∧
  (∀ o, CompactGives (.compactCmpLt o) (kP o.dst) (kv o.sa) (kv o.sb) (fun a b => if a.toInt < b.toInt then 1 else 0)) ∧
  (∀ o, CompactGives (.compactCmpLtU32 o) (kP o.dst) (kv o.sa) (kv o.sb) (fun a b => if a.toNat < b.toNat then 1 else 0)) ∧
  (∀ o, CompactGives (.compactCmpLtI o) (kP o.dst) (kv o.sa) (kx o.imm) (fun a b => if a.toInt < b.toInt then 1 else 0)) ∧
  (∀ o, CompactGives (.compactFadd o) (.v o.dst) (kv o.sa) (kv o.sb) (fun a b => f32Out (FV.add .rne (f32In a) (f32In b)))) ∧
  (∀ o, CompactGives (.compactFmul o) (.v o.dst) (kv o.sa) (kv o.sb) (fun a b => f32Out (FV.mul (f32In a) (f32In b)))) ∧
  (∀ o, CompactGives (.compactFmin o) (.v o.dst) (kv o.sa) (kv o.sb) (fun a b =>
    f32Out (if FV.isNan (f32In a) then f32In b else if FV.isNan (f32In b) then f32In a
      else if f32Below (f32In a) (f32In b) then f32In a else f32In b))) ∧
  (∀ o, CompactGives (.compactFmax o) (.v o.dst) (kv o.sa) (kv o.sb) (fun a b =>
    f32Out (if FV.isNan (f32In a) then f32In b else if FV.isNan (f32In b) then f32In a
      else if f32Below (f32In a) (f32In b) then f32In b else f32In a))) ∧
  (∀ o, CompactGives (.compactPopc o) (.v o.dst) (kv o.sa) k0 (fun a _ => BitVec.ofNat 32 ((List.range 32).countP (fun i => a.getLsbD i)))) ∧
  (∀ o, WritesLanes (.compactShflXor o) (.v o.dst) (fun s g l => [kv o.sa s g (Nat.xor l (o.imm.toNat % 32))])) ∧
  (∀ o, WritesLanes (.compactShflIdx o) (.v o.dst) (fun s g l =>
    let n := kv o.sb s g l
    [⟨(kv o.sa s g (n.bits.toNat % 32)).bits, firstPsn [kv o.sa s g (n.bits.toNat % 32), n]⟩]))

/-- 08 R200, 09 R222: the compact memory forms and the compact NOP complete as LD, ST, LDU and NOP do: their checked accesses of one word, with the
immediate sign-extended, go to the memory unit, and no byte changes when they issue. -/
def Sys2Proof.Claims.CompactMemory : Prop :=
  (∀ o : OpK, ReadIssues (.compactLdV o) Forms.ld (o.asM (.v o.dst) o.sa (.v o.sb)) .load 4 1 false false false) ∧
  (∀ o : OpK, ReadIssues (.compactLdI o) Forms.ld (o.asM (.v o.dst) o.sa .none) .load 4 1 false false false) ∧
  (∀ o : OpK, WriteIssues (.compactSt o) Forms.st (o.asM (.v o.sb) o.dst (.v o.sa)) .store false false none) ∧
  (∀ o : OpK, ReadIssues (.compactLdu o) Forms.ldu (o.asM (kS o.dst) o.sa (kS o.sb)) .load 4 1 false false true) ∧
  (∀ o : OpK, memImm (o.asM (.v o.dst) o.sa (.v o.sb)) = o.imm.signExtend 32) ∧
  (∀ (s : State) (g : Group), s.group? s.cur.key = some g → ActsOnGroup .compactNop s (fun h => h = g.advance s.cur))

/-! ## Copies (spec 14) -/

/-- 14 R312, R313, R317, R318: CPYB takes the lowest free tag for the two records and the count, and gives each executing lane its number, or
0xFFFF_FFFF when no tag is free; CPYW of a copy that is done frees its tag, of one in flight waits, and of a faulted one traps with the copy's
fault; CPYQ gives a tag's state and whether the block owns it. -/
def Sys2Proof.Claims.CopyInstructions : Prop :=
  (∀ (o : OpX) (s : State) (g g0 : Group), s.group? s.cur.key = some g → s.cur.lanes ≠ 0 → (s.low g Forms.cpyb 0 (.x o) 4).psn = none →
    (Brec.of (g.bAt o.sa.num)).res = 0 → (Brec.of (g.bAt o.sb.num)).res = 0 → (Brec.of (g.bAt o.sa.num)).esz = (Brec.of (g.bAt o.sb.num)).esz →
    (((Brec.of (g.bAt o.sa.num)).swz = 0 ∧ (Brec.of (g.bAt o.sb.num)).swz = 0) ∨ (Brec.of (g.bAt o.sa.num)).esz ≠ 3) →
    s.viewsFor (g.advance s.cur) o.dst = .ok g0 → Sel.within o.dst 1 = true →
    let free := (List.range 64).find? (fun k => ((s.core s.cur.core).tag? k).isNone)
    Answers (.cpyb o) s (fun t => SameMemory s t ∧
      (∃ h, t.group? s.cur.key = some h ∧
        Wrote s.cur.lanes o.dst (fun _ => [⟨match free with | some k => BitVec.ofNat 32 k | none => 0xFFFFFFFF, none⟩]) g0 h) ∧
      ∀ k, (t.core s.cur.core).tag? k = if free = some k
        then some { blk := g.blk, src := g.bAt o.sa.num, dst := g.bAt o.sb.num, count := (s.low g Forms.cpyb 0 (.x o) 4).bits.toNat, key := s.cur.key }
        else (s.core s.cur.core).tag? k)) ∧
  (∀ (o : OpX) (s : State) (g : Group) (n : Nat) (c : Copy), s.group? s.cur.key = some g → s.cur.lanes ≠ 0 →
    s.low g Forms.cpyw 0 (.x o) 2 = ⟨BitVec.ofNat 32 n, none⟩ → n < 64 → (s.core s.cur.core).tag? n = some c → c.blk = g.blk →
    (c.st = .done → Answers (.cpyw o) s (fun t => t.group? s.cur.key = some (g.advance s.cur) ∧ SameMemory s t ∧ (t.core s.cur.core).tag? n = none)) ∧
    (c.st = .flight → ActsOnGroup (.cpyw o) s (fun h => h = { g.advance s.cur with cpyw := some (n, s.cur.pc, s.cur.lanes) })) ∧
    (∀ f, c.st = .fault → c.flt = some f → ActsOnGroup (.cpyw o) s (fun h => h = g.raise
      { cause := f.1, pc := s.cur.pc, addr := f.2, lanes := s.cur.lanes, tag := some n })) ∧
    (c.st = .built → ActsOnGroup (.cpyw o) s (fun h => h = g.raise { cause := 0x108, pc := s.cur.pc, lanes := s.cur.lanes }))) ∧
  (∀ (o : OpX) (s : State) (g g0 : Group) (n : Nat), s.group? s.cur.key = some g → s.cur.lanes ≠ 0 →
    s.low g Forms.cpyq 0 (.x o) 2 = ⟨BitVec.ofNat 32 n, none⟩ → n < 64 →
    s.viewsFor (g.advance s.cur) o.dst = .ok g0 → Sel.within o.dst 1 = true →
    Answers (.cpyq o) s (fun t => SameMemory s t ∧ t.cores = s.cores ∧ ∃ h, t.group? s.cur.key = some h ∧
      Wrote s.cur.lanes o.dst (fun _ => [⟨match (s.core s.cur.core).tag? n with
        | none => 0
        | some c => (match c.st with | .built => 1 | .flight => 2 | .done => 3 | .fault => 4) + (if c.blk = g.blk then 8 else 0), none⟩]) g0 h))

/-- 14 R314, R315: CPYK of a built copy of its block, every element of which passes its checks, puts the copy in flight and hands it to the engine; no
byte changes yet. A tag that is free, of another block or not built is CPYTAG. -/
def Sys2Proof.Claims.CopyKick : Prop :=
  ∀ (o : OpM) (s : State) (g : Group) (b : Block) (l n : Nat), Issues s g b → lowest s.cur.lanes = some l → s.readSel g o.data 0 l = ⟨BitVec.ofNat 32 n, none⟩ → n < 64 →
    (∀ c, (s.core s.cur.core).tag? n = some c → c.blk = g.blk → c.st = .built → s.isStage g = false →
      (o.imm.toNat % 4 = 1 → (Brec.of c.dst).base.extractLsb' 60 4 = 8 ∨ (Brec.of c.dst).base.extractLsb' 60 4 = 9) →
      (∀ k < c.count, ∃ x, s.copyCheck b c k = .ok x) →
      Answers (.cpyk o) s (fun t => SameMemory s t ∧ t.group? s.cur.key = some (g.advance s.cur) ∧ .copy s.cur.core n ∈ t.due ∧
        ∃ d, (t.core s.cur.core).tag? n = some d ∧ d.st = .flight ∧ d.blk = c.blk ∧ d.src = c.src ∧ d.dst = c.dst ∧ d.count = c.count ∧
          d.did = c.did ∧ d.pc = s.cur.pc ∧ d.lanes = s.cur.lanes ∧ (d.fe = decide (o.imm.toNat % 4 = 1)) ∧ d.scope = o.scope.toNat)) ∧
    (((s.core s.cur.core).tag? n = none ∨ ∃ c, (s.core s.cur.core).tag? n = some c ∧ (c.blk ≠ g.blk ∨ c.st ≠ .built)) →
      ActsOnGroup (.cpyk o) s (fun h => h = g.raise { cause := 0x108, pc := s.cur.pc, lanes := s.cur.lanes }))

/-- 14 R315, R316: an element whose tables the core has observed (23 R395), whose two places are found, and on whose bytes no earlier store of its core is still on its way, is copied exactly once: its destination bytes take the source's and no other byte changes, or, in
another slice, its entry goes there; where the spans of the two sides share no byte nothing of it is left open. A copy with every element performed is
done, or the instruction that waits completes and the tag is free; a copy with a fault and no element on its way is faulted, and a CPYW
that waits traps with the fault. -/
def Obligations.CopyEngine : Prop :=
  (∀ (s s1 s2 : State) (core tag k : Nat) (c : Copy) (b : Block) (sa da : DWord) (sl dl : Nat), (s.core core).tag? tag = some c → s.block? c.blk = some b →
    c.st = .flight → c.flt = none → k < c.count → k ∉ c.did → k ∉ c.flying → s.copyCheck b c k = .ok (some (sa, da)) →
    s.copyHeld core c sa da = false → s.copyPlace core b .read sa = (.ok sl, s1) → s1.eccIn sl (2 ^ (Brec.of c.src).esz.toNat) = false → s1.copyPlace core b .write da = (.ok dl, s2) →
    s2.frozen dl = false → (∀ d, (s.die d).remap = []) →
    let n := 2 ^ (Brec.of c.src).esz.toNat
    s2.storesBefore core sl n = false → s2.storesBefore core dl n = false →
    let bs := s.copyBytes c k (genericOf da dl) (s.bytesAt sl n)
    ((isSram dl = true → sramCore dl = core) →
      Answers (.copyElement core tag k .none) s (fun t => (∀ i < n, t.byteAt (dl + i) = bs.getD i 0) ∧
        (∀ x, x < dl ∨ dl + n ≤ x → t.byteAt x = s.byteAt x) ∧ t.bst = s.bst ∧ t.groups = s.groups ∧
        (t.core core).tag? tag = some { c with did := c.did ++ [k] })) ∧
    (isSram dl = true → sramCore dl ≠ core → (s.core core).credits (sramCore dl) ≠ 0 →
      Answers (.copyElement core tag k .none) s (fun t => SameMemory s t ∧ t.groups = s.groups ∧
        (t.core core).tag? tag = some { c with flying := c.flying ++ [k] } ∧
        ∃ e, (t.core (sramCore dl)).inq = (s.core (sramCore dl)).inq ++ [e] ∧ e.copy = some (tag, k) ∧ e.src = core ∧ e.addr = sramOff dl / 32 * 32 ∧
          e.data = overlay (sramOff dl / 32 * 32) [] (sramOff dl) bs.length (fun i => bs[i]?)))) ∧
  (∀ (s : State) (c : Copy) (k dst : Nat) (bs : List Byte) (lo hi lo' hi' : Nat), c.sspan = some (lo, hi) → c.dspan = some (lo', hi') → hi ≤ lo' ∨ hi' ≤ lo →
    s.copyBytes c k dst bs = bs) ∧
  (∀ (s : State) (core tag : Nat) (c : Copy), (s.core core).tag? tag = some c → c.st = .flight → c.flt = none → (∀ k < c.count, k ∈ c.did) → c.fe = false →
    c.pair = none → c.orphan = false →
    ((∀ key g, (key, g) ∈ s.groups → coreOf key = core → g.cpyw.map (·.1) ≠ some tag) →
      Answers (.copyRetire core tag) s (fun t => SameMemory s t ∧ t.groups = s.groups ∧ (t.core core).tag? tag = some { c with st := .done })) ∧
    (∀ (key : Nat) (g : Group) (w : DWord × BitVec 32), s.group? key = some g → coreOf key = core → g.cpyw = some (tag, w) →
      Answers (.copyRetire core tag) s (fun t => SameMemory s t ∧ t.group? key = some { g with cpyw := none } ∧ (t.core core).tag? tag = none))) ∧
  (∀ (s : State) (core tag : Nat) (c : Copy) (f : Nat × DWord), (s.core core).tag? tag = some c → c.st = .flight → c.flt = some f → c.flying = [] → c.pair = none →
    c.orphan = false → s.groups.sorted = true →
    Answers (.copyFault core tag) s (fun t => SameMemory s t ∧ (t.core core).tag? tag = some { c with st := .fault } ∧
      ∀ (key : Nat) (g : Group) (pc : DWord) (lanes : BitVec 32), s.group? key = some g → coreOf key = core → g.cpyw = some (tag, pc, lanes) →
        g.trap = none → g.fault = none → ∃ h, t.group? key = some h ∧ h.cpyw = none ∧
          h.trap = some { cause := f.1, pc, addr := f.2, lanes, tag := some tag }))

namespace Sys2Proof.Machine

/-! ## Words of the statements about Anvil -/

/-- The job that a card at a place makes, before its descriptors are taken (15 R319). -/
def jobOfCard (s t : State) (g : Group) (va : DWord) (loc : Nat) : Job :=
  let j : Job := { slot := 0, seq := 0, key := s.cur.key, blk := g.blk, pc := s.cur.pc, lanes := s.cur.lanes, cardVa := va,
                   card := BitVec.ofNat 1024 (t.numAt loc 128), atd := 0, btd := 0 }
  { j with atd := g.tAt (j.fld 674 672), btd := g.tAt (j.fld 677 675) }

/-- JOB or JOBP of a card that translates: the checks of the card decide. Passed, with an entry free, the job is queued, its number goes to the
destination, and the operand fence is used up (without one, what the group has written since its last is unpredictable to the job: 15 R331); failed, the instruction traps with the check's cause. -/
def JobQueues (i : Instr) (o : OpX) (pair : Bool) : Prop :=
  ∀ (s : State) (g g0 : Group) (b : Block) (x : Xlate) (t1 : State), Issues s g b → s.cur.lanes ≠ 0 → (s.lowPair g Forms.job 0 (.x o) 2).2 = none →
    let a := (s.lowPair g Forms.job 0 (.x o) 2).1
    a.extractLsb' 60 4 = 0 → (a.extractLsb' 47 13 = 0 ∨ a.extractLsb' 47 13 = 0x1FFF) → a.toNat % 128 = 0 →
    (issuing s g).translate s.cur.core (s.rootOf b.launch) a.toNat .read = (.ok x, t1) → t1.eccIn x.loc 128 = false →
    let j := jobOfCard s t1 g a x.loc
    (∀ fol t2 k, t1.jobCheck (g.advance s.cur) b j pair = (.ok fol, t2) →
      (List.range 4).find? (fun k => !((s.core s.cur.core).jobs.any (fun y => y.slot == k))) = some k →
      s.viewsFor (g.advance s.cur) o.dst = .ok g0 → Sel.within o.dst 1 = true →
      Answers i s (fun t => SameMemory s t ∧ .anvil s.cur.core ∈ t.due ∧ (t.core s.cur.core).accepted = (s.core s.cur.core).accepted + 1 ∧
        (∃ h, Wrote s.cur.lanes o.dst (fun _ => [⟨BitVec.ofNat 32 (4 * ((s.core s.cur.core).accepted % 64) + k), none⟩]) g0 h ∧
          t.group? s.cur.key = some { h with opFenced := false }) ∧
        ∃ q, (t.core s.cur.core).jobs = (s.core s.cur.core).jobs ++ [q] ∧ q.slot = k ∧ q.seq = (s.core s.cur.core).accepted ∧ q.st = .queued ∧
          q.key = j.key ∧ q.blk = j.blk ∧ q.pc = j.pc ∧ q.lanes = j.lanes ∧ q.card = j.card ∧ q.atd = j.atd ∧ q.btd = j.btd ∧ q.follower = fol ∧
          (tdHead j.atd < tdNslot j.atd → q.wild = false) ∧ q.unfenced = !g.opFenced ∧ q.wrote = if g.opFenced then [] else g.opWrote)) ∧
    (∀ c at_ t2, t1.jobCheck (g.advance s.cur) b j pair = (.error (c, at_), t2) →
      ActsOnGroup i s (fun h => h = g.raise { cause := c, pc := s.cur.pc, addr := at_, lanes := s.cur.lanes }))

/-- A tile of the issuing block that no job holds (15 R335). -/
def FreeTile (s : State) (g : Group) (x : Sel) (k : Nat) : Prop := s.tileOf g x = some k ∧ s.tileBusy s.cur.core k = false

end Sys2Proof.Machine

/-! ## Anvil (spec 15) -/

/-- 15 R336 to R338: TDSET replaces one word of a descriptor that no job holds and TDGET reads one; ACCRD, ACCWR and ACCZ read, write and clear the
block's tile, element by element, and no other, the written elements being noted for the group's next job (15 R331). -/
def Sys2Proof.Claims.DescriptorsAndTiles : Prop :=
  (∀ (wd : BitVec 3) (o : OpX) (s : State) (g : Group), s.group? s.cur.key = some g → s.cur.lanes ≠ 0 → (s.low g Forms.tdset wd.toNat (.x o) 2).psn = none →
    (s.core s.cur.core).tdBusy s.cur.key g.blk o.dst.num = false →
    ActsOnGroup (.tdset wd o) s (fun h => ∃ t, h = (g.advance s.cur).setT o.dst.num t ∧
      Replaced (g.tAt o.dst.num) t (32 * wd.toNat) 32 (s.low g Forms.tdset wd.toNat (.x o) 2).bits)) ∧
  (∀ (wd : BitVec 3) (o : OpX) (s : State) (g g0 : Group), s.group? s.cur.key = some g → (s.core s.cur.core).tdBusy s.cur.key g.blk o.sa.num = false →
    s.viewsFor (g.advance s.cur) o.dst = .ok g0 → Sel.within o.dst 1 = true →
    ActsOnGroup (.tdget wd o) s (Wrote s.cur.lanes o.dst (fun _ => [⟨(g.tAt o.sa.num).extractLsb' (32 * wd.toNat) 32, none⟩]) g0)) ∧
  (∀ (o : OpX) (s : State) (g g0 : Group) (l k : Nat), s.group? s.cur.key = some g → lowest s.cur.lanes = some l → FreeTile s g o.sa k →
    (s.posOf g Forms.accrd o l).psn = none → s.viewsFor (g.advance s.cur) o.dst = .ok g0 → Sel.within o.dst 1 = true →
    Answers (.accrd o) s (fun t => SameMemory s t ∧ t.cores = s.cores ∧ ∃ h, t.groups = s.groups.put s.cur.key h ∧
      Wrote s.cur.lanes o.dst (fun i =>
        [⟨(s.core s.cur.core).accAt k (128 * ((s.posOf g Forms.accrd o l).bits.toNat % 128) + 32 * ((s.posOf g Forms.accrd o l).bits.toNat / 128 % 4) + i),
          none⟩]) g0 h)) ∧
  (∀ (o : OpX) (s : State) (g : Group) (l k : Nat), s.group? s.cur.key = some g → lowest s.cur.lanes = some l → FreeTile s g o.dst k →
    (s.posOf g Forms.accwr o l).psn = none → (∀ i ∈ lanesOf s.cur.lanes, (s.readSel g o.sa 0 i).psn = none) →
    let at_ := 128 * ((s.posOf g Forms.accwr o l).bits.toNat % 128) + 32 * ((s.posOf g Forms.accwr o l).bits.toNat / 128 % 4)
    Answers (.accwr o) s (fun t => SameMemory s t ∧ (∃ h, t.group? s.cur.key = some h ∧ h = { g.advance s.cur with opWrote := h.opWrote }) ∧
      ∀ n i, i < 16384 → (t.core s.cur.core).accAt n i =
        if n = k ∧ at_ ≤ i ∧ i < at_ + 32 ∧ s.cur.lanes.getLsbD (i - at_) then (s.readSel g o.sa 0 (i - at_)).bits else (s.core s.cur.core).accAt n i)) ∧
  (∀ (o : OpX) (s : State) (g : Group) (k : Nat), s.group? s.cur.key = some g → s.cur.lanes ≠ 0 → FreeTile s g o.dst k →
    Answers (.accz o) s (fun t => SameMemory s t ∧ (∃ h, t.group? s.cur.key = some h ∧ h = { g.advance s.cur with opWrote := h.opWrote }) ∧
      ∀ n i, i < 16384 → (t.core s.cur.core).accAt n i = if n = k then 0 else (s.core s.cur.core).accAt n i))

/-- 15 R326, R331, R332: JOB and JOBP queue the job of their card, or trap with the first failed check; the job's number is four times the count of
accepted jobs, modulo 64, plus its entry. -/
def Sys2Proof.Claims.JobsQueue : Prop := (∀ o, JobQueues (.job o) o false) ∧ (∀ o, JobQueues (.jobp o) o true)

/-- 15 R333, R334, R341: JWAIT of a done job frees its entry, of a job at work waits, of a failed one traps with its failure, of an uncorrectable one besides
frees its entry (15 R327), and of no job of the block is
JOBID; JSTAT gives the job's state and counts; JCHK arms the injector, which a launch without the injection right may not. -/
def Sys2Proof.Claims.JobsAwaited : Prop :=
  (∀ (o : OpX) (s : State) (g : Group), s.group? s.cur.key = some g → s.cur.lanes ≠ 0 → (s.low g Forms.jwait 0 (.x o) 2).psn = none →
    let n := (s.low g Forms.jwait 0 (.x o) 2).bits.toNat
    (∀ j, (s.core s.cur.core).job? n g.blk = some j →
      (j.st = .done → Answers (.jwait o) s (fun t => SameMemory s t ∧ t.group? s.cur.key = some (g.advance s.cur) ∧
        (t.core s.cur.core).jobs = (s.core s.cur.core).jobs.filter (fun x => x.slot ≠ j.slot))) ∧
      (j.st = .queued ∨ j.st = .run → ActsOnGroup (.jwait o) s (fun h => h = { g.advance s.cur with jwait := some (n, s.cur.pc, s.cur.lanes) })) ∧
      (∀ f, j.st = .fault → j.flt = some f → ActsOnGroup (.jwait o) s (fun h => h = g.raise
        { cause := f.1, pc := s.cur.pc, addr := f.2, lanes := s.cur.lanes, job := some j.slot })) ∧
      (j.st = .uncorr → Answers (.jwait o) s (fun t => SameMemory s t ∧
        t.group? s.cur.key = some (g.raise { cause := 0x1C2, pc := s.cur.pc, lanes := s.cur.lanes, job := some j.slot }) ∧
        (t.core s.cur.core).jobs = (s.core s.cur.core).jobs.filter (fun x => x.slot ≠ j.slot)))) ∧
    ((s.core s.cur.core).job? n g.blk = none →
      ActsOnGroup (.jwait o) s (fun h => h = g.raise { cause := 0x112, pc := s.cur.pc, lanes := s.cur.lanes }))) ∧
  (∀ (o : OpX) (s : State) (g g0 : Group), s.group? s.cur.key = some g → s.cur.lanes ≠ 0 → (s.low g Forms.jstat 0 (.x o) 2).psn = none →
    s.viewsFor (g.advance s.cur) o.dst = .ok g0 → Sel.within o.dst 1 = true →
    ActsOnGroup (.jstat o) s (Wrote s.cur.lanes o.dst (fun _ =>
      [⟨match (s.core s.cur.core).job? (s.low g Forms.jstat 0 (.x o) 2).bits.toNat g.blk with
        | none => 0
        | some j => BitVec.ofNat 8 (min 255 j.corr) ++ BitVec.ofNat 8 (min 255 j.ckonly) ++ BitVec.ofNat 8 (min 255 j.skip) ++
            (0 : BitVec 3) ++ (1 : BitVec 1) ++ (if j.follower.isSome then 1 else 0 : BitVec 1) ++
            (match j.st with | .queued => 1 | .run => 2 | .done => 3 | .fault => 4 | .uncorr => 5 : BitVec 3), none⟩]) g0)) ∧
  (∀ (o : OpX) (s : State) (g : Group), s.group? s.cur.key = some g → s.cur.lanes ≠ 0 → (s.low g Forms.jchk 0 (.x o) 2).psn = none →
    let w := (s.low g Forms.jchk 0 (.x o) 2).bits
    ((s.effOf g.blk).any (·.inject) = true → w.toNat % 256 ≤ 128 → w.toNat / 256 % 256 ≤ 128 → ¬ (w.toNat % 256 = 128 ∧ w.toNat / 256 % 256 = 128) →
      Answers (.jchk o) s (fun t => SameMemory s t ∧ t.group? s.cur.key = some (g.advance s.cur) ∧ (t.core s.cur.core).injector = some w ∧
        (t.core s.cur.core).acc = (s.core s.cur.core).acc)) ∧
    ((s.effOf g.blk).any (·.inject) = false →
      ActsOnGroup (.jchk o) s (fun h => h = g.raise { cause := 0x116, pc := s.cur.pc, lanes := s.cur.lanes })))

/-- 15 R323: BSLD of a whole tile in bounds, whose pages carry the tile's format, takes an entry of the engine; when its reads have returned (no
write of its core to those pages is still queued), the tile's bytes
stand in the B-store at its place and nowhere else, each the byte of its source page. -/
def Sys2Proof.Claims.BStoreLoads : Prop :=
  (∀ (o : OpX) (s : State) (g : Group) (b : Block) (pages : List Nat) (t1 : State), Issues s g b → s.cur.lanes ≠ 0 → (s.low g Forms.bsld 0 (.x o) 3).psn = none →
    let td := g.tAt o.dst.num
    let r := Brec.of (g.bAt o.sa.num)
    let n := (s.low g Forms.bsld 0 (.x o) 3).bits.toNat
    tdReserved td = false → r.res = 0 → tdKind td = 2 → tdFits td = true → tdBase td % 256 = 0 → n < tdNslot td →
    tdBase td + 256 * tdSlotsz td * (n + 1) ≤ b.bBytes → (issuing s g).bsldRecord b r (tdFmt td) = none → 16384 ≤ r.extent.toNat →
    (s.core s.cur.core).tdBusy s.cur.key g.blk o.dst.num = false → (s.core s.cur.core).bslds.length < 8 →
    (issuing s g).bsldPages s.cur.core (s.rootOf b.launch) r.base (tileBytes (tdFmt td)) (tdFmt td) = (.ok pages, t1) →
    Answers (.bsld o) s (fun t => SameMemory s t ∧ .bsld s.cur.core s.uid ∈ t.due ∧
      ∃ x, (t.core s.cur.core).bslds = (s.core s.cur.core).bslds ++ [x] ∧ x.id = s.uid ∧ x.key = s.cur.key ∧ x.pages = pages ∧ x.base = r.base ∧
        x.size = tileBytes (tdFmt td) ∧ x.code = tdFmt td ∧ x.extent = 16384 ∧
        x.dst = s.cur.core * Config.bstBytes + b.b0 * 4096 + tdBase td + 256 * tdSlotsz td * n)) ∧
  (∀ (s : State) (core : Nat) (x : Bsld), (s.core core).bslds = [x] → s.ecc = [] →
    x.pages.any (fun p => unwritten (s.core core).reqs (fun _ => false) (p / 4096 * 4096) 4096) = false →
    Answers (.bsldComplete core x.id) s (fun t => (t.core core).bslds = [] ∧ t.dram = s.dram ∧ t.sram = s.sram ∧ t.groups = s.groups ∧
      ∀ a, t.bst.byte a = if x.dst ≤ a ∧ a < x.dst + x.size then s.bsldByte x (a - x.dst) else s.bst.byte a)) ∧
  (∀ (s : State) (x : Bsld) (i p : Nat), fmtLine x.code = none → 16384 ≤ x.extent → i < tileBytes x.code →
    x.pages[(x.base.toNat % 4096 + i) / 4096]? = some p →
    s.bsldByte x i = s.byteAt (p / 4096 * 4096 + (x.base.toNat % 4096 + i) % 4096))

/-- 15 R328, 10 R239 to R241: the job at the head of the queue enters RUN on a free array; an iteration promotes, into every element of its tile, the
chunk of 128 exact products of the tiles of its two operands, and changes no other tile; the iteration counts once, and the next begins after its
cycles (15 R329). Elements of value infinity or NaN, scaled formats, paired jobs, injected errors, and chunks that fail their check (15 R340), are not of
this clause. -/
def Sys2Proof.Claims.AnvilIterates : Prop :=
  (∀ (s : State) (core : Nat) (j : Job), (s.core core).running = none → (s.core core).lent = none →
    (s.core core).jobs.find? (fun j => j.st == .queued) = some j → s.jobHeld j = false → j.follower = none →
    Answers (.jobStart core) s (fun t => SameMemory s t ∧ t.groups = s.groups ∧ (t.core core).acc = (s.core core).acc ∧
      { j with st := .run, iter := 0, drainAt := 0, since := s.now, next := s.now } ∈ (t.core core).jobs)) ∧
  (∀ (s : State) (core : Nat) (b : Block) (j : Job) (tile loc : Nat), (s.core core).running = some j → s.block? j.blk = some b → j.st = .run → j.flt = none →
    j.iter < j.total → s.jobHeld j = false → (j.turned = true ∨ j.iter = 0) → s.slotFull j j.head = true → scaleCode (tdFmt j.atd) = 0 →
    scaleCode (tdFmt j.btd) = 0 → j.follower = none → j.wild = false → j.wrote = [] → j.next ≤ s.now → (s.core core).injector = none → s.ringSlot j j.head = some loc →
    let mi := (j.at j.iter).1
    let ni := (j.at j.iter).2.1
    let kc := (j.at j.iter).2.2
    b.tiles[j.fld 680 678 + mi * j.nt + ni]? = some tile →
    let bb := core * Config.bstBytes + b.b0 * 4096 + tdBase j.btd + 256 * tdSlotsz j.btd * (kc * j.nt + ni)
    let x := tileElem (tdFmt j.atd) (fun i => s.byteAt (loc + i))
    let y := tileElem (tdFmt j.btd) (fun i => s.bst.byte (bb + i))
    (∀ e < 16384, (x e).special = false ∧ (y e).special = false) → ((chunkOf x y (s.bsumAt bb y)).decide).1 = .good →
    Answers (.anvilIteration core 0) s (fun t => t.dram = s.dram ∧ t.sram = s.sram ∧ t.bst = s.bst ∧
      (∀ key g, s.group? key = some g → ∃ m, t.group? key = some { g with scopemiss := m }) ∧
      (∀ n i, i < 16384 → (t.core core).accAt n i = if n = tile
        then promote ((s.core core).accAt tile i) (chunkSum (fun k => x (128 * (i / 128) + k)) (fun k => y (128 * (i % 128) + k))) 0x3F800000 0x3F800000
        else (s.core core).accAt n i) ∧
      ∃ q ∈ (t.core core).jobs, q.slot = j.slot ∧ q.iter = j.iter + 1 ∧ q.st = .run ∧ q.skip = j.skip ∧ q.corr = j.corr ∧
        q.next = s.now + 10 * iterCycles (tdFmt j.atd) (tdFmt j.btd)))

/-- 10 R239, R240: a chunk of 128 products of integers is their exact sum, whatever its size; 15 R339, R340: a chunk of finite elements, whose checksum
column has the sums of B's columns, passes its check. -/
def Obligations.ChunkSumIsExact : Prop :=
  (∀ x y : Nat → Int,
    FV.cmp (chunkSum (fun k => FV.ofInt (x k)) (fun k => FV.ofInt (y k))) (FV.ofInt (((List.range 128).map (fun k => x k * y k)).foldl (· + ·) 0)) = 0) ∧
  (∀ a b bs : Nat → FV, (∀ e < 16384, (a e).special = false ∧ (b e).special = false) →
    (∀ k < 128, (bs k).special = false ∧ FV.cmp (bs k) (bsumOf b k) = 0) → ((chunkOf a b bs).decide).1 = .good)

/-- 15 R327, R328, R330, R342: a drain writes exactly one element's bytes at its place; a job whose iterations and drain are complete is DONE with
HEAD back in its descriptor, and a JWAIT that waits completes and frees the entry; a failed access leaves the job in FAULT. -/
def Sys2Proof.Claims.AnvilDrainsAndEnds : Prop :=
  (∀ (s t1 : State) (core fmt : Nat) (b : Block) (j : Job) (tile loc : Nat) (ga : DWord), (s.core core).running = some j → s.block? j.blk = some b → j.st = .run →
    j.flt = none → j.iter = j.total → j.fld 681 681 = 1 → j.follower = none → j.drainAt < j.mt * j.nt * 16384 → j.next ≤ s.now → s.jobHeld j = false →
    let mi := j.drainAt / 16384 / j.nt
    let ni := j.drainAt / 16384 % j.nt
    let e := j.drainAt % 16384
    b.tiles[j.fld 680 678 + mi * j.nt + ni]? = some tile → (s.crecCheck core (s.rootOf b.launch) (j.record 384)).1 = .ok fmt →
    let n := if fmt ≥ 2 then 2 else 4
    let w := (s.core core).accAt tile e
    s.engineAcc b (j.record 384) .write n ((128 * mi + e / 128) * j.fld 735 704 + 128 * ni + e % 128) = (.ok (some (loc, ga)), t1) →
    s.frozen loc = false → (∀ d, (s.die d).remap = []) →
    let bs := if fmt ≥ 2 then leBytes 2 ((if fmt = 2 then FFmt.bf16 else FFmt.f16).round .rne 0 false false (FFmt.f32.value false w.toNat)) else leBytes 4 w.toNat
    Answers (.anvilDrain core) s (fun t => (∀ i < n, t.byteAt (loc + i) = bs.getD i 0) ∧ (∀ x, x < loc ∨ loc + n ≤ x → t.byteAt x = s.byteAt x) ∧
      t.bst = s.bst ∧ t.groups = s.groups ∧ (t.core core).acc = (s.core core).acc ∧ { j with drainAt := j.drainAt + 1 } ∈ (t.core core).jobs)) ∧
  (∀ (s : State) (core : Nat) (j : Job) (g : Group), (s.core core).running = some j → j.st = .run → j.flt = none → j.iter = j.total → j.next ≤ s.now → j.drainAt = j.drains → j.follower = none →
    j.orphan = false → j.head < 1024 → s.groups = [(j.key, g)] → g.blk = j.blk → g.exited = false → coreOf j.key = core →
    (g.jwait = none → Answers (.jobDone core) s (fun t => SameMemory s t ∧ { j with st := .done } ∈ (t.core core).jobs ∧
      ∃ x, t.group? j.key = some (g.setT (j.fld 674 672) x) ∧ Replaced (g.tAt (j.fld 674 672)) x 64 10 (BitVec.ofNat 10 j.head))) ∧
    (∀ w, g.jwait = some (j.id, w) → Answers (.jobDone core) s (fun t => SameMemory s t ∧ (∀ q ∈ (t.core core).jobs, q.slot ≠ j.slot) ∧
      ∃ h, t.group? j.key = some h ∧ h.jwait = none))) ∧
  (∀ (s : State) (core : Nat) (j : Job), (s.core core).jobs.find? (fun j => (j.st == .run && j.flt.isSome) || s.uncorrWork core j) = some j → j.st = .run → j.orphan = false →
    Answers (.jobFault core) s (fun t => SameMemory s t ∧ { j with st := .fault } ∈ (t.core core).jobs ∧
      ∀ (key : Nat) (g : Group) (pc : DWord) (lanes : BitVec 32), s.groups = [(key, g)] → coreOf key = core → g.blk = j.blk → g.jwait = some (j.id, pc, lanes) →
        g.trap = none → g.fault = none → ∃ h, t.group? key = some h ∧ h.jwait = none ∧ h.trap = some ({ j with st := .fault }.trap pc lanes)))

/-! ## Records, system calls, status registers, counters and hints (spec 03, 07, 16, 24) -/

/-- 07 R169, R173 to R175, 16 R347, R348: EMIT to a node whose payload length it carries sends one record for each executing lane to Vane; TAKE asks
for a record for each lane, with its registers outstanding; DONE sends the held records on and lets them go; TAKE and DONE outside a node group are
NOTNODE. -/
def Obligations.RecordInstructions : Prop :=
  (∀ (o : OpX) (s : State) (g : Group) (b : Block) (gr : Nat), Issues s g b → s.cur.lanes ≠ 0 → (s.emitNode g o).psn = none → s.emitCheck g o = none →
    g.graph = some gr → (s.isStage g = false ∨ g.node ≠ some (s.emitNode g o).bits.toNat) →
    Answers (.emit o) s (fun t => SameMemory s t ∧ t.group? s.cur.key = some (g.advance s.cur) ∧ ∃ es : List Emitted, t.emitted = s.emitted ++ es ∧
      es.map (fun e => (e.lane, e.record)) = (lanesOf s.cur.lanes).map (fun l => (l, s.recordOf g o (s.emitNode g o).bits.toNat l)) ∧
      ∀ e ∈ es, e.graph = gr ∧ e.key = s.cur.key)) ∧
  (∀ (o : OpX) (s : State) (g : Group), s.group? s.cur.key = some g → s.cur.lanes ≠ 0 → g.node.isSome →
    Answers (.take o) s (fun t => SameMemory s t ∧ (∃ h, t.group? s.cur.key = some h ∧ h.v = g.v ∧ h.p = g.p ∧
        ∀ l < 32, (h.lane l).pend = (g.lane l).pend ++ if s.cur.lanes.getLsbD l then s.takeRegs g o.dst.num else []) ∧
      t.vops = s.vops ++ (lanesOf s.cur.lanes).map (fun l => { s.vopOf g true l with dst := o.dst.num }))) ∧
  (∀ (o : OpX) (s : State) (g : Group), s.group? s.cur.key = some g → s.cur.lanes ≠ 0 → g.node.isSome → (∀ l ∈ lanesOf s.cur.lanes, (s.sourceP g o.sa l).psn = none) →
    (∀ l ∈ lanesOf s.cur.lanes, (g.lane l).held.isSome) →
    Answers (.done o) s (fun t => SameMemory s t ∧ (∃ h, t.group? s.cur.key = some h ∧ ∀ l ∈ lanesOf s.cur.lanes, (h.lane l).held = none) ∧
      t.vops = s.vops ++ (lanesOf s.cur.lanes).map (fun l => { s.vopOf g false l with kept := (s.sourceP g o.sa l).b }))) ∧
  (∀ (o : OpX) (s : State) (g : Group), s.group? s.cur.key = some g → s.cur.lanes ≠ 0 → g.node = none →
    ActsOnGroup (.take o) s (fun h => h = g.raise { cause := 0x106, pc := s.cur.pc, lanes := s.cur.lanes }) ∧
    ActsOnGroup (.done o) s (fun h => h = g.raise { cause := 0x106, pc := s.cur.pc, lanes := s.cur.lanes }))

/-- 16 R350, R351, 24 R426: a SYSCALL of a region whose ring has room draws the ring's tail as its ticket, counts the tail up, writes the 64 bytes of its entry
at the ticket's slot, waits, and holds its baton no longer; one that has drawn its ticket already does so with that ticket; with the ring full it stays at its
address and asks for a ticket, which it draws once there is room; without a ring, or with a bad header, and with poison in an operand, it traps. -/
def Sys2Proof.Claims.SystemCalls : Prop :=
  (∀ (o : OpX) (s : State) (g g0 : Group) (b : Block) (e : Eff) (r : RingHdr) (num : Word) (args : List Word), Issues s g b → s.cur.lanes ≠ 0 → s.effOf g.blk = some e →
    s.ringOf e = some r → ringTrap (some r) = none → s.callArgs g o = .ok (num, args) → s.viewsFor (g.advance s.cur) o.dst = .ok g0 →
    s.cur.slice < 6 → s.cur.slot < 16 → (∀ d, (s.die d).remap = []) →
    let posted := fun (k : Nat) (t : State) =>
      (∃ h, t.group? s.cur.key = some h ∧ h.baton = none ∧ ({ ticket := k, lanes := s.cur.lanes, dst := o.dst } : Call) ∈ h.calls ∧
        ∀ l ∈ lanesOf s.cur.lanes, (h.lane l).wait = .call) ∧ t.sram = s.sram ∧
      t.bytesAt (r.base + 64 + 64 * (k % 2 ^ r.log2)) 64 =
        leBytes 4 num.toNat ++ leBytes 4 (s.cur.core + 2 ^ 16 * s.cur.slice + 2 ^ 20 * s.cur.slot) ++ leBytes 4 k ++ leBytes 2 e.rid ++ leBytes 2 0 ++
          leBytes 8 s.cur.pc.toNat ++ leBytes 8 (s.timeOf (sliceKey s.cur.core s.cur.slice)) ++ args.flatMap (fun x => leBytes 4 x.toNat)
    (g.ticket = none → r.room = true → Answers (.syscall o) s (fun t => posted r.tail t ∧ t.numAt r.base 4 = (r.tail + 1) % 2 ^ 32)) ∧
    (∀ k, g.ticket = some k → Answers (.syscall o) s (fun t => posted k t ∧ t.numAt r.base 8 = s.numAt r.base 8)) ∧
    (g.ticket = none → r.room = false →
      ActsOnGroup (.syscall o) s (fun h => h.draw = some s.cur.pc ∧ h.baton = g.baton ∧ ∀ l ∈ lanesOf s.cur.at_, (h.lane l).pc = s.cur.pc))) ∧
  (∀ (o : OpX) (s : State) (g : Group) (e : Eff), s.group? s.cur.key = some g → s.cur.lanes ≠ 0 → s.effOf g.blk = some e →
    (∀ c, ringTrap (s.ringOf e) = some c → ActsOnGroup (.syscall o) s (fun h => h = g.raise { cause := c, pc := s.cur.pc, lanes := s.cur.lanes })) ∧
    (∀ p, ringTrap (s.ringOf e) = none → s.callArgs g o = .error p →
      ActsOnGroup (.syscall o) s (fun h => h = g.raise (g.consumed s.cur.pc (lowMask s) p)))) ∧
  (ringTrap none = some 0x185 ∧ ∀ r : RingHdr, ringTrap (some r) = if r.log2 < 3 ∨ 12 < r.log2 ∨ r.route.getLsbD 31 = false then some 0x185
    else if r.bad then some 0x001 else none) ∧
  (∀ (s : State) (key : Nat) (g : Group) (pc : DWord) (r : RingHdr), s.group? key = some g → g.draw = some pc → (s.effOf g.blk).bind s.ringOf = some r →
    (r.room = true → (∀ d, (s.die d).remap = []) → Answers (.syscallTicketDraw key) s (fun t => t.numAt r.base 4 = (r.tail + 1) % 2 ^ 32 ∧ t.sram = s.sram ∧
      t.group? key = some { g with draw := none, ticket := some r.tail })) ∧
    (r.room = false → Answers (.syscallTicketDraw key) s (fun t => t = s)))

/-- 16 R352, 24 R427: a write of SCDONE sends the completion of the call that it names, with the value of SCVAL; one with a reserved bit set has no effect
(the model's choice, log 30). The completion writes the value to the call's uniform pair in the view of every lane of the call that still waits and lets those
lanes go on, and no other; for a saved group it is recorded with its region; one that no group awaits has no effect. -/
def Sys2Proof.Claims.SystemCallCompletions : Prop :=
  (∀ (s : State) (d h : Nat) (v : DWord),
    (v.extractLsb' 32 16 = 0 → Answers (.scdone d h v) s (fun t => SameMemory s t ∧ t.groups = s.groups ∧ .sysdone s.uid ∈ t.due ∧
      t.completions = s.completions ++ [{ id := s.uid, region := (v.extractLsb' 48 16).toNat, ticket := (v.extractLsb' 0 32).toNat,
                                          value := SMap.get 0 (s.die d).scval h }])) ∧
    (v.extractLsb' 32 16 ≠ 0 → Answers (.scdone d h v) s (fun t => t = s))) ∧
  (∀ (s : State) (c : Completion) (key : Nat) (g : Group) (k : Call) (n : BitVec 6), s.completions = [c] → s.caller c.region c.ticket = some (key, g) → g.calls = [k] →
    k.ticket = c.ticket → k.dst = .s n → n.toNat + 1 < 64 → g.twin = none →
    Answers (.syscallCompletion c.id) s (fun t => SameMemory s t ∧ t.completions = [] ∧ ∃ h, t.group? key = some h ∧
      h = { g with calls := [], lanes := h.lanes, u := h.u } ∧
      ∀ l < 32, (h.lane l).view = (g.lane l).view ∧ if k.lanes.getLsbD l = true ∧ (g.lane l).wait = .call
        then (h.lane l).wait = .none ∧ h.uAt n.toNat l = ⟨c.value.extractLsb' 0 32, none⟩ ∧ h.uAt (n.toNat + 1) l = ⟨c.value.extractLsb' 32 32, none⟩ ∧
          ∀ r < 64, r ≠ n.toNat → r ≠ n.toNat + 1 → h.uAt r l = g.uAt r l
        else h.lane l = g.lane l ∧ ∀ r < 64, h.uAt r l = g.uAt r l)) ∧
  (∀ (s : State) (c : Completion), s.completions = [c] → s.caller c.region c.ticket = none →
    let saved := ∃ x ∈ s.blocks, x.2.region = c.region ∧ ∃ g ∈ x.2.sgroups, ∃ k ∈ g.calls, k.ticket = c.ticket
    (saved → Answers (.syscallCompletion c.id) s (fun t =>
      t = { s with completions := [], susp := s.susp.update c.region (fun y => { y with calls := y.calls ++ [c] }) })) ∧
    (¬ saved → Answers (.syscallCompletion c.id) s (fun t => t = { s with completions := [] })))

/-- 16 R353, R355, 24 R428: BRK takes its trap with the value it gives; TIMERARM of a granted comparator takes effect at the end of its cycle, of another it is the
TIMER trap; a comparator whose deadline TIME has reached at the end of a core cycle fires once and is an event of its die; before that nothing happens. -/
def Sys2Proof.Claims.BreaksAndTimers : Prop :=
  (∀ (o : OpX) (s : State) (g : Group), s.group? s.cur.key = some g → s.cur.lanes ≠ 0 → (s.low g Forms.brk 0 (.x o) 2).psn = none →
    ActsOnGroup (.brk o) s (fun h => h = g.raise
      { cause := 0x181, pc := s.cur.pc, lanes := s.cur.lanes, info := (s.low g Forms.brk 0 (.x o) 2).bits })) ∧
  (∀ (o : OpX) (s : State) (g : Group) (e : Eff), s.group? s.cur.key = some g → s.cur.lanes ≠ 0 → (s.lowPair g Forms.timerarm 0 (.x o) 2).2 = none →
    (s.low g Forms.timerarm 0 (.x o) 3).psn = none → s.effOf g.blk = some e → g.twin = none →
    let n := (s.low g Forms.timerarm 0 (.x o) 3).bits.toNat
    (n ≤ 3 → e.tmrgrant.testBit n = true → ActsOnGroup (.timerarm o) s (fun h => h = { g.advance s.cur with
      wrs := if s.cur.sec then (0x20 + n, (s.lowPair g Forms.timerarm 0 (.x o) 2).1) :: g.wrs else g.wrs ++ [(0x20 + n, (s.lowPair g Forms.timerarm 0 (.x o) 2).1)] })) ∧
    ((3 < n ∨ e.tmrgrant.testBit n = false) → ActsOnGroup (.timerarm o) s (fun h => h = g.raise { cause := 0x186, pc := s.cur.pc, lanes := s.cur.lanes }))) ∧
  (∀ (s : State) (core n : Nat), SMap.get 0 (s.core core).tmrcmp n ≠ 0 → SMap.get 0 (s.core core).tmrcmp n ≤ timeAt (dieOf core) (s.now / 10 * 10) → n < 4 →
    Answers (.comparatorFire core n) s (fun t => SameMemory s t ∧ t.groups = s.groups ∧ SMap.get 0 (t.core core).tmrcmp n = 0 ∧
      4 * (core % 96) + n ∈ (t.die (dieOf core)).tmrpend ∧ (t.die (dieOf core)).intpend.getLsbD (1 + n) = true)) ∧
  (∀ (s : State) (core n : Nat), (SMap.get 0 (s.core core).tmrcmp n = 0 ∨ timeAt (dieOf core) (s.now / 10 * 10) < SMap.get 0 (s.core core).tmrcmp n) →
    Answers (.comparatorFire core n) s (fun t => t = s))

/-- 03 R78 to R80, 16 R356 to R358: RDSR gives its executing lanes the register that its number names, WRSR's write waits for the end of the slice cycle, and RDCNT
gives a counter pair; a number that names no register is SRNUM and a write to a read-only one SRWRITE; the writes applied change only what R78's tables let
software write. -/
def Obligations.StatusRegisters : Prop :=
  (∀ (o : OpX) (s : State) (g g0 : Group) (n : Nat), s.group? s.cur.key = some g → (s.srIndex g o).bind (·.psn) = none →
    srCheck o.imm ((s.srIndex g o).map (·.bits.toNat)) false = .ok n → s.viewsFor (g.advance s.cur) o.dst = .ok g0 →
    Sel.within o.dst (if o.imm.getLsbD 12 then 2 else 1) = true →
    ActsOnGroup (.rdsr o) s (Wrote s.cur.lanes o.dst (fun _ =>
      let v := s.srRead s.cur.key (g.advance s.cur) n
      if o.imm.getLsbD 12 then [⟨v.extractLsb' 0 32, none⟩, ⟨v.extractLsb' 32 32, none⟩] else [⟨v.extractLsb' 0 32, none⟩]) g0)) ∧
  (∀ (o : OpX) (s : State) (g : Group) (n : Nat), s.group? s.cur.key = some g → s.cur.lanes ≠ 0 → (s.srIndex g o).bind (·.psn) = none →
    (if o.imm.getLsbD 12 then (s.lowPair g Forms.wrsr 0 (.x o) 2).2 = none else (s.low g Forms.wrsr 0 (.x o) 2).psn = none) →
    srCheck o.imm ((s.srIndex g o).map (·.bits.toNat)) true = .ok n →
    ActsOnGroup (.wrsr o) s (fun h => ∃ v, (if o.imm.getLsbD 12 then v = (s.lowPair g Forms.wrsr 0 (.x o) 2).1
        else v = (s.low g Forms.wrsr 0 (.x o) 2).bits.setWidth 64) ∧
      h = { g.advance s.cur with wrs := if s.cur.sec then (n, v) :: g.wrs else g.wrs ++ [(n, v)] })) ∧
  (∀ (o : OpX) (s : State) (g : Group) (c : Nat), s.group? s.cur.key = some g → (s.srIndex g o).bind (·.psn) = none →
    srCheck o.imm ((s.srIndex g o).map (·.bits.toNat)) false = .error c →
    ActsOnGroup (.rdsr o) s (fun h => h = g.raise { cause := c, pc := s.cur.pc, lanes := s.cur.lanes })) ∧
  (∀ (o : OpX) (s : State) (g g0 : Group) (n : Nat), s.group? s.cur.key = some g → s.counter s.cur.key (g.advance s.cur) (field o.imm.toNat 7 0) = some n →
    s.viewsFor (g.advance s.cur) o.dst = .ok g0 → Sel.within o.dst 2 = true →
    ActsOnGroup (.rdcnt o) s (Wrote s.cur.lanes o.dst (fun _ =>
      [⟨(BitVec.ofNat 64 n).extractLsb' 0 32, none⟩, ⟨(BitVec.ofNat 64 n).extractLsb' 32 32, none⟩]) g0)) ∧
  (∀ (g : Group) (v : DWord),
    (g.srWrite 0 v = { g with scopemiss := g.scopemiss && !v.getLsbD 15, rsspill := g.rsspill && !v.getLsbD 14 }) ∧
    (g.srWrite 1 v = { g with heir := v.extractLsb' 0 5 }) ∧
    (∃ x, g.srWrite 2 v = { g with futh := x } ∧ x.getLsbD 1 = false ∧ ∀ i, i ≠ 1 → x.getLsbD i = v.getLsbD i) ∧
    (∃ x, g.srWrite 3 v = { g with futpc := x } ∧ x.getLsbD 0 = g.futpc.getLsbD 0 ∧ ∀ i, i ≠ 0 → x.getLsbD i = v.getLsbD i) ∧
    (∀ k < 4, (g.srWrite (0x10 + k) v).seedAt k = v.extractLsb' 0 32 ∧ ∀ j, j ≠ k → (g.srWrite (0x10 + k) v).seedAt j = g.seedAt j)) ∧
  (∀ imm : Word, (imm.toNat % 4096 = 5 → srCheck imm none false = .error 0x042) ∧ (imm.toNat % 4096 = 8 → imm.getLsbD 12 = true → srCheck imm none true = .error 0x043))

/-- 16 R359, R362, R363: CKPT outside a twin launch is a NOP and in one makes its group wait for the rendezvous; HINT.CLASS takes its class; HINT.IDLE makes its
lanes wait until the slice's tick has reached the sum, and HINT_IDLE_WAKE ends those waits and no other. -/
def Sys2Proof.Claims.CheckpointsAndHints : Prop :=
  (∀ (s : State) (g : Group), s.group? s.cur.key = some g →
    (g.twin = none → ActsOnGroup .ckpt s (fun h => h = g.advance s.cur)) ∧
    (∀ tw lead, g.twin = some (tw, lead) → s.cur.lanes ≠ 0 → Answers .ckpt s (fun t => SameMemory s t ∧ .twin tw ∈ t.due ∧
      t.group? s.cur.key = some { g.advance s.cur with ckpts := g.ckpts + 1, ckptWait := true }))) ∧
  (∀ (o : OpX) (s : State) (g : Group), s.group? s.cur.key = some g → s.cur.lanes ≠ 0 →
    ActsOnGroup (.hintClass o) s (fun h => h = { g.advance s.cur with hint := o.imm.toNat % 4 }) ∧
    ((s.low g Forms.hintIdle 0 (.x o) 2).psn = none → ActsOnGroup (.hintIdle o) s (fun h => h =
      if (s.low g Forms.hintIdle 0 (.x o) 2).bits = 0 then g.advance s.cur
      else (g.advance s.cur).onLanes s.cur.lanes (fun _ x =>
        { x with wait := .idle ((s.slice (sliceKey s.cur.core s.cur.slice)).tick + (s.low g Forms.hintIdle 0 (.x o) 2).bits.toNat) })))) ∧
  (∀ (s : State) (sl : Nat), s.groups.sorted = true → Answers (.hintIdleWake sl) s (fun t => SameMemory s t ∧
    ∀ (key : Nat) (g : Group), s.group? key = some g → ∃ h, t.group? key = some h ∧ h.v = g.v ∧ ∀ l < 32, h.lane l = (match (g.lane l).wait with
      | .idle k => if sliceOf key = sl ∧ k ≤ (s.slice sl).tick ∧ (g.lane l).exited = false then { g.lane l with wait := .none } else g.lane l
      | _ => g.lane l)))

namespace Sys2Proof.Machine

/-! ## Words of the statements about Vane -/

/-- Node `n` of graph `gr` is `x` in a state. -/
def NodeIs (s : State) (gr n : Nat) (x : Node) : Prop := ∃ g, s.graphs.find? gr = some g ∧ g.nodes[n]? = some x

/-- Nothing but a graph's nodes and the events on their way to Vane has changed. -/
def OnlyVane (s t : State) : Prop := SameMemory s t ∧ t.cores = s.cores ∧ t.dies = s.dies ∧ t.slices = s.slices ∧ t.blocks = s.blocks ∧ t.launches = s.launches

/-- The same, but for the group's slice, where the registers of a record delivered to the group wait for their banks (03 R65, R67). -/
def Delivered (s t : State) (key : Nat) : Prop :=
  SameMemory s t ∧ t.cores = s.cores ∧ t.dies = s.dies ∧ t.blocks = s.blocks ∧ t.launches = s.launches ∧
  (∀ i, i ≠ sliceOf key → t.slice i = s.slice i) ∧ (∃ wb, t.slice (sliceOf key) = { s.slice (sliceOf key) with wb := wb }) ∧
  (t.slice (sliceOf key)).arriving (slotOf key) [rkV 1] = true ∧ (t.slice (sliceOf key)).arriving (slotOf key) [rkV 2] = true

end Sys2Proof.Machine

/-! ## Records at Vane (spec 07) -/

/-- 07 R170, R171, R173 to R175: once its core cycle has ended, the next record that arrives joins the bin of its plain node, at its end, or with the bin full the overflow area, or with that full waits; a
DONE retires or drops its record; a TAKE gives its lane the oldest record of the bin, or none; a refill moves the oldest record of the overflow area into
the room of its queue; and an EMIT that has waited 1,048,576 core cycles is BINFULL. -/
def Sys2Proof.Claims.RecordsMove : Prop :=
  (∀ (s : State) (die : Nat) (e : Emitted) (g : Graph) (x : Node), s.emitted = [e] → s.vops = [] → s.graphDie e.graph = die → s.graphs.find? e.graph = some g →
    g.nodes[e.record.node]? = some x → g.waiting = [] → x.fld 223 222 = 0 → x.nstage = 0 → x.queues ≠ [] → s.cycleOver e.cyc = true →
    let r := { e.record with donebits := 0 }
    ((x.queue 0).recs.length < x.cap → (∀ y ∈ x.ovf, y.1 ≠ 0) →
      Answers (.recordArrival die) s (fun t => OnlyVane s t ∧ t.groups = s.groups ∧ t.emitted = [] ∧ ∃ y, NodeIs t e.graph e.record.node y ∧
        (y.queue 0).recs = (x.queue 0).recs ++ [r] ∧ y.ovf = x.ovf ∧ y.arrived = (x.arrived + 1) % 2 ^ 64)) ∧
    (x.cap ≤ (x.queue 0).recs.length → x.ovf.length < 32 * x.fld 287 272 →
      Answers (.recordArrival die) s (fun t => OnlyVane s t ∧ t.groups = s.groups ∧ t.emitted = [] ∧ ∃ y, NodeIs t e.graph e.record.node y ∧
        (y.queue 0).recs = (x.queue 0).recs ∧ y.ovf = x.ovf ++ [(0, r)] ∧ y.arrived = (x.arrived + 1) % 2 ^ 64)) ∧
    (x.cap ≤ (x.queue 0).recs.length → 32 * x.fld 287 272 ≤ x.ovf.length →
      Answers (.recordArrival die) s (fun t => OnlyVane s t ∧ t.groups = s.groups ∧ t.emitted = [] ∧
        ∃ h, t.graphs.find? e.graph = some h ∧ h.waiting = [(e.record.node, some 0, r)]))) ∧
  (∀ (s : State) (die : Nat) (o : VOp) (x : Node) (r : Rec), s.emitted = [] → s.vops = [o] → s.graphDie o.graph = die → o.take = false → o.record = some r → o.stage = none →
    NodeIs s o.graph o.node x → s.cycleOver o.cyc = true →
    Answers (.vaneDone die) s (fun t => OnlyVane s t ∧ t.groups = s.groups ∧ t.vops = [] ∧ NodeIs t o.graph o.node
      (if o.kept then { x with retired := (x.retired + 1) % 2 ^ 64 } else { x with dropped := (x.dropped + 1) % 2 ^ 32 }))) ∧
  (∀ (s : State) (die : Nat) (o : VOp) (g : Group) (x : Node), s.emitted = [] → s.vops = [o] → s.graphDie o.graph = die → o.take = true → s.group? o.key = some g →
    g.graph = some o.graph → g.node = some o.node → o.lane < 32 → (g.lane o.lane).exited = false → (g.lane o.lane).held = none → NodeIs s o.graph o.node x →
    o.stage = none → o.dst < 7 → x.queues ≠ [] → s.cycleOver o.cyc = true →
    (∀ r l, (x.queue 0).recs = r :: l → r.psn = none →
      Answers (.vaneTake die) s (fun t => Delivered s t o.key ∧ t.vops = [] ∧ (∃ y, NodeIs t o.graph o.node y ∧
          (y.queue 0).recs = l ++ ((x.ovf.filter (fun z => z.1 = 0)).take (x.cap - l.length)).map (·.2)) ∧ ∃ h, t.group? o.key = some h ∧
        (h.lane o.lane).held = some r ∧ h.vAt 1 o.lane = ⟨r.key, none⟩ ∧ h.vAt 2 o.lane = ⟨r.header, none⟩ ∧
        (∀ i < r.pay.length, h.vAt (8 + i) o.lane = ⟨r.pay.getD i 0, none⟩) ∧ h.pAt o.dst o.lane = ⟨true, none⟩)) ∧
    ((x.queue 0).recs = [] → Answers (.vaneTake die) s (fun t => OnlyVane s t ∧ t.vops = [] ∧ NodeIs t o.graph o.node x ∧ ∃ h, t.group? o.key = some h ∧
      h.v = g.v ∧ (h.lane o.lane).held = none ∧ h.pAt o.dst o.lane = ⟨false, none⟩))) ∧
  (∀ (s : State) (gr n q : Nat) (g : Graph) (x : Node) (r : Rec), s.graphs.find? gr = some g → g.nodes[n]? = some x → g.waiting = [] → x.ovf = [(q, r)] → q < x.queues.length →
    (x.queue q).recs.length < x.cap →
    Answers (.overflowRefill gr n q) s (fun t => OnlyVane s t ∧ t.groups = s.groups ∧ ∃ y, NodeIs t gr n y ∧ y.ovf = [] ∧
      (y.queue q).recs = (x.queue q).recs ++ [r])) ∧
  (∀ (s : State) (key : Nat) (g : Group) (pc : DWord) (c : Nat), s.group? key = some g → g.emitWait = some (pc, c) → g.trap = none → g.fault = none →
    (1048576 ≤ (s.slice (sliceOf key)).tick / 10 - c → Answers (.binfull key) s (fun t => SameMemory s t ∧ t.group? key = some { g with
      emitWait := none, trap := some { cause := 0x103, pc := pc, lanes := g.atPc pc } })) ∧
    ((s.slice (sliceOf key)).tick / 10 - c < 1048576 → Answers (.binfull key) s (fun t => t = s)))

/-- 07 R172: with fewer records than COALESCE in the one queue, its timer starts and nothing launches; with COALESCE or more, the group that the region can take is
launched with the oldest of them, which leave the queue, and those of the overflow area move up; when the timer has run TIMEOUT times 1,024 ticks, in an evaluation or by itself, the records
that wait launch, or are marked to launch as soon as the region can take them, and the timer restarts for what is left. -/
def Sys2Proof.Claims.BinsLaunch : Prop :=
  (∀ (s : State) (die gr n q : Nat) (x : Node), s.queuesOf die = [(gr, n, q)] → NodeIs s gr n x → s.graphQuiet gr = false → (x.queue q).expired = false → q < x.queues.length →
    ((x.queue q).recs ≠ [] → (x.queue q).recs.length < x.fld 208 203 → (x.queue q).timer = none →
      Answers (.binEvaluation die) s (fun t => OnlyVane s t ∧ t.groups = s.groups ∧ ∃ y, NodeIs t gr n y ∧ (y.queue q).recs = (x.queue q).recs ∧
        (y.queue q).timer = some s.now)) ∧
    (∀ u y, (x.queue q).timer.isSome → 0 < x.fld 208 203 → x.fld 208 203 ≤ (x.queue q).recs.length → s.launchNode gr n q (x.fld 208 203) = some u →
      s.timedOut gr n q = false → u.graphQuiet gr = false → NodeIs u gr n y → (y.queue q).recs.length < y.fld 208 203 → (y.queue q).expired = false →
      Answers (.binEvaluation die) s (fun t => t = u)) ∧
    (∀ t0, (x.queue q).timer = some t0 → (x.queue q).recs ≠ [] → (x.queue q).recs.length < x.fld 208 203 → s.timedOut gr n q = true →
      let s1 := s.setTimer gr n q (some t0) true
      (s1.launchNode gr n q (x.fld 208 203) = none → Answers (.binEvaluation die) s (fun t => t = s1)) ∧
      (∀ u m, s1.launchNode gr n q (x.fld 208 203) = some u → u.graphQuiet gr = false → NodeIs u gr n m → Answers (.binEvaluation die) s (fun t =>
        t = if (m.queue q).recs = [] then u else u.setTimer gr n q (some u.now) false)))) ∧
  (∀ (s u : State) (gr n q count : Nat) (x : Node), NodeIs s gr n x → q < x.queues.length → s.launchNode gr n q count = some u →
    let d := (x.queue q).recs.drop count
    ∃ y, NodeIs u gr n y ∧ (y.queue q).recs = d ++ ((x.ovf.filter (fun z => z.1 = q)).take (x.cap - d.length)).map (·.2) ∧ y.launched = (x.launched + 1) % 2 ^ 32 ∧ (u.block? s.uid).isSome) ∧
  (∀ (s : State) (gr n q t0 : Nat) (x : Node), NodeIs s gr n x → (x.queue q).timer = some t0 → x.fld 255 240 ≠ 0 → x.fld 255 240 * 1024 ≤ s.now - t0 → (x.queue q).recs ≠ [] →
    let s1 := s.setTimer gr n q (some t0) true
    (s1.launchNode gr n q (x.fld 208 203) = none → Answers (.binTimerExpiry gr n q) s (fun t => t = s1)) ∧
    (∀ u m, s1.launchNode gr n q (x.fld 208 203) = some u → NodeIs u gr n m → Answers (.binTimerExpiry gr n q) s (fun t =>
      t = if (m.queue q).recs = [] then u else u.setTimer gr n q (some u.now) false)))

/-- 07 R182: the status part of a graph's node is written at its place in the node array, with its counts in their fields; a graph that records have
reached, with none left and every group gone, completes and is no more. -/
def Sys2Proof.Claims.GraphStatusAndEnd : Prop :=
  (∀ (s u : State) (gr : Nat) (g : Graph) (l : Launch) (x : Node), s.graphs.find? gr = some g → s.launch? gr = some l → g.nodes = [x] →
    s.virtWrite l.die l.root (g.array + 64) (leBytes 64 x.status.toNat) none = some u → Answers (.nodeStatusWrite gr) s (fun t => t = u)) ∧
  (∀ x : Node, (∀ k < 8, (x.queue k).prate < 2 ^ 16) → x.arrived < 2 ^ 64 → x.retired < 2 ^ 64 → x.launched < 2 ^ 32 → x.dropped < 2 ^ 32 → x.discpois < 2 ^ 32 → x.lost < 2 ^ 32 → x.windows < 2 ^ 32 →
    (x.status.extractLsb' 448 64).toNat = x.arrived ∧ (x.status.extractLsb' 384 64).toNat = x.retired ∧
    (x.status.extractLsb' 352 32).toNat = x.launched ∧ (x.status.extractLsb' 320 32).toNat = x.dropped ∧ (x.status.extractLsb' 288 32).toNat = x.discpois ∧
    (x.status.extractLsb' 256 32).toNat = x.lost ∧ (∀ k < 8, (x.status.extractLsb' (128 + 16 * k) 16).toNat = (x.queue k).prate) ∧
    (x.status.extractLsb' 96 32).toNat = x.windows ∧ x.status.extractLsb' 32 32 = x.gen) ∧
  (∀ (s : State) (gr : Nat) (g : Graph) (l : Launch), s.graphs.find? gr = some g → s.launch? gr = some l → (∃ x ∈ g.nodes, x.arrived ≠ 0) → l.rolling = false → s.graphQuiet gr = true →
    s.graphEmpty gr = true → (∀ k b, (k, b) ∈ s.blocks → b.graph ≠ some gr) →
    Answers (.graphComplete gr) s (fun t => t.graphs.find? gr = none ∧ t.launch? gr = none ∧ t.groups = s.groups ∧
      ∀ c ∈ (t.queue l.die l.queue).live, c.id ≠ gr))

namespace Sys2Proof.Machine

/-! ## Words of the statements about commands -/

/-- The word that a command's completion writes: status, replays, cause and ticket (22 R374). -/
def complWord (c : Cmd) (status cause replays : Nat) : Nat := status + 2 ^ 8 * min replays 255 + 2 ^ 16 * cause + 2 ^ 32 * c.ticket

/-- A command of a queue has completed: the queue holds it no longer, and its completion word, where it names a place, is all that memory takes
beyond what stood in `u`. -/
def Completed (u t : State) (d q : Nat) (c : Cmd) (status cause : Nat) : Prop :=
  (∀ y ∈ (t.queue d q).live, y.id ≠ c.id) ∧ (t.queue d q).cur ≠ some c.id ∧ (t.queue d q).wait ≠ some c.id ∧
  (c.entry.extractLsb' 640 64 = 0 → SameMemory u t) ∧
  (∀ v, c.entry.extractLsb' 640 64 ≠ 0 → u.virtWrite d c.root (c.entry.extractLsb' 640 64) (leBytes 8 (complWord c status cause 0)) (some (frontRel d)) = some v →
    SameMemory v t)

end Sys2Proof.Machine

/-! ## Queues, commands, regions and the leader (spec 22, 24) -/

/-- 22 R365 to R367: a read of QRES gives the next ticket, or FULL from a queue that is off or full; a write of QCOMMIT commits a reserved ticket, or sets BADCOMMIT
with an event; QCFG takes LOG2 in its range or sets BADCFG, and clearing EN empties the queue. -/
def Sys2Proof.Claims.QueueRegisters : Prop :=
  (∀ (s : State) (d q : Nat), let x := s.queue d q
    (x.en = true → (x.tail + 2 ^ 31 - x.head) % 2 ^ 31 ≠ 2 ^ x.log2 → Answers (.qres d q) s (fun t => SameMemory s t ∧ t.ans = some (leBytes 4 x.tail) ∧
      t.queue d q = { x with tail := (x.tail + 1) % 2 ^ 31 })) ∧
    ((x.en = false ∨ (x.tail + 2 ^ 31 - x.head) % 2 ^ 31 = 2 ^ x.log2) →
      Answers (.qres d q) s (fun t => t = { s with ans := some [0xFF, 0xFF, 0xFF, 0xFF] }))) ∧
  (∀ (s : State) (d q : Nat) (v : Word), let x := s.queue d q
    (v.toNat < 2 ^ 31 → (v.toNat + 2 ^ 31 - x.cons) % 2 ^ 31 < (x.tail + 2 ^ 31 - x.cons) % 2 ^ 31 → v.toNat % 2 ^ x.log2 ∉ x.commits →
      Answers (.qcommit d q v) s (fun t => SameMemory s t ∧ .consume d q ∈ t.due ∧ (t.queue d q).badcommit = x.badcommit ∧
        ∀ e, e ∈ (t.queue d q).commits ↔ e ∈ x.commits ∨ e = v.toNat % 2 ^ x.log2)) ∧
    ((2 ^ 31 ≤ v.toNat ∨ v.toNat % 2 ^ x.log2 ∈ x.commits) →
      Answers (.qcommit d q v) s (fun t => SameMemory s t ∧ t.queue d q = { x with badcommit := true } ∧ (t.die d).intpend.getLsbD 7 = true))) ∧
  (∀ (s : State) (d q : Nat) (v : Word), let x := s.queue d q
    Answers (.qcfg d q v) s (fun t => SameMemory s t ∧ (t.queue d q).en = v.getLsbD 4 ∧
      (4 ≤ v.toNat % 16 ∧ v.toNat % 16 ≤ 12 → (t.queue d q).log2 = v.toNat % 16 ∧ (t.queue d q).badcfg = x.badcfg) ∧
      (v.toNat % 16 < 4 ∨ 12 < v.toNat % 16 → (t.queue d q).log2 = x.log2 ∧ (t.queue d q).badcfg = true ∧ (t.die d).intpend.getLsbD 7 = true) ∧
      (v.getLsbD 4 = false → (t.queue d q).head = 0 ∧ (t.queue d q).cons = 0 ∧ (t.queue d q).tail = 0 ∧ (t.queue d q).commits = []) ∧
      (v.getLsbD 4 = true → (t.queue d q).tail = x.tail ∧ (t.queue d q).cons = x.cons ∧ (t.queue d q).commits = x.commits)))

/-- 22 R367, R369, R373, R374: the next committed entry of a queue is read and its command is at hand; NOP completes at once; WAITMEM holds its queue until its
word, read as unsigned, is at least VALUE; WRITEMEM writes its value once it is the oldest; GSTATUS writes its graph's status; a reserved bit set completes
with ILLEGAL. -/
def Sys2Proof.Claims.Commands : Prop :=
  (∀ (s : State) (d q : Nat) (bs : List Byte), let x := s.queue d q
    let e := x.cons % 2 ^ x.log2
    x.en = true → x.cur = none → x.wait = none → e ∈ x.commits → s.virtRead d x.root (x.base + BitVec.ofNat 64 (128 * e)) 128 = some bs → leNat bs % 256 ≤ 5 →
    Answers (.commandConsume d q) s (fun t => SameMemory s t ∧ .command d q ∈ t.due ∧ (t.queue d q).cons = (x.cons + 1) % 2 ^ 31 ∧ e ∉ (t.queue d q).commits ∧
      ∃ c, (t.queue d q).live = x.live ++ [c] ∧ (t.queue d q).cur = some c.id ∧ c.id = s.uid ∧ c.entry = BitVec.ofNat 1024 (leNat bs) ∧ c.root = x.root ∧
        c.ticket = ((x.cons + 1) % 2 ^ 31 + 2 ^ 31 - 1) % 2 ^ 31)) ∧
  (∀ (s : State) (d q : Nat) (c : Cmd), s.command? d q 0 = some c →
    (c.reserved 0 = false → Answers (.nopCommand d q) s (fun t => Completed s t d q c 1 0)) ∧
    (c.reserved 0 = true → Answers (.nopCommand d q) s (fun t => Completed s t d q c 2 1))) ∧
  (∀ (s : State) (d q : Nat) (c : Cmd), s.command? d q 3 = some c →
    (c.reserved 2 = false → (c.word 1).toNat % 8 = 0 → Answers (.waitmem d q) s (fun t => SameMemory s t ∧ .waitmem d q ∈ t.due ∧
      t.queue d q = { s.queue d q with cur := none, wait := some c.id })) ∧
    ((c.reserved 2 = true ∨ (c.word 1).toNat % 8 ≠ 0) → Answers (.waitmem d q) s (fun t => Completed s t d q c 2 1))) ∧
  (∀ (s : State) (d q : Nat) (c : Cmd) (bs : List Byte), (s.queue d q).wait.bind (fun i => (s.queue d q).live.find? (fun c => c.id = i)) = some c →
    s.virtRead d c.root (c.word 1) 8 = some bs →
    ((c.word 2).toNat ≤ leNat bs → Answers (.waitmemSatisfied d q) s (fun t => Completed s t d q c 1 0)) ∧
    (leNat bs < (c.word 2).toNat → Answers (.waitmemSatisfied d q) s (fun t => t = s))) ∧
  (∀ (s u : State) (d q : Nat) (c : Cmd), s.command? d q 4 = some c → (s.queue d q).live = [c] → c.reserved 2 = false →
    s.virtWrite d c.root (c.word 1) (leBytes 8 (c.word 2).toNat) (some (frontRel d)) = some u → Answers (.writemem d q) s (fun t => Completed u t d q c 1 0)) ∧
  (∀ (s : State) (d q : Nat) (c : Cmd) (gr : Nat), s.command? d q 5 = some c → c.reserved 1 = false → s.graphAt d c.root (c.word 1) = some gr →
    Answers (.gstatus d q) s (fun t => Completed (s.writeStatus gr) t d q c 1 0))

/-- 22 R370 to R372: LAUNCH and GRAPH that pass their checks hold their entry and run in the region that they name, with the write set read; one that fails a check
completes as refused, with the first failed check's cause. -/
def Sys2Proof.Claims.LaunchesAccepted : Prop :=
  (∀ (s : State) (d q : Nat) (c : Cmd) (ws : List (Nat × Nat)) (e : Eff), s.command? d q 1 = some c → descOk false c.entry.toNat = true →
    s.writeSet d c.root (c.entry.extractLsb' 576 64) = some ws →
    (c.entry.extractLsb' 512 64 = 0 ∨ (s.graphAt d c.root (c.entry.extractLsb' 512 64)).isSome) → s.resolve d (c.entry.extractLsb' 16 16).toNat = some e →
    let l := { s.launchOf d q c e false with wset := ws }
    (l.dies.any (fun k => (s.search e l.need k l.shape.1 l.shape.2.1 (if l.isNbh then l.shape.1 * l.shape.2.1 else l.shape.2.2) l.isTwin true).isSome) = true) →
    (c.entry.extractLsb' 479 2 = 0 ∨ e.within (fun _ => (0, 0, 0, 0)) (if l.isTwin then 2 * l.total else l.total) l.need.grans l.need.tiles l.need.bgrans = true) →
    Answers (.launch d q) s (fun t => SameMemory s t ∧ t.launch? c.id = some l ∧ t.queue d q = { s.queue d q with cur := none } ∧ .start c.id ∈ t.due ∧
      t.groups = s.groups)) ∧
  (∀ (s : State) (d q : Nat) (c : Cmd), s.command? d q 1 = some c → descOk false c.entry.toNat = false →
    Answers (.launch d q) s (fun t => Completed s t d q c 2 0x118 ∧ t.launches = s.launches)) ∧
  (∀ (s : State) (d q : Nat) (c : Cmd) (ws : List (Nat × Nat)) (e : Eff) (nodes : List Node), s.command? d q 2 = some c → descOk true c.entry.toNat = true →
    s.writeSet d c.root (c.entry.extractLsb' 576 64) = some ws → s.resolve d (c.entry.extractLsb' 16 16).toNat = some e →
    (let l := s.launchOf d q c e true
     l.dies.any (fun k => (s.search e l.nodeNeed k 1 1 1 false true).isSome) = true) →
    s.readNodes d c.root (c.entry.extractLsb' 512 64) (c.entry.extractLsb' 320 16).toNat = .ok nodes →
    s.slotsUsed d + (nodes.map Node.slots).foldl (· + ·) 0 ≤ 32768 →
    Answers (.graph d q) s (fun t => SameMemory s t ∧ t.launch? c.id = some { s.launchOf d q c e true with wset := ws } ∧
      t.graphs.find? c.id = some { launch := c.id, array := c.entry.extractLsb' 512 64, nodes := nodes } ∧ t.queue d q = { s.queue d q with cur := none })) ∧
  (∀ (s : State) (d q : Nat) (c : Cmd), s.command? d q 2 = some c → descOk true c.entry.toNat = false →
    Answers (.graph d q) s (fun t => Completed s t d q c 2 0x118 ∧ t.launches = s.launches ∧ t.graphs = s.graphs)) ∧
  (∀ (s : State) (d q : Nat) (c : Cmd) (ws : List (Nat × Nat)) (e : Eff), s.command? d q 1 = some c → descOk false c.entry.toNat = true →
    s.writeSet d c.root (c.entry.extractLsb' 576 64) = some ws →
    (c.entry.extractLsb' 512 64 = 0 ∨ (s.graphAt d c.root (c.entry.extractLsb' 512 64)).isSome) → s.resolve d (c.entry.extractLsb' 16 16).toNat = some e →
    (let l := s.launchOf d q c e false
     l.dies.all (fun k => (s.search e l.need k l.shape.1 l.shape.2.1 (if l.isNbh then l.shape.1 * l.shape.2.1 else l.shape.2.2) l.isTwin true).isNone) = true) →
    Answers (.launch d q) s (fun t => Completed s t d q c 2 0x11A ∧ t.launches = s.launches)) ∧
  (∀ (s : State) (d q : Nat) (c : Cmd) (ws : List (Nat × Nat)) (e : Eff), s.command? d q 2 = some c → descOk true c.entry.toNat = true →
    s.writeSet d c.root (c.entry.extractLsb' 576 64) = some ws → s.resolve d (c.entry.extractLsb' 16 16).toNat = some e →
    (let l := s.launchOf d q c e true
     l.dies.all (fun k => (s.search e l.nodeNeed k 1 1 1 false true).isNone) = true) →
    Answers (.graph d q) s (fun t => Completed s t d q c 2 0x11A ∧ t.launches = s.launches ∧ t.graphs = s.graphs))

/-- 01 R14 to R18, 22 R374, R382, R385: a block that Front may start takes its place on its core, with each of its groups at the entry, its live lanes numbered in v0 and its
other lanes exited; an exited block with nothing outstanding releases what it held; a launch whose blocks have all gone completes with DONE. -/
def Sys2Proof.Claims.BlocksStartAndEnd : Prop :=
  (∀ (s : State) (id d corner : Nat) (l : Launch) (p : Plan), s.launch? id = some l → s.startable id l = true → s.outranked id l = false →
    s.placement l = some (d, corner, [p]) → l.isNbh = false → l.isTwin = false → p.place.Nodup → (∀ k ∈ p.place, k.1 < 6 ∧ k.2 < 16) →
    Answers (.blockStart id) s (fun t => (t.launch? id).map (·.started) = some (l.started + 1) ∧ t.dram = s.dram ∧
      (∃ b, t.block? s.uid = some b ∧ b.launch = id ∧ b.lin = l.started ∧ b.core = p.core ∧ b.gran0 = p.gran0 ∧ b.tiles = p.tiles ∧ b.threads = l.need.threads) ∧
      ∀ i k, p.place[i]? = some k → ∃ g, t.group? (groupKey p.core k.1 k.2) = some g ∧ g.blk = s.uid ∧ g.idx = i ∧ g.nv = l.need.nv ∧
        ∀ n < 32, (g.lane n).exited = decide (l.need.threads ≤ 32 * i + n) ∧
          (32 * i + n < l.need.threads → (g.lane n).pc = BitVec.ofNat 64 (l.field 127 64) ∧ g.vAt 0 n = ⟨BitVec.ofNat 32 (32 * i + n), none⟩))) ∧
  (∀ (s : State) (blk : Nat) (b : Block), s.block? blk = some b → b.ended = true → s.retired blk b = true →
    Answers (.blockRelease blk) s (fun t => SameMemory s t ∧ t.groups = s.groups ∧ t.block? blk = none ∧ .complete b.launch ∈ t.due ∧
      (∀ k g, (k, g) ∈ (t.core b.core).gran → g.blk ≠ blk) ∧ (∀ k n, (k, n) ∈ (t.core b.core).tiles → n ≠ blk))) ∧
  (∀ (s : State) (id : Nat) (l : Launch), s.launch? id = some l → l.isGraph = false → l.rolling = false → l.started = l.total → (∀ k b, (k, b) ∈ s.blocks → b.launch ≠ id) → l.replays = 0 →
    Answers (.launchComplete id) s (fun t => t.launch? id = none ∧ t.groups = s.groups ∧ Completed s t l.die l.queue { s.cmdOf id l with entry := l.desc } 1 0))

/-- 22 R389, R390, 24 R429, R430: the leader serves SETREGION by mapping and admitting the region, CLEARREGION by withdrawing a region without live launches, and
SETRSPACE by taking the root when no launch is live, each with OK and an event of the doorbell, or REFUSED; an unknown request is BADREQ. -/
def Sys2Proof.Claims.RegionRequests : Prop :=
  (∀ (s : State) (d : Nat), let x := s.die d
    x.fwbusy = true → x.fwstop = false → x.code = 1 → x.badWords 1 true = false → s.leader?.isSome →
    (∀ e u, s.rspace.isSome → ({ s with regtab := s.regtab.put x.rid (x.req 1) } : State).resolve d x.rid = some e →
      (({ s with regtab := s.regtab.put x.rid (x.req 1) } : State).withdraw x.rid).letIn e = some u →
      Answers (.setregion d) s (fun t => SameMemory s t ∧ t.regtab.find? x.rid = some (x.req 1) ∧ t.admitted.find? e.rid = some e ∧
        (t.die d).fwbusy = false ∧ (t.die d).fwstatus = 0 ∧ (t.die d).intpend.getLsbD 5 = true)) ∧
    (s.rspace = none → Answers (.setregion d) s (fun t => SameMemory s t ∧ t.regtab = s.regtab ∧ (t.die d).fwbusy = false ∧ (t.die d).fwstatus = 2))) ∧
  (∀ (s : State) (d : Nat), let x := s.die d
    x.fwbusy = true → x.fwstop = false → x.code = 2 → x.badWords 0 true = false → s.leader?.isSome →
    ((∀ k l, (k, l) ∈ s.launches → l.eff.rid ≠ x.rid) → Answers (.clearregion d) s (fun t => SameMemory s t ∧ t.regtab.find? x.rid = none ∧
      t.admitted.find? x.rid = none ∧ (t.die d).fwbusy = false ∧ (t.die d).fwstatus = 0)) ∧
    (∀ k l, (k, l) ∈ s.launches → l.eff.rid = x.rid → Answers (.clearregion d) s (fun t => SameMemory s t ∧ t.regtab = s.regtab ∧
      (t.die d).fwbusy = false ∧ (t.die d).fwstatus = 2))) ∧
  (∀ (s : State) (d : Nat), let x := s.die d
    x.fwbusy = true → x.fwstop = false → x.code = 5 → x.badWords 1 false = false → s.leader?.isSome → s.launches = [] →
    Answers (.setrspace d) s (fun t => SameMemory s t ∧ t.rspace = some (x.req 1) ∧ (t.die d).fwbusy = false ∧ (t.die d).fwstatus = 0)) ∧
  (∀ (s : State) (d : Nat), let x := s.die d
    x.fwbusy = true → x.fwstop = false → (x.code = 0 ∨ 5 < x.code) →
    Answers (.badreq d) s (fun t => SameMemory s t ∧ t.regtab = s.regtab ∧ (t.die d).fwbusy = false ∧ (t.die d).fwstatus = 1 ∧ (t.die d).intpend.getLsbD 5 = true))

/-- 22 R386, R387: a renewal exchanges the lease word for one of the same holder and epoch that ends 2 ms, 28,000,000 ticks, from now; a follower takes over only a lapsed lease, with the
next epoch; a leader stops acting 14 ticks before its lease ends; a hand-over names the successor and leaves the lease word; a firmware core stopped by a failed boot (24 R433) does none of them. -/
def Sys2Proof.Claims.Leases : Prop :=
  (∀ (s : State) (d : Nat) (w : DWord), d < 4 → (s.die d).lead = some w → (s.die d).yielding = false → (s.die d).fwstop = false →
    (s.lease = w → Answers (.leaseRenew d) s (fun t => SameMemory s t ∧ (t.die d).lead = some t.lease ∧ t.lease.extractLsb' 62 2 = BitVec.ofNat 2 d ∧
      t.lease.extractLsb' 48 14 = w.extractLsb' 48 14 ∧ t.lease.extractLsb' 0 48 = BitVec.ofNat 48 (timeAt d s.now + 28000000))) ∧
    (s.lease ≠ w → Answers (.leaseRenew d) s (fun t => SameMemory s t ∧ (t.die d).lead = none ∧ t.lease = s.lease))) ∧
  (∀ (s : State) (d : Nat), d < 4 → (s.die d).lead = none → (s.die d).fwstop = false →
    (past (timeAt d s.now + 2 ^ 48 - 14) (expiry s.lease) = true → Answers (.leasePoll d) s (fun t => SameMemory s t ∧ (t.die d).lead = some t.lease ∧
      t.lease.extractLsb' 62 2 = BitVec.ofNat 2 d ∧ t.lease.extractLsb' 48 14 = s.lease.extractLsb' 48 14 + 1)) ∧
    (past (timeAt d s.now + 2 ^ 48 - 14) (expiry s.lease) = false → Answers (.leasePoll d) s (fun t => t = s))) ∧
  (∀ (s : State) (d : Nat) (w : DWord), (s.die d).lead = some w → past (timeAt d s.now) ((expiry w + 2 ^ 48 - 14) % 2 ^ 48) = true →
    Answers (.leaderLapse d) s (fun t => SameMemory s t ∧ (t.die d).lead = none ∧ t.lease = s.lease)) ∧
  (∀ (s : State) (d succ : Nat) (w : DWord), succ < 4 → (s.die d).lead = some w → (s.die d).fwstop = false →
    Answers (.leaseHandover d succ) s (fun t => SameMemory s t ∧ (t.die d).yielding = true ∧ t.lease = s.lease ∧ t.handover.getLsbD 63 = true ∧
      t.handover.extractLsb' 61 2 = BitVec.ofNat 2 succ)) ∧
  (∀ (s : State) (d succ : Nat), (s.die d).fwstop = true → Answers (.leaseRenew d) s (fun t => t = s) ∧ Answers (.leasePoll d) s (fun t => t = s) ∧
    Answers (.leaseHandover d succ) s (fun t => t = s))

/-! ## Traps, translation, preemption and rollback (spec 23) -/

/-- 23 R398, R399, 06 R140: a trap raised by a group that has none is pending, with nothing else of the group changed; a group with a trap or a fault raises no second one;
the pending trap makes the group faulted, and its record, with the place, address, lanes time and disposition, waits for the die's trap ring; resumed at an address, the
trap's lanes stand there, and the group is faulted no longer. -/
def Sys2Proof.Claims.TrapsAreTaken : Prop :=
  (∀ (g : Group) (t : Trap), (g.trap = none → g.fault = none → g.raise t = { g with trap := some t }) ∧
    ((g.trap.isSome ∨ g.fault.isSome) → g.raise t = g)) ∧
  (∀ (s : State) (key : Nat) (g : Group) (t : Trap), s.group? key = some g → g.trap = some t →
    (s.becomeFaulted key).group? key = some { g with trap := none, fault := some { trap := t }, overCls := none } ∧ SameMemory s (s.becomeFaulted key) ∧
    .trap (dieOf (coreOf key)) ∈ (s.becomeFaulted key).due ∧
    ∃ r, ((s.becomeFaulted key).die (dieOf (coreOf key))).traps = (s.die (dieOf (coreOf key))).traps ++ [r] ∧ r.key = key ∧ r.trap = t ∧
      r.dispo = (if isUnc t.cause then (match s.launch? (s.launchId g.blk) with | some l => if l.rollsBack then 1 else 2 | none => 0) else 0) ∧
      r.time = s.timeOf (sliceOf key)) ∧
  (∀ (s : State) (key : Nat) (pc : DWord) (g : Group) (f : Faulted), s.group? key = some g → g.fault = some f →
    ∃ h, (s.resumeAt key pc).group? key = some h ∧ h.fault = none ∧ h.v = g.v ∧ h.u = g.u ∧ h.tgen = s.tgen ∧
      ∀ l < 32, h.lane l = if f.trap.lanes.getLsbD l then { g.lane l with pc := pc, pairs := if (g.lane l).pc = pc then (g.lane l).pairs else [] } else g.lane l)

/-- 23 R391, R398: the next trap record is written as its 64 bytes at TAIL's entry of the ring, TAIL advances, the die's source 0 has an event, and the group awaits
TRACT; a ring that is off or full holds the record back, and so does its core cycle until it has ended, and, for a fetch or
decode trap, an earlier access of the group that has not completed (08 R206; log 62); the record's fields stand where the record's map has them; TRCFG takes EN, and LOG2 in its range. -/
def Sys2Proof.Claims.TrapDelivery : Prop :=
  (∀ (s : State) (d : Nat) (r : TrapRec), let x := s.die d
    x.traps = [r] → (∀ k, (s.die k).remap = []) →
    (x.trEn = true → (x.trtail - x.trhead).toNat < 2 ^ x.trLog2 → s.deliverable r = true → Answers (.trapDelivery d) s (fun t =>
      t.bytesAt (dramLoc 0 (x.trbase.toNat + 64 * (x.trtail.toNat % 2 ^ x.trLog2))) 64 = leBytes 64 r.record ∧ t.sram = s.sram ∧
      (t.die d).trtail = x.trtail + 1 ∧ (t.die d).traps = [] ∧ (t.die d).intpend.getLsbD 0 = true ∧
      ∀ g f, s.group? r.key = some g → g.blk = r.blk → g.idx = r.idx → g.fault = some f → f.trap = r.trap → t.group? r.key = some { g with fault := some { f with written := true } })) ∧
    ((x.trEn = false ∨ 2 ^ x.trLog2 ≤ (x.trtail - x.trhead).toNat ∨ s.deliverable r = false) → Answers (.trapDelivery d) s (fun t => t = s))) ∧
  (∀ r : TrapRec, let w := BitVec.ofNat 512 r.record
    (w.extractLsb' 0 9).toNat = r.trap.cause % 2 ^ 9 ∧ (w.getLsbD 9 = r.trap.cons) ∧ (w.extractLsb' 10 2).toNat = r.dispo % 4 ∧ (w.extractLsb' 122 4).toNat = slotOf r.key ∧
    (w.extractLsb' 126 3).toNat = sliceOf r.key % 6 ∧ (w.extractLsb' 129 9).toNat = coreOf r.key % 2 ^ 9 ∧ (w.extractLsb' 138 6).toNat = r.queue % 2 ^ 6 ∧
    (w.extractLsb' 144 16).toNat = r.region % 2 ^ 16 ∧ (w.extractLsb' 160 32).toNat = r.ticket % 2 ^ 32 ∧ w.extractLsb' 192 32 = r.trap.info ∧
    w.extractLsb' 224 32 = r.trap.lanes ∧ (w.extractLsb' 256 64).toNat = r.time % 2 ^ 64 ∧ w.extractLsb' 320 64 = r.trap.pc ∧
    w.extractLsb' 384 64 = r.trap.addr ∧ w.extractLsb' 448 64 = r.trap.origpc) ∧
  (∀ (s : State) (d : Nat) (v : Word), Answers (.trcfg d v) s (fun t => SameMemory s t ∧ t.groups = s.groups ∧ (t.die d).trEn = v.getLsbD 4 ∧
    (t.die d).trLog2 = if 6 ≤ v.toNat % 16 ∧ v.toNat % 16 ≤ 12 then v.toNat % 16 else (s.die d).trLog2))

/-- 23 R399, R413: TRACT resumes the group that it names at TRPC or at the trapping address, ends it, or kills its launch; the group's withdrawn accesses are then presented again (04 R99), and an
address that starts no instruction faults the group again with BADTGT, each once the core has observed the generation that the group depends on (23 R395); a word that names no group awaiting TRACT has no effect. -/
def Obligations.TrapActions : Prop :=
  (∀ (s : State) (d : Nat) (v : Word) (key : Nat) (g : Group) (t : Trap), s.tractGroup v 0 = some (key, g, t) → s.groups.sorted = true → g.land = none →
    let seen := genSeen (s.core (coreOf key)).observed s.tgen
    (seen = true → s.targetOk (coreOf key) (s.fetchRoot g) false (s.die d).trpc = true → Answers (.tractResumeTrpc d v) s (fun u => SameMemory s u ∧
      u = (s.resumeAt key (s.die d).trpc).goAgain key ∧ (g.denied = [] → g.withdrawn = [] → u = s.resumeAt key (s.die d).trpc))) ∧
    (seen = true → s.targetOk (coreOf key) (s.fetchRoot g) false (s.die d).trpc = false → g.trap = none → g.baton = none → t.lanes ≠ 0 → Answers (.tractResumeTrpc d v) s (fun u => SameMemory s u ∧
      ∃ h, u.group? key = some h ∧ h.fault = some { trap := { cause := 0x003, pc := (s.die d).trpc, addr := (s.die d).trpc, lanes := t.lanes } })) ∧
    (seen = false → Answers (.tractResumeTrpc d v) s (fun u => SameMemory s u ∧ ∃ h, u.group? key = some h ∧ h.fault = none ∧ h.land = some t.lanes ∧
      ∀ l < 32, t.lanes.getLsbD l = true → (h.lane l).pc = (s.die d).trpc))) ∧
  (∀ (s : State) (d : Nat) (v : Word) (key : Nat) (g : Group) (t : Trap), s.tractGroup v 1 = some (key, g, t) → t.tag = none → t.job = none → s.groups.sorted = true → g.land = none →
    let seen := genSeen (s.core (coreOf key)).observed s.tgen
    (seen = true → s.targetOk (coreOf key) (s.fetchRoot g) false t.pc = true → Answers (.tractResumePc d v) s (fun u => SameMemory s u ∧
      u = (s.resumeAt key t.pc).goAgain key ∧ (g.denied = [] → g.withdrawn = [] → u = s.resumeAt key t.pc))) ∧
    (seen = true → s.targetOk (coreOf key) (s.fetchRoot g) false t.pc = false → g.trap = none → g.baton = none → t.lanes ≠ 0 → Answers (.tractResumePc d v) s (fun u => SameMemory s u ∧
      ∃ h, u.group? key = some h ∧ h.fault = some { trap := { cause := 0x003, pc := t.pc, addr := t.pc, lanes := t.lanes } })) ∧
    (seen = false → Answers (.tractResumePc d v) s (fun u => SameMemory s u ∧ ∃ h, u.group? key = some h ∧ h.fault = none ∧ h.land = some t.lanes ∧
      ∀ l < 32, t.lanes.getLsbD l = true → (h.lane l).pc = t.pc))) ∧
  (∀ (s : State) (d : Nat) (v : Word) (key : Nat) (g : Group) (t : Trap), s.tractGroup v 2 = some (key, g, t) →
    Answers (.tractEndGroup d v) s (fun u => SameMemory s u ∧ ∀ h, u.group? key = some h → h.live = 0)) ∧
  (∀ (s : State) (d : Nat) (v : Word) (key : Nat) (g : Group) (t : Trap) (b : Block), s.tractGroup v 3 = some (key, g, t) → s.block? g.blk = some b →
    Answers (.tractKill d v) s (fun u => exec (.launchKill b.launch (BitVec.ofNat 9 t.cause)) s = .next u ∨ 2 ^ 9 ≤ t.cause)) ∧
  (∀ (s : State) (d : Nat) (v : Word), (s.tractGroup v 0 = none → Answers (.tractResumeTrpc d v) s (fun u => u = s)) ∧
    (s.tractGroup v 1 = none → Answers (.tractResumePc d v) s (fun u => u = s)) ∧ (s.tractGroup v 2 = none → Answers (.tractEndGroup d v) s (fun u => u = s)) ∧
    (s.tractGroup v 3 = none → Answers (.tractKill d v) s (fun u => u = s)))

/-- 23 R394, R395: a write of TSYNC advances TGEN and sends an invalidation to every core; the oldest one applied removes what its root, or with root 0 every root, has in
the core's translations, and the core observes its generation. -/
def Sys2Proof.Claims.TableGenerations : Prop :=
  (∀ (s : State) (d : Nat) (v : DWord), Answers (.tsync d v) s (fun t => SameMemory s t ∧ t.groups = s.groups ∧ t.tgen = s.tgen + 1 ∧
    ∀ c < Config.numCores, (t.core c).invals = (s.core c).invals ++ [(s.tgen + 1, v)] ∧ .inval c ∈ t.due)) ∧
  (∀ (s : State) (core : Nat) (gen : Word) (root : DWord) (rest : List (Word × DWord)), (s.core core).invals = (gen, root) :: rest →
    (∀ k g, (k, g) ∈ s.groups → coreOf k = core → g.land = none) →
    Answers (.tlbInvalidation core) s (fun t => SameMemory s t ∧ t.groups = s.groups ∧ (t.core core).invals = rest ∧ (t.core core).observed = gen ∧
      (∀ e, e ∈ (t.core core).tlb ↔ e ∈ (s.core core).tlb ∧ root ≠ 0 ∧ e.root ≠ root) ∧
      (∀ e, e ∈ (t.core core).tlb1 ↔ e ∈ (s.core core).tlb1 ∧ root ≠ 0 ∧ e.root ≠ root) ∧
      (∀ e, e ∈ (t.die (dieOf core)).wcache ↔ e ∈ (s.die (dieOf core)).wcache ∧ root ≠ 0 ∧ e.root ≠ root)))

/-- 23 R405, R406: GO starts a migration in COPY when none is under way, the table has room and both frames lie in one range of the die, and is refused otherwise; in FREEZE writes to the source wait; when it is
done, every byte of the source frame reads as it did, from the destination, and the die's source 6 has an event. -/
def Sys2Proof.Claims.Migration : Prop :=
  (∀ (s : State) (d : Nat), let x := s.die d
    (x.migst ≠ .copy → x.migst ≠ .freeze → x.remap.length < 64 → s.rangeOf (x.migsrc.toNat % 2 ^ 35) = s.rangeOf (x.migdst.toNat % 2 ^ 35) →
      s.homeOf x.migsrc = some d → s.homeOf x.migdst = some d →
      Answers (.migctlGo d) s (fun t => SameMemory s t ∧ (t.die d).migst = .copy ∧ .migrate d ∈ t.due)) ∧
    ((x.migst = .copy ∨ x.migst = .freeze ∨ 64 ≤ x.remap.length ∨ s.rangeOf (x.migsrc.toNat % 2 ^ 35) ≠ s.rangeOf (x.migdst.toNat % 2 ^ 35) ∨
      s.homeOf x.migsrc ≠ some d ∨ s.homeOf x.migdst ≠ some d) → Answers (.migctlGo d) s (fun t => t = s))) ∧
  (∀ (s : State) (d : Nat), d < 4 → (s.die d).migst = .copy → (∀ e ∈ (s.die d).remap, e.2 % 4096 = 0) → Answers (.migrationFreeze d) s (fun t => SameMemory s t ∧ (t.die d).migst = .freeze ∧
    ∀ i < 4096, t.frozen (framePlace d (s.die d).migsrc + i) = true)) ∧
  (∀ (s : State) (d : Nat), d < 4 → (s.die d).migst = .freeze → (s.die d).remap = [] →
    Answers (.migrationDone d) s (fun t => t.sram = s.sram ∧ t.groups = s.groups ∧ (t.die d).migst = .done ∧ (t.die d).intpend.getLsbD 6 = true ∧
      ∀ i < 4096, t.byteAt (framePlace d (s.die d).migsrc + i) = s.byteAt (framePlace d (s.die d).migsrc + i) ∧
        t.moved (framePlace d (s.die d).migsrc + i) = framePlace d (s.die d).migdst + i))

/-- 23 R411 to R413, 22 R379: a launch killed has no block left, and its command completes with KILLED and the cause; a replayable launch that consumed an error loses its blocks and, once
the writes that they had issued have performed, has its snapshots written back and starts again from its held entry. -/
def Obligations.KillAndRollback : Prop :=
  (∀ (s : State) (id : Nat) (l : Launch) (c : BitVec 9), s.launch? id = some l → l.eff.fdom = 0 → l.replays = 0 →
    Answers (.launchKill id c) s (fun t => t.launch? id = none ∧ (∀ k b, (k, b) ∈ t.blocks → b.launch ≠ id) ∧ t.graphs.find? id = none ∧
      Completed s t l.die l.queue { s.cmdOf id l with entry := l.desc } 3 c.toNat)) ∧
  (∀ (s : State) (id : Nat) (l : Launch) (c : Nat), s.launch? id = some l → l.unc = some c → l.replayable = true → l.replays < 3 → l.isGraph = false → (∀ d, (s.die d).remap = []) →
    let s1 := if l.rolling then s else ((s.putLaunch id { l with rolling := true }).countR l.die 7).removeBlocks true id
    (s1.writesLeft id = true → Answers (.rollback id) s (fun t => SameMemory s t ∧ t = s1.addDue [.rollback id c] ∧
      (l.rolling = false → ∀ k b, (k, b) ∈ t.blocks → b.launch ≠ id))) ∧
    (s1.writesLeft id = false → l.snaps = [] → Answers (.rollback id) s (fun t => SameMemory s t ∧ (l.rolling = false → ∀ k b, (k, b) ∈ t.blocks → b.launch ≠ id) ∧ ∃ m, t.launch? id = some m ∧
      m.started = 0 ∧ m.replays = l.replays + 1 ∧ m.unc = none ∧ m.rolling = false ∧ m.bars = [] ∧ m.ticket = l.ticket)) ∧
    (∀ x loc, s1.writesLeft id = false → l.snaps = [x] → x.data.length = 4096 → s.placeFor l.die l.root (BitVec.ofInt 64 ((BitVec.ofNat 48 (x.va * 4096)).toInt)) .read = .ok loc →
      Answers (.rollback id) s (fun t => (∀ i < 4096, t.byteAt (loc + i) = x.data.getD i 0) ∧ (∀ a, a < loc ∨ loc + 4096 ≤ a → t.byteAt a = s.byteAt a) ∧
        ∃ m, t.launch? id = some m ∧ m.started = 0 ∧ m.replays = l.replays + 1)))

/-- 23 R414 to R418: PREEMPT of a region with room in its area stops its blocks; the last one saved ends the order with OK and leaves no group of it resident; RESTORE starts putting the
saved blocks back, and a block whose records are good and that fits goes back to its place; a region with nothing saved is OK at once. -/
def Obligations.PreemptionAndRestore : Prop :=
  (∀ (s : State) (d : Nat), let x := s.die d
    x.fwbusy = true → x.fwstop = false → x.code = 3 → x.badWords 2 true = false → s.susp.find? x.rid = none →
    let bs := s.residents x.rid
    let need := bs.foldl (fun n b => n + b.2.saveBytes) 0
    (need ≤ (x.req 2).toNat → (x.req 1).toNat + need ≤ 2 ^ 37 → bs ≠ [] → Answers (.preempt d) s (fun t => SameMemory s t ∧ t.groups = s.groups ∧
      t.susp.find? x.rid = some { base := (x.req 1).toNat, die := d, busy := true } ∧ ∀ k b, (k, b) ∈ bs → .preempt k ∈ t.due ∧
        (t.block? k).map (·.stopped) = (s.block? k).map (fun _ => true))) ∧
    ((x.req 2).toNat < need → Answers (.preempt d) s (fun t => SameMemory s t ∧ t.susp = s.susp ∧ (t.die d).fwbusy = false ∧ (t.die d).fwstatus = 2))) ∧
  (∀ (s : State) (blk : Nat) (b : Block) (y : Susp), s.blocks = [(blk, b)] → s.susp.find? b.region = some y → b.stopped = true → b.saved = none → b.twin = none →
    s.graphs = [] → s.drained blk b = true → (∀ c, (s.core c).reqs = []) → s.groups.sorted = true →
    Answers (.blockPreempt blk) s (fun t => (∃ c, t.block? blk = some c ∧ c.saved = some b.saveAt ∧ c.stopped = false ∧ c.lin = b.lin ∧ c.w = b.w) ∧
      (∀ k g, (k, g) ∈ t.groups → g.blk ≠ blk) ∧ t.susp.find? b.region = some { y with busy := false } ∧ (t.die y.die).fwbusy = false ∧ (t.die y.die).fwstatus = 0)) ∧
  (∀ (s : State) (d : Nat), let x := s.die d
    x.fwbusy = true → x.fwstop = false → x.code = 4 → x.badWords 1 true = false →
    (s.susp.find? x.rid = none → Answers (.restore d) s (fun t => SameMemory s t ∧ (t.die d).fwbusy = false ∧ (t.die d).fwstatus = 0)) ∧
    (∀ y blk b, s.susp.find? x.rid = some y → y.busy = false → s.blocks = [(blk, b)] → b.region = x.rid → b.saved.isSome → Answers (.restore d) s (fun t =>
      SameMemory s t ∧ .restore blk ∈ t.due ∧ t.susp.find? x.rid = some { y with base := (x.req 1).toNat, die := d, busy := true, restore := true }))) ∧
  (∀ (s : State) (blk : Nat) (b : Block) (y : Susp) (l : Launch) (p : Plan) (ms : List (Nat × Nat)), s.blocks = [(blk, b)] → s.susp.find? b.region = some y → s.launch? b.launch = some l →
    b.saved.isSome → y.restore = true → y.busy = true → b.twin = none → b.mblocks = [] → b.imageOk l (s.savedRecords b y.base).1 (s.savedRecords b y.base).2 = true →
    l.eff.within s.useOf 1 b.grans b.tiles.length b.bgrans = true → s.placeBack l b [(blk, b)] = some [(blk, b, p, ms)] →
    Answers (.blockRestore blk) s (fun t => t.dram = s.dram ∧ (∃ c, t.block? blk = some c ∧ c.saved = none ∧ c.stopped = false ∧ c.core = p.core ∧ c.place = p.place ∧ c.lin = b.lin) ∧
      t.susp.find? b.region = none ∧ (t.die y.die).fwbusy = false ∧ (t.die y.die).fwstatus = 0))

/-- 23 R391, R398: with the trap ring on and with room, TRAP_DELIVERY completes for the next record that may be delivered: its 64 bytes stand at TAIL's entry of the ring, TAIL advances
by one, the record waits no longer, and source 0 has an event. A write of TRCFG completes in every state: it sets EN, and LOG2 where its value is 6 to 12, and changes no memory. -/
def Obligations.TrapRingCompletes : Prop :=
  (∀ (s : State) (d : Nat) (r : TrapRec), let x := s.die d
    nextTrap (x.traps.filter s.deliverable) = some r → x.trEn = true → (x.trtail - x.trhead).toNat < 2 ^ x.trLog2 → (∀ k, (s.die k).remap = []) →
    ∃ t, exec (.trapDelivery d) s = .next t ∧ t.bytesAt (dramLoc 0 (x.trbase.toNat + 64 * (x.trtail.toNat % 2 ^ x.trLog2))) 64 = leBytes 64 r.record ∧
      (t.die d).trtail = x.trtail + 1 ∧ (t.die d).traps = x.traps.erase r ∧ (t.die d).intpend.getLsbD 0 = true ∧ t.sram = s.sram ∧ t.bst = s.bst) ∧
  (∀ (s : State) (d : Nat) (v : Word), ∃ t, exec (.trcfg d v) s = .next t ∧ SameMemory s t ∧ t.groups = s.groups ∧ (t.die d).trEn = v.getLsbD 4 ∧
    (t.die d).trLog2 = if 6 ≤ v.toNat % 16 ∧ v.toNat % 16 ≤ 12 then v.toNat % 16 else (s.die d).trLog2)

/-! ## Twin execution (spec 16) -/

namespace Sys2Proof.Machine

/-- A group put back to a checkpoint, in a state with the barriers of `s`: all but its slot, its baton, its counters, a trap and its generation are as at the
checkpoint, and a lane that waited at a barrier whose phase has completed since waits no more. -/
def PutBack (s : State) (key : Nat) (g c h : Group) : Prop :=
  h = { g.restored c with lanes := h.lanes } ∧ ∀ l < 32,
    (∀ lv k p, (c.lane l).wait = .bar lv k p → lv ≠ .grp → h.lane l = { c.lane l with
      ready := 0, wait := if (c.lane l).exited = false ∧ p < (s.bar lv key c.blk k).phase then .none else (c.lane l).wait }) ∧
    ((∀ lv k p, (c.lane l).wait ≠ .bar lv k p) → h.lane l = { c.lane l with ready := 0 })

end Sys2Proof.Machine

/-- 16 R360, R361: the oldest instructions of the two copies are compared by their signatures: requests compared equal are performed once, through the leading copy, and
records of an EMIT are sent once; a difference, or an instruction of one copy with the other gone, is counted in RCTWIN, nothing uncompared is performed, and both copies go back to their
checkpoints; an LDW.E whose words are not yet tested waits; 16 R359: at the rendezvous of two CKPTs of one ordinal, all compared, the copies' states become the checkpoints, and both go on. -/
def Obligations.TwinExecution : Prop :=
  (∀ (s : State) (n : Nat) (x : Twin) (g h cl ct : Group), s.twins.find? n = some x → (∀ f ∈ x.flights, f.result = true) →
    ((∃ l lq r tq, x.lq = l :: lq ∧ x.tq = r :: tq ∧ l.wait = false ∧ r.wait = false ∧ l.sig ≠ r.sig) ∨
      (∃ r tq, x.lq = [] ∧ x.tq = r :: tq ∧ r.wait = false ∧ g.exited = true) ∨ (∃ l lq, x.lq = l :: lq ∧ x.tq = [] ∧ l.wait = false ∧ h.exited = true)) →
    x.lead ≠ x.trail → s.group? x.lead = some g → s.group? x.trail = some h → x.ckptL = some cl → x.ckptT = some ct →
    Answers (.twinCompare n) s (fun t => SameMemory s t ∧ t.emitted = s.emitted ∧
      SMap.get 0 (t.die (dieOf (coreOf x.lead))).rc 6 = (SMap.get 0 (s.die (dieOf (coreOf x.lead))).rc 6 + 1) % 2 ^ 64 ∧
      (∃ y, t.group? x.lead = some y ∧ PutBack s x.lead g cl y) ∧ (∃ y, t.group? x.trail = some y ∧ PutBack s x.trail h ct y) ∧
      t.twins.find? n = some { x with
        lq := [], tq := [], flights := x.flights.map (·.putBack x.ckptAt), takenL := 0, takenT := 0, lastL := 0, lastT := 0, takers := [] } ∧
      ∀ q ∈ (t.core (coreOf x.lead)).reqs, q.key = x.lead → q.id < x.ckptAt ∨ (q.cmpd = true ∧ q.dead = true ∧ q.lanes = 0))) ∧
  (∀ (s : State) (n : Nat) (x : Twin) (l r : TwinEntry) (lq tq : List TwinEntry), s.twins.find? n = some x → (∀ f ∈ x.flights, f.result = true) →
    x.lq = l :: lq → x.tq = r :: tq → (l.wait = true ∨ r.wait = true) → Answers (.twinCompare n) s (fun t => t = s)) ∧
  (∀ (s : State) (n a : Nat) (b : List Nat) (p w : Bool) (x : Twin) (l r : TwinEntry) (lq tq : List TwinEntry) (q : Req) (g : Group), s.twins.find? n = some x →
    (∀ f ∈ x.flights, f.result = true) → x.lq = l :: lq → x.tq = r :: tq → l.wait = false → r.wait = false → l.sig = r.sig → l.op = .req [a] p → r.op = .req b w →
    s.group? x.lead = some g → g.exited = false → s.req? (coreOf x.lead) a = some q →
    Answers (.twinCompare n) s (fun t => SameMemory s t ∧ (∃ y, t.twins.find? n = some y ∧ y.lq = lq ∧ y.tq = tq ∧
        y.flights = x.flights ++ [{ lead := [a], trail := b, result := p, log := if p then some x.log.length else none }] ∧ y.log.length = x.log.length + (if p then 1 else 0)) ∧
      t.req? (coreOf x.lead) a = some { q with st := .queued, cmpd := true, accs := q.accs.map (fun c => if c.st == .sleep then { c with st := .todo, told := true } else c) })) ∧
  (∀ (s : State) (n : Nat) (x : Twin) (l r : TwinEntry) (lq tq : List TwinEntry) (es fs : List Emitted) (g : Group), s.twins.find? n = some x →
    (∀ f ∈ x.flights, f.result = true) → x.lq = l :: lq → x.tq = r :: tq → l.wait = false → r.wait = false → l.sig = r.sig → l.op = .emit es → r.op = .emit fs →
    s.group? x.lead = some g → g.exited = false →
    Answers (.twinCompare n) s (fun t => SameMemory s t ∧ t.groups = s.groups ∧ t.emitted = s.emitted ++ es ∧ t.twins.find? n = some { x with lq, tq })) ∧
  (∀ (s : State) (n : Nat) (x : Twin) (g h : Group), s.twins.find? n = some x → s.group? x.lead = some g → s.group? x.trail = some h →
    (x.lead ≠ x.trail → g.ckptWait = true → h.ckptWait = true → g.ckpts = h.ckpts → x.lq = [] → x.tq = [] → Answers (.ckptRendezvous n) s (fun t => SameMemory s t ∧
        t.group? x.lead = some { g with ckptWait := false, atCkpt := true } ∧ t.group? x.trail = some { h with ckptWait := false, atCkpt := true } ∧
        t.twins.find? n = some { x with
          log := [], ckptL := some { g with ckptWait := false, atCkpt := true }, ckptT := some { h with ckptWait := false, atCkpt := true }, ckptAt := s.uid
          takenL := 0, takenT := 0, lastL := 0, lastT := 0, flights := x.flights.map (fun f => { f with log := none }) })) ∧
    ((g.ckptWait = false ∨ h.ckptWait = false ∨ g.ckpts ≠ h.ckpts ∨ x.lq ≠ [] ∨ x.tq ≠ []) → Answers (.ckptRendezvous n) s (fun t => t = s)))

/-! ## Slice cycles (spec 01, 03, 08) -/

/-- 01 R24 to R27: a slice cycle begins from the row of SLOTTAB that the cycle number selects: its CEIL, and the group that holds the baton it names, which alone may issue; a row
without EN, a gated slice and one whose E1 is busy issue nothing; 01 R27: a group whose instruction exceeds CEIL in every row of its baton traps after a full rotation, no earlier. -/
def Sys2Proof.Claims.SliceCycles : Prop :=
  (∀ (s : State) (sl : Nat), let x := s.slice sl
    let r : Word := SMap.get 0 x.slottab (x.cyc % 64)
    Answers (.sliceCycle sl) s (fun t => SameMemory s t ∧ t.now = max s.now x.tick ∧ ∃ l, t.latch = some l ∧ l.slice = sl ∧ l.ceil = (r.extractLsb' 2 2).toNat ∧ l.issued = [] ∧
      l.group = (if r.getLsbD 7 then (x.holder (r.extractLsb' 0 2).toNat).map (fun k => 16 * sl + k) else none) ∧ l.todo.length ≤ 2 ∧
      ((r.getLsbD 7 = false ∨ x.gated = true ∨ 0 < x.busy ∨ l.group = none) → l.todo = []))) ∧
  (∀ (s : State) (key : Nat) (g : Group) (pc : DWord) (start b : Nat) (c : Coding) (i : Instr) (cur : Cur), s.group? key = some g → g.overCls = some (pc, start) → g.baton = some b →
    g.trap = none → g.fault = none → s.look key g { pc } = .ok c i cur →
    (start + 64 ≤ (s.slice (sliceOf key)).cyc → (s.slice (sliceOf key)).overAll b (timOf i) = true → Answers (.ceiling key) s (fun t =>
      t = s.putGroup key { g with overCls := none, trap := some { cause := Cause.ceiling, pc, lanes := cur.lanes } })) ∧
    ((s.slice (sliceOf key)).cyc < start + 64 → Answers (.ceiling key) s (fun t => t = s)))

/-- 01 R29 to R31: a slice cycle ends in a step: the slice's next cycle begins after the length of its slowest class in E1 to E4, stretched by K eighths, and CYC advances unless the
slice is gated. -/
def Obligations.SliceCycleEnds : Prop :=
  ∀ (s : State) (l : Latch), s.latch = some l → l.todo = [] →
    let x := s.slice l.slice
    let c := [7, 10, 14, 20].getD (x.stages.foldl (fun m y => max m y.1) 0) 20
    ∃ t, step s = .next t ∧ SameMemory s t ∧ t.latch = none ∧ (t.slice l.slice).tick = x.tick + c + (c * x.clkrat.toNat + 7) / 8 ∧
      (t.slice l.slice).cyc = if x.gated then x.cyc else (x.cyc + 1) % 2 ^ 64

/-- 03 R66, R67: in one core cycle a bank of a slice serves one register, and of two collectors that ask it the lower-numbered one; a result stands in its bank once the core cycle in which
the bank took it has ended; an uncorrectable error in a register that a collector reads is a trap of its group at
that address (23 R410);
03 R73, R74: writes to block-shared registers are applied once the first core cycle that begins at or after the end of their E4 has ended, in the order of
these core cycles, and within one in that of slice, baton, and secondary before primary. -/
def Sys2Proof.Claims.CollectorsAndBanks : Prop :=
  (∀ (s : State) (sl b slot : Nat) (pc : DWord) (w : List Nat) (q : List Bool) (z : List (Option (SMap Word))),
    (s.slice sl).coll = [(b, { slot, pcs := [pc], want := [w], since := [0], done := q, ws := z })] →
    Answers (.operandCollect ⟨sl, none⟩) s (fun t => SameMemory s t ∧ t.groups = s.groups ∧ ∃ c, (t.slice sl).coll = [(b, c)] ∧ c.slot = slot ∧ c.pcs = [pc] ∧
      c.want = [w.filter (fun r => w.find? (fun y => y % 8 == r % 8) ≠ some r)])) ∧
  (∀ (s : State) (sl r v : Nat) (p q : DWord) (h k : Nat) (d e : List Bool) (z : List (Option (SMap Word))), (s.slice sl).coll =
      [(0, { slot := h, pcs := [p], want := [[r]], since := [0], done := d, ws := z }), (1, { slot := k, pcs := [q], want := [[v]], since := [0], done := e, ws := z })] →
    Answers (.operandCollect ⟨sl, none⟩) s (fun t => (t.slice sl).coll.map (fun c => (c.2.want, c.2.done)) =
      [([[]], [true]), if r % 8 = v % 8 then ([[v]], [false]) else ([[]], [true])])) ∧
  (∀ (s : State) (sl b j : Nat) (second : Bool) (c : Coll) (g : Group) (pc : DWord), (s.slice sl).coll.find? b = some c → j = (if second then 1 else 0) → c.pcs[j]? = some pc →
    ((s.slice sl).gathers (s.slice sl).cyc b c).any (fun y => y.1 == j) = true → s.group? (16 * sl + c.slot) = some g → g.trap = none → g.fault = none →
    Answers (.operandCollect ⟨sl, some (b, second)⟩) s (fun t => SameMemory s t ∧
      t.group? (16 * sl + c.slot) = some { g with trap := some { cause := Cause.memunc, pc, lanes := g.atPc pc } })) ∧
  (∀ (s : State) (sl : Nat), Answers (.resultWriteback sl) s (fun t => SameMemory s t ∧ t.groups = s.groups ∧ ∀ w, w ∈ (t.slice sl).wb ↔ w ∈ (s.slice sl).wb ∧
    (match w.at_ with | some c => (s.slice sl).tick / 10 ≤ c | none => True))) ∧
  (∀ (s : State) (core : Nat) (x y : WWrite) (b : Block) (e f : Nat), (s.core core).wq = [x, y] → x.blk = y.blk → x.reg = y.reg → s.block? x.blk = some b →
    x.slice < 6 → y.slice < 6 → x.baton < 4 → y.baton < 4 → x.prim < 2 → y.prim < 2 → x.ended = some e → y.ended = some f →
    (e + 9) / 10 * 10 + 10 ≤ s.now → (f + 9) / 10 * 10 + 10 ≤ s.now → (x.slice, x.baton, x.prim) ≠ (y.slice, y.baton, y.prim) →
    Answers (.wRegisterApply core) s (fun t => SameMemory s t ∧ t.groups = s.groups ∧ (t.core core).wq = [] ∧ ∃ c, t.block? x.blk = some c ∧
      (∀ n, n ≠ x.reg → SMap.get 0 c.w n = SMap.get 0 b.w n) ∧
      SMap.get 0 c.w x.reg = if (e + 9) / 10 < (f + 9) / 10 ∨ ((e + 9) / 10 = (f + 9) / 10 ∧
          (x.slice < y.slice ∨ (x.slice = y.slice ∧ (x.baton < y.baton ∨ (x.baton = y.baton ∧ x.prim < y.prim))))) then y.bits else x.bits)) ∧
  (∀ (s : State) (core : Nat), (∀ w ∈ (s.core core).wq, (∃ e, w.ended = some e ∧ s.now < (e + 9) / 10 * 10 + 10) ∨
      (w.ended = none ∧ ∃ k g, (k, g) ∈ s.groups ∧ sliceOf k = sliceKey core w.slice)) →
    Answers (.wRegisterApply core) s (fun t => SameMemory s t ∧ (t.core core).wq = (s.core core).wq ∧ t.blocks = s.blocks))

/-- 08 R186, 23 R392, R393: an instruction line that translates comes from memory into the core's cache, with a soft error counted in RCLINEPAR; one that does not
leaves it as it is; a walk changes no byte of memory and no group, and one that fails keeps no entry. -/
def Sys2Proof.Claims.LineFillsAndWalks : Prop :=
  (∀ (s : State) (core : Nat) (root va : DWord) (soft : Bool) (x : Xlate) (u : State), s.translate core root (lineBase va).toNat .fetch = (.ok x, u) →
    Answers (.instructionLineFill core root va soft) s (fun t => SameMemory s t ∧ t.groups = s.groups ∧ (t.core core).cached root va = some (s.bytesAt x.loc 64) ∧
      SMap.get 0 (t.die (dieOf core)).rc 0 = if soft then (SMap.get 0 (s.die (dieOf core)).rc 0 + 1) % 2 ^ 64 else SMap.get 0 (s.die (dieOf core)).rc 0)) ∧
  (∀ (s : State) (core : Nat) (root va : DWord) (soft : Bool) (e : Nat) (u : State), s.translate core root (lineBase va).toNat .fetch = (.error e, u) →
    Answers (.instructionLineFill core root va soft) s (fun t => t = u ∧ SameMemory s t ∧ (t.core core).icache = (s.core core).icache)) ∧
  (∀ (s : State) (core : Nat) (root va : DWord) (k : AccKind), Answers (.tableWalk core root va k) s (fun t => SameMemory s t ∧ t.groups = s.groups ∧
    ((∃ e u, s.translate core root va.toNat k = (.error e, u)) → (t.core core).tlb = (s.core core).tlb ∧ ∀ d, (t.die d).wcache = (s.die d).wcache) ∧
    (∀ x u, s.translate core root va.toNat k = (.ok x, u) → ∃ e ∈ (if k = .fetch then (t.core core).tlb else (t.core core).tlb1),
      e.root = root ∧ e.hit root va.toNat = true)))

/-! ## Control windows, interrupts, resets, PCI Express (spec 24, 00 R12) -/

/-- 24 R424, R425: INTROUTE takes a word without reserved bits, and sends its message when EN rises while the source is pending; a word with a reserved bit
changes nothing (the model's choice, log 30); wired sources 1 to 17 follow the links of dies 0 and 3, and no others are asserted so; a rising source that the
M-level domain of the APLIC has enabled is a message to its target (log 34). -/
def Sys2Proof.Claims.InterruptRoutes : Prop :=
  (∀ (s : State) (d k : Nat) (v : Word), k < 8 → v.extractLsb' 5 11 = 0 → Answers (.introute d k v) s (fun t => SameMemory s t ∧ t.groups = s.groups ∧
    (∀ n, SMap.get 0 (t.die d).introute n = if n = k then v else SMap.get 0 (s.die d).introute n) ∧ (t.die d).intpend = (s.die d).intpend ∧
    t.irqs = if v.getLsbD 31 = true ∧ (SMap.get (0 : Word) (s.die d).introute k).getLsbD 31 = false ∧ (s.die d).intpend.getLsbD k = true ∧ v.extractLsb' 16 11 ≠ 0 then
      s.irqs ++ [(imsicAddr (v.getLsbD 30) (if v.getLsbD 30 then 0 else (v.extractLsb' 27 3).toNat) (v.extractLsb' 0 5).toNat, (v.extractLsb' 16 11).toNat)] else s.irqs)) ∧
  (∀ (s : State) (d k : Nat) (v : Word), (8 ≤ k ∨ v.extractLsb' 5 11 ≠ 0) → Answers (.introute d k v) s (fun t => t = s)) ∧
  (∀ (s : State) (d src : Nat) (on : Bool), (1 ≤ src → src ≤ 17 → (d = 0 ∨ d = 3) → Answers (.aplicWiredSource d src on) s (fun t => SameMemory s t ∧ t.groups = s.groups ∧
      (src ∈ (t.die d).aplic ↔ on = true) ∧ ∀ k, k ≠ src → (k ∈ (t.die d).aplic ↔ k ∈ (s.die d).aplic))) ∧
    ((d = 1 ∨ d = 2 ∨ src = 0 ∨ 17 < src) → Answers (.aplicWiredSource d src on) s (fun t => t = s))) ∧
  (∀ (s : State) (d src : Nat) (v : Word), 1 ≤ src → src ≤ 17 → (d = 0 ∨ d = 3) → src ∉ (s.die d).aplic → (s.die d).domS = {} →
    (s.die d).domM = { ie := true, cfg := [(src, 4)], en := [src], target := [(src, v)] } → v.toNat / 2 ^ 18 < 32 → 1 ≤ v.toNat % 2 ^ 11 →
    Answers (.aplicWiredSource d src true) s (fun t => SameMemory s t ∧ t.groups = s.groups ∧ (t.die d).domM.ip = [] ∧
      t.irqs = s.irqs ++ [(imsicAddr true 0 (v.toNat / 2 ^ 18), v.toNat % 2 ^ 11)] ∧
      v.toNat % 2 ^ 11 ∈ SMap.get [] t.imsic (imsicAddr true 0 (v.toNat / 2 ^ 18))))

/-- 24 R422, R423, R431, 00 R12: an aligned write of 4 or 8 bytes to a control window, by an agent that acts, changes the register at its offset by its access code: RW as written, half of a
wide one keeping the other half, RW1C bits cleared by ones, a register of the firmware's unchanged by harts, LINKCFG in BOOTSTAT by the firmware on dies 0 and 3 (0b11 is reserved); a write
that is not aligned, or of another size, is refused, to a hart by an access fault; a read gives the register, or zero where no register stands; of an agent that does not act, nothing. -/
def Sys2Proof.Claims.RegisterWrites : Prop :=
  (∀ (s : State) (d : Nat) (v : DWord) (m : Master), d < 4 → s.acts m = true →
    let u := s.except m none
    ((s.die d).trEn = false → Answers (.registerWrite d 0x10010 8 v m) s (fun t => t = u.putDie d { s.die d with trbase := v })) ∧
    ((s.die d).trEn = true → Answers (.registerWrite d 0x10010 8 v m) s (fun t => t = u)) ∧
    Answers (.registerWrite d 0x10028 8 v m) s (fun t => t = u.putDie d { s.die d with trpc := v }) ∧
    Answers (.registerWrite d 0x10040 8 v m) s (fun t => t = if isFirm m then u.putDie d { s.die d with migsrc := v } else u) ∧
    Answers (.registerWrite d 0x40040 4 v m) s (fun t => t = u.putDie d { s.die d with intpend := (s.die d).intpend &&& ~~~(v.setWidth 8) }) ∧
    Answers (.registerWrite d 0x80400 8 v m) s (fun t => t = u.putDie d { s.die d with colldesc := v }) ∧
    (isFirm m = true → (d = 0 ∨ d = 3) → v.extractLsb' 0 2 ≠ 3 →
      Answers (.registerWrite d 0x60000 4 v m) s (fun t => t = u.putDie d { s.die d with linkcfg := v.extractLsb' 0 2 })) ∧
    ((isFirm m = false ∨ d = 1 ∨ d = 2 ∨ v.extractLsb' 0 2 = 3) → Answers (.registerWrite d 0x60000 4 v m) s (fun t => t = u))) ∧
  (∀ (s : State) (d i : Nat) (v : DWord) (m : Master), d < 4 → i < 8 → s.acts m = true →
    Answers (.registerWrite d (0x50000 + 8 * i + 4) 4 v m) s (fun t => SameMemory s t ∧ t.groups = s.groups ∧
      ((t.die d).req i).toNat = ((s.die d).req i).toNat % 2 ^ 32 + v.toNat % 2 ^ 32 * 2 ^ 32 ∧ ∀ n, n ≠ i → (t.die d).req n = (s.die d).req n) ∧
    Answers (.registerWrite d (0x50000 + 8 * i) 4 v m) s (fun t =>
      ((t.die d).req i).toNat = ((s.die d).req i).toNat / 2 ^ 32 * 2 ^ 32 + v.toNat % 2 ^ 32)) ∧
  (∀ (s : State) (d c sl i : Nat) (v : DWord) (m : Master), d < 4 → c < 96 → sl < 6 → i < 64 → s.acts m = true →
    (isFirm m = true → Answers (.registerWrite d (0x100000 + 0x1000 * c + 0x100 * sl + 4 * i) 4 v m) s (fun t =>
      exec (.slottabWrite (sliceKey (96 * d + c) sl) i (v.setWidth 32)) s = .next t)) ∧
    (isFirm m = false → Answers (.registerWrite d (0x100000 + 0x1000 * c + 0x100 * sl + 4 * i) 4 v m) s (fun t => t = s.except m none))) ∧
  (∀ (s : State) (d off n : Nat) (v : DWord) (m : Master),
    (s.acts m = true → ((n ≠ 4 ∧ n ≠ 8) ∨ off % n ≠ 0) → Answers (.registerWrite d off n v m) s (fun t => t = s.refuse m ∧ t.ans = none ∧
      ∀ h, m = .hart h → (t.hart h).exc = some .accessFault)) ∧
    (s.acts m = false → Answers (.registerWrite d off n v m) s (fun t => t = s))) ∧
  (∀ (s : State) (d place : Nat) (m : Master), d < 4 → s.acts m = true → s.parked = [] →
    let base := 0x2000000000 + 0x10000000 * d
    Answers (.memoryRequestServe (.bus m (base + 0x10010) place (.read 8))) s (fun t => SameMemory s t ∧ t.dies = s.dies ∧ t.ans = some (leBytes 8 (s.die d).trbase.toNat)) ∧
    (∀ i < 8, Answers (.memoryRequestServe (.bus m (base + 0x50000 + 8 * i) place (.read 8))) s (fun t => SameMemory s t ∧ t.dies = s.dies ∧
      t.ans = some (leBytes 8 ((s.die d).req i).toNat))) ∧
    (∀ off, off % 4 = 0 → off < 0x10000000 → regAt off = .none → (regAt (off - 4)).wide = false → Answers (.memoryRequestServe (.bus m (base + off) place (.read 4))) s
      (fun t => SameMemory s t ∧ t.dies = s.dies ∧ t.ans = some [0, 0, 0, 0])) ∧
    (∀ i < 4, Answers (.memoryRequestServe (.bus m (base + 0x10010 + 2) place (.read i))) s (fun t => t = s.refuse m)))

/-- 24 R419, R420: LQDEVATTR, to a released hart in M or S mode, reads as IGN and takes a value without reserved bits; a write with one set is an illegal-instruction exception and changes
nothing; in U mode every access is one, and in VS or VU mode a virtual-instruction exception; the value governs the hart's translations from its next SFENCE.VMA. A hart that is held does
nothing. -/
def Sys2Proof.Claims.DeviceAttributes : Prop :=
  ∀ (s : State) (h : Nat),
    (s.acts (.hart h) = true →
      (∀ k (v : DWord), k = .m ∨ k = .s → v.toNat < 2 → Answers (.lqdevattr h (.csr { mode := k, w := some v })) s (fun t =>
        t = s.putHart h { s.hart h with ign := decide (v = 1), exc := none } ∧ (t.hart h).ignOn = (s.hart h).ignOn)) ∧
      (∀ k (v : DWord), k = .m ∨ k = .s → 2 ≤ v.toNat → Answers (.lqdevattr h (.csr { mode := k, w := some v })) s (fun t =>
        SameMemory s t ∧ t.groups = s.groups ∧ t.dies = s.dies ∧ t.hart h = { s.hart h with exc := some .illegalInstruction } ∧ ∀ n, n ≠ h → t.hart n = s.hart n)) ∧
      (∀ k, k = .m ∨ k = .s → Answers (.lqdevattr h (.csr { mode := k, w := none })) s (fun t =>
        SameMemory s t ∧ t.groups = s.groups ∧ t.dies = s.dies ∧ t.ans = some (leBytes 8 (if (s.hart h).ign then 1 else 0)) ∧ t.hart h = { s.hart h with exc := none })) ∧
      (∀ w, Answers (.lqdevattr h (.csr { mode := .u, w := w })) s (fun t => SameMemory s t ∧ t.groups = s.groups ∧ t.dies = s.dies ∧
        t.hart h = { s.hart h with exc := some .illegalInstruction })) ∧
      (∀ k w, k = .vs ∨ k = .vu → Answers (.lqdevattr h (.csr { mode := k, w := w })) s (fun t => SameMemory s t ∧ t.groups = s.groups ∧ t.dies = s.dies ∧
        t.hart h = { s.hart h with exc := some .virtualInstruction })) ∧
      Answers (.lqdevattr h .fence) s (fun t => t = s.putHart h { s.hart h with ignOn := (s.hart h).ign })) ∧
    (s.acts (.hart h) = false → ∀ o, Answers (.lqdevattr h o) s (fun t => t = s)) ∧
    (∀ pa place, (s.hart h).ign = (s.hart h).ignOn → s.hartPlace (.hart h) pa place = if (s.hart h).ign then 0 else place)

/-- 24 R433, 00 R12: a cold reset leaves every unit at the values the spec gives for reset, whatever stood before; a warm reset gives every register of a map its reset value but the clock
ratios, CYC, the counters, TOKBAL beside EN (with the refills and writes that are due) and the harts' power CSRs, empties every TLB, and leaves memory as it is (what of it the spec
leaves open: log 31). -/
def Obligations.Resets : Prop :=
  (∀ s : State, Answers .coldReset s (fun t => t.dram = [] ∧ t.sram = [] ∧ t.bst = [] ∧ t.emptyw = [] ∧ t.groups = [] ∧ t.blocks = [] ∧ t.launches = [] ∧ t.graphs = [] ∧
    t.tgen = 0 ∧ t.curalm = 0 ∧ t.boosten = false ∧ t.boost = false ∧ t.pwrLimit = 2400000 ∧ t.energy = 0 ∧ t.dramWin = 0x03E803E803E803E8 ∧ t.imsic = [] ∧ (∀ h, (t.hart h).ign = false ∧ (t.hart h).ignOn = false) ∧
    (∀ sl, (t.slice sl).cyc = 0 ∧ (t.slice sl).slottab = [] ∧ (t.slice sl).clkrat = 0 ∧ (t.slice sl).tokEn = false ∧ (t.slice sl).tokCap = 0x10 ∧ (t.slice sl).gated = false) ∧
    (∀ c, (t.core c).passcnt = 0 ∧ (t.core c).gran = [] ∧ (t.core c).tlb = [] ∧ (t.core c).tlb1 = [] ∧ (t.core c).icache = [] ∧ (t.core c).aseq = 0) ∧
    (∀ d, (t.die d).trEn = false ∧ (t.die d).trLog2 = 6 ∧ (t.die d).intpend = 0 ∧ (t.die d).rc = [] ∧ (t.die d).dc = [] ∧ (t.die d).migst = .idle ∧ (t.die d).remap = [] ∧
      (t.die d).fwbusy = false ∧ (∀ q, (t.queue d q).en = false ∧ (t.queue d q).log2 = 4 ∧ (t.queue d q).head = 0 ∧ (t.queue d q).tail = 0)) ∧
    (∀ l, t.link l = {}))) ∧
  (∀ s : State, Answers .warmReset s (fun t => SameMemory s t ∧ (∀ k b, s.block? k = some b → ∃ c, t.block? k = some c ∧ c.launch = b.launch ∧ c.core = b.core ∧ c.w = b.w ∧ c.saved = b.saved) ∧ t.tgen = 0 ∧ t.curalm = s.curalm ∧ t.boosten = s.boosten ∧ t.energy = s.energy ∧ t.now = s.now ∧
    t.dramWin = 0x03E803E803E803E8 ∧ (∀ h, (t.hart h).ign = false ∧ (t.hart h).entry = (s.hart h).entry) ∧ t.pwrAvg = 0 ∧
    (∀ sl, (t.slice sl).slottab = [] ∧ (t.slice sl).tokEn = false ∧ (t.slice sl).clkrat = (s.slice sl).clkrat ∧
      ((∃ k g, (k, g) ∈ s.groups ∧ sliceOf k = sl) → let x := (s.slice sl).tokSettled (s.now / 10)
        (t.slice sl).cyc = (s.slice sl).cyc ∧ (t.slice sl).tokCap = x.tokCap ∧ (t.slice sl).tokRate = x.tokRate ∧ (t.slice sl).tokBal = x.tokBal)) ∧
    (∀ c, (t.core c).passcnt = 0 ∧ (t.core c).observed = 0 ∧ (t.core c).tlb = [] ∧ (t.core c).tlb1 = [] ∧ (t.core c).clinereq = (s.core c).clinereq) ∧
    (∀ d, (t.die d).trEn = false ∧ (t.die d).trLog2 = 6 ∧ (t.die d).trtail = 0 ∧ (t.die d).intpend = 0 ∧ (t.die d).introute = [] ∧ (t.die d).wcache = [] ∧ (t.die d).rc = (s.die d).rc ∧
      (t.die d).dc = (s.die d).dc ∧ ∀ q, (t.queue d q).en = false ∧ (t.queue d q).head = 0 ∧ (t.queue d q).tail = 0 ∧ (t.queue d q).log2 = 4)))

/-- 24 R421, R432, 05 R135: a peer's read of DRAM, at the address that the link's IOMMU gives, is answered with its bytes, and a write stores its bytes and no others, as a release at
system scope unless it has the relaxed-ordering attribute; a write to a frame in FREEZE waits, and what follows it behind it; a write of an identity to an interrupt file is a message; a
write to the link's own window changes nothing here; a control window, the other link's window, and an address of no kind are refused, and so is what the IOMMU does not translate; 24 R435,
R436: the capability list's headers, and a peer's read of it; 24 R431: LINKCFG takes effect at its link's reset. -/
def Sys2Proof.Claims.PeersOfTheLinks : Prop :=
  (∀ (s : State) (k pa n place : Nat) (a : PeerAddr), k < 2 → s.ioPlace a .read = some (pa, place) → s.waitsBehind (.peer k (.read a n)) = false → pa + n ≤ 2 ^ 37 →
    Answers (.pciePeerRequest k (.read a n)) s (fun t => SameMemory s t ∧ t.groups = s.groups ∧ t.ans = some (s.bytesAt (dramLoc place pa) n))) ∧
  (∀ (s : State) (k pa place : Nat) (a : PeerAddr) (data : List Byte) (ro : Bool), let loc := dramLoc place pa
    k < 2 → s.ioPlace a .write = some (pa, place) → s.waitsBehind (.peer k (.write a data ro)) = false → pa + data.length ≤ 2 ^ 37 →
    (s.frozen loc = false → (∀ d, (s.die d).remap = []) → data ≠ [] → loc + data.length ≤ 2 ^ 37 →
      Answers (.pciePeerRequest k (.write a data ro)) s (fun t => t.bytesAt loc data.length = data ∧ t.groups = s.groups ∧
        (∀ a, a < loc ∨ loc + data.length ≤ a → t.byteAt a = s.byteAt a) ∧ t.relAt loc = if ro then none else some sysRel)) ∧
    (s.frozen loc = true → Answers (.pciePeerRequest k (.write a data ro)) s (fun t => SameMemory s t ∧ t.groups = s.groups ∧
      t.parked = s.parked ++ [.peer k (.write a data ro)] ∧ .parked ∈ t.due))) ∧
  (∀ (s : State) (k : Nat) (r : PeerReq), k < 2 → s.waitsBehind (.peer k r) = true → Answers (.pciePeerRequest k r) s (fun t => SameMemory s t ∧
    t.parked = s.parked ++ [.peer k r] ∧ .parked ∈ t.due)) ∧
  (∀ (s : State) (k pa place f : Nat) (a : PeerAddr) (data : List Byte) (ro : Bool), k < 2 → s.ioPlace a .write = some (pa, place) →
    s.waitsBehind (.peer k (.write a data ro)) = false → imsicFile pa = some f → pa % 4096 = 0 → data.length = 4 → 1 ≤ leNat data → leNat data ≤ 2047 →
    Answers (.pciePeerRequest k (.write a data ro)) s (fun t => SameMemory s t ∧ t.groups = s.groups ∧ t.irqs = s.irqs ++ [(pa, leNat data)] ∧
      leNat data ∈ SMap.get [] t.imsic pa)) ∧
  (∀ (s : State) (k pa place : Nat) (a : PeerAddr) (data : List Byte) (ro : Bool), k < 2 → s.ioPlace a .write = some (pa, place) →
    s.waitsBehind (.peer k (.write a data ro)) = false → inWindow k pa = true → Answers (.pciePeerRequest k (.write a data ro)) s (fun t => t = { s with ans := some [] })) ∧
  (∀ (s : State) (k n : Nat) (a : PeerAddr) (data : List Byte) (ro : Bool), k < 2 → s.parked = [] →
    ((s.ioPlace a .read = none ∨ ∃ pa place, s.ioPlace a .read = some (pa, place) ∧ 2 ^ 37 < pa + n ∧ (peerReaches k pa = false ∨ s.mapRead pa n = none)) →
      Answers (.pciePeerRequest k (.read a n)) s (fun t => t = { s with ans := none })) ∧
    ((s.ioPlace a .write = none ∨ ∃ pa place, s.ioPlace a .write = some (pa, place) ∧ 2 ^ 37 < pa + data.length ∧ (peerReaches k pa = false ∨ s.mapWrite pa data = none)) →
      Answers (.pciePeerRequest k (.write a data ro)) s (fun t => t = { s with ans := none }))) ∧
  (∀ (s : State) (k : Nat), (k < 2 → Answers (.pcieLinkReset k) s (fun t => SameMemory s t ∧ t.groups = s.groups ∧
      (t.die (3 * k)).linkcfgOn = (s.die (3 * k)).linkcfg ∧ (t.die (3 * k)).linkcfg = (s.die (3 * k)).linkcfg)) ∧
    (2 ≤ k → Answers (.pcieLinkReset k) s (fun t => t = s))) ∧
  (capWords.length = 59 ∧ capWords.getD 0 0 = 1 + 2 ^ 16 + 51 * 2 ^ 24 + 8 * 51 * 2 ^ 32 ∧ capWords.getD 2 0 % 2 ^ 8 = 0xA1 ∧ capWords.getD 2 0 / 2 ^ 16 = 4 + 96 * 2 ^ 8 ∧
    capWords.getD 51 0 = 2 + 2 ^ 16 + 3 * 2 ^ 24 + 8 * 54 * 2 ^ 32 ∧ capWords.getD 54 0 = 3 + 2 ^ 16 + 2 * 2 ^ 24 + 8 * 56 * 2 ^ 32 ∧
    capWords.getD 56 0 = 4 + 2 ^ 16 + 2 * 2 ^ 24 + 8 * 58 * 2 ^ 32 ∧ capWords.getD 58 0 = 5 + 2 ^ 16 + 2 ^ 24) ∧
  (∀ (s : State) (k pa n place : Nat), k < 2 → s.parked = [] → 0x2600000000 ≤ pa → pa + n ≤ 0x2600000000 + 8 * 59 → Answers (.pciePeerRequest k (.read (.pa pa place) n)) s
    (fun t => SameMemory s t ∧ t.groups = s.groups ∧ t.ans = some (((capWords.flatMap (leBytes 8)).drop (pa - 0x2600000000)).take n)))

/-! ## Power, clocks and idle states (spec 01, 25) -/

namespace Sys2Proof.Machine

/-- An access to a CSR in U mode is an illegal-instruction exception of the hart, and in VS or VU mode a virtual-instruction exception, and nothing else changes. -/
def PrivilegedCsr (h : Nat) (f : CsrOp → Instr) (s : State) : Prop :=
  ∀ k w, k ≠ .m → k ≠ .s → Answers (f { mode := k, w := w }) s (fun t => SameMemory s t ∧ t.groups = s.groups ∧ t.curalm = s.curalm ∧ t.boosten = s.boosten ∧
    t.energy = s.energy ∧ t.dramWin = s.dramWin ∧ t.ans = none ∧
    t.hart h = { s.hart h with exc := some (if k = .u then .illegalInstruction else .virtualInstruction) })

end Sys2Proof.Machine

/-- 25 R437 to R440: boost holds while BOOSTEN is 1, no alarm stands and the leader has granted it, and the limit in force follows it; an event sets its alarm, a 1 written clears one unless an event of the
same core cycle sets it; source 18 of every die follows the alarms; an average more than 5% above the limit sets BUDGET. The CSRs are a released hart's in M and S mode: a read gives the value, a
write with a reserved bit or of a read-only CSR is an illegal-instruction exception that changes nothing, and so is every access in U mode; in VS and VU mode it is a virtual-instruction exception. -/
def Sys2Proof.Claims.AlarmsAndBoost : Prop :=
  (∀ (s t : State) (i : Instr), ((∃ a e, i = .lqcuralm a e) ∨ (∃ k < 5, i = .currentAlarm k)) → exec i s = .next t →
    t.boost = (t.boosten && t.curalm == 0 && t.boostGrant) ∧ t.pwrLimit = (if t.boost then 2800000 else 2400000) ∧ t.boosten = s.boosten ∧ t.boostGrant = s.boostGrant ∧ SameMemory s t ∧
      t.groups = s.groups ∧ ∀ d < 4, (18 ∈ (t.die d).aplic ↔ t.curalm ≠ 0) ∧ ∀ k, k ≠ 18 → (k ∈ (t.die d).aplic ↔ k ∈ (s.die d).aplic)) ∧
  (∀ (s : State) (h : Nat) (k : HartMode) (e : BitVec 5), s.acts (.hart h) = true → k = .m ∨ k = .s →
    (∀ v, Answers (.lqcuralm ⟨h, { mode := k, w := some v }⟩ e) s (fun t => (∀ i < 5, t.curalm.getLsbD i =
        (e.getLsbD i || (s.curalm.getLsbD i && !(decide (v.toNat < 32) && v.getLsbD i)))) ∧
      t.hart h = { s.hart h with exc := if v.toNat < 32 then none else some .illegalInstruction })) ∧
    Answers (.lqcuralm ⟨h, { mode := k, w := none }⟩ e) s (fun t => t.curalm = s.curalm ||| e ∧ t.ans = some (leBytes 8 s.curalm.toNat))) ∧
  (∀ (s : State) (h : Nat) (o : CsrOp) (e : BitVec 5), s.acts (.hart h) = false → Answers (.lqcuralm ⟨h, o⟩ e) s (fun t => t.curalm = s.curalm ||| e ∧ t.harts = s.harts)) ∧
  (∀ (s : State) (k : Nat), k < 5 → Answers (.currentAlarm k) s (fun t => ∀ i < 5, t.curalm.getLsbD i = (decide (i = k) || s.curalm.getLsbD i))) ∧
  (∀ (s : State) (h : Nat) (k : HartMode) (v : DWord), s.acts (.hart h) = true → k = .m ∨ k = .s →
    (v.toNat < 4 → Answers (.lqpwrctl (.control ⟨h, { mode := k, w := some v }⟩)) s (fun t => SameMemory s t ∧ t.groups = s.groups ∧ t.curalm = s.curalm ∧ t.boosten = v.getLsbD 0 ∧
      t.boost = (v.getLsbD 0 && s.curalm == 0 && s.boostGrant) ∧ t.pwrLimit = if t.boost then 2800000 else 2400000)) ∧
    (4 ≤ v.toNat → Answers (.lqpwrctl (.control ⟨h, { mode := k, w := some v }⟩)) s (fun t => SameMemory s t ∧ t.groups = s.groups ∧ t.boosten = s.boosten ∧ t.boost = s.boost ∧
      t.hart h = { s.hart h with exc := some .illegalInstruction })) ∧
    Answers (.lqpwrctl (.control ⟨h, { mode := k, w := none }⟩)) s (fun t => t.boosten = s.boosten ∧ t.ans = some (leBytes 8 ((if s.boost then 2 else 0) + if s.boosten then 1 else 0)))) ∧
  (∀ (s : State) (h k : Nat), s.acts (.hart h) = true → k < 5 → PrivilegedCsr h (fun o => .lqcuralm ⟨h, o⟩ 0) s ∧ PrivilegedCsr h (fun o => .lqpwrctl (.control ⟨h, o⟩)) s ∧
    PrivilegedCsr h (fun o => .lqpwrctl (.telemetry k ⟨h, o⟩)) s) ∧
  (∀ (s : State) (on : Bool), s.leader?.isSome → Answers (.boostGrant on) s (fun t => SameMemory s t ∧ t.groups = s.groups ∧ t.boostGrant = on ∧ t.boost = (s.boosten && s.curalm == 0 && on) ∧
    t.pwrLimit = if t.boost then 2800000 else 2400000)) ∧
  (∀ (s : State) (avg : Word) (pwr tmp uj : DWord), Answers (.telemetryUpdate avg pwr tmp uj) s (fun t => SameMemory s t ∧ t.groups = s.groups ∧ t.pwrAvg = avg ∧ t.diePwr = pwr ∧
    t.temp = tmp ∧ t.energy = s.energy + uj ∧ t.curalm = (if s.pwrLimit.toNat * 105 < avg.toNat * 100 then s.curalm ||| 1 else s.curalm))) ∧
  (∀ (s : State) (h n : Nat) (k : HartMode), s.acts (.hart h) = true → k = .m ∨ k = .s → n < 5 →
    Answers (.lqpwrctl (.telemetry n ⟨h, { mode := k, w := none }⟩)) s (fun t => SameMemory s t ∧ t.groups = s.groups ∧
      t.ans = some (leBytes 8 ([s.pwrLimit.toNat * 2 ^ 32 + s.pwrAvg.toNat, s.diePwr.toNat, s.temp.toNat, s.dramWin.toNat, s.energy.toNat].getD n 0))) ∧
    ∀ v, Answers (.lqpwrctl (.telemetry n ⟨h, { mode := k, w := some v }⟩)) s (fun t => SameMemory s t ∧ t.groups = s.groups ∧ t.pwrAvg = s.pwrAvg ∧ t.diePwr = s.diePwr ∧
      t.temp = s.temp ∧ t.dramWin = s.dramWin ∧ t.energy = s.energy ∧ t.hart h = { s.hart h with exc := some .illegalInstruction })) ∧
  (∀ (s : State) (d : Nat) (v : BitVec 16), d < 4 → Answers (.dramActivationWindow d v) s (fun t => SameMemory s t ∧ t.groups = s.groups ∧
    ∀ k < 4, t.dramWin.extractLsb' (16 * k) 16 = if k = d then v else s.dramWin.extractLsb' (16 * k) 16))

/-- 01 R24, R31, 25 R441 to R444: SLOTTAB, CLKRAT, PASSCNT and TOKBAL take a write without reserved values, and change nothing else of their slice or core, but that a ceiling lifted ends
a group's wait for the trap CEILING (01 R27), and that a slice without groups has passed its cycles before CLKRAT changes (01 R31); a write with one has no effect;
TOKBAL's write is in force from the next core cycle, after the refill of the old fields; at the end of a core cycle the bucket takes RATE, up to CAP. -/
def Sys2Proof.Claims.ClockAndTokenRegisters : Prop :=
  (∀ (s : State) (sl row : Nat) (v : Word), (row < 64 → v.extractLsb' 4 3 = 0 → Answers (.slottabWrite sl row v) s (fun t =>
      (∀ n, SMap.get 0 (t.slice sl).slottab n = if n = row then v &&& 0x8F else SMap.get 0 (s.slice sl).slottab n) ∧
      { t with groups := s.groups } = s.putSlice sl { s.slice sl with slottab := (t.slice sl).slottab } ∧
      ∀ key g, s.group? key = some g → ∃ w, t.group? key = some { g with overCls := w })) ∧
    (v.extractLsb' 4 3 ≠ 0 → Answers (.slottabWrite sl row v) s (fun t => t = s))) ∧
  (∀ (s : State) (sl : Nat) (v : Word), (v.toNat < 8 → Answers (.clkratWrite sl v) s (fun t => t = s.putSlice sl { s.idled sl s.now with clkrat := v.setWidth 3 } ∧
      ((∃ key g, (key, g) ∈ s.groups ∧ sliceOf key = sl) → s.idled sl s.now = s.slice sl))) ∧
    (8 ≤ v.toNat → Answers (.clkratWrite sl v) s (fun t => t = s))) ∧
  (∀ (s : State) (core : Nat) (v : Word), (v.toNat < 3 → Answers (.passcntWrite core v) s (fun t => t = s.putCore core { s.core core with passcnt := v.setWidth 2 })) ∧
    (3 ≤ v.toNat → Answers (.passcntWrite core v) s (fun t => t = s))) ∧
  (∀ (s : State) (sl : Nat) (v : Word), let x := s.slice sl
    let cap := v.extractLsb' 16 8
    (8 ≤ cap.toNat → Answers (.tokbalWrite sl v) s (fun t => t = s.putSlice sl { x with tokNext := x.tokNext ++ [(s.now / 10 + 1, v)] })) ∧
    (x.tokNext = [] → x.tokAt = s.now / 10 → 8 ≤ cap.toNat → Answers (.tokbalWrite sl v) s (fun t => ∃ bal bal',
      (t.slice sl).refills (s.now / 10) = t.slice sl ∧
      bal = (if x.tokEn then min (x.tokCap.toNat : Int) (x.tokBal + x.tokRate.toNat) else x.tokBal) ∧
      (t.slice sl).refills (s.now / 10 + 1) = { x with tokAt := s.now / 10 + 1, tokEn := v.getLsbD 31, tokRate := v.extractLsb' 24 7, tokCap := cap, tokBal := bal' } ∧
      (v.getLsbD 31 = true → x.tokEn = false → bal' = cap.toNat) ∧ ((v.getLsbD 31 = false ∨ x.tokEn = true) → bal' = min bal cap.toNat))) ∧
    (cap.toNat < 8 → Answers (.tokbalWrite sl v) s (fun t => t = s))) ∧
  (∀ (s : State) (sl : Nat), let x := s.slice sl
    (x.tokEn = true → Answers (.tokenRefill sl) s (fun t => t = s.putSlice sl { x with tokBal := min (x.tokCap.toNat : Int) (x.tokBal + x.tokRate.toNat) })) ∧
    (x.tokEn = false → Answers (.tokenRefill sl) s (fun t => t = s)))

/-- 25 R447, R448: a slice with no eligible thread and nothing in E1 to E4 may stop its clock, and wakes 20 ns after a thread is eligible again; a core with no resident block may stop its clock, or after 100 µs
be powered down, which empties its instruction cache, and goes on 200 ns or 5 µs after it is to run again; no unit enters a state that the tolerance of a region on it forbids. -/
def Sys2Proof.Claims.IdleStates : Prop :=
  (∀ (s : State) (sl : Nat), (s.slice sl).gated = false → s.sliceAwake sl = false → (s.slice sl).stages = [] → (∀ k, s.tolerance (sl / 6) = some k → 20 ≤ k) →
    Answers (.sgate sl) s (fun t => SameMemory s t ∧ t.groups = s.groups ∧ (t.slice sl).gated = true)) ∧
  (∀ (s : State) (sl k : Nat), (s.sliceAwake sl = true ∨ (s.tolerance (sl / 6) = some k ∧ k < 20)) → Answers (.sgate sl) s (fun t => t = s)) ∧
  (∀ (s : State) (core : Nat), (s.core core).idle = .on → s.occupied core = false → (∀ k, s.tolerance core = some k → 200 ≤ k) →
    Answers (.cgate core) s (fun t => SameMemory s t ∧ t.groups = s.groups ∧ t.core core = { s.core core with idle := .cgate } ∧
      (∀ c, c ≠ core → t.core c = s.core c) ∧ ∀ sl, sl / 6 ≠ core → t.slice sl = s.slice sl)) ∧
  (∀ (s : State) (core : Nat), (s.core core).idle ≠ .coff → s.occupied core = false → (s.core core).emptied + 1400000 ≤ s.now → (∀ k, s.tolerance core = some k → 5000 ≤ k) →
    Answers (.coff core) s (fun t => SameMemory s t ∧ t.groups = s.groups ∧ t.core core = { s.core core with idle := .coff, icache := [] } ∧
      (∀ c, c ≠ core → t.core c = s.core c) ∧ ∀ sl, sl / 6 ≠ core → t.slice sl = s.slice sl)) ∧
  (∀ (s : State) (core : Nat), s.occupied core = true → Answers (.cgate core) s (fun t => t = s) ∧ Answers (.coff core) s (fun t => t = s) ∧
    Answers (.unitWake core) s (fun t => SameMemory s t ∧ t.groups = s.groups ∧ (t.core core).idle = .on ∧ ∀ i < 6, let sl := sliceKey core i
      ((s.slice sl).gated = true → s.sliceAwake sl = true → (t.slice sl).gated = false ∧
        ((s.core core).idle = .on → (t.slice sl).tick = max (s.slice sl).tick s.now + 280)) ∧
      ((s.core core).idle ≠ .on → s.now + (s.core core).idle.latency ≤ (t.slice sl).tick)))

/-! ## Fabric links, collectives, quotes (spec 26) -/

/-- 26 R452, R453: in each direction of a link that carries flits, a message sent takes the next number, travels, and stays in the retry buffer until it is acknowledged; the receiver delivers the
flit it expects, once and in order, and discards one with a CRC error, which it counts and answers with a NAK; a NAK, or 1 µs without an acknowledgement, sends every unacknowledged flit again in
order; a flit that an injector holds is not received before its time. -/
def Sys2Proof.Claims.LinkDelivery : Prop :=
  (∀ (s : State) (l : Nat) (inn : Bool) (pay : DWord), let x := s.link l
    let y := x.dir inn
    (x.carries = true → y.waiting = [] → y.retry.length < 256 → (inn = true ∨ x.armed = false) → Answers (.flitSend ⟨l, inn⟩ pay) s (fun t => SameMemory s t ∧ t.groups = s.groups ∧
      (t.link l).dir (!inn) = x.dir (!inn) ∧ let z := (t.link l).dir inn
      z.next = (y.next + 1) % 4096 ∧ z.retry = y.retry ++ [(y.next, pay)] ∧ z.waiting = [] ∧
      z.wire = y.wire ++ [{ num := y.next, pay := pay, hurt := 0, lanes := x.lanes, due := max s.now y.gate }])) ∧
    ((x.carries = false ∨ 256 ≤ y.retry.length) → Answers (.flitSend ⟨l, inn⟩ pay) s (fun t => SameMemory s t ∧ t.groups = s.groups ∧
      (t.link l).dir inn = { y with waiting := y.waiting ++ [pay] } ∧ (t.link l).dir (!inn) = x.dir (!inn)))) ∧
  (∀ (s : State) (l : Nat) (inn : Bool) (f : Flit) (lane : BitVec 8) (rest : List Flit), let x := s.link l
    let y := x.dir inn
    let bad := f.hurt ||| (lane &&& f.lanes)
    y.wire = f :: rest → f.due ≤ s.now →
    (bad = 0 → f.num = y.expect → Answers (.flitReceive ⟨l, inn⟩ lane) s (fun t => SameMemory s t ∧ t.groups = s.groups ∧ (t.link l).crc = x.crc ∧
      (t.link l).dir inn = { y with
        wire := rest, delivered := y.delivered ++ [f.pay], expect := (f.num + 1) % 4096, discard := false, acks := y.acks ++ [(f.num + 1) % 4096] })) ∧
    (bad = 0 → f.num ≠ y.expect → Answers (.flitReceive ⟨l, inn⟩ lane) s (fun t => (t.link l).crc = x.crc ∧
      let again := (y.expect + 4096 - f.num) % 4096 ≤ 2048 || y.discard
      (t.link l).dir inn = if again then { y with wire := rest } else { y with wire := rest, naks := y.naks ++ [y.expect], discard := true })) ∧
    (bad ≠ 0 → Answers (.flitReceive ⟨l, inn⟩ lane) s (fun t => (t.link l).crc = (x.crc + 1) % 2 ^ 64 ∧
      (t.link l).dir inn = if y.discard && f.num ≠ y.expect then { y with wire := rest } else { y with wire := rest, naks := y.naks ++ [y.expect], discard := true }))) ∧
  (∀ (s : State) (l : Nat) (inn : Bool) (lane : BitVec 8), (∀ f ∈ ((s.link l).dir inn).wire, s.now < f.due) → Answers (.flitReceive ⟨l, inn⟩ lane) s (fun t => t = s)) ∧
  (∀ (s : State) (l n : Nat) (inn : Bool) (rest : List Nat), let x := s.link l
    let y := x.dir inn
    let kept := y.retry.filter (fun f => (f.1 + 4096 - n) % 4096 < 2048)
    (y.acks = n :: rest → y.waiting = [] → Answers (.ackReceive ⟨l, inn⟩) s (fun t => SameMemory s t ∧ t.groups = s.groups ∧ let z := (t.link l).dir inn
      z.acks = rest ∧ z.retry = kept ∧ z.wire = y.wire ∧ z.waiting = [])) ∧
    (y.naks = n :: rest → x.carries = true → (inn = true ∨ x.armed = false) → Answers (.nakReceive ⟨l, inn⟩) s (fun t => SameMemory s t ∧ t.groups = s.groups ∧
      (let z := (t.link l).dir inn
       z.naks = rest ∧ z.retry = kept ∧ z.wire = y.wire ++ kept.map (fun f => { num := f.1, pay := f.2, hurt := 0, lanes := x.lanes, due := s.now })) ∧
      (x.rply + kept.length < 2 ^ 64 → (t.link l).rply = x.rply + kept.length)))) ∧
  (∀ (s : State) (l : Nat) (inn : Bool), let x := s.link l
    let y := x.dir inn
    (y.retry ≠ [] → y.heard + 14000 ≤ s.now → x.carries = true → (inn = true ∨ x.armed = false) → Answers (.ackTimeout ⟨l, inn⟩) s (fun t => SameMemory s t ∧ t.groups = s.groups ∧
      let z := (t.link l).dir inn
      z.retry = y.retry ∧ z.heard = s.now ∧ z.wire = y.wire ++ y.retry.map (fun f => { num := f.1, pay := f.2, hurt := 0, lanes := x.lanes, due := s.now }))) ∧
    ((y.retry = [] ∨ s.now < y.heard + 14000) → Answers (.ackTimeout ⟨l, inn⟩) s (fun t => t = s)))

/-- 26 R454, R455, R457: a lane with more than 16 CRC errors in 1 ms is given up: the link goes on, after it has retrained, with the widest of 4, 2 or 1 of its good lanes, and is down without one; EVT and
source 19 of the die report it; a link reset restores the full width; FINJCTL is armed only with permission, a count, and no reserved value; armed, it damages or holds the Nth flit sent over its lane. -/
def Sys2Proof.Claims.LinkWidthAndFaults : Prop :=
  (∀ (s : State) (l : Nat) (bad : BitVec 8), let x := s.link l
    (∀ i < 8, bad.getLsbD i = (x.lanes.getLsbD i && decide (16 < x.errors s.now i))) →
    (bad = 0 → Answers (.laneShed l) s (fun t => t = s)) ∧
    (bad ≠ 0 → x.carries = true → Answers (.laneShed l) s (fun t => SameMemory s t ∧ t.groups = s.groups ∧ let y := t.link l
      let good := x.good &&& ~~~bad
      let n := (List.range 8).countP good.getLsbD
      y.evt = true ∧ 19 ∈ (t.die (l / 4)).aplic ∧ y.shed = (x.shed + 1) % 2 ^ 64 ∧ y.good = good ∧ y.lanes &&& good = y.lanes ∧
      (List.range 8).countP y.lanes.getLsbD = (if 4 ≤ n then 4 else if 2 ≤ n then 2 else n) ∧
      y.width = (if 4 ≤ n then 1 else if 2 ≤ n then 2 else 3) ∧ (n = 0 → y.down = true ∧ y.up = false) ∧ (0 < n → y.training = true ∧ y.up = true)))) ∧
  (∀ (s : State) (l : Nat) (bad : BitVec 8), let x := s.link l
    (x.training = true → bad &&& x.lanes = 0 → Answers (.retrainComplete l bad) s (fun t => SameMemory s t ∧ t.groups = s.groups ∧ (t.link l).training = false ∧
      (t.link l).lanes = x.lanes ∧ (t.link l).width = x.width)) ∧
    (x.training = false → Answers (.retrainComplete l bad) s (fun t => t = s))) ∧
  (∀ (s : State) (l : Nat), Answers (.linkReset l) s (fun t => SameMemory s t ∧ t.groups = s.groups ∧ (t.link l).up = true ∧ (t.link l).down = false ∧ (t.link l).lanes = 0xFF ∧
    (t.link l).width = 0 ∧ (t.link l).training = false ∧ (t.link l).crc = (s.link l).crc ∧ ∀ inn, ((t.link l).dir inn).acks = [((s.link l).dir inn).expect] ∧
    ((t.link l).dir inn).expect = ((s.link l).dir inn).expect ∧ ((t.link l).dir inn).delivered = ((s.link l).dir inn).delivered)) ∧
  (∀ (s : State) (l : Nat) (v : DWord), v.getLsbD 0 = true →
    ((∃ e, s.resolve (l / 4) (v.extractLsb' 48 16).toNat = some e ∧ e.inject = true) → v.extractLsb' 32 16 ≠ 0 → v.extractLsb' 4 2 ≠ 3 → v.extractLsb' 9 7 = 0 → v.extractLsb' 2 2 = 0 →
      Answers (.finjctl l v) s (fun t => SameMemory s t ∧ t.groups = s.groups ∧ (t.link l).finjctl = v ∧ (t.link l).finjcnt = 0)) ∧
    ((s.resolve (l / 4) (v.extractLsb' 48 16).toNat = none ∨ (∃ e, s.resolve (l / 4) (v.extractLsb' 48 16).toNat = some e ∧ e.inject = false) ∨ v.extractLsb' 32 16 = 0 ∨ v.extractLsb' 4 2 = 3 ∨ v.extractLsb' 9 7 ≠ 0 ∨ v.extractLsb' 2 2 ≠ 0) →
      Answers (.finjctl l v) s (fun t => (t.link l).armed = false ∧ (t.link l).out = (s.link l).out ∧ (t.link l).into = (s.link l).into))) ∧
  (∀ (s : State) (l : Nat) (pay : DWord), let x := s.link l
    let y := x.out
    let lane := x.finj 8 6
    x.carries = true → y.waiting = [] → y.retry.length < 256 → x.armed = true → x.lanes.getLsbD lane = true →
    ((x.finjcnt + 1).toNat = x.finj 47 32 → Answers (.flitSend ⟨l, false⟩ pay) s (fun t => SameMemory s t ∧ t.groups = s.groups ∧ (t.link l).evt = true ∧
      (t.link l).armed = x.finjctl.getLsbD 1 ∧ let delay := x.finj 5 4 = 2
      (t.link l).out.wire = y.wire ++ [{
        num := y.next, pay := pay, hurt := if delay then 0 else 1 <<< lane, lanes := x.lanes, due := max s.now y.gate + if delay then 16 * x.finj 31 16 else 0 }])) ∧
    ((x.finjcnt + 1).toNat ≠ x.finj 47 32 → Answers (.flitSend ⟨l, false⟩ pay) s (fun t => (t.link l).finjcnt = x.finjcnt + 1 ∧
      (t.link l).out.wire = y.wire ++ [{ num := y.next, pay := pay, hurt := 0, lanes := x.lanes, due := max s.now y.gate }])))

/-- 26 R458, R459: GO starts a die's collective, and is ignored while one runs; an invalid descriptor gives the code 2 at COMPL, and ends the collective of every rank, at once or when that sets GO; it waits for
the package's other ranks; the tree pairs neighbours of one level, the lower rank first; a collective of one
rank gives its source, with the code 1. -/
def Sys2Proof.Claims.Collectives : Prop :=
  (∀ (s : State) (d : Nat), ((s.die d).collbusy = false → Answers (.collctlGo d) s (fun t => SameMemory s t ∧ t.groups = s.groups ∧ (t.die d).collbusy = true ∧ .collective d ∈ t.due)) ∧
    ((s.die d).collbusy = true → Answers (.collctlGo d) s (fun t => t = s))) ∧
  (∀ (f : Word → Word → Word) (a b c d e : Word), reduceTree f 12 [a] = a ∧ reduceTree f 12 [a, b] = f a b ∧ reduceTree f 12 [a, b, c] = f (f a b) c ∧
    reduceTree f 12 [a, b, c, d] = f (f a b) (f c d) ∧ reduceTree f 12 [a, b, c, d, e] = f (f (f a b) (f c d)) e) ∧
  (∀ (s : State) (d : Nat), let c := s.collDesc d
    (s.die d).collbusy = true → inDram (s.die d).colldesc.toNat 64 = true → (∀ k, (s.die k).remap = []) →
    (((s.collRanks d = none ∧ ∀ k < 4, k ≠ d → (s.die k).collbusy = false) ∨ (s.collRanks d = some [(c.rank, d)] ∧ c.valid = false)) → inDram c.compl 8 = true →
      Answers (.collectiveComplete d) s (fun t => (t.die d).collbusy = false ∧ t.groups = s.groups ∧
        t.bytesAt c.compl 8 = leBytes 8 2 ∧ ∀ a, a < c.compl ∨ c.compl + 8 ≤ a → t.byteAt a = s.byteAt a)) ∧
    (s.collRanks d = none → (∀ k < 4, k ≠ d → (s.die k).collbusy = false) → Answers (.collectiveComplete d) s (fun t => (t.die d).collbusy = false ∧
      ∀ k < 4, k ≠ d → k ∈ (t.die d).collOwes)) ∧
    (∀ l k, s.collRanks d = some l → s.collOwed d l = some k → inDram c.compl 8 = true → Answers (.collectiveComplete d) s (fun t => (t.die d).collbusy = false ∧
      t.groups = s.groups ∧ t.bytesAt c.compl 8 = leBytes 8 2 ∧ d ∉ (t.die k).collOwes)) ∧
    (∀ l, s.collRanks d = some l → s.collOwed d l = none → (∃ x ∈ l, (s.die x.2).collbusy = false) → Answers (.collectiveComplete d) s (fun t => t = s)) ∧
    (∀ l, s.collRanks d = some l → s.collOwed d l = none → (∀ x ∈ l, (s.die x.2).collbusy = true) → (∃ x ∈ l, (s.collDesc x.2).valid = false ∨ (s.collDesc x.2).count ≠ c.count) →
      Answers (.collectiveComplete d) s (fun t => t.groups = s.groups ∧ ∀ x ∈ l, (t.die x.2).collbusy = false)) ∧
    (c.valid = true → c.p = 1 → d < 4 → s.numAt (dramLoc 0 c.ranktab) 2 % 4 = d → (c.compl + 8 ≤ c.dst ∨ c.dst + c.count * c.size ≤ c.compl) →
      Answers (.collectiveComplete d) s (fun t => (t.die d).collbusy = false ∧ t.groups = s.groups ∧ t.bytesAt c.compl 8 = leBytes 8 1 ∧
        (∀ i, i < c.count * c.size → t.byteAt (c.dst + i) = s.byteAt (c.src + i)) ∧
        ∀ a, (a < c.compl ∨ c.compl + 8 ≤ a) → (a < c.dst ∨ c.dst + c.count * c.size ≤ a) → t.byteAt a = s.byteAt a)))

/-- 26 R460, R461: GO asks for a quote into an aligned buffer of DRAM, unless one is asked for; the leader writes it, with the nonce as it stood, the security version and measurement of its image, and nothing beyond its 1024 bytes, and sets DONE, only while
the lease is the one it holds. -/
def Sys2Proof.Claims.Quotes : Prop :=
  (∀ (s : State) (d : Nat), let x := s.die d
    (x.attbusy = false → x.attbuf.toNat % 1024 = 0 → x.attbuf.toNat + 1024 ≤ 2 ^ 37 → Answers (.attctlGo d) s (fun t => SameMemory s t ∧ t.groups = s.groups ∧ (t.die d).attbusy = true ∧ .quote d ∈ t.due)) ∧
    ((x.attbusy = true ∨ x.attbuf.toNat % 1024 ≠ 0 ∨ 2 ^ 37 < x.attbuf.toNat + 1024) → Answers (.attctlGo d) s (fun t => t = s))) ∧
  (∀ (s : State) (d lead : Nat), let a := (s.die d).attbuf.toNat
    (s.die d).attbusy = true → s.leader? = some lead → a + 1024 ≤ 2 ^ 37 → (∀ k, (s.die k).remap = []) →
    ((s.die lead).lead = some s.lease → Answers (.quoteSign d) s (fun t => (t.die d).attbusy = false ∧ (t.die d).attdone = true ∧ t.groups = s.groups ∧
      t.bytesAt a 4 = leBytes 4 0x4C515154 ∧ t.bytesAt (a + 8) 8 = leBytes 8 (s.lease.extractLsb' 48 14).toNat ∧ t.bytesAt (a + 24) 32 = s.bytesAt (a + 24) 32 ∧
      t.bytesAt (a + 56) 4 = leBytes 4 (svnOf (Config.flash lead 1)) ∧ t.bytesAt (a + 64) 32 = (measureOf (Config.flash lead 1) ++ List.replicate 32 0).take 32 ∧
      ∀ b, b < a ∨ a + 1024 ≤ b → t.byteAt b = s.byteAt b)) ∧
    ((s.die lead).lead ≠ some s.lease → Answers (.quoteSign d) s (fun t => t = s)))

/-! ## Uniform views, homes, steps, encodings, invariants -/

/-- 03 R69, R70: a uniform write splits each view of which some lanes, but not all, execute, and no other; where that would make a ninth view, the instruction traps with
UVIEW before any of its effects. -/
def Obligations.UniformViews : Prop :=
  (∀ (g h : Group) (m : BitVec 32), g.splitViews m = some h → h = { g with lanes := h.lanes } ∧
    (∀ l < 32, h.lane l = { g.lane l with view := (h.lane l).view }) ∧
    ∀ a < 32, ∀ b < 32, (g.lane a).exited = false → (g.lane b).exited = false →
      ((h.lane a).view = (h.lane b).view ↔ (g.lane a).view = (g.lane b).view ∧ m.getLsbD a = m.getLsbD b)) ∧
  (∀ (g : Group) (m : BitVec 32), (∀ v ∈ g.views, v < 8) → (g.splitViews m = none ↔
    8 < g.views.length + g.views.countP (fun v => decide (g.viewLanes v &&& m ≠ 0 ∧ g.viewLanes v &&& m ≠ g.viewLanes v)))) ∧
  (∀ (s : State) (g : Group) (o : OpA) (n : BitVec 6), s.group? s.cur.key = some g → o.dst = .s n → (g.advance s.cur).splitViews s.cur.lanes = none →
    ActsOnGroup (.mov o) s (fun h => h = g.raise { cause := 0x041, pc := s.cur.pc, lanes := s.cur.lanes }))

/-- 04 R106: the home of a byte is PA[36:35], combined under 4 KiB interleave with PA[13:12], PA[17:16] and PA[21:20], and under 64 KiB interleave with PA[17:16], PA[21:20] and
PA[25:24]; the byte lies at PA[34:0] on its home die. -/
def Obligations.HomesOfBytes : Prop :=
  ∀ pa : BitVec 37,
    (homeOf 0 pa.toNat = (pa.extractLsb' 35 2).toNat) ∧
    (homeOf 1 pa.toNat = (pa.extractLsb' 35 2 ^^^ pa.extractLsb' 12 2 ^^^ pa.extractLsb' 16 2 ^^^ pa.extractLsb' 20 2).toNat) ∧
    (homeOf 2 pa.toNat = (pa.extractLsb' 35 2 ^^^ pa.extractLsb' 16 2 ^^^ pa.extractLsb' 20 2 ^^^ pa.extractLsb' 24 2).toNat) ∧
    ∀ place, dramDie (dramLoc place pa.toNat) = homeOf place pa.toNat ∧ dramLoc place pa.toNat % 2 ^ 35 = (pa.extractLsb' 0 35).toNat

/-- 08 R183 to R187, R199, R207: the first instruction of a slice cycle whose address names an instruction of a line with good parity that passes the checks is executed, in the state whose
group stands as it stood and whose issuer and lanes are those of the address; accepted by the memory unit, its effects stand and the cycle goes on; otherwise nothing of it has happened, but that an LDF.rem sends the demands that it needs (05 R127). What an
address names: the op of its slot, a half of its pair, or the op after the modifying slot; a word that no instruction has is ILLEGAL, a bad parity LINEPAR. -/
def Obligations.StepRunsTheDecodedInstruction : Prop :=
  (∀ (s : State) (l : Latch) (k : Pick) (ks : List Pick) (key : Nat) (g : Group) (bs : List Byte) (c : Coding) (i : Instr) (npc : DWord) (f : Form) (n : Nat) (o : Op),
    s.latch = some l → l.todo = k :: ks → k.sec = false → k.second = false → l.group = some key → s.group? key = some g →
    (s.core (coreOf key)).cached (s.fetchRoot g) k.pc = some bs → reach bs k.pc = .ok (c, i, npc) → formOf i = some (f, n, o) →
    formLimits f g.nv (match s.block? g.blk with | some b => b.tiles.length | none => 0) o = none →
    let seen := s.curOf key g k c i npc
    let cur : Cur := { seen with ws := (s.slice (sliceOf key)).foundW l.baton k.pc, baton := l.baton, start := none }
    ({ s with cur := seen } : State).valueCheck g i = none → seen.wild = [] → seen.spoilt = [] → seen.psn = [] → seen.marred = [] → seen.at_ ≠ 0 →
    ∀ t, exec i { s.putGroup key (g.onLanes seen.at_ (fun _ x => { x with ready := 0 })) with cur } = .next t →
      (s.memAccepts t (coreOf key) = true → step s = .next (t.finish i cur l) ∧
        ∃ l', (t.finish i cur l).latch = some l' ∧ l'.todo = (if (t.group? key).any (·.trap.isSome) then ks.filter (fun k => !k.second) else ks) ∧
          l'.slice = l.slice ∧ l'.group = l.group) ∧
      (s.memAccepts t (coreOf key) = false → step s = .next { s.sendAsk t (coreOf key) with latch := some { l with todo := [] } }) ∧
      (t.cur.probe = none → s.sendAsk t (coreOf key) = s)) ∧
  (∀ (bs : List Byte) (pc : DWord) (j : Nat), lineParityOk bs = true → lineWord bs / 2 ^ 20 % 2 ^ 8 = 0 → j < 5 →
    (∀ c i r, pc.toNat % 64 = 12 * j → tplOf bs j = .op → decodeBytes .op (slotOf' bs j) = .ok (c, i, r) → reach bs pc = .ok (c, i, skipEmpty bs (lineBase pc) (j + 1))) ∧
    (∀ c i r, pc.toNat % 64 = 12 * j → tplOf bs j = .pair → decodeBytes .pair (slotOf' bs j) = .ok (c, i, r) → reach bs pc = .ok (c, i, pc + 6)) ∧
    (∀ c i r, pc.toNat % 64 = 12 * j + 6 → tplOf bs j = .pair → decodeBytes .pair ((slotOf' bs j).drop 6) = .ok (c, i, r) →
      reach bs pc = .ok (c, i, skipEmpty bs (lineBase pc) (j + 1))) ∧
    (∀ c i r, pc.toNat % 64 = 12 * j → tplOf bs j = .pfx → j < 4 → tplOf bs (j + 1) = .op → btmOf bs (j + 1) = false →
      decodeBytes .pfx (slotOf' bs j ++ slotOf' bs (j + 1)) = .ok (c, i, r) → reach bs pc = .ok (c, i, skipEmpty bs (lineBase pc) (j + 2))) ∧
    (∀ e, pc.toNat % 64 = 12 * j → tplOf bs j = .op → decodeBytes .op (slotOf' bs j) = .error e → reach bs pc = .error 0x001) ∧
    (pc.toNat % 64 = 12 * j → tplOf bs j = .pfx → (j = 4 ∨ tplOf bs (j + 1) ≠ .op ∨ btmOf bs (j + 1) = true) → reach bs pc = .error 0x004) ∧
    (pc.toNat % 64 % 6 ≠ 0 → reach bs pc = .error 0x003)) ∧
  (∀ (bs : List Byte) (pc : DWord), lineParityOk bs = false → reach bs pc = .error 0x002)

/-- 08 R192 to R200: words of the spec's own encodings are the instructions that the spec gives for them. -/
def Obligations.DecodesWords : Prop :=
  decodeTableWord 96 0x2407_0000_1C01_00B0_0200_03E8 =
    some (.mad { pfx := none, ty := .dflt, dst := .v 7, sa := .v 1, sb := .v 2, sc := .imm, rnd := 0, sat := true, imm := 0x3E8 }) ∧
  decodeTableWord 96 0x9407_0000_28C0_2080_4000_0008 =
    some (.lea { pfx := none, ty := .dflt, data := .v 10, brec := 3, index := .v 2, scope := 0, rem := false, aux := .p 1, glen := 0, imm := 8 }) ∧
  decodeTableWord 96 0xA207_0200_2CC0_18FF_C000_0000 =
    some (.atomnOr { pfx := none, ty := .dflt, data := .v 11, brec := 3, index := .v 1, scope := 4, rem := false, aux := .none, glen := 0, imm := 0 }) ∧
  decodeTableWord 48 0x0805_0000_0009 = some (.compactAddVi { dst := 5, sa := 0, sb := 0, imm := 9 })

/-- Encoding and decoding agree: every well-formed instruction has words, with each STALL, GUARD and modifying slot that fits it, and they decode to it, with all of its operands. -/
def Obligations.DecodeEncode : Prop :=
  ∀ (c : Coding) (i : Instr), i.legal c = true → ∃ w, encode c i = some w ∧ decode w = .ok (c, i)

/-- Every instruction and every step of the part answers a next state, whatever the state: no data ends a run (the model's own: notes/assumptions). -/
def Obligations.EveryStepAnswers : Prop :=
  (∀ (i : Instr) (s : State), ∃ t, exec i s = .next t) ∧ ∀ s : State, ∃ t, step s = .next t

/-- 00 R8: the bytes of DRAM, of the scratchpads and of the B-stores stay in canonical form (equal contents are equal data) through every step, from any state. -/
def Obligations.StepKeepsMemoryCanonical : Prop :=
  ∀ s t : State, s.memWf = true → step s = .next t → t.memWf = true

/-- The state after cold reset holds the values that the spec gives for reset, with nothing in memory and nothing resident: 01 R24, R31, R34, 25 R441, R443, 22 R365, 23 R391, 24 R423, 26 R452. -/
def Obligations.ResetState : Prop :=
  State.reset.memWf = true ∧ State.reset.dram = [] ∧ State.reset.groups = [] ∧ State.reset.blocks = [] ∧ State.reset.launches = [] ∧ State.reset.tgen = 0 ∧
  (∀ sl, let x := State.reset.slice sl
    x.cyc = 0 ∧ (∀ i, SMap.get (0 : Word) x.slottab i = 0) ∧ x.clkrat = 0 ∧ x.tokEn = false ∧ x.tokRate = 0 ∧ x.tokCap = 0x10) ∧
  (∀ c, (State.reset.core c).passcnt = 0) ∧
  (∀ d, let x := State.reset.die d
    x.trEn = false ∧ x.trLog2 = 6 ∧ x.trhead = 0 ∧ x.trtail = 0 ∧ x.intpend = 0 ∧ x.fwbusy = false ∧ (∀ k, SMap.get (0 : Word) x.introute k = 0) ∧
    ∀ q, (State.reset.queue d q).en = false ∧ (State.reset.queue d q).log2 = 4 ∧ (State.reset.queue d q).head = 0 ∧ (State.reset.queue d q).tail = 0) ∧
  (∀ l, (State.reset.link l).lanes = 0xFF ∧ (State.reset.link l).up = false ∧ (State.reset.link l).crc = 0) ∧
  State.reset.curalm = 0 ∧ State.reset.boosten = false ∧ State.reset.boost = false ∧ State.reset.dramWin = 0x03E8_03E8_03E8_03E8

/-! ## Statements in several parts -/

/-- The forms that write a pair, and the moves (the rules stand at the parts, IntegerPairs and Moves). -/
def Obligations.IntegerPairsAndMoves : Prop := Sys2Proof.Claims.IntegerPairs ∧ Sys2Proof.Claims.Moves

/-- Logic, shifts, bit fields, compares, predicate logic and select (the rules stand at the parts, LogicAndShifts and ComparePredicateSelect). -/
def Obligations.LogicShiftsAndPredicates : Prop := Sys2Proof.Claims.LogicAndShifts ∧ Sys2Proof.Claims.ComparePredicateSelect

/-- The forms that write, read and address by buffer records (the rules stand at the parts, BufferRecordWrites and BufferRecordReads). -/
def Obligations.BufferRecords : Prop := Sys2Proof.Claims.BufferRecordWrites ∧ Sys2Proof.Claims.BufferRecordReads

/-- The smaller and the larger, signs, classes and compares (the rules stand at the parts, FloatSigns and FloatCompare). -/
def Obligations.FloatSignsAndCompares : Prop := Sys2Proof.Claims.FloatSigns ∧ Sys2Proof.Claims.FloatCompare

/-- The rounded forms of one element and of two, and the approximations, whose own values are free (log 8; the rules
stand at the parts, FloatArithmetic, FloatTwoWide and Approximations). -/
def Obligations.FloatArithmeticAndApproximations : Prop := Sys2Proof.Claims.FloatArithmetic ∧ Sys2Proof.Claims.FloatTwoWide ∧ Sys2Proof.Claims.Approximations

/-- Atomics are handed to the memory unit, and fences order it (the rules stand at the parts, AtomicsIssue and Fences). -/
def Obligations.AtomicsAndFencesIssue : Prop := Sys2Proof.Claims.AtomicsIssue ∧ Sys2Proof.Claims.Fences

/-- Branches, votes, calls and returns (the rules stand at the parts, Transfers and CallsAndReturns). -/
def Obligations.TransfersAndCalls : Prop := Sys2Proof.Claims.Transfers ∧ Sys2Proof.Claims.CallsAndReturns

/-- Masks, votes and joins (the rules stand at the parts, MasksAndVotes and Joins). -/
def Obligations.MasksVotesAndJoins : Prop := Sys2Proof.Claims.MasksAndVotes ∧ Sys2Proof.Claims.Joins

/-- Passing a baton, parking and exiting (the rules stand at the parts, BatonPassing and ParkAndExit). -/
def Obligations.BatonsParkAndExit : Prop := Sys2Proof.Claims.BatonPassing ∧ Sys2Proof.Claims.ParkAndExit

/-- The loads hand their checked accesses to the memory unit (the rules stand at the parts, LoadsIssue and FormattedLoad). -/
def Obligations.LoadsIssueChecked : Prop := Sys2Proof.Claims.LoadsIssue ∧ Sys2Proof.Claims.FormattedLoad

/-- The stores, fills and multicasts hand their accesses to the memory unit (the rules stand at the parts, StoresIssue and MulticastIssues). -/
def Obligations.StoresAndMulticastIssue : Prop := Sys2Proof.Claims.StoresIssue ∧ Sys2Proof.Claims.MulticastIssues

/-- The memory unit performs what it was handed (the rules stand at the parts, LoadsPerform and StoresPerform). -/
def Obligations.RequestsPerform : Prop := Sys2Proof.Claims.LoadsPerform ∧ Sys2Proof.Claims.StoresPerform

/-- Inbound entries, credits and notices; promotion (the rules stand at the parts, InboundEntries and Promotion). -/
def Obligations.EntriesAndPromotion : Prop := Sys2Proof.Claims.InboundEntries ∧ Sys2Proof.Claims.Promotion

/-- An atomic is applied once, with the value of its operation (the rules stand at the parts, AtomicsPerform and AtomicOperations). -/
def Obligations.AtomicsPerformOnce : Prop := Sys2Proof.Claims.AtomicsPerform ∧ Sys2Proof.Claims.AtomicOperations

/-- Every compact form completes as the 96-bit op that its COP names (the rules stand at the parts, CompactResults and CompactMemory). -/
def Obligations.CompactForms : Prop := Sys2Proof.Claims.CompactResults ∧ Sys2Proof.Claims.CompactMemory

/-- Copies are built, started, awaited and asked about (the rules stand at the parts, CopyInstructions and CopyKick). -/
def Obligations.CopiesBuiltAndKicked : Prop := Sys2Proof.Claims.CopyInstructions ∧ Sys2Proof.Claims.CopyKick

/-- Tile descriptors, accumulator tiles and B-store loads (the rules stand at the parts, DescriptorsAndTiles and BStoreLoads). -/
def Obligations.DescriptorsTilesAndBStore : Prop := Sys2Proof.Claims.DescriptorsAndTiles ∧ Sys2Proof.Claims.BStoreLoads

/-- Jobs are queued and awaited (the rules stand at the parts, JobsQueue and JobsAwaited). -/
def Obligations.JobsQueuedAndAwaited : Prop := Sys2Proof.Claims.JobsQueue ∧ Sys2Proof.Claims.JobsAwaited

/-- A job iterates, drains and ends (the rules stand at the parts, AnvilIterates and AnvilDrainsAndEnds). -/
def Obligations.AnvilRuns : Prop := Sys2Proof.Claims.AnvilIterates ∧ Sys2Proof.Claims.AnvilDrainsAndEnds

/-- System calls and their completions (the rules stand at the parts, SystemCalls and SystemCallCompletions). -/
def Obligations.SystemCallsCompleteInTurn : Prop := Sys2Proof.Claims.SystemCalls ∧ Sys2Proof.Claims.SystemCallCompletions

/-- Breaks, timers, checkpoints and hints (the rules stand at the parts, BreaksAndTimers and CheckpointsAndHints). -/
def Obligations.BreaksTimersCheckpointsHints : Prop := Sys2Proof.Claims.BreaksAndTimers ∧ Sys2Proof.Claims.CheckpointsAndHints

/-- Records at Vane, its launches, and the ends of graphs (the rules stand at the parts, RecordsMove, BinsLaunch and GraphStatusAndEnd). -/
def Obligations.VaneRecordsBinsAndGraphs : Prop := Sys2Proof.Claims.RecordsMove ∧ Sys2Proof.Claims.BinsLaunch ∧ Sys2Proof.Claims.GraphStatusAndEnd

/-- The queue registers and the commands (the rules stand at the parts, QueueRegisters and Commands). -/
def Obligations.QueuesAndCommands : Prop := Sys2Proof.Claims.QueueRegisters ∧ Sys2Proof.Claims.Commands

/-- Launches are accepted, and their blocks start and end (the rules stand at the parts, LaunchesAccepted and BlocksStartAndEnd). -/
def Obligations.LaunchesAndBlocks : Prop := Sys2Proof.Claims.LaunchesAccepted ∧ Sys2Proof.Claims.BlocksStartAndEnd

/-- Requests of the firmware about regions, and the leader's leases (the rules stand at the parts, RegionRequests and Leases). -/
def Obligations.RegionsAndLeases : Prop := Sys2Proof.Claims.RegionRequests ∧ Sys2Proof.Claims.Leases

/-- Taking a trap, and its delivery to the ring and to software (the rules stand at the parts, TrapsAreTaken and TrapDelivery). -/
def Obligations.TrapsTakenAndDelivered : Prop := Sys2Proof.Claims.TrapsAreTaken ∧ Sys2Proof.Claims.TrapDelivery

/-- Table generations and the migration of a frame (the rules stand at the parts, TableGenerations and Migration). -/
def Obligations.TablesAndMigration : Prop := Sys2Proof.Claims.TableGenerations ∧ Sys2Proof.Claims.Migration

/-- Slice cycles, banks, line fills and walks (the rules stand at the parts, SliceCycles, CollectorsAndBanks and LineFillsAndWalks). -/
def Obligations.SlicesBanksAndFills : Prop := Sys2Proof.Claims.SliceCycles ∧ Sys2Proof.Claims.CollectorsAndBanks ∧ Sys2Proof.Claims.LineFillsAndWalks

/-- The control windows, interrupts, the harts' LQDEVATTR and PCI Express (the rules stand at the parts, InterruptRoutes, RegisterWrites, DeviceAttributes and PeersOfTheLinks). -/
def Obligations.WindowsInterruptsPeers : Prop :=
  Sys2Proof.Claims.InterruptRoutes ∧ Sys2Proof.Claims.RegisterWrites ∧ Sys2Proof.Claims.DeviceAttributes ∧ Sys2Proof.Claims.PeersOfTheLinks

/-- Alarms, boost, idle states, and the clock and token registers (the rules stand at the parts, AlarmsAndBoost, IdleStates and ClockAndTokenRegisters). -/
def Obligations.PowerClocksAndIdle : Prop := Sys2Proof.Claims.AlarmsAndBoost ∧ Sys2Proof.Claims.IdleStates ∧ Sys2Proof.Claims.ClockAndTokenRegisters

/-- The links of the fabric (the rules stand at the parts, LinkDelivery and LinkWidthAndFaults). -/
def Obligations.FabricLinks : Prop := Sys2Proof.Claims.LinkDelivery ∧ Sys2Proof.Claims.LinkWidthAndFaults

/-- Collectives and quotes (the rules stand at the parts, Collectives and Quotes). -/
def Obligations.CollectivesAndQuotes : Prop := Sys2Proof.Claims.Collectives ∧ Sys2Proof.Claims.Quotes

/-- Lane exchanges, reductions and scans (the rules stand at the parts, LaneExchanges and ReductionsAndScans). -/
def Obligations.ExchangesReductionsScans : Prop := Sys2Proof.Claims.LaneExchanges ∧ Sys2Proof.Claims.ReductionsAndScans
end

