-- ==== Sys2Proof/Laws/Map.lean ====
section
/-! SUPPORT. What the finite maps and memory do: a read after a write, and that every write keeps the canonical form. -/

namespace Sys2Proof.Machine

variable {α : Type}

namespace SMap

@[simp] theorem find?_nil (k : Nat) : SMap.find? ([] : SMap α) k = none := rfl

theorem find?_cons (j k : Nat) (v : α) (l : SMap α) :
    SMap.find? ((j, v) :: l) k = if j = k then some v else SMap.find? l k := rfl

theorem find?_del (m : SMap α) (k a : Nat) : SMap.find? (m.del k) a = if a = k then none else SMap.find? m a := by
  induction m with
  | nil => simp [SMap.del]
  | cons x l ih =>
    obtain ⟨j, v⟩ := x
    simp only [SMap.del]
    split
    · rename_i h; subst h; rw [ih, find?_cons]
      by_cases e : a = j
      · simp [e]
      · simp [e, Ne.symm e]
    · rename_i h; rw [find?_cons, find?_cons, ih]
      by_cases e : a = k
      · subst e; simp [h]
      · simp [e]

theorem find?_insert (m : SMap α) (k a : Nat) (v : α) (h : SMap.find? m k = none) :
    SMap.find? (m.insert k v) a = if a = k then some v else SMap.find? m a := by
  induction m with
  | nil => simp only [SMap.insert, find?_cons, find?_nil]; by_cases e : k = a <;> simp [e, eq_comm]
  | cons x l ih =>
    obtain ⟨j, w⟩ := x
    simp only [find?_cons] at h
    have hj : j ≠ k := by intro e; simp [e] at h
    simp only [SMap.insert]
    split
    · rw [find?_cons]; by_cases e : a = k <;> simp_all [eq_comm]
    · rw [find?_cons, find?_cons, ih (by simpa [hj] using h)]
      by_cases e : a = k
      · subst e; simp [hj]
      · simp [e]

/-- A read after a write. -/
theorem find?_put (m : SMap α) (k a : Nat) (v : α) : SMap.find? (m.put k v) a = if a = k then some v else SMap.find? m a := by
  unfold SMap.put
  rw [find?_insert _ _ _ _ (by simp [find?_del]), find?_del]
  split <;> simp_all

@[simp] theorem find?_put_self (m : SMap α) (k : Nat) (v : α) : SMap.find? (m.put k v) k = some v := by simp [find?_put]

theorem find?_put_ne (m : SMap α) {k a : Nat} (v : α) (h : a ≠ k) : SMap.find? (m.put k v) a = SMap.find? m a := by
  simp [find?_put, h]

theorem get_put (d : α) (m : SMap α) (k a : Nat) (v : α) : SMap.get d (m.put k v) a = if a = k then v else SMap.get d m a := by
  simp only [SMap.get, find?_put]; split <;> simp

@[simp] theorem get_put_self (d : α) (m : SMap α) (k : Nat) (v : α) : SMap.get d (m.put k v) k = v := by simp [get_put]

theorem get_del (d : α) (m : SMap α) (k a : Nat) : SMap.get d (m.del k) a = if a = k then d else SMap.get d m a := by
  simp only [SMap.get, find?_del]; split <;> simp

/-- A read after a write to a map with a default. -/
theorem get_set [DecidableEq α] (d : α) (m : SMap α) (k a : Nat) (v : α) :
    SMap.get d (m.set d k v) a = if a = k then v else SMap.get d m a := by
  unfold SMap.set
  split
  · rename_i h; rw [get_del, h]
  · rw [get_put]

/-! ### The canonical form -/

/-- Every key of a map is above a number. -/
def above (k : Nat) (m : SMap α) : Prop := ∀ c ∈ m, k < c.1

theorem sorted_cons (j : Nat) (v : α) (l : SMap α) : SMap.sorted ((j, v) :: l) = true ↔ above j l ∧ SMap.sorted l = true := by
  induction l generalizing j v with
  | nil => simp [SMap.sorted, above]
  | cons x l ih =>
    obtain ⟨k, w⟩ := x
    simp only [SMap.sorted, Bool.and_eq_true, decide_eq_true_eq]
    constructor
    · rintro ⟨h1, h2⟩
      refine ⟨?_, h2⟩
      intro c hc
      rcases List.mem_cons.1 hc with rfl | hc
      · exact h1
      · exact Nat.lt_trans h1 (((ih k w).1 h2).1 c hc)
    · rintro ⟨h1, h2⟩
      exact ⟨h1 (k, w) (List.mem_cons_self ..), h2⟩

theorem mem_del (m : SMap α) (k : Nat) (c : Nat × α) (h : c ∈ m.del k) : c ∈ m := by
  induction m with
  | nil => simp [SMap.del] at h
  | cons x l ih =>
    obtain ⟨j, v⟩ := x
    simp only [SMap.del] at h
    split at h
    · exact List.mem_cons_of_mem _ (ih h)
    · rcases List.mem_cons.1 h with rfl | h
      · exact List.mem_cons_self ..
      · exact List.mem_cons_of_mem _ (ih h)

theorem mem_insert (m : SMap α) (k : Nat) (v : α) (c : Nat × α) (h : c ∈ m.insert k v) : c = (k, v) ∨ c ∈ m := by
  induction m with
  | nil => simpa [SMap.insert] using h
  | cons x l ih =>
    obtain ⟨j, w⟩ := x
    simp only [SMap.insert] at h
    split at h
    · simpa using h
    · rcases List.mem_cons.1 h with rfl | h
      · exact .inr (List.mem_cons_self ..)
      · rcases ih h with h | h
        · exact .inl h
        · exact .inr (List.mem_cons_of_mem _ h)

theorem sorted_del (m : SMap α) (k : Nat) (h : m.sorted = true) : (m.del k).sorted = true := by
  induction m with
  | nil => rfl
  | cons x l ih =>
    obtain ⟨j, v⟩ := x
    have := (sorted_cons j v l).1 h
    simp only [SMap.del]
    split
    · exact ih this.2
    · exact (sorted_cons ..).2 ⟨fun c hc => this.1 c (mem_del _ _ _ hc), ih this.2⟩

theorem sorted_insert (m : SMap α) (k : Nat) (v : α) (h : m.sorted = true) (hk : ∀ c ∈ m, c.1 ≠ k) : (m.insert k v).sorted = true := by
  induction m with
  | nil => rfl
  | cons x l ih =>
    obtain ⟨j, w⟩ := x
    have := (sorted_cons j w l).1 h
    simp only [SMap.insert]
    split
    · rename_i hlt
      refine (sorted_cons ..).2 ⟨?_, h⟩
      intro c hc
      rcases List.mem_cons.1 hc with rfl | hc
      · exact hlt
      · exact Nat.lt_trans hlt (this.1 c hc)
    · rename_i hge
      have hjk : j ≠ k := hk (j, w) (List.mem_cons_self ..)
      refine (sorted_cons ..).2 ⟨?_, ih this.2 (fun c hc => hk c (List.mem_cons_of_mem _ hc))⟩
      intro c hc
      rcases mem_insert _ _ _ _ hc with rfl | hc
      · show j < k; omega
      · exact this.1 c hc

theorem not_mem_del (m : SMap α) (k : Nat) : ∀ c ∈ m.del k, c.1 ≠ k := by
  induction m with
  | nil => intro c hc; simp [SMap.del] at hc
  | cons x l ih =>
    obtain ⟨j, v⟩ := x
    simp only [SMap.del]
    split
    · exact ih
    · rename_i h
      intro c hc
      rcases List.mem_cons.1 hc with rfl | hc
      · exact h
      · exact ih c hc

theorem del_of_not_mem (m : SMap α) (k : Nat) (h : ∀ c ∈ m, c.1 ≠ k) : m.del k = m := by
  induction m with
  | nil => rfl
  | cons c l ih =>
    obtain ⟨j, w⟩ := c
    rw [SMap.del, if_neg (h (j, w) (by simp)), ih (fun c hc => h c (by simp [hc]))]

theorem del_insert (m : SMap α) (k : Nat) (v : α) (h : ∀ c ∈ m, c.1 ≠ k) : (m.insert k v).del k = m := by
  induction m with
  | nil => simp [SMap.insert, SMap.del]
  | cons c l ih =>
    obtain ⟨j, w⟩ := c
    have hj : j ≠ k := h (j, w) (by simp)
    have hl : ∀ c ∈ l, c.1 ≠ k := fun c hc => h c (by simp [hc])
    unfold SMap.insert
    split
    · rw [SMap.del, if_pos rfl]; exact del_of_not_mem _ _ h
    · rw [SMap.del, if_neg hj, ih hl]

/-- The last write of a key is the one that stays. -/
@[simp] theorem put_put (m : SMap α) (k : Nat) (v w : α) : (m.put k v).put k w = m.put k w := by
  unfold SMap.put; rw [del_insert _ _ _ (not_mem_del m k)]

theorem sorted_put (m : SMap α) (k : Nat) (v : α) (h : m.sorted = true) : (m.put k v).sorted = true :=
  sorted_insert _ _ _ (sorted_del _ _ h) (not_mem_del m k)

theorem canon_iff [DecidableEq α] (d : α) (m : SMap α) : m.canon d = true ↔ m.sorted = true ∧ ∀ c ∈ m, c.2 ≠ d := by
  simp [SMap.canon, List.all_eq_true]

/-- A write to a map with a default keeps its canonical form. -/
theorem canon_set [DecidableEq α] (d : α) (m : SMap α) (k : Nat) (v : α) (h : m.canon d = true) : (m.set d k v).canon d = true := by
  rw [canon_iff] at h ⊢
  unfold SMap.set
  split
  · exact ⟨sorted_del _ _ h.1, fun c hc => h.2 c (mem_del _ _ _ hc)⟩
  · rename_i hv
    refine ⟨sorted_put _ _ _ h.1, fun c hc => ?_⟩
    rcases mem_insert _ _ _ _ hc with rfl | hc
    · exact hv
    · exact h.2 c (mem_del _ _ _ hc)

theorem sorted_filter (p : Nat × α → Bool) (m : SMap α) (h : m.sorted = true) : SMap.sorted (m.filter p) = true := by
  induction m with
  | nil => rfl
  | cons x l ih =>
    obtain ⟨j, v⟩ := x
    have := (sorted_cons j v l).1 h
    simp only [List.filter_cons]
    split
    · exact (sorted_cons ..).2 ⟨fun c hc => this.1 c ((List.mem_filter.1 hc).1), ih this.2⟩
    · exact ih this.2

theorem canon_filter [DecidableEq α] (d : α) (p : Nat × α → Bool) (m : SMap α) (h : m.canon d = true) :
    SMap.canon d (m.filter p) = true := by
  rw [canon_iff] at h ⊢
  exact ⟨sorted_filter p m h.1, fun c hc => h.2 c ((List.mem_filter.1 hc).1)⟩

/-- Maps with a key-separated place between them join in canonical form. -/
theorem sorted_append (m n : SMap α) (hm : m.sorted = true) (hn : n.sorted = true) (h : ∀ a ∈ m, ∀ b ∈ n, a.1 < b.1) :
    SMap.sorted (m ++ n) = true := by
  induction m with
  | nil => simpa using hn
  | cons x l ih =>
    obtain ⟨j, v⟩ := x
    have := (sorted_cons j v l).1 hm
    refine (sorted_cons ..).2 ⟨?_, ih this.2 (fun a ha => h a (List.mem_cons_of_mem _ ha))⟩
    intro c hc
    rcases List.mem_append.1 hc with hc | hc
    · exact this.1 c hc
    · exact h (j, v) (List.mem_cons_self ..) c hc

end SMap

/-! ## Memory -/

namespace Mem

/-- A byte read after a byte was written. -/
theorem byte_setByte (m : Mem) (a b : Nat) (x : Byte) : (m.setByte a x).byte b = if b = a then x else m.byte b :=
  SMap.get_set ..

@[simp] theorem byte_setByte_self (m : Mem) (a : Nat) (x : Byte) : (m.setByte a x).byte a = x := by simp [byte_setByte]

/-- Writing a byte keeps the canonical form. -/
theorem wf_setByte (m : Mem) (a : Nat) (x : Byte) (h : m.wf = true) : (m.setByte a x).wf = true := SMap.canon_set _ _ _ _ h

theorem wf_setBytes (l : List Byte) (m : Mem) (a : Nat) (h : m.wf = true) : (m.setBytes a l).wf = true := by
  induction l generalizing m a with
  | nil => exact h
  | cons b l ih => exact ih _ _ (wf_setByte _ _ _ h)

/-- Bytes read after bytes were written: those written, and every other byte as before. -/
theorem byte_setBytes (l : List Byte) (m : Mem) (a b : Nat) :
    (m.setBytes a l).byte b = if a ≤ b ∧ b < a + l.length then l.getD (b - a) 0 else m.byte b := by
  induction l generalizing m a with
  | nil => simp only [Mem.setBytes, List.length_nil, Nat.add_zero]; rw [if_neg (by omega)]
  | cons x l ih =>
    simp only [Mem.setBytes, ih, byte_setByte, List.length_cons]
    by_cases h : b = a
    · subst h; rw [if_neg (by omega), if_pos rfl, if_pos (by omega)]; simp
    · by_cases h2 : a + 1 ≤ b ∧ b < a + 1 + l.length
      · rw [if_pos h2, if_pos (by omega)]
        have : b - a = (b - (a + 1)) + 1 := by omega
        rw [this, List.getD_cons_succ]
      · rw [if_neg h2, if_neg h, if_neg (by omega)]

theorem wf_clear (m : Mem) (a n : Nat) (h : m.wf = true) : (m.clear a n).wf = true := SMap.canon_filter _ _ _ h

theorem wf_nil : Mem.wf [] = true := rfl

end Mem

end Sys2Proof.Machine
end

