-- ==== Sys2Proof/Laws/State.lean ====
section
/-! SUPPORT. Each field of the state and of a group after each of their updates, and what the named reads give after the named writes. -/

namespace Sys2Proof.Machine

open Sys2Proof

/-! ## Fields of the state -/

section putGroup
variable (s : State) (k : Nat) (x : Group)

@[simp] theorem State.putGroup_now : (s.putGroup k x).now = s.now := rfl
@[simp] theorem State.putGroup_dram : (s.putGroup k x).dram = s.dram := rfl
@[simp] theorem State.putGroup_sram : (s.putGroup k x).sram = s.sram := rfl
@[simp] theorem State.putGroup_emptyw : (s.putGroup k x).emptyw = s.emptyw := rfl
@[simp] theorem State.putGroup_bst : (s.putGroup k x).bst = s.bst := rfl
@[simp] theorem State.putGroup_bck : (s.putGroup k x).bck = s.bck := rfl
@[simp] theorem State.putGroup_ecc : (s.putGroup k x).ecc = s.ecc := rfl
@[simp] theorem State.putGroup_groups : (s.putGroup k x).groups = s.groups.put k x := rfl
@[simp] theorem State.putGroup_slices : (s.putGroup k x).slices = s.slices := rfl
@[simp] theorem State.putGroup_cores : (s.putGroup k x).cores = s.cores := rfl
@[simp] theorem State.putGroup_dies : (s.putGroup k x).dies = s.dies := rfl
@[simp] theorem State.putGroup_blocks : (s.putGroup k x).blocks = s.blocks := rfl
@[simp] theorem State.putGroup_launches : (s.putGroup k x).launches = s.launches := rfl
@[simp] theorem State.putGroup_graphs : (s.putGroup k x).graphs = s.graphs := rfl
@[simp] theorem State.putGroup_twins : (s.putGroup k x).twins = s.twins := rfl
@[simp] theorem State.putGroup_tgen : (s.putGroup k x).tgen = s.tgen := rfl
@[simp] theorem State.putGroup_regtab : (s.putGroup k x).regtab = s.regtab := rfl
@[simp] theorem State.putGroup_admitted : (s.putGroup k x).admitted = s.admitted := rfl
@[simp] theorem State.putGroup_rspace : (s.putGroup k x).rspace = s.rspace := rfl
@[simp] theorem State.putGroup_susp : (s.putGroup k x).susp = s.susp := rfl
@[simp] theorem State.putGroup_lease : (s.putGroup k x).lease = s.lease := rfl
@[simp] theorem State.putGroup_handover : (s.putGroup k x).handover = s.handover := rfl
@[simp] theorem State.putGroup_curalm : (s.putGroup k x).curalm = s.curalm := rfl
@[simp] theorem State.putGroup_boosten : (s.putGroup k x).boosten = s.boosten := rfl
@[simp] theorem State.putGroup_boost : (s.putGroup k x).boost = s.boost := rfl
@[simp] theorem State.putGroup_boostGrant : (s.putGroup k x).boostGrant = s.boostGrant := rfl
@[simp] theorem State.putGroup_pwrLimit : (s.putGroup k x).pwrLimit = s.pwrLimit := rfl
@[simp] theorem State.putGroup_pwrAvg : (s.putGroup k x).pwrAvg = s.pwrAvg := rfl
@[simp] theorem State.putGroup_diePwr : (s.putGroup k x).diePwr = s.diePwr := rfl
@[simp] theorem State.putGroup_temp : (s.putGroup k x).temp = s.temp := rfl
@[simp] theorem State.putGroup_dramWin : (s.putGroup k x).dramWin = s.dramWin := rfl
@[simp] theorem State.putGroup_energy : (s.putGroup k x).energy = s.energy := rfl
@[simp] theorem State.putGroup_harts : (s.putGroup k x).harts = s.harts := rfl
@[simp] theorem State.putGroup_imsic : (s.putGroup k x).imsic = s.imsic := rfl
@[simp] theorem State.putGroup_irqs : (s.putGroup k x).irqs = s.irqs := rfl
@[simp] theorem State.putGroup_parked : (s.putGroup k x).parked = s.parked := rfl
@[simp] theorem State.putGroup_emitted : (s.putGroup k x).emitted = s.emitted := rfl
@[simp] theorem State.putGroup_vops : (s.putGroup k x).vops = s.vops := rfl
@[simp] theorem State.putGroup_notices : (s.putGroup k x).notices = s.notices := rfl
@[simp] theorem State.putGroup_completions : (s.putGroup k x).completions = s.completions := rfl
@[simp] theorem State.putGroup_rels : (s.putGroup k x).rels = s.rels := rfl
@[simp] theorem State.putGroup_il4 : (s.putGroup k x).il4 = s.il4 := rfl
@[simp] theorem State.putGroup_il64 : (s.putGroup k x).il64 = s.il64 := rfl
@[simp] theorem State.putGroup_pool : (s.putGroup k x).pool = s.pool := rfl
@[simp] theorem State.putGroup_agenda : (s.putGroup k x).agenda = s.agenda := rfl
@[simp] theorem State.putGroup_due : (s.putGroup k x).due = s.due := rfl
@[simp] theorem State.putGroup_turn : (s.putGroup k x).turn = s.turn := rfl
@[simp] theorem State.putGroup_latch : (s.putGroup k x).latch = s.latch := rfl
@[simp] theorem State.putGroup_cur : (s.putGroup k x).cur = s.cur := rfl
@[simp] theorem State.putGroup_free : (s.putGroup k x).free = s.free := rfl
@[simp] theorem State.putGroup_ans : (s.putGroup k x).ans = s.ans := rfl
@[simp] theorem State.putGroup_uid : (s.putGroup k x).uid = s.uid := rfl

end putGroup

section putSlice
variable (s : State) (k : Nat) (x : Slice)

@[simp] theorem State.putSlice_now : (s.putSlice k x).now = s.now := rfl
@[simp] theorem State.putSlice_dram : (s.putSlice k x).dram = s.dram := rfl
@[simp] theorem State.putSlice_sram : (s.putSlice k x).sram = s.sram := rfl
@[simp] theorem State.putSlice_emptyw : (s.putSlice k x).emptyw = s.emptyw := rfl
@[simp] theorem State.putSlice_bst : (s.putSlice k x).bst = s.bst := rfl
@[simp] theorem State.putSlice_bck : (s.putSlice k x).bck = s.bck := rfl
@[simp] theorem State.putSlice_ecc : (s.putSlice k x).ecc = s.ecc := rfl
@[simp] theorem State.putSlice_groups : (s.putSlice k x).groups = s.groups := rfl
@[simp] theorem State.putSlice_slices : (s.putSlice k x).slices = s.slices.put k x := rfl
@[simp] theorem State.putSlice_cores : (s.putSlice k x).cores = s.cores := rfl
@[simp] theorem State.putSlice_dies : (s.putSlice k x).dies = s.dies := rfl
@[simp] theorem State.putSlice_blocks : (s.putSlice k x).blocks = s.blocks := rfl
@[simp] theorem State.putSlice_launches : (s.putSlice k x).launches = s.launches := rfl
@[simp] theorem State.putSlice_graphs : (s.putSlice k x).graphs = s.graphs := rfl
@[simp] theorem State.putSlice_twins : (s.putSlice k x).twins = s.twins := rfl
@[simp] theorem State.putSlice_tgen : (s.putSlice k x).tgen = s.tgen := rfl
@[simp] theorem State.putSlice_regtab : (s.putSlice k x).regtab = s.regtab := rfl
@[simp] theorem State.putSlice_admitted : (s.putSlice k x).admitted = s.admitted := rfl
@[simp] theorem State.putSlice_rspace : (s.putSlice k x).rspace = s.rspace := rfl
@[simp] theorem State.putSlice_susp : (s.putSlice k x).susp = s.susp := rfl
@[simp] theorem State.putSlice_lease : (s.putSlice k x).lease = s.lease := rfl
@[simp] theorem State.putSlice_handover : (s.putSlice k x).handover = s.handover := rfl
@[simp] theorem State.putSlice_curalm : (s.putSlice k x).curalm = s.curalm := rfl
@[simp] theorem State.putSlice_boosten : (s.putSlice k x).boosten = s.boosten := rfl
@[simp] theorem State.putSlice_boost : (s.putSlice k x).boost = s.boost := rfl
@[simp] theorem State.putSlice_boostGrant : (s.putSlice k x).boostGrant = s.boostGrant := rfl
@[simp] theorem State.putSlice_pwrLimit : (s.putSlice k x).pwrLimit = s.pwrLimit := rfl
@[simp] theorem State.putSlice_pwrAvg : (s.putSlice k x).pwrAvg = s.pwrAvg := rfl
@[simp] theorem State.putSlice_diePwr : (s.putSlice k x).diePwr = s.diePwr := rfl
@[simp] theorem State.putSlice_temp : (s.putSlice k x).temp = s.temp := rfl
@[simp] theorem State.putSlice_dramWin : (s.putSlice k x).dramWin = s.dramWin := rfl
@[simp] theorem State.putSlice_energy : (s.putSlice k x).energy = s.energy := rfl
@[simp] theorem State.putSlice_harts : (s.putSlice k x).harts = s.harts := rfl
@[simp] theorem State.putSlice_imsic : (s.putSlice k x).imsic = s.imsic := rfl
@[simp] theorem State.putSlice_irqs : (s.putSlice k x).irqs = s.irqs := rfl
@[simp] theorem State.putSlice_parked : (s.putSlice k x).parked = s.parked := rfl
@[simp] theorem State.putSlice_emitted : (s.putSlice k x).emitted = s.emitted := rfl
@[simp] theorem State.putSlice_vops : (s.putSlice k x).vops = s.vops := rfl
@[simp] theorem State.putSlice_notices : (s.putSlice k x).notices = s.notices := rfl
@[simp] theorem State.putSlice_completions : (s.putSlice k x).completions = s.completions := rfl
@[simp] theorem State.putSlice_rels : (s.putSlice k x).rels = s.rels := rfl
@[simp] theorem State.putSlice_il4 : (s.putSlice k x).il4 = s.il4 := rfl
@[simp] theorem State.putSlice_il64 : (s.putSlice k x).il64 = s.il64 := rfl
@[simp] theorem State.putSlice_pool : (s.putSlice k x).pool = s.pool := rfl
@[simp] theorem State.putSlice_agenda : (s.putSlice k x).agenda = s.agenda := rfl
@[simp] theorem State.putSlice_due : (s.putSlice k x).due = s.due := rfl
@[simp] theorem State.putSlice_turn : (s.putSlice k x).turn = s.turn := rfl
@[simp] theorem State.putSlice_latch : (s.putSlice k x).latch = s.latch := rfl
@[simp] theorem State.putSlice_cur : (s.putSlice k x).cur = s.cur := rfl
@[simp] theorem State.putSlice_free : (s.putSlice k x).free = s.free := rfl
@[simp] theorem State.putSlice_ans : (s.putSlice k x).ans = s.ans := rfl
@[simp] theorem State.putSlice_uid : (s.putSlice k x).uid = s.uid := rfl

end putSlice

section putCore
variable (s : State) (k : Nat) (x : Core)

@[simp] theorem State.putCore_now : (s.putCore k x).now = s.now := rfl
@[simp] theorem State.putCore_dram : (s.putCore k x).dram = s.dram := rfl
@[simp] theorem State.putCore_sram : (s.putCore k x).sram = s.sram := rfl
@[simp] theorem State.putCore_emptyw : (s.putCore k x).emptyw = s.emptyw := rfl
@[simp] theorem State.putCore_bst : (s.putCore k x).bst = s.bst := rfl
@[simp] theorem State.putCore_bck : (s.putCore k x).bck = s.bck := rfl
@[simp] theorem State.putCore_ecc : (s.putCore k x).ecc = s.ecc := rfl
@[simp] theorem State.putCore_groups : (s.putCore k x).groups = s.groups := rfl
@[simp] theorem State.putCore_slices : (s.putCore k x).slices = s.slices := rfl
@[simp] theorem State.putCore_cores : (s.putCore k x).cores = s.cores.put k x := rfl
@[simp] theorem State.putCore_dies : (s.putCore k x).dies = s.dies := rfl
@[simp] theorem State.putCore_blocks : (s.putCore k x).blocks = s.blocks := rfl
@[simp] theorem State.putCore_launches : (s.putCore k x).launches = s.launches := rfl
@[simp] theorem State.putCore_graphs : (s.putCore k x).graphs = s.graphs := rfl
@[simp] theorem State.putCore_twins : (s.putCore k x).twins = s.twins := rfl
@[simp] theorem State.putCore_tgen : (s.putCore k x).tgen = s.tgen := rfl
@[simp] theorem State.putCore_regtab : (s.putCore k x).regtab = s.regtab := rfl
@[simp] theorem State.putCore_admitted : (s.putCore k x).admitted = s.admitted := rfl
@[simp] theorem State.putCore_rspace : (s.putCore k x).rspace = s.rspace := rfl
@[simp] theorem State.putCore_susp : (s.putCore k x).susp = s.susp := rfl
@[simp] theorem State.putCore_lease : (s.putCore k x).lease = s.lease := rfl
@[simp] theorem State.putCore_handover : (s.putCore k x).handover = s.handover := rfl
@[simp] theorem State.putCore_curalm : (s.putCore k x).curalm = s.curalm := rfl
@[simp] theorem State.putCore_boosten : (s.putCore k x).boosten = s.boosten := rfl
@[simp] theorem State.putCore_boost : (s.putCore k x).boost = s.boost := rfl
@[simp] theorem State.putCore_boostGrant : (s.putCore k x).boostGrant = s.boostGrant := rfl
@[simp] theorem State.putCore_pwrLimit : (s.putCore k x).pwrLimit = s.pwrLimit := rfl
@[simp] theorem State.putCore_pwrAvg : (s.putCore k x).pwrAvg = s.pwrAvg := rfl
@[simp] theorem State.putCore_diePwr : (s.putCore k x).diePwr = s.diePwr := rfl
@[simp] theorem State.putCore_temp : (s.putCore k x).temp = s.temp := rfl
@[simp] theorem State.putCore_dramWin : (s.putCore k x).dramWin = s.dramWin := rfl
@[simp] theorem State.putCore_energy : (s.putCore k x).energy = s.energy := rfl
@[simp] theorem State.putCore_harts : (s.putCore k x).harts = s.harts := rfl
@[simp] theorem State.putCore_imsic : (s.putCore k x).imsic = s.imsic := rfl
@[simp] theorem State.putCore_irqs : (s.putCore k x).irqs = s.irqs := rfl
@[simp] theorem State.putCore_parked : (s.putCore k x).parked = s.parked := rfl
@[simp] theorem State.putCore_emitted : (s.putCore k x).emitted = s.emitted := rfl
@[simp] theorem State.putCore_vops : (s.putCore k x).vops = s.vops := rfl
@[simp] theorem State.putCore_notices : (s.putCore k x).notices = s.notices := rfl
@[simp] theorem State.putCore_completions : (s.putCore k x).completions = s.completions := rfl
@[simp] theorem State.putCore_rels : (s.putCore k x).rels = s.rels := rfl
@[simp] theorem State.putCore_il4 : (s.putCore k x).il4 = s.il4 := rfl
@[simp] theorem State.putCore_il64 : (s.putCore k x).il64 = s.il64 := rfl
@[simp] theorem State.putCore_pool : (s.putCore k x).pool = s.pool := rfl
@[simp] theorem State.putCore_agenda : (s.putCore k x).agenda = s.agenda := rfl
@[simp] theorem State.putCore_due : (s.putCore k x).due = s.due := rfl
@[simp] theorem State.putCore_turn : (s.putCore k x).turn = s.turn := rfl
@[simp] theorem State.putCore_latch : (s.putCore k x).latch = s.latch := rfl
@[simp] theorem State.putCore_cur : (s.putCore k x).cur = s.cur := rfl
@[simp] theorem State.putCore_free : (s.putCore k x).free = s.free := rfl
@[simp] theorem State.putCore_ans : (s.putCore k x).ans = s.ans := rfl
@[simp] theorem State.putCore_uid : (s.putCore k x).uid = s.uid := rfl

end putCore

section putDie
variable (s : State) (k : Nat) (x : Die)

@[simp] theorem State.putDie_now : (s.putDie k x).now = s.now := rfl
@[simp] theorem State.putDie_dram : (s.putDie k x).dram = s.dram := rfl
@[simp] theorem State.putDie_sram : (s.putDie k x).sram = s.sram := rfl
@[simp] theorem State.putDie_emptyw : (s.putDie k x).emptyw = s.emptyw := rfl
@[simp] theorem State.putDie_bst : (s.putDie k x).bst = s.bst := rfl
@[simp] theorem State.putDie_bck : (s.putDie k x).bck = s.bck := rfl
@[simp] theorem State.putDie_ecc : (s.putDie k x).ecc = s.ecc := rfl
@[simp] theorem State.putDie_groups : (s.putDie k x).groups = s.groups := rfl
@[simp] theorem State.putDie_slices : (s.putDie k x).slices = s.slices := rfl
@[simp] theorem State.putDie_cores : (s.putDie k x).cores = s.cores := rfl
@[simp] theorem State.putDie_dies : (s.putDie k x).dies = s.dies.put k x := rfl
@[simp] theorem State.putDie_blocks : (s.putDie k x).blocks = s.blocks := rfl
@[simp] theorem State.putDie_launches : (s.putDie k x).launches = s.launches := rfl
@[simp] theorem State.putDie_graphs : (s.putDie k x).graphs = s.graphs := rfl
@[simp] theorem State.putDie_twins : (s.putDie k x).twins = s.twins := rfl
@[simp] theorem State.putDie_tgen : (s.putDie k x).tgen = s.tgen := rfl
@[simp] theorem State.putDie_regtab : (s.putDie k x).regtab = s.regtab := rfl
@[simp] theorem State.putDie_admitted : (s.putDie k x).admitted = s.admitted := rfl
@[simp] theorem State.putDie_rspace : (s.putDie k x).rspace = s.rspace := rfl
@[simp] theorem State.putDie_susp : (s.putDie k x).susp = s.susp := rfl
@[simp] theorem State.putDie_lease : (s.putDie k x).lease = s.lease := rfl
@[simp] theorem State.putDie_handover : (s.putDie k x).handover = s.handover := rfl
@[simp] theorem State.putDie_curalm : (s.putDie k x).curalm = s.curalm := rfl
@[simp] theorem State.putDie_boosten : (s.putDie k x).boosten = s.boosten := rfl
@[simp] theorem State.putDie_boost : (s.putDie k x).boost = s.boost := rfl
@[simp] theorem State.putDie_boostGrant : (s.putDie k x).boostGrant = s.boostGrant := rfl
@[simp] theorem State.putDie_pwrLimit : (s.putDie k x).pwrLimit = s.pwrLimit := rfl
@[simp] theorem State.putDie_pwrAvg : (s.putDie k x).pwrAvg = s.pwrAvg := rfl
@[simp] theorem State.putDie_diePwr : (s.putDie k x).diePwr = s.diePwr := rfl
@[simp] theorem State.putDie_temp : (s.putDie k x).temp = s.temp := rfl
@[simp] theorem State.putDie_dramWin : (s.putDie k x).dramWin = s.dramWin := rfl
@[simp] theorem State.putDie_energy : (s.putDie k x).energy = s.energy := rfl
@[simp] theorem State.putDie_harts : (s.putDie k x).harts = s.harts := rfl
@[simp] theorem State.putDie_imsic : (s.putDie k x).imsic = s.imsic := rfl
@[simp] theorem State.putDie_irqs : (s.putDie k x).irqs = s.irqs := rfl
@[simp] theorem State.putDie_parked : (s.putDie k x).parked = s.parked := rfl
@[simp] theorem State.putDie_emitted : (s.putDie k x).emitted = s.emitted := rfl
@[simp] theorem State.putDie_vops : (s.putDie k x).vops = s.vops := rfl
@[simp] theorem State.putDie_notices : (s.putDie k x).notices = s.notices := rfl
@[simp] theorem State.putDie_completions : (s.putDie k x).completions = s.completions := rfl
@[simp] theorem State.putDie_rels : (s.putDie k x).rels = s.rels := rfl
@[simp] theorem State.putDie_il4 : (s.putDie k x).il4 = s.il4 := rfl
@[simp] theorem State.putDie_il64 : (s.putDie k x).il64 = s.il64 := rfl
@[simp] theorem State.putDie_pool : (s.putDie k x).pool = s.pool := rfl
@[simp] theorem State.putDie_agenda : (s.putDie k x).agenda = s.agenda := rfl
@[simp] theorem State.putDie_due : (s.putDie k x).due = s.due := rfl
@[simp] theorem State.putDie_turn : (s.putDie k x).turn = s.turn := rfl
@[simp] theorem State.putDie_latch : (s.putDie k x).latch = s.latch := rfl
@[simp] theorem State.putDie_cur : (s.putDie k x).cur = s.cur := rfl
@[simp] theorem State.putDie_free : (s.putDie k x).free = s.free := rfl
@[simp] theorem State.putDie_ans : (s.putDie k x).ans = s.ans := rfl
@[simp] theorem State.putDie_uid : (s.putDie k x).uid = s.uid := rfl

end putDie

section putBlock
variable (s : State) (k : Nat) (x : Block)

@[simp] theorem State.putBlock_now : (s.putBlock k x).now = s.now := rfl
@[simp] theorem State.putBlock_dram : (s.putBlock k x).dram = s.dram := rfl
@[simp] theorem State.putBlock_sram : (s.putBlock k x).sram = s.sram := rfl
@[simp] theorem State.putBlock_emptyw : (s.putBlock k x).emptyw = s.emptyw := rfl
@[simp] theorem State.putBlock_bst : (s.putBlock k x).bst = s.bst := rfl
@[simp] theorem State.putBlock_bck : (s.putBlock k x).bck = s.bck := rfl
@[simp] theorem State.putBlock_ecc : (s.putBlock k x).ecc = s.ecc := rfl
@[simp] theorem State.putBlock_groups : (s.putBlock k x).groups = s.groups := rfl
@[simp] theorem State.putBlock_slices : (s.putBlock k x).slices = s.slices := rfl
@[simp] theorem State.putBlock_cores : (s.putBlock k x).cores = s.cores := rfl
@[simp] theorem State.putBlock_dies : (s.putBlock k x).dies = s.dies := rfl
@[simp] theorem State.putBlock_blocks : (s.putBlock k x).blocks = s.blocks.put k x := rfl
@[simp] theorem State.putBlock_launches : (s.putBlock k x).launches = s.launches := rfl
@[simp] theorem State.putBlock_graphs : (s.putBlock k x).graphs = s.graphs := rfl
@[simp] theorem State.putBlock_twins : (s.putBlock k x).twins = s.twins := rfl
@[simp] theorem State.putBlock_tgen : (s.putBlock k x).tgen = s.tgen := rfl
@[simp] theorem State.putBlock_regtab : (s.putBlock k x).regtab = s.regtab := rfl
@[simp] theorem State.putBlock_admitted : (s.putBlock k x).admitted = s.admitted := rfl
@[simp] theorem State.putBlock_rspace : (s.putBlock k x).rspace = s.rspace := rfl
@[simp] theorem State.putBlock_susp : (s.putBlock k x).susp = s.susp := rfl
@[simp] theorem State.putBlock_lease : (s.putBlock k x).lease = s.lease := rfl
@[simp] theorem State.putBlock_handover : (s.putBlock k x).handover = s.handover := rfl
@[simp] theorem State.putBlock_curalm : (s.putBlock k x).curalm = s.curalm := rfl
@[simp] theorem State.putBlock_boosten : (s.putBlock k x).boosten = s.boosten := rfl
@[simp] theorem State.putBlock_boost : (s.putBlock k x).boost = s.boost := rfl
@[simp] theorem State.putBlock_boostGrant : (s.putBlock k x).boostGrant = s.boostGrant := rfl
@[simp] theorem State.putBlock_pwrLimit : (s.putBlock k x).pwrLimit = s.pwrLimit := rfl
@[simp] theorem State.putBlock_pwrAvg : (s.putBlock k x).pwrAvg = s.pwrAvg := rfl
@[simp] theorem State.putBlock_diePwr : (s.putBlock k x).diePwr = s.diePwr := rfl
@[simp] theorem State.putBlock_temp : (s.putBlock k x).temp = s.temp := rfl
@[simp] theorem State.putBlock_dramWin : (s.putBlock k x).dramWin = s.dramWin := rfl
@[simp] theorem State.putBlock_energy : (s.putBlock k x).energy = s.energy := rfl
@[simp] theorem State.putBlock_harts : (s.putBlock k x).harts = s.harts := rfl
@[simp] theorem State.putBlock_imsic : (s.putBlock k x).imsic = s.imsic := rfl
@[simp] theorem State.putBlock_irqs : (s.putBlock k x).irqs = s.irqs := rfl
@[simp] theorem State.putBlock_parked : (s.putBlock k x).parked = s.parked := rfl
@[simp] theorem State.putBlock_emitted : (s.putBlock k x).emitted = s.emitted := rfl
@[simp] theorem State.putBlock_vops : (s.putBlock k x).vops = s.vops := rfl
@[simp] theorem State.putBlock_notices : (s.putBlock k x).notices = s.notices := rfl
@[simp] theorem State.putBlock_completions : (s.putBlock k x).completions = s.completions := rfl
@[simp] theorem State.putBlock_rels : (s.putBlock k x).rels = s.rels := rfl
@[simp] theorem State.putBlock_il4 : (s.putBlock k x).il4 = s.il4 := rfl
@[simp] theorem State.putBlock_il64 : (s.putBlock k x).il64 = s.il64 := rfl
@[simp] theorem State.putBlock_pool : (s.putBlock k x).pool = s.pool := rfl
@[simp] theorem State.putBlock_agenda : (s.putBlock k x).agenda = s.agenda := rfl
@[simp] theorem State.putBlock_due : (s.putBlock k x).due = s.due := rfl
@[simp] theorem State.putBlock_turn : (s.putBlock k x).turn = s.turn := rfl
@[simp] theorem State.putBlock_latch : (s.putBlock k x).latch = s.latch := rfl
@[simp] theorem State.putBlock_cur : (s.putBlock k x).cur = s.cur := rfl
@[simp] theorem State.putBlock_free : (s.putBlock k x).free = s.free := rfl
@[simp] theorem State.putBlock_ans : (s.putBlock k x).ans = s.ans := rfl
@[simp] theorem State.putBlock_uid : (s.putBlock k x).uid = s.uid := rfl

end putBlock

section putLaunch
variable (s : State) (k : Nat) (x : Launch)

@[simp] theorem State.putLaunch_now : (s.putLaunch k x).now = s.now := rfl
@[simp] theorem State.putLaunch_dram : (s.putLaunch k x).dram = s.dram := rfl
@[simp] theorem State.putLaunch_sram : (s.putLaunch k x).sram = s.sram := rfl
@[simp] theorem State.putLaunch_emptyw : (s.putLaunch k x).emptyw = s.emptyw := rfl
@[simp] theorem State.putLaunch_bst : (s.putLaunch k x).bst = s.bst := rfl
@[simp] theorem State.putLaunch_bck : (s.putLaunch k x).bck = s.bck := rfl
@[simp] theorem State.putLaunch_ecc : (s.putLaunch k x).ecc = s.ecc := rfl
@[simp] theorem State.putLaunch_groups : (s.putLaunch k x).groups = s.groups := rfl
@[simp] theorem State.putLaunch_slices : (s.putLaunch k x).slices = s.slices := rfl
@[simp] theorem State.putLaunch_cores : (s.putLaunch k x).cores = s.cores := rfl
@[simp] theorem State.putLaunch_dies : (s.putLaunch k x).dies = s.dies := rfl
@[simp] theorem State.putLaunch_blocks : (s.putLaunch k x).blocks = s.blocks := rfl
@[simp] theorem State.putLaunch_launches : (s.putLaunch k x).launches = s.launches.put k x := rfl
@[simp] theorem State.putLaunch_graphs : (s.putLaunch k x).graphs = s.graphs := rfl
@[simp] theorem State.putLaunch_twins : (s.putLaunch k x).twins = s.twins := rfl
@[simp] theorem State.putLaunch_tgen : (s.putLaunch k x).tgen = s.tgen := rfl
@[simp] theorem State.putLaunch_regtab : (s.putLaunch k x).regtab = s.regtab := rfl
@[simp] theorem State.putLaunch_admitted : (s.putLaunch k x).admitted = s.admitted := rfl
@[simp] theorem State.putLaunch_rspace : (s.putLaunch k x).rspace = s.rspace := rfl
@[simp] theorem State.putLaunch_susp : (s.putLaunch k x).susp = s.susp := rfl
@[simp] theorem State.putLaunch_lease : (s.putLaunch k x).lease = s.lease := rfl
@[simp] theorem State.putLaunch_handover : (s.putLaunch k x).handover = s.handover := rfl
@[simp] theorem State.putLaunch_curalm : (s.putLaunch k x).curalm = s.curalm := rfl
@[simp] theorem State.putLaunch_boosten : (s.putLaunch k x).boosten = s.boosten := rfl
@[simp] theorem State.putLaunch_boost : (s.putLaunch k x).boost = s.boost := rfl
@[simp] theorem State.putLaunch_boostGrant : (s.putLaunch k x).boostGrant = s.boostGrant := rfl
@[simp] theorem State.putLaunch_pwrLimit : (s.putLaunch k x).pwrLimit = s.pwrLimit := rfl
@[simp] theorem State.putLaunch_pwrAvg : (s.putLaunch k x).pwrAvg = s.pwrAvg := rfl
@[simp] theorem State.putLaunch_diePwr : (s.putLaunch k x).diePwr = s.diePwr := rfl
@[simp] theorem State.putLaunch_temp : (s.putLaunch k x).temp = s.temp := rfl
@[simp] theorem State.putLaunch_dramWin : (s.putLaunch k x).dramWin = s.dramWin := rfl
@[simp] theorem State.putLaunch_energy : (s.putLaunch k x).energy = s.energy := rfl
@[simp] theorem State.putLaunch_harts : (s.putLaunch k x).harts = s.harts := rfl
@[simp] theorem State.putLaunch_imsic : (s.putLaunch k x).imsic = s.imsic := rfl
@[simp] theorem State.putLaunch_irqs : (s.putLaunch k x).irqs = s.irqs := rfl
@[simp] theorem State.putLaunch_parked : (s.putLaunch k x).parked = s.parked := rfl
@[simp] theorem State.putLaunch_emitted : (s.putLaunch k x).emitted = s.emitted := rfl
@[simp] theorem State.putLaunch_vops : (s.putLaunch k x).vops = s.vops := rfl
@[simp] theorem State.putLaunch_notices : (s.putLaunch k x).notices = s.notices := rfl
@[simp] theorem State.putLaunch_completions : (s.putLaunch k x).completions = s.completions := rfl
@[simp] theorem State.putLaunch_rels : (s.putLaunch k x).rels = s.rels := rfl
@[simp] theorem State.putLaunch_il4 : (s.putLaunch k x).il4 = s.il4 := rfl
@[simp] theorem State.putLaunch_il64 : (s.putLaunch k x).il64 = s.il64 := rfl
@[simp] theorem State.putLaunch_pool : (s.putLaunch k x).pool = s.pool := rfl
@[simp] theorem State.putLaunch_agenda : (s.putLaunch k x).agenda = s.agenda := rfl
@[simp] theorem State.putLaunch_due : (s.putLaunch k x).due = s.due := rfl
@[simp] theorem State.putLaunch_turn : (s.putLaunch k x).turn = s.turn := rfl
@[simp] theorem State.putLaunch_latch : (s.putLaunch k x).latch = s.latch := rfl
@[simp] theorem State.putLaunch_cur : (s.putLaunch k x).cur = s.cur := rfl
@[simp] theorem State.putLaunch_free : (s.putLaunch k x).free = s.free := rfl
@[simp] theorem State.putLaunch_ans : (s.putLaunch k x).ans = s.ans := rfl
@[simp] theorem State.putLaunch_uid : (s.putLaunch k x).uid = s.uid := rfl

end putLaunch

section addDue
variable (s : State) (w : List Work)

@[simp] theorem State.addDue_now : (s.addDue w).now = s.now := rfl
@[simp] theorem State.addDue_dram : (s.addDue w).dram = s.dram := rfl
@[simp] theorem State.addDue_sram : (s.addDue w).sram = s.sram := rfl
@[simp] theorem State.addDue_emptyw : (s.addDue w).emptyw = s.emptyw := rfl
@[simp] theorem State.addDue_bst : (s.addDue w).bst = s.bst := rfl
@[simp] theorem State.addDue_bck : (s.addDue w).bck = s.bck := rfl
@[simp] theorem State.addDue_ecc : (s.addDue w).ecc = s.ecc := rfl
@[simp] theorem State.addDue_groups : (s.addDue w).groups = s.groups := rfl
@[simp] theorem State.addDue_slices : (s.addDue w).slices = s.slices := rfl
@[simp] theorem State.addDue_cores : (s.addDue w).cores = s.cores := rfl
@[simp] theorem State.addDue_dies : (s.addDue w).dies = s.dies := rfl
@[simp] theorem State.addDue_blocks : (s.addDue w).blocks = s.blocks := rfl
@[simp] theorem State.addDue_launches : (s.addDue w).launches = s.launches := rfl
@[simp] theorem State.addDue_graphs : (s.addDue w).graphs = s.graphs := rfl
@[simp] theorem State.addDue_twins : (s.addDue w).twins = s.twins := rfl
@[simp] theorem State.addDue_tgen : (s.addDue w).tgen = s.tgen := rfl
@[simp] theorem State.addDue_regtab : (s.addDue w).regtab = s.regtab := rfl
@[simp] theorem State.addDue_admitted : (s.addDue w).admitted = s.admitted := rfl
@[simp] theorem State.addDue_rspace : (s.addDue w).rspace = s.rspace := rfl
@[simp] theorem State.addDue_susp : (s.addDue w).susp = s.susp := rfl
@[simp] theorem State.addDue_lease : (s.addDue w).lease = s.lease := rfl
@[simp] theorem State.addDue_handover : (s.addDue w).handover = s.handover := rfl
@[simp] theorem State.addDue_curalm : (s.addDue w).curalm = s.curalm := rfl
@[simp] theorem State.addDue_boosten : (s.addDue w).boosten = s.boosten := rfl
@[simp] theorem State.addDue_boost : (s.addDue w).boost = s.boost := rfl
@[simp] theorem State.addDue_boostGrant : (s.addDue w).boostGrant = s.boostGrant := rfl
@[simp] theorem State.addDue_pwrLimit : (s.addDue w).pwrLimit = s.pwrLimit := rfl
@[simp] theorem State.addDue_pwrAvg : (s.addDue w).pwrAvg = s.pwrAvg := rfl
@[simp] theorem State.addDue_diePwr : (s.addDue w).diePwr = s.diePwr := rfl
@[simp] theorem State.addDue_temp : (s.addDue w).temp = s.temp := rfl
@[simp] theorem State.addDue_dramWin : (s.addDue w).dramWin = s.dramWin := rfl
@[simp] theorem State.addDue_energy : (s.addDue w).energy = s.energy := rfl
@[simp] theorem State.addDue_harts : (s.addDue w).harts = s.harts := rfl
@[simp] theorem State.addDue_imsic : (s.addDue w).imsic = s.imsic := rfl
@[simp] theorem State.addDue_irqs : (s.addDue w).irqs = s.irqs := rfl
@[simp] theorem State.addDue_parked : (s.addDue w).parked = s.parked := rfl
@[simp] theorem State.addDue_emitted : (s.addDue w).emitted = s.emitted := rfl
@[simp] theorem State.addDue_vops : (s.addDue w).vops = s.vops := rfl
@[simp] theorem State.addDue_notices : (s.addDue w).notices = s.notices := rfl
@[simp] theorem State.addDue_completions : (s.addDue w).completions = s.completions := rfl
@[simp] theorem State.addDue_rels : (s.addDue w).rels = s.rels := rfl
@[simp] theorem State.addDue_il4 : (s.addDue w).il4 = s.il4 := rfl
@[simp] theorem State.addDue_il64 : (s.addDue w).il64 = s.il64 := rfl
@[simp] theorem State.addDue_pool : (s.addDue w).pool = s.pool := rfl
@[simp] theorem State.addDue_agenda : (s.addDue w).agenda = s.agenda := rfl
@[simp] theorem State.addDue_due : (s.addDue w).due = s.due ++ w := rfl
@[simp] theorem State.addDue_turn : (s.addDue w).turn = s.turn := rfl
@[simp] theorem State.addDue_latch : (s.addDue w).latch = s.latch := rfl
@[simp] theorem State.addDue_cur : (s.addDue w).cur = s.cur := rfl
@[simp] theorem State.addDue_free : (s.addDue w).free = s.free := rfl
@[simp] theorem State.addDue_ans : (s.addDue w).ans = s.ans := rfl
@[simp] theorem State.addDue_uid : (s.addDue w).uid = s.uid := rfl

end addDue

section tickFree
variable (s : State)

@[simp] theorem State.tickFree_now : (s.tickFree).now = s.now := rfl
@[simp] theorem State.tickFree_dram : (s.tickFree).dram = s.dram := rfl
@[simp] theorem State.tickFree_sram : (s.tickFree).sram = s.sram := rfl
@[simp] theorem State.tickFree_emptyw : (s.tickFree).emptyw = s.emptyw := rfl
@[simp] theorem State.tickFree_bst : (s.tickFree).bst = s.bst := rfl
@[simp] theorem State.tickFree_bck : (s.tickFree).bck = s.bck := rfl
@[simp] theorem State.tickFree_ecc : (s.tickFree).ecc = s.ecc := rfl
@[simp] theorem State.tickFree_groups : (s.tickFree).groups = s.groups := rfl
@[simp] theorem State.tickFree_slices : (s.tickFree).slices = s.slices := rfl
@[simp] theorem State.tickFree_cores : (s.tickFree).cores = s.cores := rfl
@[simp] theorem State.tickFree_dies : (s.tickFree).dies = s.dies := rfl
@[simp] theorem State.tickFree_blocks : (s.tickFree).blocks = s.blocks := rfl
@[simp] theorem State.tickFree_launches : (s.tickFree).launches = s.launches := rfl
@[simp] theorem State.tickFree_graphs : (s.tickFree).graphs = s.graphs := rfl
@[simp] theorem State.tickFree_twins : (s.tickFree).twins = s.twins := rfl
@[simp] theorem State.tickFree_tgen : (s.tickFree).tgen = s.tgen := rfl
@[simp] theorem State.tickFree_regtab : (s.tickFree).regtab = s.regtab := rfl
@[simp] theorem State.tickFree_admitted : (s.tickFree).admitted = s.admitted := rfl
@[simp] theorem State.tickFree_rspace : (s.tickFree).rspace = s.rspace := rfl
@[simp] theorem State.tickFree_susp : (s.tickFree).susp = s.susp := rfl
@[simp] theorem State.tickFree_lease : (s.tickFree).lease = s.lease := rfl
@[simp] theorem State.tickFree_handover : (s.tickFree).handover = s.handover := rfl
@[simp] theorem State.tickFree_curalm : (s.tickFree).curalm = s.curalm := rfl
@[simp] theorem State.tickFree_boosten : (s.tickFree).boosten = s.boosten := rfl
@[simp] theorem State.tickFree_boost : (s.tickFree).boost = s.boost := rfl
@[simp] theorem State.tickFree_boostGrant : (s.tickFree).boostGrant = s.boostGrant := rfl
@[simp] theorem State.tickFree_pwrLimit : (s.tickFree).pwrLimit = s.pwrLimit := rfl
@[simp] theorem State.tickFree_pwrAvg : (s.tickFree).pwrAvg = s.pwrAvg := rfl
@[simp] theorem State.tickFree_diePwr : (s.tickFree).diePwr = s.diePwr := rfl
@[simp] theorem State.tickFree_temp : (s.tickFree).temp = s.temp := rfl
@[simp] theorem State.tickFree_dramWin : (s.tickFree).dramWin = s.dramWin := rfl
@[simp] theorem State.tickFree_energy : (s.tickFree).energy = s.energy := rfl
@[simp] theorem State.tickFree_harts : (s.tickFree).harts = s.harts := rfl
@[simp] theorem State.tickFree_imsic : (s.tickFree).imsic = s.imsic := rfl
@[simp] theorem State.tickFree_irqs : (s.tickFree).irqs = s.irqs := rfl
@[simp] theorem State.tickFree_parked : (s.tickFree).parked = s.parked := rfl
@[simp] theorem State.tickFree_emitted : (s.tickFree).emitted = s.emitted := rfl
@[simp] theorem State.tickFree_vops : (s.tickFree).vops = s.vops := rfl
@[simp] theorem State.tickFree_notices : (s.tickFree).notices = s.notices := rfl
@[simp] theorem State.tickFree_completions : (s.tickFree).completions = s.completions := rfl
@[simp] theorem State.tickFree_rels : (s.tickFree).rels = s.rels := rfl
@[simp] theorem State.tickFree_il4 : (s.tickFree).il4 = s.il4 := rfl
@[simp] theorem State.tickFree_il64 : (s.tickFree).il64 = s.il64 := rfl
@[simp] theorem State.tickFree_pool : (s.tickFree).pool = s.pool := rfl
@[simp] theorem State.tickFree_agenda : (s.tickFree).agenda = s.agenda := rfl
@[simp] theorem State.tickFree_due : (s.tickFree).due = s.due := rfl
@[simp] theorem State.tickFree_turn : (s.tickFree).turn = s.turn := rfl
@[simp] theorem State.tickFree_latch : (s.tickFree).latch = s.latch := rfl
@[simp] theorem State.tickFree_cur : (s.tickFree).cur = s.cur := rfl
@[simp] theorem State.tickFree_free : (s.tickFree).free = s.free + 1 := rfl
@[simp] theorem State.tickFree_ans : (s.tickFree).ans = s.ans := rfl
@[simp] theorem State.tickFree_uid : (s.tickFree).uid = s.uid := rfl

end tickFree

/-! ## Fields of a group -/

section setV
variable (g : Group) (n l : Nat) (x : Val)

@[simp] theorem Group.setV_blk : (g.setV n l x).blk = g.blk := rfl
@[simp] theorem Group.setV_idx : (g.setV n l x).idx = g.idx := rfl
@[simp] theorem Group.setV_nv : (g.setV n l x).nv = g.nv := rfl
@[simp] theorem Group.setV_lanes : (g.setV n l x).lanes = g.lanes := rfl
@[simp] theorem Group.setV_v : (g.setV n l x).v = g.v.set ⟨0, none⟩ (32 * n + l) x := rfl
@[simp] theorem Group.setV_u : (g.setV n l x).u = g.u := rfl
@[simp] theorem Group.setV_p : (g.setV n l x).p = g.p := rfl
@[simp] theorem Group.setV_m : (g.setV n l x).m = g.m := rfl
@[simp] theorem Group.setV_b : (g.setV n l x).b = g.b := rfl
@[simp] theorem Group.setV_t : (g.setV n l x).t = g.t := rfl
@[simp] theorem Group.setV_scopemiss : (g.setV n l x).scopemiss = g.scopemiss := rfl
@[simp] theorem Group.setV_rsspill : (g.setV n l x).rsspill = g.rsspill := rfl
@[simp] theorem Group.setV_heir : (g.setV n l x).heir = g.heir := rfl
@[simp] theorem Group.setV_futh : (g.setV n l x).futh = g.futh := rfl
@[simp] theorem Group.setV_futpc : (g.setV n l x).futpc = g.futpc := rfl
@[simp] theorem Group.setV_futaddr : (g.setV n l x).futaddr = g.futaddr := rfl
@[simp] theorem Group.setV_hlanes : (g.setV n l x).hlanes = g.hlanes := rfl
@[simp] theorem Group.setV_seed : (g.setV n l x).seed = g.seed := rfl
@[simp] theorem Group.setV_ptab : (g.setV n l x).ptab = g.ptab := rfl
@[simp] theorem Group.setV_pnext : (g.setV n l x).pnext = g.pnext := rfl
@[simp] theorem Group.setV_baton : (g.setV n l x).baton = g.baton := rfl
@[simp] theorem Group.setV_gissue : (g.setV n l x).gissue = g.gissue := rfl
@[simp] theorem Group.setV_gcycle : (g.setV n l x).gcycle = g.gcycle := rfl
@[simp] theorem Group.setV_ghold : (g.setV n l x).ghold = g.ghold := rfl
@[simp] theorem Group.setV_gidle : (g.setV n l x).gidle = g.gidle := rfl
@[simp] theorem Group.setV_gticks : (g.setV n l x).gticks = g.gticks := rfl
@[simp] theorem Group.setV_trap : (g.setV n l x).trap = g.trap := rfl
@[simp] theorem Group.setV_fault : (g.setV n l x).fault = g.fault := rfl
@[simp] theorem Group.setV_bars : (g.setV n l x).bars = g.bars := rfl
@[simp] theorem Group.setV_opFenced : (g.setV n l x).opFenced = g.opFenced := rfl
@[simp] theorem Group.setV_opWrote : (g.setV n l x).opWrote = g.opWrote := rfl
@[simp] theorem Group.setV_cpyw : (g.setV n l x).cpyw = g.cpyw := rfl
@[simp] theorem Group.setV_jwait : (g.setV n l x).jwait = g.jwait := rfl
@[simp] theorem Group.setV_calls : (g.setV n l x).calls = g.calls := rfl
@[simp] theorem Group.setV_draw : (g.setV n l x).draw = g.draw := rfl
@[simp] theorem Group.setV_ticket : (g.setV n l x).ticket = g.ticket := rfl
@[simp] theorem Group.setV_wrs : (g.setV n l x).wrs = g.wrs := rfl
@[simp] theorem Group.setV_emitWait : (g.setV n l x).emitWait = g.emitWait := rfl
@[simp] theorem Group.setV_overCls : (g.setV n l x).overCls = g.overCls := rfl
@[simp] theorem Group.setV_carried : (g.setV n l x).carried = g.carried := rfl
@[simp] theorem Group.setV_denied : (g.setV n l x).denied = g.denied := rfl
@[simp] theorem Group.setV_withdrawn : (g.setV n l x).withdrawn = g.withdrawn := rfl
@[simp] theorem Group.setV_hint : (g.setV n l x).hint = g.hint := rfl
@[simp] theorem Group.setV_hands : (g.setV n l x).hands = g.hands := rfl
@[simp] theorem Group.setV_tgen : (g.setV n l x).tgen = g.tgen := rfl
@[simp] theorem Group.setV_land : (g.setV n l x).land = g.land := rfl
@[simp] theorem Group.setV_graph : (g.setV n l x).graph = g.graph := rfl
@[simp] theorem Group.setV_node : (g.setV n l x).node = g.node := rfl
@[simp] theorem Group.setV_stage : (g.setV n l x).stage = g.stage := rfl
@[simp] theorem Group.setV_twin : (g.setV n l x).twin = g.twin := rfl
@[simp] theorem Group.setV_yielded : (g.setV n l x).yielded = g.yielded := rfl
@[simp] theorem Group.setV_ckpts : (g.setV n l x).ckpts = g.ckpts := rfl
@[simp] theorem Group.setV_ckptWait : (g.setV n l x).ckptWait = g.ckptWait := rfl
@[simp] theorem Group.setV_atCkpt : (g.setV n l x).atCkpt = g.atCkpt := rfl

end setV

section setM
variable (g : Group) (n : Nat) (x : Word)

@[simp] theorem Group.setM_blk : (g.setM n x).blk = g.blk := rfl
@[simp] theorem Group.setM_idx : (g.setM n x).idx = g.idx := rfl
@[simp] theorem Group.setM_nv : (g.setM n x).nv = g.nv := rfl
@[simp] theorem Group.setM_lanes : (g.setM n x).lanes = g.lanes := rfl
@[simp] theorem Group.setM_v : (g.setM n x).v = g.v := rfl
@[simp] theorem Group.setM_u : (g.setM n x).u = g.u := rfl
@[simp] theorem Group.setM_p : (g.setM n x).p = g.p := rfl
@[simp] theorem Group.setM_m : (g.setM n x).m = g.m.set 0 n x := rfl
@[simp] theorem Group.setM_b : (g.setM n x).b = g.b := rfl
@[simp] theorem Group.setM_t : (g.setM n x).t = g.t := rfl
@[simp] theorem Group.setM_scopemiss : (g.setM n x).scopemiss = g.scopemiss := rfl
@[simp] theorem Group.setM_rsspill : (g.setM n x).rsspill = g.rsspill := rfl
@[simp] theorem Group.setM_heir : (g.setM n x).heir = g.heir := rfl
@[simp] theorem Group.setM_futh : (g.setM n x).futh = g.futh := rfl
@[simp] theorem Group.setM_futpc : (g.setM n x).futpc = g.futpc := rfl
@[simp] theorem Group.setM_futaddr : (g.setM n x).futaddr = g.futaddr := rfl
@[simp] theorem Group.setM_hlanes : (g.setM n x).hlanes = g.hlanes := rfl
@[simp] theorem Group.setM_seed : (g.setM n x).seed = g.seed := rfl
@[simp] theorem Group.setM_ptab : (g.setM n x).ptab = g.ptab := rfl
@[simp] theorem Group.setM_pnext : (g.setM n x).pnext = g.pnext := rfl
@[simp] theorem Group.setM_baton : (g.setM n x).baton = g.baton := rfl
@[simp] theorem Group.setM_gissue : (g.setM n x).gissue = g.gissue := rfl
@[simp] theorem Group.setM_gcycle : (g.setM n x).gcycle = g.gcycle := rfl
@[simp] theorem Group.setM_ghold : (g.setM n x).ghold = g.ghold := rfl
@[simp] theorem Group.setM_gidle : (g.setM n x).gidle = g.gidle := rfl
@[simp] theorem Group.setM_gticks : (g.setM n x).gticks = g.gticks := rfl
@[simp] theorem Group.setM_trap : (g.setM n x).trap = g.trap := rfl
@[simp] theorem Group.setM_fault : (g.setM n x).fault = g.fault := rfl
@[simp] theorem Group.setM_bars : (g.setM n x).bars = g.bars := rfl
@[simp] theorem Group.setM_opFenced : (g.setM n x).opFenced = g.opFenced := rfl
@[simp] theorem Group.setM_opWrote : (g.setM n x).opWrote = g.opWrote := rfl
@[simp] theorem Group.setM_cpyw : (g.setM n x).cpyw = g.cpyw := rfl
@[simp] theorem Group.setM_jwait : (g.setM n x).jwait = g.jwait := rfl
@[simp] theorem Group.setM_calls : (g.setM n x).calls = g.calls := rfl
@[simp] theorem Group.setM_draw : (g.setM n x).draw = g.draw := rfl
@[simp] theorem Group.setM_ticket : (g.setM n x).ticket = g.ticket := rfl
@[simp] theorem Group.setM_wrs : (g.setM n x).wrs = g.wrs := rfl
@[simp] theorem Group.setM_emitWait : (g.setM n x).emitWait = g.emitWait := rfl
@[simp] theorem Group.setM_overCls : (g.setM n x).overCls = g.overCls := rfl
@[simp] theorem Group.setM_carried : (g.setM n x).carried = g.carried := rfl
@[simp] theorem Group.setM_denied : (g.setM n x).denied = g.denied := rfl
@[simp] theorem Group.setM_withdrawn : (g.setM n x).withdrawn = g.withdrawn := rfl
@[simp] theorem Group.setM_hint : (g.setM n x).hint = g.hint := rfl
@[simp] theorem Group.setM_hands : (g.setM n x).hands = g.hands := rfl
@[simp] theorem Group.setM_tgen : (g.setM n x).tgen = g.tgen := rfl
@[simp] theorem Group.setM_land : (g.setM n x).land = g.land := rfl
@[simp] theorem Group.setM_graph : (g.setM n x).graph = g.graph := rfl
@[simp] theorem Group.setM_node : (g.setM n x).node = g.node := rfl
@[simp] theorem Group.setM_stage : (g.setM n x).stage = g.stage := rfl
@[simp] theorem Group.setM_twin : (g.setM n x).twin = g.twin := rfl
@[simp] theorem Group.setM_yielded : (g.setM n x).yielded = g.yielded := rfl
@[simp] theorem Group.setM_ckpts : (g.setM n x).ckpts = g.ckpts := rfl
@[simp] theorem Group.setM_ckptWait : (g.setM n x).ckptWait = g.ckptWait := rfl
@[simp] theorem Group.setM_atCkpt : (g.setM n x).atCkpt = g.atCkpt := rfl

end setM

section setB
variable (g : Group) (n : Nat) (x : BitVec 128)

@[simp] theorem Group.setB_blk : (g.setB n x).blk = g.blk := rfl
@[simp] theorem Group.setB_idx : (g.setB n x).idx = g.idx := rfl
@[simp] theorem Group.setB_nv : (g.setB n x).nv = g.nv := rfl
@[simp] theorem Group.setB_lanes : (g.setB n x).lanes = g.lanes := rfl
@[simp] theorem Group.setB_v : (g.setB n x).v = g.v := rfl
@[simp] theorem Group.setB_u : (g.setB n x).u = g.u := rfl
@[simp] theorem Group.setB_p : (g.setB n x).p = g.p := rfl
@[simp] theorem Group.setB_m : (g.setB n x).m = g.m := rfl
@[simp] theorem Group.setB_b : (g.setB n x).b = g.b.set 0 n x := rfl
@[simp] theorem Group.setB_t : (g.setB n x).t = g.t := rfl
@[simp] theorem Group.setB_scopemiss : (g.setB n x).scopemiss = g.scopemiss := rfl
@[simp] theorem Group.setB_rsspill : (g.setB n x).rsspill = g.rsspill := rfl
@[simp] theorem Group.setB_heir : (g.setB n x).heir = g.heir := rfl
@[simp] theorem Group.setB_futh : (g.setB n x).futh = g.futh := rfl
@[simp] theorem Group.setB_futpc : (g.setB n x).futpc = g.futpc := rfl
@[simp] theorem Group.setB_futaddr : (g.setB n x).futaddr = g.futaddr := rfl
@[simp] theorem Group.setB_hlanes : (g.setB n x).hlanes = g.hlanes := rfl
@[simp] theorem Group.setB_seed : (g.setB n x).seed = g.seed := rfl
@[simp] theorem Group.setB_ptab : (g.setB n x).ptab = g.ptab := rfl
@[simp] theorem Group.setB_pnext : (g.setB n x).pnext = g.pnext := rfl
@[simp] theorem Group.setB_baton : (g.setB n x).baton = g.baton := rfl
@[simp] theorem Group.setB_gissue : (g.setB n x).gissue = g.gissue := rfl
@[simp] theorem Group.setB_gcycle : (g.setB n x).gcycle = g.gcycle := rfl
@[simp] theorem Group.setB_ghold : (g.setB n x).ghold = g.ghold := rfl
@[simp] theorem Group.setB_gidle : (g.setB n x).gidle = g.gidle := rfl
@[simp] theorem Group.setB_gticks : (g.setB n x).gticks = g.gticks := rfl
@[simp] theorem Group.setB_trap : (g.setB n x).trap = g.trap := rfl
@[simp] theorem Group.setB_fault : (g.setB n x).fault = g.fault := rfl
@[simp] theorem Group.setB_bars : (g.setB n x).bars = g.bars := rfl
@[simp] theorem Group.setB_opFenced : (g.setB n x).opFenced = g.opFenced := rfl
@[simp] theorem Group.setB_opWrote : (g.setB n x).opWrote = g.opWrote := rfl
@[simp] theorem Group.setB_cpyw : (g.setB n x).cpyw = g.cpyw := rfl
@[simp] theorem Group.setB_jwait : (g.setB n x).jwait = g.jwait := rfl
@[simp] theorem Group.setB_calls : (g.setB n x).calls = g.calls := rfl
@[simp] theorem Group.setB_draw : (g.setB n x).draw = g.draw := rfl
@[simp] theorem Group.setB_ticket : (g.setB n x).ticket = g.ticket := rfl
@[simp] theorem Group.setB_wrs : (g.setB n x).wrs = g.wrs := rfl
@[simp] theorem Group.setB_emitWait : (g.setB n x).emitWait = g.emitWait := rfl
@[simp] theorem Group.setB_overCls : (g.setB n x).overCls = g.overCls := rfl
@[simp] theorem Group.setB_carried : (g.setB n x).carried = g.carried := rfl
@[simp] theorem Group.setB_denied : (g.setB n x).denied = g.denied := rfl
@[simp] theorem Group.setB_withdrawn : (g.setB n x).withdrawn = g.withdrawn := rfl
@[simp] theorem Group.setB_hint : (g.setB n x).hint = g.hint := rfl
@[simp] theorem Group.setB_hands : (g.setB n x).hands = g.hands := rfl
@[simp] theorem Group.setB_tgen : (g.setB n x).tgen = g.tgen := rfl
@[simp] theorem Group.setB_land : (g.setB n x).land = g.land := rfl
@[simp] theorem Group.setB_graph : (g.setB n x).graph = g.graph := rfl
@[simp] theorem Group.setB_node : (g.setB n x).node = g.node := rfl
@[simp] theorem Group.setB_stage : (g.setB n x).stage = g.stage := rfl
@[simp] theorem Group.setB_twin : (g.setB n x).twin = g.twin := rfl
@[simp] theorem Group.setB_yielded : (g.setB n x).yielded = g.yielded := rfl
@[simp] theorem Group.setB_ckpts : (g.setB n x).ckpts = g.ckpts := rfl
@[simp] theorem Group.setB_ckptWait : (g.setB n x).ckptWait = g.ckptWait := rfl
@[simp] theorem Group.setB_atCkpt : (g.setB n x).atCkpt = g.atCkpt := rfl

end setB

section setT
variable (g : Group) (n : Nat) (x : BitVec 256)

@[simp] theorem Group.setT_blk : (g.setT n x).blk = g.blk := rfl
@[simp] theorem Group.setT_idx : (g.setT n x).idx = g.idx := rfl
@[simp] theorem Group.setT_nv : (g.setT n x).nv = g.nv := rfl
@[simp] theorem Group.setT_lanes : (g.setT n x).lanes = g.lanes := rfl
@[simp] theorem Group.setT_v : (g.setT n x).v = g.v := rfl
@[simp] theorem Group.setT_u : (g.setT n x).u = g.u := rfl
@[simp] theorem Group.setT_p : (g.setT n x).p = g.p := rfl
@[simp] theorem Group.setT_m : (g.setT n x).m = g.m := rfl
@[simp] theorem Group.setT_b : (g.setT n x).b = g.b := rfl
@[simp] theorem Group.setT_t : (g.setT n x).t = g.t.set 0 n x := rfl
@[simp] theorem Group.setT_scopemiss : (g.setT n x).scopemiss = g.scopemiss := rfl
@[simp] theorem Group.setT_rsspill : (g.setT n x).rsspill = g.rsspill := rfl
@[simp] theorem Group.setT_heir : (g.setT n x).heir = g.heir := rfl
@[simp] theorem Group.setT_futh : (g.setT n x).futh = g.futh := rfl
@[simp] theorem Group.setT_futpc : (g.setT n x).futpc = g.futpc := rfl
@[simp] theorem Group.setT_futaddr : (g.setT n x).futaddr = g.futaddr := rfl
@[simp] theorem Group.setT_hlanes : (g.setT n x).hlanes = g.hlanes := rfl
@[simp] theorem Group.setT_seed : (g.setT n x).seed = g.seed := rfl
@[simp] theorem Group.setT_ptab : (g.setT n x).ptab = g.ptab := rfl
@[simp] theorem Group.setT_pnext : (g.setT n x).pnext = g.pnext := rfl
@[simp] theorem Group.setT_baton : (g.setT n x).baton = g.baton := rfl
@[simp] theorem Group.setT_gissue : (g.setT n x).gissue = g.gissue := rfl
@[simp] theorem Group.setT_gcycle : (g.setT n x).gcycle = g.gcycle := rfl
@[simp] theorem Group.setT_ghold : (g.setT n x).ghold = g.ghold := rfl
@[simp] theorem Group.setT_gidle : (g.setT n x).gidle = g.gidle := rfl
@[simp] theorem Group.setT_gticks : (g.setT n x).gticks = g.gticks := rfl
@[simp] theorem Group.setT_trap : (g.setT n x).trap = g.trap := rfl
@[simp] theorem Group.setT_fault : (g.setT n x).fault = g.fault := rfl
@[simp] theorem Group.setT_bars : (g.setT n x).bars = g.bars := rfl
@[simp] theorem Group.setT_opFenced : (g.setT n x).opFenced = g.opFenced := rfl
@[simp] theorem Group.setT_opWrote : (g.setT n x).opWrote = g.opWrote := rfl
@[simp] theorem Group.setT_cpyw : (g.setT n x).cpyw = g.cpyw := rfl
@[simp] theorem Group.setT_jwait : (g.setT n x).jwait = g.jwait := rfl
@[simp] theorem Group.setT_calls : (g.setT n x).calls = g.calls := rfl
@[simp] theorem Group.setT_draw : (g.setT n x).draw = g.draw := rfl
@[simp] theorem Group.setT_ticket : (g.setT n x).ticket = g.ticket := rfl
@[simp] theorem Group.setT_wrs : (g.setT n x).wrs = g.wrs := rfl
@[simp] theorem Group.setT_emitWait : (g.setT n x).emitWait = g.emitWait := rfl
@[simp] theorem Group.setT_overCls : (g.setT n x).overCls = g.overCls := rfl
@[simp] theorem Group.setT_carried : (g.setT n x).carried = g.carried := rfl
@[simp] theorem Group.setT_denied : (g.setT n x).denied = g.denied := rfl
@[simp] theorem Group.setT_withdrawn : (g.setT n x).withdrawn = g.withdrawn := rfl
@[simp] theorem Group.setT_hint : (g.setT n x).hint = g.hint := rfl
@[simp] theorem Group.setT_hands : (g.setT n x).hands = g.hands := rfl
@[simp] theorem Group.setT_tgen : (g.setT n x).tgen = g.tgen := rfl
@[simp] theorem Group.setT_land : (g.setT n x).land = g.land := rfl
@[simp] theorem Group.setT_graph : (g.setT n x).graph = g.graph := rfl
@[simp] theorem Group.setT_node : (g.setT n x).node = g.node := rfl
@[simp] theorem Group.setT_stage : (g.setT n x).stage = g.stage := rfl
@[simp] theorem Group.setT_twin : (g.setT n x).twin = g.twin := rfl
@[simp] theorem Group.setT_yielded : (g.setT n x).yielded = g.yielded := rfl
@[simp] theorem Group.setT_ckpts : (g.setT n x).ckpts = g.ckpts := rfl
@[simp] theorem Group.setT_ckptWait : (g.setT n x).ckptWait = g.ckptWait := rfl
@[simp] theorem Group.setT_atCkpt : (g.setT n x).atCkpt = g.atCkpt := rfl

end setT

section setLane
variable (g : Group) (l : Nat) (x : Lane)

@[simp] theorem Group.setLane_blk : (g.setLane l x).blk = g.blk := rfl
@[simp] theorem Group.setLane_idx : (g.setLane l x).idx = g.idx := rfl
@[simp] theorem Group.setLane_nv : (g.setLane l x).nv = g.nv := rfl
@[simp] theorem Group.setLane_lanes : (g.setLane l x).lanes = g.lanes.set Lane.out l x := rfl
@[simp] theorem Group.setLane_v : (g.setLane l x).v = g.v := rfl
@[simp] theorem Group.setLane_u : (g.setLane l x).u = g.u := rfl
@[simp] theorem Group.setLane_p : (g.setLane l x).p = g.p := rfl
@[simp] theorem Group.setLane_m : (g.setLane l x).m = g.m := rfl
@[simp] theorem Group.setLane_b : (g.setLane l x).b = g.b := rfl
@[simp] theorem Group.setLane_t : (g.setLane l x).t = g.t := rfl
@[simp] theorem Group.setLane_scopemiss : (g.setLane l x).scopemiss = g.scopemiss := rfl
@[simp] theorem Group.setLane_rsspill : (g.setLane l x).rsspill = g.rsspill := rfl
@[simp] theorem Group.setLane_heir : (g.setLane l x).heir = g.heir := rfl
@[simp] theorem Group.setLane_futh : (g.setLane l x).futh = g.futh := rfl
@[simp] theorem Group.setLane_futpc : (g.setLane l x).futpc = g.futpc := rfl
@[simp] theorem Group.setLane_futaddr : (g.setLane l x).futaddr = g.futaddr := rfl
@[simp] theorem Group.setLane_hlanes : (g.setLane l x).hlanes = g.hlanes := rfl
@[simp] theorem Group.setLane_seed : (g.setLane l x).seed = g.seed := rfl
@[simp] theorem Group.setLane_ptab : (g.setLane l x).ptab = g.ptab := rfl
@[simp] theorem Group.setLane_pnext : (g.setLane l x).pnext = g.pnext := rfl
@[simp] theorem Group.setLane_baton : (g.setLane l x).baton = g.baton := rfl
@[simp] theorem Group.setLane_gissue : (g.setLane l x).gissue = g.gissue := rfl
@[simp] theorem Group.setLane_gcycle : (g.setLane l x).gcycle = g.gcycle := rfl
@[simp] theorem Group.setLane_ghold : (g.setLane l x).ghold = g.ghold := rfl
@[simp] theorem Group.setLane_gidle : (g.setLane l x).gidle = g.gidle := rfl
@[simp] theorem Group.setLane_gticks : (g.setLane l x).gticks = g.gticks := rfl
@[simp] theorem Group.setLane_trap : (g.setLane l x).trap = g.trap := rfl
@[simp] theorem Group.setLane_fault : (g.setLane l x).fault = g.fault := rfl
@[simp] theorem Group.setLane_bars : (g.setLane l x).bars = g.bars := rfl
@[simp] theorem Group.setLane_opFenced : (g.setLane l x).opFenced = g.opFenced := rfl
@[simp] theorem Group.setLane_opWrote : (g.setLane l x).opWrote = g.opWrote := rfl
@[simp] theorem Group.setLane_cpyw : (g.setLane l x).cpyw = g.cpyw := rfl
@[simp] theorem Group.setLane_jwait : (g.setLane l x).jwait = g.jwait := rfl
@[simp] theorem Group.setLane_calls : (g.setLane l x).calls = g.calls := rfl
@[simp] theorem Group.setLane_draw : (g.setLane l x).draw = g.draw := rfl
@[simp] theorem Group.setLane_ticket : (g.setLane l x).ticket = g.ticket := rfl
@[simp] theorem Group.setLane_wrs : (g.setLane l x).wrs = g.wrs := rfl
@[simp] theorem Group.setLane_emitWait : (g.setLane l x).emitWait = g.emitWait := rfl
@[simp] theorem Group.setLane_overCls : (g.setLane l x).overCls = g.overCls := rfl
@[simp] theorem Group.setLane_carried : (g.setLane l x).carried = g.carried := rfl
@[simp] theorem Group.setLane_denied : (g.setLane l x).denied = g.denied := rfl
@[simp] theorem Group.setLane_withdrawn : (g.setLane l x).withdrawn = g.withdrawn := rfl
@[simp] theorem Group.setLane_hint : (g.setLane l x).hint = g.hint := rfl
@[simp] theorem Group.setLane_hands : (g.setLane l x).hands = g.hands := rfl
@[simp] theorem Group.setLane_tgen : (g.setLane l x).tgen = g.tgen := rfl
@[simp] theorem Group.setLane_land : (g.setLane l x).land = g.land := rfl
@[simp] theorem Group.setLane_graph : (g.setLane l x).graph = g.graph := rfl
@[simp] theorem Group.setLane_node : (g.setLane l x).node = g.node := rfl
@[simp] theorem Group.setLane_stage : (g.setLane l x).stage = g.stage := rfl
@[simp] theorem Group.setLane_twin : (g.setLane l x).twin = g.twin := rfl
@[simp] theorem Group.setLane_yielded : (g.setLane l x).yielded = g.yielded := rfl
@[simp] theorem Group.setLane_ckpts : (g.setLane l x).ckpts = g.ckpts := rfl
@[simp] theorem Group.setLane_ckptWait : (g.setLane l x).ckptWait = g.ckptWait := rfl
@[simp] theorem Group.setLane_atCkpt : (g.setLane l x).atCkpt = g.atCkpt := rfl

end setLane

section setU
variable (g : Group) (n l : Nat) (x : Val)

@[simp] theorem Group.setU_blk : (g.setU n l x).blk = g.blk := rfl
@[simp] theorem Group.setU_idx : (g.setU n l x).idx = g.idx := rfl
@[simp] theorem Group.setU_nv : (g.setU n l x).nv = g.nv := rfl
@[simp] theorem Group.setU_v : (g.setU n l x).v = g.v := rfl
@[simp] theorem Group.setU_p : (g.setU n l x).p = g.p := rfl
@[simp] theorem Group.setU_m : (g.setU n l x).m = g.m := rfl
@[simp] theorem Group.setU_b : (g.setU n l x).b = g.b := rfl
@[simp] theorem Group.setU_t : (g.setU n l x).t = g.t := rfl
@[simp] theorem Group.setU_scopemiss : (g.setU n l x).scopemiss = g.scopemiss := rfl
@[simp] theorem Group.setU_rsspill : (g.setU n l x).rsspill = g.rsspill := rfl
@[simp] theorem Group.setU_heir : (g.setU n l x).heir = g.heir := rfl
@[simp] theorem Group.setU_futh : (g.setU n l x).futh = g.futh := rfl
@[simp] theorem Group.setU_futpc : (g.setU n l x).futpc = g.futpc := rfl
@[simp] theorem Group.setU_futaddr : (g.setU n l x).futaddr = g.futaddr := rfl
@[simp] theorem Group.setU_hlanes : (g.setU n l x).hlanes = g.hlanes := rfl
@[simp] theorem Group.setU_seed : (g.setU n l x).seed = g.seed := rfl
@[simp] theorem Group.setU_ptab : (g.setU n l x).ptab = g.ptab := rfl
@[simp] theorem Group.setU_pnext : (g.setU n l x).pnext = g.pnext := rfl
@[simp] theorem Group.setU_baton : (g.setU n l x).baton = g.baton := rfl
@[simp] theorem Group.setU_gissue : (g.setU n l x).gissue = g.gissue := rfl
@[simp] theorem Group.setU_gcycle : (g.setU n l x).gcycle = g.gcycle := rfl
@[simp] theorem Group.setU_ghold : (g.setU n l x).ghold = g.ghold := rfl
@[simp] theorem Group.setU_gidle : (g.setU n l x).gidle = g.gidle := rfl
@[simp] theorem Group.setU_gticks : (g.setU n l x).gticks = g.gticks := rfl
@[simp] theorem Group.setU_trap : (g.setU n l x).trap = g.trap := rfl
@[simp] theorem Group.setU_fault : (g.setU n l x).fault = g.fault := rfl
@[simp] theorem Group.setU_bars : (g.setU n l x).bars = g.bars := rfl
@[simp] theorem Group.setU_opFenced : (g.setU n l x).opFenced = g.opFenced := rfl
@[simp] theorem Group.setU_opWrote : (g.setU n l x).opWrote = g.opWrote := rfl
@[simp] theorem Group.setU_cpyw : (g.setU n l x).cpyw = g.cpyw := rfl
@[simp] theorem Group.setU_jwait : (g.setU n l x).jwait = g.jwait := rfl
@[simp] theorem Group.setU_calls : (g.setU n l x).calls = g.calls := rfl
@[simp] theorem Group.setU_draw : (g.setU n l x).draw = g.draw := rfl
@[simp] theorem Group.setU_ticket : (g.setU n l x).ticket = g.ticket := rfl
@[simp] theorem Group.setU_wrs : (g.setU n l x).wrs = g.wrs := rfl
@[simp] theorem Group.setU_emitWait : (g.setU n l x).emitWait = g.emitWait := rfl
@[simp] theorem Group.setU_overCls : (g.setU n l x).overCls = g.overCls := rfl
@[simp] theorem Group.setU_carried : (g.setU n l x).carried = g.carried := rfl
@[simp] theorem Group.setU_denied : (g.setU n l x).denied = g.denied := rfl
@[simp] theorem Group.setU_withdrawn : (g.setU n l x).withdrawn = g.withdrawn := rfl
@[simp] theorem Group.setU_hint : (g.setU n l x).hint = g.hint := rfl
@[simp] theorem Group.setU_hands : (g.setU n l x).hands = g.hands := rfl
@[simp] theorem Group.setU_tgen : (g.setU n l x).tgen = g.tgen := rfl
@[simp] theorem Group.setU_land : (g.setU n l x).land = g.land := rfl
@[simp] theorem Group.setU_graph : (g.setU n l x).graph = g.graph := rfl
@[simp] theorem Group.setU_node : (g.setU n l x).node = g.node := rfl
@[simp] theorem Group.setU_stage : (g.setU n l x).stage = g.stage := rfl
@[simp] theorem Group.setU_twin : (g.setU n l x).twin = g.twin := rfl
@[simp] theorem Group.setU_yielded : (g.setU n l x).yielded = g.yielded := rfl
@[simp] theorem Group.setU_ckpts : (g.setU n l x).ckpts = g.ckpts := rfl
@[simp] theorem Group.setU_ckptWait : (g.setU n l x).ckptWait = g.ckptWait := rfl
@[simp] theorem Group.setU_atCkpt : (g.setU n l x).atCkpt = g.atCkpt := rfl
@[simp] theorem Group.setU_u : (g.setU n l x).u = g.u.set ⟨0, none⟩ (64 * l + n) x := rfl

end setU

section setP
variable (g : Group) (n l : Nat) (x : PVal)

@[simp] theorem Group.setP_blk : (g.setP n l x).blk = g.blk := by unfold Group.setP; split <;> rfl
@[simp] theorem Group.setP_idx : (g.setP n l x).idx = g.idx := by unfold Group.setP; split <;> rfl
@[simp] theorem Group.setP_nv : (g.setP n l x).nv = g.nv := by unfold Group.setP; split <;> rfl
@[simp] theorem Group.setP_lanes : (g.setP n l x).lanes = g.lanes := by unfold Group.setP; split <;> rfl
@[simp] theorem Group.setP_v : (g.setP n l x).v = g.v := by unfold Group.setP; split <;> rfl
@[simp] theorem Group.setP_u : (g.setP n l x).u = g.u := by unfold Group.setP; split <;> rfl
@[simp] theorem Group.setP_m : (g.setP n l x).m = g.m := by unfold Group.setP; split <;> rfl
@[simp] theorem Group.setP_b : (g.setP n l x).b = g.b := by unfold Group.setP; split <;> rfl
@[simp] theorem Group.setP_t : (g.setP n l x).t = g.t := by unfold Group.setP; split <;> rfl
@[simp] theorem Group.setP_scopemiss : (g.setP n l x).scopemiss = g.scopemiss := by unfold Group.setP; split <;> rfl
@[simp] theorem Group.setP_rsspill : (g.setP n l x).rsspill = g.rsspill := by unfold Group.setP; split <;> rfl
@[simp] theorem Group.setP_heir : (g.setP n l x).heir = g.heir := by unfold Group.setP; split <;> rfl
@[simp] theorem Group.setP_futh : (g.setP n l x).futh = g.futh := by unfold Group.setP; split <;> rfl
@[simp] theorem Group.setP_futpc : (g.setP n l x).futpc = g.futpc := by unfold Group.setP; split <;> rfl
@[simp] theorem Group.setP_futaddr : (g.setP n l x).futaddr = g.futaddr := by unfold Group.setP; split <;> rfl
@[simp] theorem Group.setP_hlanes : (g.setP n l x).hlanes = g.hlanes := by unfold Group.setP; split <;> rfl
@[simp] theorem Group.setP_seed : (g.setP n l x).seed = g.seed := by unfold Group.setP; split <;> rfl
@[simp] theorem Group.setP_ptab : (g.setP n l x).ptab = g.ptab := by unfold Group.setP; split <;> rfl
@[simp] theorem Group.setP_pnext : (g.setP n l x).pnext = g.pnext := by unfold Group.setP; split <;> rfl
@[simp] theorem Group.setP_baton : (g.setP n l x).baton = g.baton := by unfold Group.setP; split <;> rfl
@[simp] theorem Group.setP_gissue : (g.setP n l x).gissue = g.gissue := by unfold Group.setP; split <;> rfl
@[simp] theorem Group.setP_gcycle : (g.setP n l x).gcycle = g.gcycle := by unfold Group.setP; split <;> rfl
@[simp] theorem Group.setP_ghold : (g.setP n l x).ghold = g.ghold := by unfold Group.setP; split <;> rfl
@[simp] theorem Group.setP_gidle : (g.setP n l x).gidle = g.gidle := by unfold Group.setP; split <;> rfl
@[simp] theorem Group.setP_gticks : (g.setP n l x).gticks = g.gticks := by unfold Group.setP; split <;> rfl
@[simp] theorem Group.setP_trap : (g.setP n l x).trap = g.trap := by unfold Group.setP; split <;> rfl
@[simp] theorem Group.setP_fault : (g.setP n l x).fault = g.fault := by unfold Group.setP; split <;> rfl
@[simp] theorem Group.setP_bars : (g.setP n l x).bars = g.bars := by unfold Group.setP; split <;> rfl
@[simp] theorem Group.setP_opFenced : (g.setP n l x).opFenced = g.opFenced := by unfold Group.setP; split <;> rfl
@[simp] theorem Group.setP_opWrote : (g.setP n l x).opWrote = g.opWrote := by unfold Group.setP; split <;> rfl
@[simp] theorem Group.setP_cpyw : (g.setP n l x).cpyw = g.cpyw := by unfold Group.setP; split <;> rfl
@[simp] theorem Group.setP_jwait : (g.setP n l x).jwait = g.jwait := by unfold Group.setP; split <;> rfl
@[simp] theorem Group.setP_calls : (g.setP n l x).calls = g.calls := by unfold Group.setP; split <;> rfl
@[simp] theorem Group.setP_draw : (g.setP n l x).draw = g.draw := by unfold Group.setP; split <;> rfl
@[simp] theorem Group.setP_ticket : (g.setP n l x).ticket = g.ticket := by unfold Group.setP; split <;> rfl
@[simp] theorem Group.setP_wrs : (g.setP n l x).wrs = g.wrs := by unfold Group.setP; split <;> rfl
@[simp] theorem Group.setP_emitWait : (g.setP n l x).emitWait = g.emitWait := by unfold Group.setP; split <;> rfl
@[simp] theorem Group.setP_overCls : (g.setP n l x).overCls = g.overCls := by unfold Group.setP; split <;> rfl
@[simp] theorem Group.setP_carried : (g.setP n l x).carried = g.carried := by unfold Group.setP; split <;> rfl
@[simp] theorem Group.setP_denied : (g.setP n l x).denied = g.denied := by unfold Group.setP; split <;> rfl
@[simp] theorem Group.setP_withdrawn : (g.setP n l x).withdrawn = g.withdrawn := by unfold Group.setP; split <;> rfl
@[simp] theorem Group.setP_hint : (g.setP n l x).hint = g.hint := by unfold Group.setP; split <;> rfl
@[simp] theorem Group.setP_hands : (g.setP n l x).hands = g.hands := by unfold Group.setP; split <;> rfl
@[simp] theorem Group.setP_tgen : (g.setP n l x).tgen = g.tgen := by unfold Group.setP; split <;> rfl
@[simp] theorem Group.setP_land : (g.setP n l x).land = g.land := by unfold Group.setP; split <;> rfl
@[simp] theorem Group.setP_graph : (g.setP n l x).graph = g.graph := by unfold Group.setP; split <;> rfl
@[simp] theorem Group.setP_node : (g.setP n l x).node = g.node := by unfold Group.setP; split <;> rfl
@[simp] theorem Group.setP_stage : (g.setP n l x).stage = g.stage := by unfold Group.setP; split <;> rfl
@[simp] theorem Group.setP_twin : (g.setP n l x).twin = g.twin := by unfold Group.setP; split <;> rfl
@[simp] theorem Group.setP_yielded : (g.setP n l x).yielded = g.yielded := by unfold Group.setP; split <;> rfl
@[simp] theorem Group.setP_ckpts : (g.setP n l x).ckpts = g.ckpts := by unfold Group.setP; split <;> rfl
@[simp] theorem Group.setP_ckptWait : (g.setP n l x).ckptWait = g.ckptWait := by unfold Group.setP; split <;> rfl
@[simp] theorem Group.setP_atCkpt : (g.setP n l x).atCkpt = g.atCkpt := by unfold Group.setP; split <;> rfl

end setP

/-! ## Reads after writes -/

section reads
variable (s : State) (g : Group)

@[simp] theorem State.group?_putGroup_self (k : Nat) (x : Group) : (s.putGroup k x).group? k = some x := SMap.find?_put_self ..
theorem State.group?_putGroup (k j : Nat) (x : Group) : (s.putGroup k x).group? j = if j = k then some x else s.group? j := SMap.find?_put ..
@[simp] theorem State.slice_putSlice_self (k : Nat) (x : Slice) : (s.putSlice k x).slice k = x := SMap.get_put_self ..
theorem State.slice_putSlice (k j : Nat) (x : Slice) : (s.putSlice k x).slice j = if j = k then x else s.slice j := SMap.get_put ..
@[simp] theorem State.core_putCore_self (k : Nat) (x : Core) : (s.putCore k x).core k = x := SMap.get_put_self ..
theorem State.core_putCore (k j : Nat) (x : Core) : (s.putCore k x).core j = if j = k then x else s.core j := SMap.get_put ..
@[simp] theorem State.die_putDie_self (k : Nat) (x : Die) : (s.putDie k x).die k = x := SMap.get_put_self ..
theorem State.die_putDie (k j : Nat) (x : Die) : (s.putDie k x).die j = if j = k then x else s.die j := by
  unfold State.die State.putDie
  rw [SMap.get_put]
@[simp] theorem State.block?_putBlock_self (k : Nat) (x : Block) : (s.putBlock k x).block? k = some x := SMap.find?_put_self ..
theorem State.block?_putBlock (k j : Nat) (x : Block) : (s.putBlock k x).block? j = if j = k then some x else s.block? j := SMap.find?_put ..
@[simp] theorem State.launch?_putLaunch_self (k : Nat) (x : Launch) : (s.putLaunch k x).launch? k = some x := SMap.find?_put_self ..
theorem State.launch?_putLaunch (k j : Nat) (x : Launch) : (s.putLaunch k x).launch? j = if j = k then some x else s.launch? j :=
  SMap.find?_put ..

/-- A vector register of a lane after a write of one (03 R63). -/
theorem Group.vAt_setV (n l r k : Nat) (x : Val) (hl : l < 32) (hk : k < 32) :
    (g.setV n l x).vAt r k = if r = n ∧ k = l then x else g.vAt r k := by
  unfold Group.vAt Group.setV
  simp only [SMap.get_set]
  by_cases h : 32 * r + k = 32 * n + l
  · rw [if_pos h, if_pos (by omega)]
  · rw [if_neg h, if_neg (by omega)]

/-- A uniform register of a lane's copy after a write of one (03 R68). -/
theorem Group.uAt_setU (n l r k : Nat) (x : Val) (hn : n < 64) (hr : r < 64) :
    (g.setU n l x).uAt r k = if r = n ∧ k = l then x else g.uAt r k := by
  unfold Group.uAt
  simp only [Group.setU_u, SMap.get_set]
  by_cases h : 64 * k + r = 64 * l + n
  · rw [if_pos h, if_pos (by omega)]
  · rw [if_neg h, if_neg (by omega)]

/-- A predicate of a lane after a write of one; p7 stays true (03 R63). -/
theorem Group.pAt_setP (n l r k : Nat) (x : PVal) (hn : n < 8) (hr : r < 8) :
    (g.setP n l x).pAt r k = if r = n ∧ k = l ∧ r ≠ 7 then x else g.pAt r k := by
  unfold Group.pAt Group.setP
  by_cases h7 : r = 7
  · simp [h7]
  · simp only [h7, if_false]
    by_cases hn7 : n = 7
    · rw [if_pos hn7, if_neg (by omega)]
    · rw [if_neg hn7]
      simp only [SMap.get_set]
      by_cases h : 8 * k + r = 8 * l + n
      · rw [if_pos h, if_pos (by omega)]
      · rw [if_neg h, if_neg (by omega)]

/-- A mask register after a write of one. -/
theorem Group.mAt_setM (n r : Nat) (x : Word) : (g.setM n x).mAt r = if r = n then x else g.mAt r := SMap.get_set ..
theorem Group.bAt_setB (n r : Nat) (x : BitVec 128) : (g.setB n x).bAt r = if r = n then x else g.bAt r := SMap.get_set ..
theorem Group.tAt_setT (n r : Nat) (x : BitVec 256) : (g.setT n x).tAt r = if r = n then x else g.tAt r := SMap.get_set ..

/-- A lane after a change of one. -/
theorem Group.lane_setLane (l k : Nat) (x : Lane) : (g.setLane l x).lane k = if k = l then x else g.lane k := SMap.get_set ..

end reads

end Sys2Proof.Machine
end

