-- ==== Sys2Proof/Laws/Group.lean ====
section
/-! SUPPORT. What the shared operations on a group do: a change of lanes, advancing, a write of a destination in the executing lanes. -/

namespace Sys2Proof.Machine

open Sys2Proof

/-! ## Lanes of a mask -/

theorem mem_lanesOf (m : BitVec 32) (l : Nat) : l ∈ lanesOf m ↔ l < 32 ∧ m.getLsbD l = true := by
  simp [lanesOf, List.mem_filter]

theorem lanesOf_nodup (m : BitVec 32) : (lanesOf m).Nodup := List.Pairwise.filter _ List.nodup_range

theorem lanesOf_lt {m : BitVec 32} {l : Nat} (h : l ∈ lanesOf m) : l < 32 := ((mem_lanesOf m l).1 h).1

/-- A mask depends on the 32 lanes alone. -/
theorem maskOf_congr {p q : Nat → Bool} (h : ∀ k < 32, p k = q k) : maskOf p = maskOf q := by
  unfold maskOf
  congr 1
  have : ∀ (ls : List Nat), (∀ k ∈ ls, k < 32) → ∀ a, ls.foldl (fun a l => if p l then a + 2 ^ l else a) a = ls.foldl (fun a l => if q l then a + 2 ^ l else a) a := by
    intro ls
    induction ls with
    | nil => intro _ _; rfl
    | cons k ls ih =>
      intro hk a
      rw [List.foldl_cons, List.foldl_cons, h k (hk k (by simp)), ih (fun k h => hk k (by simp [h]))]
  exact this _ (fun k h => List.mem_range.1 h) 0

/-- The executing lanes that meet a condition, as a mask (the lanes that raise a trap, 23 R398). -/
theorem maskIn_filter (m : BitVec 32) (p : Nat → Bool) : maskIn ((lanesOf m).filter p) = maskOf (fun k => m.getLsbD k && p k) := by
  apply maskOf_congr
  intro k hk
  rw [Bool.eq_iff_iff]
  simp [List.mem_filter, mem_lanesOf, hk]
/-- A mask holds the lanes of its condition, and no others. -/
theorem getLsbD_maskOf (p : Nat → Bool) (k : Nat) : (maskOf p).getLsbD k = (decide (k < 32) && p k) := by
  have : ∀ n, (List.range n).foldl (fun a l => if p l then a + 2 ^ l else a) 0 < 2 ^ n ∧
      ∀ k, ((List.range n).foldl (fun a l => if p l then a + 2 ^ l else a) 0).testBit k = (decide (k < n) && p k) := by
    intro n
    induction n with
    | zero => simp
    | succ n ih =>
      obtain ⟨hlt, hb⟩ := ih
      rw [List.range_succ, List.foldl_append, List.foldl_cons, List.foldl_nil]
      revert hlt hb
      generalize (List.range n).foldl (fun a l => if p l then a + 2 ^ l else a) 0 = a
      intro hlt hb
      cases hp : p n with
      | false =>
        refine ⟨by rw [if_neg (by decide)]; omega, fun k => ?_⟩
        rw [if_neg (by decide), hb]
        rcases Nat.lt_trichotomy k n with h | rfl | h
        · simp [h, Nat.lt_succ_of_lt h]
        · simp [hp]
        · simp [show ¬ k < n by omega, show ¬ k < n + 1 by omega]
      | true =>
        refine ⟨by rw [if_pos rfl]; omega, fun k => ?_⟩
        rw [if_pos rfl, Nat.add_comm]
        rcases Nat.lt_trichotomy k n with h | rfl | h
        · rw [Nat.testBit_two_pow_add_gt h, hb]; simp [h, Nat.lt_succ_of_lt h]
        · rw [Nat.testBit_two_pow_add_eq, hb]; simp [hp]
        · rw [Nat.testBit_lt_two_pow (Nat.lt_of_lt_of_le (show 2 ^ n + a < 2 ^ (n + 1) by omega) (Nat.pow_le_pow_right (by decide) h))]
          simp [show ¬ k < n + 1 by omega]
  rw [maskOf, BitVec.getLsbD_ofNat, (this 32).2]
  cases decide (k < 32) <;> rfl

/-- The mask of its lanes is the mask. -/
theorem maskIn_lanesOf (m : BitVec 32) : maskIn (lanesOf m) = m := by
  apply BitVec.eq_of_getLsbD_eq
  intro k hk
  rw [maskIn, getLsbD_maskOf, Bool.eq_iff_iff]
  simp [mem_lanesOf, hk]

/-- A fold of writes, each at its own place and each blind to the others', read at one place. -/
theorem foldl_at {σ β : Type} (step : σ → Nat → σ) (read : σ → Nat → β) (f : Nat → β → β)
    (h : ∀ s l k, l < 32 → k < 32 → read (step s l) k = if k = l then f l (read s l) else read s k)
    (ls : List Nat) (hlt : ∀ l ∈ ls, l < 32) (hn : ls.Nodup) (s : σ) (k : Nat) (hk : k < 32) :
    read (ls.foldl step s) k = if k ∈ ls then f k (read s k) else read s k := by
  induction ls generalizing s with
  | nil => simp
  | cons l ls ih =>
    have hl : l < 32 := hlt l (List.mem_cons_self ..)
    have hn' := List.nodup_cons.1 hn
    rw [List.foldl_cons, ih (fun x hx => hlt x (List.mem_cons_of_mem _ hx)) hn'.2, h s l k hl hk]
    by_cases hkl : k = l
    · subst hkl
      rw [if_neg hn'.1, if_pos rfl, if_pos (List.mem_cons_self ..)]
    · simp [hkl]

/-! ## Changes of lanes -/

theorem Group.onLanes_eq (g : Group) (m : BitVec 32) (f : Nat → Lane → Lane) :
    g.onLanes m f = { g with lanes := (g.onLanes m f).lanes } := by
  unfold Group.onLanes
  generalize lanesOf m = ls
  induction ls generalizing g with
  | nil => rfl
  | cons l ls ih => rw [List.foldl_cons, ih]; rfl

/-- A lane after a change of the lanes of a mask. -/
theorem Group.lane_onLanes (g : Group) (m : BitVec 32) (f : Nat → Lane → Lane) (k : Nat) (hk : k < 32) :
    (g.onLanes m f).lane k = if m.getLsbD k then f k (g.lane k) else g.lane k := by
  have := foldl_at (fun (g : Group) l => g.setLane l (f l (g.lane l))) Group.lane (fun l x => f l x)
    (fun s l k _ _ => Group.lane_setLane s l k _) (lanesOf m) (fun _ h => lanesOf_lt h) (lanesOf_nodup m) g k hk
  unfold Group.onLanes
  rw [this]
  by_cases h : m.getLsbD k = true
  · rw [if_pos ((mem_lanesOf m k).2 ⟨hk, h⟩), if_pos h]
  · rw [if_neg (fun hm => h ((mem_lanesOf m k).1 hm).2), if_neg h]

theorem Group.advance_eq (g : Group) (c : Cur) : g.advance c = { g with lanes := (g.advance c).lanes } := Group.onLanes_eq ..

/-- Advancing gives the issuing lanes the address of the next instruction (08 R187), and nothing else. -/
theorem Group.lane_advance (g : Group) (c : Cur) (k : Nat) (hk : k < 32) :
    (g.advance c).lane k = if c.at_.getLsbD k then { g.lane k with pc := c.npc } else g.lane k := Group.lane_onLanes _ _ _ _ hk

/-- Advancing changes no lane's view. -/
@[simp] theorem Group.view_advance (g : Group) (c : Cur) (l : Nat) : ((g.advance c).lane l).view = (g.lane l).view := by
  unfold Group.advance Group.onLanes
  generalize lanesOf c.at_ = ls
  induction ls generalizing g with
  | nil => rfl
  | cons k ls ih => rw [List.foldl_cons, ih, Group.lane_setLane]; split <;> simp_all

@[simp] theorem Group.advance_v (g : Group) (c : Cur) : (g.advance c).v = g.v := by rw [Group.advance_eq]
@[simp] theorem Group.advance_u (g : Group) (c : Cur) : (g.advance c).u = g.u := by rw [Group.advance_eq]
@[simp] theorem Group.advance_p (g : Group) (c : Cur) : (g.advance c).p = g.p := by rw [Group.advance_eq]
@[simp] theorem Group.advance_m (g : Group) (c : Cur) : (g.advance c).m = g.m := by rw [Group.advance_eq]
@[simp] theorem Group.advance_b (g : Group) (c : Cur) : (g.advance c).b = g.b := by rw [Group.advance_eq]
@[simp] theorem Group.advance_t (g : Group) (c : Cur) : (g.advance c).t = g.t := by rw [Group.advance_eq]
@[simp] theorem Group.advance_seed (g : Group) (c : Cur) : (g.advance c).seed = g.seed := by rw [Group.advance_eq]
@[simp] theorem Group.advance_blk (g : Group) (c : Cur) : (g.advance c).blk = g.blk := by rw [Group.advance_eq]
@[simp] theorem Group.advance_ptab (g : Group) (c : Cur) : (g.advance c).ptab = g.ptab := by rw [Group.advance_eq]

/-! ## Reads that a change of lanes leaves -/

section reads
variable (s : State) (g : Group) (c : Cur)

@[simp] theorem Group.vAt_advance (n l : Nat) : (g.advance c).vAt n l = g.vAt n l := by simp [Group.vAt]
@[simp] theorem Group.uAt_advance (n l : Nat) : (g.advance c).uAt n l = g.uAt n l := by simp [Group.uAt]
@[simp] theorem Group.pAt_advance (n l : Nat) : (g.advance c).pAt n l = g.pAt n l := by simp [Group.pAt]
@[simp] theorem Group.mAt_advance (n : Nat) : (g.advance c).mAt n = g.mAt n := by simp [Group.mAt]
@[simp] theorem Group.bAt_advance (n : Nat) : (g.advance c).bAt n = g.bAt n := by simp [Group.bAt]
@[simp] theorem Group.tAt_advance (n : Nat) : (g.advance c).tAt n = g.tAt n := by simp [Group.tAt]
@[simp] theorem State.readV_advance (n l : Nat) : s.readV (g.advance c) n l = s.readV g n l := by simp [State.readV]
@[simp] theorem State.readU_advance (n l : Nat) : s.readU (g.advance c) n l = s.readU g n l := by simp [State.readU]
@[simp] theorem State.readP_advance (n l : Nat) : s.readP (g.advance c) n l = s.readP g n l := by simp [State.readP]
@[simp] theorem State.readSel_advance (x : Sel) (i l : Nat) : s.readSel (g.advance c) x i l = s.readSel g x i l := by
  cases x <;> simp [State.readSel]
@[simp] theorem State.source_advance (f : Form) (n : Nat) (o : Op) (k l : Nat) : s.source (g.advance c) f n o k l = s.source g f n o k l := by
  simp only [State.source, State.readSel_advance]
@[simp] theorem State.sourcePair_advance (f : Form) (n : Nat) (o : Op) (k l : Nat) :
    s.sourcePair (g.advance c) f n o k l = s.sourcePair g f n o k l := by
  simp only [State.sourcePair, State.readSel_advance, State.source_advance]
@[simp] theorem State.sourceP_advance (x : Sel) (l : Nat) : s.sourceP (g.advance c) x l = s.sourceP g x l := by
  cases x <;> simp [State.sourceP]
@[simp] theorem State.low_advance (f : Form) (n : Nat) (o : Op) (k : Nat) : s.low (g.advance c) f n o k = s.low g f n o k := by
  simp only [State.low, State.source_advance]
@[simp] theorem State.lowPair_advance (f : Form) (n : Nat) (o : Op) (k : Nat) : s.lowPair (g.advance c) f n o k = s.lowPair g f n o k := by
  simp only [State.lowPair, State.sourcePair_advance]

end reads

/-! ## A write of a destination -/

/-- One register of a destination written in a lane, as every later read finds it. -/
theorem Group.write_eq (g : Group) (d : Sel) (i l : Nat) (x : Val) :
    g.write d i l x = { g with v := (g.write d i l x).v, u := (g.write d i l x).u, p := (g.write d i l x).p, lanes := (g.write d i l x).lanes } := by
  cases d <;> first | rfl | (simp only [Group.write, Group.setP]; split <;> rfl)

theorem Group.foldl_write_eq {β : Type} (d : Sel) (fi fl : β → Nat) (fx : β → Val) (xs : List β) (g : Group) :
    xs.foldl (fun g x => g.write d (fi x) (fl x) (fx x)) g =
      { g with v := (xs.foldl (fun g x => g.write d (fi x) (fl x) (fx x)) g).v, u := (xs.foldl (fun g x => g.write d (fi x) (fl x) (fx x)) g).u,
               p := (xs.foldl (fun g x => g.write d (fi x) (fl x) (fx x)) g).p,
               lanes := (xs.foldl (fun g x => g.write d (fi x) (fl x) (fx x)) g).lanes } := by
  induction xs generalizing g with
  | nil => rfl
  | cons x xs ih => rw [List.foldl_cons, ih, Group.write_eq]

/-- A vector register after registers of a destination were written in a lane, the first of them at offset `i`. -/
theorem Group.vAt_writes (d : Sel) (l : Nat) (hl : l < 32) (xs : List Val) (i : Nat) (g : Group) (r k : Nat) (hk : k < 32) :
    ((xs.zipIdx i).foldl (fun g x => g.write d x.2 l x.1) g).vAt r k =
      if k = l then (match d with
        | .v n => if n.toNat + i ≤ r then (xs[r - (n.toNat + i)]?).getD (g.vAt r k) else g.vAt r k
        | _ => g.vAt r k) else g.vAt r k := by
  induction xs generalizing i g with
  | nil => cases d <;> simp
  | cons x xs ih =>
    rw [List.zipIdx_cons, List.foldl_cons, ih]
    cases d with
    | v n =>
      simp only [Group.write, Group.vAt_setV g _ _ _ _ _ hl hk]
      by_cases hkl : k = l
      · simp only [hkl, if_true, and_true]
        by_cases h1 : n.toNat + (i + 1) ≤ r
        · rw [if_pos h1, if_neg (show ¬ r = n.toNat + i by omega), if_pos (show n.toNat + i ≤ r by omega)]
          have : r - (n.toNat + i) = (r - (n.toNat + (i + 1))) + 1 := by omega
          rw [this, List.getElem?_cons_succ]
        · rw [if_neg h1]
          by_cases h2 : r = n.toNat + i
          · rw [if_pos h2, if_pos (show n.toNat + i ≤ r by omega), h2, Nat.sub_self]; simp
          · rw [if_neg h2, if_neg (show ¬ n.toNat + i ≤ r by omega)]
      · simp [hkl]
    | p n => simp [Group.write, Group.vAt]
    | _ => simp [Group.write, Group.vAt]

/-- A uniform register after them, where the destination stands within its class. -/
theorem Group.uAt_writes (d : Sel) (l : Nat) (xs : List Val) (i : Nat) (hw : ∀ n, d = .s n → n.toNat + i + xs.length ≤ 64)
    (g : Group) (r k : Nat) (hr : r < 64) :
    ((xs.zipIdx i).foldl (fun g x => g.write d x.2 l x.1) g).uAt r k =
      if k = l then (match d with
        | .s n => if n.toNat + i ≤ r then (xs[r - (n.toNat + i)]?).getD (g.uAt r k) else g.uAt r k
        | _ => g.uAt r k) else g.uAt r k := by
  induction xs generalizing i g with
  | nil => cases d <;> simp
  | cons x xs ih =>
    have hw' : ∀ n, d = .s n → n.toNat + (i + 1) + xs.length ≤ 64 := by
      intro n hn; have := hw n hn; simp only [List.length_cons] at this; omega
    rw [List.zipIdx_cons, List.foldl_cons, ih _ hw']
    cases d with
    | s n =>
      have := hw n rfl
      simp only [List.length_cons] at this
      simp only [Group.write, Group.uAt_setU g (n.toNat + i) l r k _ (by omega) hr]
      by_cases hkl : k = l
      · simp only [hkl, if_true, and_true]
        by_cases h1 : n.toNat + (i + 1) ≤ r
        · rw [if_pos h1, if_neg (show ¬ r = n.toNat + i by omega), if_pos (show n.toNat + i ≤ r by omega)]
          have : r - (n.toNat + i) = (r - (n.toNat + (i + 1))) + 1 := by omega
          rw [this, List.getElem?_cons_succ]
        · rw [if_neg h1]
          by_cases h2 : r = n.toNat + i
          · rw [if_pos h2, if_pos (show n.toNat + i ≤ r by omega), h2, Nat.sub_self]; simp
          · rw [if_neg h2, if_neg (show ¬ n.toNat + i ≤ r by omega)]
      · simp [hkl]
    | p n => simp [Group.write, Group.uAt]
    | _ => simp [Group.write, Group.uAt]

/-- A predicate after them: the last value written. -/
theorem Group.pAt_writes (d : Sel) (l : Nat) (xs : List Val) (i : Nat) (g : Group) (r k : Nat) (hr : r < 8) :
    ((xs.zipIdx i).foldl (fun g x => g.write d x.2 l x.1) g).pAt r k =
      if k = l then ((Sel.pGets d r xs).getD (g.pAt r k)) else g.pAt r k := by
  induction xs generalizing i g with
  | nil => cases d <;> simp [Sel.pGets]
  | cons x xs ih =>
    rw [List.zipIdx_cons, List.foldl_cons, ih]
    cases d with
    | p n =>
      simp only [Group.write, Group.pAt_setP g n.toNat l r k _ n.isLt hr, Sel.pGets]
      by_cases hkl : k = l
      · by_cases hrn : r = n.toNat ∧ r ≠ 7
        · have hn7 : n.toNat ≠ 7 := hrn.1 ▸ hrn.2
          rw [if_pos hkl, if_pos hkl, if_pos hrn, if_pos hrn, if_pos (show r = n.toNat ∧ k = l ∧ r ≠ 7 from ⟨hrn.1, hkl, hrn.2⟩)]
          cases h : xs.getLast? <;> simp [List.getLast?_cons, h]
        · have h7 : ¬ (r = n.toNat ∧ k = l ∧ r ≠ 7) := fun h => hrn ⟨h.1, h.2.2⟩
          rw [if_neg hrn, if_neg hrn, if_neg h7]
      · simp [hkl]
    | _ => simp [Group.write, Group.pAt, Sel.pGets]

theorem foldl_or (f : Nat → DWord) (ls : List Nat) (a : DWord) : ls.foldl (fun a i => a ||| f i) a = a ||| ls.foldl (fun a i => a ||| f i) 0 := by
  induction ls generalizing a with
  | nil => simp
  | cons l ls ih => rw [List.foldl_cons, List.foldl_cons, ih (a ||| f l), ih (0 ||| f l)]; simp [BitVec.or_assoc]

theorem foldl_or_cons (f : Nat → DWord) (i : Nat) (ls : List Nat) :
    (i :: ls).foldl (fun a i => a ||| f i) 0 = f i ||| ls.foldl (fun a i => a ||| f i) 0 := by
  rw [List.foldl_cons, foldl_or]; simp

/-- A lane after them: the written bits alone. -/
theorem Group.lane_writes (d : Sel) (l : Nat) (xs : List Val) (i : Nat) (g : Group) (k : Nat) :
    ((xs.zipIdx i).foldl (fun g x => g.write d x.2 l x.1) g).lane k =
      if k = l then { g.lane k with written := (g.lane k).written ||| (match d with
        | .s n => (List.range' i xs.length).foldl (fun a j => a ||| (1 <<< (n.toNat + j))) 0
        | _ => 0) } else g.lane k := by
  induction xs generalizing i g with
  | nil => cases d <;> simp
  | cons x xs ih =>
    rw [List.zipIdx_cons, List.foldl_cons, ih]
    cases d with
    | s n =>
      simp only [Group.write, Group.setU, Group.lane_setLane]
      by_cases hkl : k = l
      · simp only [hkl, if_true]
        have e : ∀ g' : Group, (Group.lane { g with u := g'.u } l) = g.lane l := fun _ => rfl
        simp only [List.length_cons, List.range'_succ, foldl_or_cons]
        simp [Group.lane, BitVec.or_assoc]
      · simp only [hkl, if_false]; rfl
    | p n => simp [Group.write, Group.lane]
    | _ => simp [Group.write, Group.lane]

/-- What a write of a destination in every executing lane leaves (03 R63, R68). -/
theorem wrote_foldl (m : BitVec 32) (d : Sel) (f : Nat → List Val) (g : Group) (hw : ∀ l < 32, Sel.within d (f l).length = true) :
    Wrote m d f g ((lanesOf m).foldl (fun h l => h.writeAll d l (f l)) g) where
  rest := by
    generalize lanesOf m = ls
    induction ls generalizing g with
    | nil => rfl
    | cons l ls ih =>
      rw [List.foldl_cons, ih]
      have := Group.foldl_write_eq d (fun x : Val × Nat => x.2) (fun _ => l) (fun x => x.1) ((f l).zipIdx) g
      unfold Group.writeAll at this ⊢
      rw [this]
  vAt r l hl := by
    rw [foldl_at (fun (h : Group) l => h.writeAll d l (f l)) (fun g k => g.vAt r k) (fun l x => (Sel.vGets d r (f l)).getD x)
      (fun s l k hl hk => by
        show (s.writeAll d l (f l)).vAt r k = _
        unfold Group.writeAll
        rw [Group.vAt_writes d l hl (f l) 0 s r k hk]
        by_cases e : k = l
        · subst e
          cases d <;> simp [Sel.vGets]
          split <;> simp
        · simp [e]) (lanesOf m) (fun _ h => lanesOf_lt h) (lanesOf_nodup m) g l hl]
    by_cases h : m.getLsbD l = true
    · rw [if_pos ((mem_lanesOf m l).2 ⟨hl, h⟩), if_pos h]
    · rw [if_neg (fun hm => h ((mem_lanesOf m l).1 hm).2), if_neg h]
  uAt r l hr hl := by
    rw [foldl_at (fun (h : Group) l => h.writeAll d l (f l)) (fun g k => g.uAt r k) (fun l x => (Sel.uGets d r (f l)).getD x)
      (fun s l k hl hk => by
        show (s.writeAll d l (f l)).uAt r k = _
        unfold Group.writeAll
        rw [Group.uAt_writes d l (f l) 0 (fun n hn => by have := hw l hl; simpa [Sel.within, hn] using this) s r k hr]
        by_cases e : k = l
        · subst e
          cases d <;> simp [Sel.uGets]
          split <;> simp
        · simp [e]) (lanesOf m) (fun _ h => lanesOf_lt h) (lanesOf_nodup m) g l hl]
    by_cases h : m.getLsbD l = true
    · rw [if_pos ((mem_lanesOf m l).2 ⟨hl, h⟩), if_pos h]
    · rw [if_neg (fun hm => h ((mem_lanesOf m l).1 hm).2), if_neg h]
  pAt r l hr hl := by
    rw [foldl_at (fun (h : Group) l => h.writeAll d l (f l)) (fun g k => g.pAt r k) (fun l x => (Sel.pGets d r (f l)).getD x)
      (fun s l k hl hk => by
        show (s.writeAll d l (f l)).pAt r k = _
        unfold Group.writeAll
        rw [Group.pAt_writes d l (f l) 0 s r k hr]
        by_cases e : k = l
        · subst e; simp
        · simp [e]) (lanesOf m) (fun _ h => lanesOf_lt h) (lanesOf_nodup m) g l hl]
    by_cases h : m.getLsbD l = true
    · rw [if_pos ((mem_lanesOf m l).2 ⟨hl, h⟩), if_pos h]
    · rw [if_neg (fun hm => h ((mem_lanesOf m l).1 hm).2), if_neg h]
  lane l hl := by
    rw [foldl_at (fun (h : Group) l => h.writeAll d l (f l)) Group.lane
      (fun l x => { x with written := x.written ||| Sel.marks d (f l).length })
      (fun s l k hl hk => by
        show (s.writeAll d l (f l)).lane k = _
        unfold Group.writeAll
        rw [Group.lane_writes d l (f l) 0 s k]
        by_cases e : k = l
        · subst e
          cases d <;> simp [Sel.marks, List.range_eq_range']
        · simp [e]) (lanesOf m) (fun _ h => lanesOf_lt h) (lanesOf_nodup m) g l hl]
    by_cases h : m.getLsbD l = true
    · rw [if_pos ((mem_lanesOf m l).2 ⟨hl, h⟩), if_pos h]
    · rw [if_neg (fun hm => h ((mem_lanesOf m l).1 hm).2), if_neg h]

/-! ## The shared operations of an instruction -/

/-- What an instruction of its group alone answers: with a group, the state with that group, or its trap. -/
theorem onGroup_ok {s : State} {f : Group → Except Trap Group} {g h : Group} (hg : s.group? s.cur.key = some g)
    (hf : f (g.advance s.cur) = .ok h) :
    onGroup s f = .next { s with groups := s.groups.put s.cur.key h, free := s.free + 1 } := by
  unfold onGroup; rw [hg]; simp only [hf]; rfl

/-- An instruction of its group that traps: the group raises the trap with none of the effect, its lanes where they were (23 R398). -/
theorem onGroup_trap {s : State} {f : Group → Except Trap Group} {g : Group} {t : Trap} (hg : s.group? s.cur.key = some g)
    (hf : f (g.advance s.cur) = .error t) :
    onGroup s f = .next { s with groups := s.groups.put s.cur.key (g.raise t), free := s.free + 1 } := by
  unfold onGroup; rw [hg]; simp only [hf]; rfl

/-- With no group in the issuing slot nothing happens. -/
theorem onGroup_none {s : State} {f : Group → Except Trap Group} (hg : s.group? s.cur.key = none) : onGroup s f = .next s := by
  unfold onGroup; rw [hg]

/-- What an instruction that acts beyond its group answers: the state that it gives, or its trap. -/
theorem onState_ok {s t : State} {f : Group → State → Except Trap State} {g : Group} (hg : s.group? s.cur.key = some g)
    (hf : f (g.advance s.cur) (s.putGroup s.cur.key (g.advance s.cur)) = .ok t) : onState s f = .next { t with free := t.free + 1 } := by
  unfold onState; rw [hg]; simp only [hf]; rfl

theorem onState_trap {s : State} {f : Group → State → Except Trap State} {g : Group} {t : Trap} (hg : s.group? s.cur.key = some g)
    (hf : f (g.advance s.cur) (s.putGroup s.cur.key (g.advance s.cur)) = .error t) :
    onState s f = .next { s with groups := s.groups.put s.cur.key (g.raise t), free := s.free + 1 } := by
  unfold onState; rw [hg]; simp only [hf]; rfl

theorem onState_none {s : State} {f : Group → State → Except Trap State} (hg : s.group? s.cur.key = none) : onState s f = .next s := by
  unfold onState; rw [hg]

/-- Neither of the two ways in which an instruction acts stops the machine. -/
theorem onGroup_answers (s : State) (f : Group → Except Trap Group) : ∃ t, onGroup s f = .next t := by
  unfold onGroup; split
  · exact ⟨_, rfl⟩
  · split <;> exact ⟨_, rfl⟩

theorem onState_answers (s : State) (f : Group → State → Except Trap State) : ∃ t, onState s f = .next t := by
  unfold onState; split
  · exact ⟨_, rfl⟩
  · split <;> exact ⟨_, rfl⟩

/-- An instruction of its group alone leaves every byte. -/
theorem onGroup_memory {s t : State} {f : Group → Except Trap Group} (h : onGroup s f = .next t) :
    t.dram = s.dram ∧ t.sram = s.sram ∧ t.bst = s.bst ∧ t.cores = s.cores ∧ t.dies = s.dies := by
  unfold onGroup at h
  split at h
  · cases h; exact ⟨rfl, rfl, rfl, rfl, rfl⟩
  · split at h <;> cases h <;> exact ⟨rfl, rfl, rfl, rfl, rfl⟩

/-- A trap raised by a group that has none: it is pending, and nothing else of the group changes (23 R398). -/
theorem Group.raise_of_none {g : Group} (ht : g.trap = none) (hf : g.fault = none) (t : Trap) : g.raise t = { g with trap := some t } := by
  unfold Group.raise; simp [ht, hf]

/-- A group with a trap or a fault raises no second one (23 R398). -/
theorem Group.raise_of_some {g : Group} (h : g.trap.isSome = true ∨ g.fault.isSome = true) (t : Trap) : g.raise t = g := by
  unfold Group.raise; simp [h]

/-- A form that writes a destination in its executing lanes. -/
theorem writeLanes_acts {i : Instr} {d : Sel} {xs : State → Group → Nat → List Val} {f : State → Group → Except Trap Group}
    (he : ∀ s, exec i s = onGroup s (f s))
    (hf : ∀ s g, f s (g.advance s.cur) = s.writeLanes (g.advance s.cur) d (xs s g)) : WritesLanes i d xs := by
  intro s g g0 hg h0 hw
  refine ⟨_, ?_, wrote_foldl s.cur.lanes d (xs s g) g0 hw⟩
  rw [he]
  refine onGroup_ok hg ?_
  rw [hf, State.writeLanes, h0]

/-- One result per lane of an arithmetic form, from its three sources. -/
theorem execAlu_writes {i : Instr} {f : Form} {n : Nat} {o : OpA} {op : Nat → Word → Word → Word → Word}
    (he : ∀ s, exec i s = execAlu f n o op s) :
    WritesLanes i o.dst (fun s g l => [Val.with (op l (s.source g f n (.a o) 2 l).bits (s.source g f n (.a o) 3 l).bits
        (s.source g f n (.a o) 4 l).bits)
      [(s.source g f n (.a o) 2 l).psn, (s.source g f n (.a o) 3 l).psn, (s.source g f n (.a o) 4 l).psn]]) :=
  writeLanes_acts he (fun s g => by simp only [State.alu, State.source_advance])

end Sys2Proof.Machine
end

