-- ==== Sys2Proof/Laws/Memory.lean ====
section
/-! SUPPORT. What the operations over bytes by place do: canonical forms kept, the bytes written read back, and every other byte as it was. -/

namespace Sys2Proof.Machine

open Sys2Proof

/-! ## The canonical form -/

theorem State.memWf_iff (s : State) : s.memWf = true ↔ s.dram.wf = true ∧ s.sram.wf = true ∧ s.bst.wf = true := by
  simp [State.memWf, and_assoc]

/-- What keeps the three memories keeps their form. -/
theorem State.memWf_of_eq {s t : State} (hd : t.dram = s.dram) (hs : t.sram = s.sram) (hb : t.bst = s.bst) : t.memWf = s.memWf := by
  simp only [State.memWf, hd, hs, hb]

theorem State.memWf_setByteAt (s : State) (loc : Nat) (b : Byte) (h : s.memWf = true) : (s.setByteAt loc b).memWf = true := by
  rw [State.memWf_iff] at h ⊢
  unfold State.setByteAt
  split
  · exact ⟨h.1, Mem.wf_setByte _ _ _ h.2.1, h.2.2⟩
  · exact ⟨Mem.wf_setByte _ _ _ h.1, h.2⟩

theorem State.memWf_setBytesAt (bs : List Byte) (s : State) (loc : Nat) (h : s.memWf = true) : (s.setBytesAt loc bs).memWf = true := by
  induction bs generalizing s loc with
  | nil => exact h
  | cons b l ih => exact ih _ _ (State.memWf_setByteAt s loc b h)

@[simp] theorem State.memWf_setRel (s : State) (loc n : Nat) (r : Option RelRec) : (s.setRel loc n r).memWf = s.memWf := rfl

theorem State.dirty_eq (s : State) (loc : Nat) : s.dirty loc = { s with dies := (s.dirty loc).dies } := by
  unfold State.dirty
  split
  · rfl
  · simp only; split <;> rfl

@[simp] theorem State.memWf_dirty (s : State) (loc : Nat) : (s.dirty loc).memWf = s.memWf := by
  rw [State.dirty_eq]; rfl

/-- A write where it is performed keeps the form. -/
theorem State.memWf_writeAt (s : State) (loc : Nat) (bs : List Byte) (r : Option RelRec) (h : s.memWf = true) :
    (s.writeAt loc bs r).memWf = true := by
  have h1 : ((s.setBytesAt loc bs).setRel loc bs.length r).memWf = true := by
    rw [State.memWf_setRel]; exact State.memWf_setBytesAt _ _ _ h
  rw [← State.memWf_dirty _ loc] at h1
  rw [State.memWf_iff] at h1 ⊢
  exact h1

@[simp] theorem State.memWf_putGroup (s : State) (k : Nat) (g : Group) : (s.putGroup k g).memWf = s.memWf := rfl
@[simp] theorem State.memWf_putSlice (s : State) (k : Nat) (x : Slice) : (s.putSlice k x).memWf = s.memWf := rfl
@[simp] theorem State.memWf_putCore (s : State) (k : Nat) (x : Core) : (s.putCore k x).memWf = s.memWf := rfl
@[simp] theorem State.memWf_putDie (s : State) (k : Nat) (x : Die) : (s.putDie k x).memWf = s.memWf := rfl
@[simp] theorem State.memWf_putBlock (s : State) (k : Nat) (x : Block) : (s.putBlock k x).memWf = s.memWf := rfl
@[simp] theorem State.memWf_putLaunch (s : State) (k : Nat) (x : Launch) : (s.putLaunch k x).memWf = s.memWf := rfl
@[simp] theorem State.memWf_addDue (s : State) (l : List Work) : (s.addDue l).memWf = s.memWf := rfl

/-! ## Reads after writes -/

theorem State.moved_none (s : State) (h : ∀ d, (s.die d).remap = []) (loc : Nat) : s.moved loc = loc := by
  unfold State.moved; split
  · rfl
  · simp [h]

theorem State.die_setByteAt (s : State) (loc : Nat) (b : Byte) (d : Nat) : (s.setByteAt loc b).die d = s.die d := by
  unfold State.setByteAt; split <;> rfl

theorem State.moved_setByteAt (s : State) (loc : Nat) (b : Byte) (a : Nat) : (s.setByteAt loc b).moved a = s.moved a := by
  simp only [State.moved, State.die_setByteAt]

/-- A byte written reads as written where no frame has moved, and every other byte reads as before. -/
theorem State.byteAt_setByteAt (s : State) (h : ∀ d, (s.die d).remap = []) (loc : Nat) (b : Byte) (a : Nat) :
    (s.setByteAt loc b).byteAt a = if a = loc then b else s.byteAt a := by
  have hm := State.moved_setByteAt s loc b
  unfold State.byteAt
  simp only [hm, State.moved_none s h]
  unfold State.setByteAt isSram
  by_cases hl : Config.sramPlace ≤ loc <;> by_cases ha : Config.sramPlace ≤ a <;>
    simp [hl, ha, Mem.byte_setByte, State.moved_none s h] <;>
    first | omega | (intro he; omega) | (split <;> split <;> first | rfl | omega)

theorem State.byteAt_setBytesAt (bs : List Byte) (s : State) (h : ∀ d, (s.die d).remap = []) (loc a : Nat) :
    (s.setBytesAt loc bs).byteAt a = if loc ≤ a ∧ a < loc + bs.length then bs.getD (a - loc) 0 else s.byteAt a := by
  induction bs generalizing s loc with
  | nil => simp only [State.setBytesAt, List.length_nil]; rw [if_neg (by omega)]
  | cons b l ih =>
    rw [State.setBytesAt, ih _ (fun d => by rw [State.die_setByteAt]; exact h d), State.byteAt_setByteAt s h]
    simp only [List.length_cons]
    by_cases h1 : a = loc
    · subst h1; rw [if_neg (by omega), if_pos rfl, if_pos (by omega)]; simp
    · by_cases h2 : loc + 1 ≤ a ∧ a < loc + 1 + l.length
      · rw [if_pos h2, if_pos (by omega)]
        obtain ⟨k, hk⟩ : ∃ k, a - loc = k + 1 := ⟨a - loc - 1, by omega⟩
        rw [hk, show a - (loc + 1) = k by omega]; simp
      · rw [if_neg h2, if_neg h1, if_neg (by omega)]

/-- What two states agree on byte by byte they agree on as bytes. -/
theorem State.bytesAt_congr {s t : State} (n loc : Nat) (h : ∀ i < n, t.byteAt (loc + i) = s.byteAt (loc + i)) : t.bytesAt loc n = s.bytesAt loc n := by
  induction n generalizing loc with
  | zero => rfl
  | succ n ih =>
    simp only [State.bytesAt]
    rw [show t.byteAt loc = s.byteAt loc from h 0 (by omega), ih (loc + 1) (fun i hi => by
      have := h (i + 1) (by omega); rwa [show loc + (i + 1) = loc + 1 + i by omega] at this)]

theorem State.bytesAt_length (s : State) (n loc : Nat) : (s.bytesAt loc n).length = n := by
  induction n generalizing loc with
  | zero => rfl
  | succ n ih => simp [State.bytesAt, ih]

theorem State.bytesAt_getD (s : State) (n loc i : Nat) (h : i < n) : (s.bytesAt loc n).getD i 0 = s.byteAt (loc + i) := by
  induction n generalizing loc i with
  | zero => omega
  | succ n ih =>
    cases i with
    | zero => rfl
    | succ i =>
      simp only [State.bytesAt]
      have := ih (loc + 1) i (by omega)
      rw [show loc + 1 + i = loc + (i + 1) by omega] at this
      simpa using this

end Sys2Proof.Machine
end

