-- ==== Sys2Proof/Laws/PerInstr.lean ====
section
/-! SUPPORT. One lemma per constructor of Instr: the opcode map's row of its OPC and MINOR, or of its COP, is its own and makes it from its operand
fields. -/

namespace Sys2Proof.Laws

open Sys2Proof

/-- The instruction that a row makes from MINOR and operand fields of its format. -/
def makes (r : Row) (n : Nat) (o : Op) : Option Instr :=
  match r.build, o with
  | .a f, .a q => some (f n q)
  | .m f, .m q => some (f n q)
  | .c f, .c q => some (f n q)
  | .x f, .x q => some (f n q)
  | .z i, _ => some i
  | _, _ => none

end Sys2Proof.Laws

/-- An instruction whose MINOR its form has is the one that the opcode map's row of its OPC and MINOR makes from its operand fields; a compact one is
the one of its COP's row; a step of the part has no row (09 R210, R219, R222). -/
def Sys2Proof.Laws.OwnRow.Statement (i : Sys2Proof.Instr) : Prop :=
  match i.coded with
  | .op f n o => f.minors.contains n = true → ∃ r, Sys2Proof.rowOf f.opc n = some r ∧ r.form = f ∧ Sys2Proof.Laws.makes r n o = some i
  | .half k o => ∃ r, Sys2Proof.compactRows.find? (fun r => r.1.cop == k.cop) = some r ∧ r.1 = k ∧ r.2 o = i
  | .event => i.checks = []

namespace Sys2Proof.Laws.OwnRow

open Sys2Proof

theorem bra (o : OpC) : Statement (.bra o) := fun _ => ⟨_, rfl, rfl, rfl⟩
theorem brx (o : OpC) : Statement (.brx o) := fun _ => ⟨_, rfl, rfl, rfl⟩
theorem call (o : OpC) : Statement (.call o) := fun _ => ⟨_, rfl, rfl, rfl⟩
theorem callx (o : OpC) : Statement (.callx o) := fun _ => ⟨_, rfl, rfl, rfl⟩
theorem join (o : OpC) : Statement (.join o) := fun _ => ⟨_, rfl, rfl, rfl⟩
theorem mballot (o : OpA) : Statement (.mballot o) := fun _ => ⟨_, rfl, rfl, rfl⟩
theorem mlogAnd (o : OpA) : Statement (.mlogAnd o) := fun _ => ⟨_, rfl, rfl, rfl⟩
theorem mlogOr (o : OpA) : Statement (.mlogOr o) := fun _ => ⟨_, rfl, rfl, rfl⟩
theorem mlogXor (o : OpA) : Statement (.mlogXor o) := fun _ => ⟨_, rfl, rfl, rfl⟩
theorem mlogAndn (o : OpA) : Statement (.mlogAndn o) := fun _ => ⟨_, rfl, rfl, rfl⟩
theorem mlogMov (o : OpA) : Statement (.mlogMov o) := fun _ => ⟨_, rfl, rfl, rfl⟩
theorem mtest (o : OpA) : Statement (.mtest o) := fun _ => ⟨_, rfl, rfl, rfl⟩
theorem mpop (o : OpA) : Statement (.mpop o) := fun _ => ⟨_, rfl, rfl, rfl⟩
theorem voteAny (o : OpA) : Statement (.voteAny o) := fun _ => ⟨_, rfl, rfl, rfl⟩
theorem voteAll (o : OpA) : Statement (.voteAll o) := fun _ => ⟨_, rfl, rfl, rfl⟩
theorem voteBallot (o : OpA) : Statement (.voteBallot o) := fun _ => ⟨_, rfl, rfl, rfl⟩
theorem brvAny (o : OpC) : Statement (.brvAny o) := fun _ => ⟨_, rfl, rfl, rfl⟩
theorem brvAll (o : OpC) : Statement (.brvAll o) := fun _ => ⟨_, rfl, rfl, rfl⟩
theorem brvNone (o : OpC) : Statement (.brvNone o) := fun _ => ⟨_, rfl, rfl, rfl⟩
theorem pass (o : OpC) : Statement (.pass o) := fun _ => ⟨_, rfl, rfl, rfl⟩
theorem passAny (o : OpC) : Statement (.passAny o) := fun _ => ⟨_, rfl, rfl, rfl⟩
theorem barArrive (lvl : BarLvl) (o : OpC) : Statement (.barArrive lvl o) := by
  cases lvl <;> first | exact fun _ => ⟨_, rfl, rfl, rfl⟩ | exact fun h => Bool.noConfusion h
theorem barWait (lvl : BarLvl) (o : OpC) : Statement (.barWait lvl o) := by
  cases lvl <;> first | exact fun _ => ⟨_, rfl, rfl, rfl⟩ | exact fun h => Bool.noConfusion h
theorem barSync (lvl : BarLvl) (o : OpC) : Statement (.barSync lvl o) := by
  cases lvl <;> first | exact fun _ => ⟨_, rfl, rfl, rfl⟩ | exact fun h => Bool.noConfusion h
theorem add (o : OpA) : Statement (.add o) := fun _ => ⟨_, rfl, rfl, rfl⟩
theorem sub (o : OpA) : Statement (.sub o) := fun _ => ⟨_, rfl, rfl, rfl⟩
theorem mul (o : OpA) : Statement (.mul o) := fun _ => ⟨_, rfl, rfl, rfl⟩
theorem mulhi (o : OpA) : Statement (.mulhi o) := fun _ => ⟨_, rfl, rfl, rfl⟩
theorem mad (o : OpA) : Statement (.mad o) := fun _ => ⟨_, rfl, rfl, rfl⟩
theorem madhi (o : OpA) : Statement (.madhi o) := fun _ => ⟨_, rfl, rfl, rfl⟩
theorem wmul (o : OpA) : Statement (.wmul o) := fun _ => ⟨_, rfl, rfl, rfl⟩
theorem add64 (o : OpA) : Statement (.add64 o) := fun _ => ⟨_, rfl, rfl, rfl⟩
theorem min (o : OpA) : Statement (.min o) := fun _ => ⟨_, rfl, rfl, rfl⟩
theorem max (o : OpA) : Statement (.max o) := fun _ => ⟨_, rfl, rfl, rfl⟩
theorem absd (o : OpA) : Statement (.absd o) := fun _ => ⟨_, rfl, rfl, rfl⟩
theorem neg (o : OpA) : Statement (.neg o) := fun _ => ⟨_, rfl, rfl, rfl⟩
theorem divstep (o : OpA) : Statement (.divstep o) := fun _ => ⟨_, rfl, rfl, rfl⟩
theorem divfix (o : OpA) : Statement (.divfix o) := fun _ => ⟨_, rfl, rfl, rfl⟩
theorem and (o : OpA) : Statement (.and o) := fun _ => ⟨_, rfl, rfl, rfl⟩
theorem or (o : OpA) : Statement (.or o) := fun _ => ⟨_, rfl, rfl, rfl⟩
theorem xor (o : OpA) : Statement (.xor o) := fun _ => ⟨_, rfl, rfl, rfl⟩
theorem andn (o : OpA) : Statement (.andn o) := fun _ => ⟨_, rfl, rfl, rfl⟩
theorem mix3 (o : OpA) : Statement (.mix3 o) := fun _ => ⟨_, rfl, rfl, rfl⟩
theorem shl (o : OpA) : Statement (.shl o) := fun _ => ⟨_, rfl, rfl, rfl⟩
theorem shr (o : OpA) : Statement (.shr o) := fun _ => ⟨_, rfl, rfl, rfl⟩
theorem sar (o : OpA) : Statement (.sar o) := fun _ => ⟨_, rfl, rfl, rfl⟩
theorem fshf (o : OpA) : Statement (.fshf o) := fun _ => ⟨_, rfl, rfl, rfl⟩
theorem popc (o : OpA) : Statement (.popc o) := fun _ => ⟨_, rfl, rfl, rfl⟩
theorem clz (o : OpA) : Statement (.clz o) := fun _ => ⟨_, rfl, rfl, rfl⟩
theorem brev (o : OpA) : Statement (.brev o) := fun _ => ⟨_, rfl, rfl, rfl⟩
theorem bfe (o : OpA) : Statement (.bfe o) := fun _ => ⟨_, rfl, rfl, rfl⟩
theorem bfi (o : OpA) : Statement (.bfi o) := fun _ => ⟨_, rfl, rfl, rfl⟩
theorem cmpEq (o : OpA) : Statement (.cmpEq o) := fun _ => ⟨_, rfl, rfl, rfl⟩
theorem cmpNe (o : OpA) : Statement (.cmpNe o) := fun _ => ⟨_, rfl, rfl, rfl⟩
theorem cmpLt (o : OpA) : Statement (.cmpLt o) := fun _ => ⟨_, rfl, rfl, rfl⟩
theorem cmpLe (o : OpA) : Statement (.cmpLe o) := fun _ => ⟨_, rfl, rfl, rfl⟩
theorem cmpGt (o : OpA) : Statement (.cmpGt o) := fun _ => ⟨_, rfl, rfl, rfl⟩
theorem cmpGe (o : OpA) : Statement (.cmpGe o) := fun _ => ⟨_, rfl, rfl, rfl⟩
theorem plogAnd (o : OpA) : Statement (.plogAnd o) := fun _ => ⟨_, rfl, rfl, rfl⟩
theorem plogOr (o : OpA) : Statement (.plogOr o) := fun _ => ⟨_, rfl, rfl, rfl⟩
theorem plogXor (o : OpA) : Statement (.plogXor o) := fun _ => ⟨_, rfl, rfl, rfl⟩
theorem plogAndn (o : OpA) : Statement (.plogAndn o) := fun _ => ⟨_, rfl, rfl, rfl⟩
theorem plogMov (o : OpA) : Statement (.plogMov o) := fun _ => ⟨_, rfl, rfl, rfl⟩
theorem sel (o : OpA) : Statement (.sel o) := fun _ => ⟨_, rfl, rfl, rfl⟩
theorem mov (o : OpA) : Statement (.mov o) := fun _ => ⟨_, rfl, rfl, rfl⟩
theorem movxSv (o : OpA) : Statement (.movxSv o) := fun _ => ⟨_, rfl, rfl, rfl⟩
theorem movxPv (o : OpA) : Statement (.movxPv o) := fun _ => ⟨_, rfl, rfl, rfl⟩
theorem movxVp (o : OpA) : Statement (.movxVp o) := fun _ => ⟨_, rfl, rfl, rfl⟩
theorem movxSw (o : OpA) : Statement (.movxSw o) := fun _ => ⟨_, rfl, rfl, rfl⟩
theorem movxWs (o : OpA) : Statement (.movxWs o) := fun _ => ⟨_, rfl, rfl, rfl⟩
theorem movxMs (o : OpA) : Statement (.movxMs o) := fun _ => ⟨_, rfl, rfl, rfl⟩
theorem movxSm (o : OpA) : Statement (.movxSm o) := fun _ => ⟨_, rfl, rfl, rfl⟩
theorem shflIdx (o : OpA) : Statement (.shflIdx o) := fun _ => ⟨_, rfl, rfl, rfl⟩
theorem shflUp (o : OpA) : Statement (.shflUp o) := fun _ => ⟨_, rfl, rfl, rfl⟩
theorem shflDown (o : OpA) : Statement (.shflDown o) := fun _ => ⟨_, rfl, rfl, rfl⟩
theorem shflXor (o : OpA) : Statement (.shflXor o) := fun _ => ⟨_, rfl, rfl, rfl⟩
theorem rdlane (o : OpA) : Statement (.rdlane o) := fun _ => ⟨_, rfl, rfl, rfl⟩
theorem fadd (o : OpA) : Statement (.fadd o) := fun _ => ⟨_, rfl, rfl, rfl⟩
theorem fmul (o : OpA) : Statement (.fmul o) := fun _ => ⟨_, rfl, rfl, rfl⟩
theorem fma (o : OpA) : Statement (.fma o) := fun _ => ⟨_, rfl, rfl, rfl⟩
theorem fnma (o : OpA) : Statement (.fnma o) := fun _ => ⟨_, rfl, rfl, rfl⟩
theorem fmin (o : OpA) : Statement (.fmin o) := fun _ => ⟨_, rfl, rfl, rfl⟩
theorem fmax (o : OpA) : Statement (.fmax o) := fun _ => ⟨_, rfl, rfl, rfl⟩
theorem fabs (o : OpA) : Statement (.fabs o) := fun _ => ⟨_, rfl, rfl, rfl⟩
theorem fneg (o : OpA) : Statement (.fneg o) := fun _ => ⟨_, rfl, rfl, rfl⟩
theorem fcpsgn (o : OpA) : Statement (.fcpsgn o) := fun _ => ⟨_, rfl, rfl, rfl⟩
theorem fcmpEq (o : OpA) : Statement (.fcmpEq o) := fun _ => ⟨_, rfl, rfl, rfl⟩
theorem fcmpNe (o : OpA) : Statement (.fcmpNe o) := fun _ => ⟨_, rfl, rfl, rfl⟩
theorem fcmpLt (o : OpA) : Statement (.fcmpLt o) := fun _ => ⟨_, rfl, rfl, rfl⟩
theorem fcmpLe (o : OpA) : Statement (.fcmpLe o) := fun _ => ⟨_, rfl, rfl, rfl⟩
theorem fcmpGt (o : OpA) : Statement (.fcmpGt o) := fun _ => ⟨_, rfl, rfl, rfl⟩
theorem fcmpGe (o : OpA) : Statement (.fcmpGe o) := fun _ => ⟨_, rfl, rfl, rfl⟩
theorem fcmpUn (o : OpA) : Statement (.fcmpUn o) := fun _ => ⟨_, rfl, rfl, rfl⟩
theorem fcmpOrd (o : OpA) : Statement (.fcmpOrd o) := fun _ => ⟨_, rfl, rfl, rfl⟩
theorem fclass (o : OpA) : Statement (.fclass o) := fun _ => ⟨_, rfl, rfl, rfl⟩
theorem fscale (o : OpA) : Statement (.fscale o) := fun _ => ⟨_, rfl, rfl, rfl⟩
theorem frnd (o : OpA) : Statement (.frnd o) := fun _ => ⟨_, rfl, rfl, rfl⟩
theorem frcp (o : OpA) : Statement (.frcp o) := fun _ => ⟨_, rfl, rfl, rfl⟩
theorem frsq (o : OpA) : Statement (.frsq o) := fun _ => ⟨_, rfl, rfl, rfl⟩
theorem fsqrt (o : OpA) : Statement (.fsqrt o) := fun _ => ⟨_, rfl, rfl, rfl⟩
theorem fex2 (o : OpA) : Statement (.fex2 o) := fun _ => ⟨_, rfl, rfl, rfl⟩
theorem flg2 (o : OpA) : Statement (.flg2 o) := fun _ => ⟨_, rfl, rfl, rfl⟩
theorem fsin (o : OpA) : Statement (.fsin o) := fun _ => ⟨_, rfl, rfl, rfl⟩
theorem fcos (o : OpA) : Statement (.fcos o) := fun _ => ⟨_, rfl, rfl, rfl⟩
theorem ftanh (o : OpA) : Statement (.ftanh o) := fun _ => ⟨_, rfl, rfl, rfl⟩
theorem fadd2 (o : OpA) : Statement (.fadd2 o) := fun _ => ⟨_, rfl, rfl, rfl⟩
theorem fmul2 (o : OpA) : Statement (.fmul2 o) := fun _ => ⟨_, rfl, rfl, rfl⟩
theorem fma2 (o : OpA) : Statement (.fma2 o) := fun _ => ⟨_, rfl, rfl, rfl⟩
theorem fdot2 (o : OpA) : Statement (.fdot2 o) := fun _ => ⟨_, rfl, rfl, rfl⟩
theorem cvt (src : TyCode) (o : OpA) : Statement (.cvt src o) := by
  cases src <;> first | exact fun _ => ⟨_, rfl, rfl, rfl⟩ | exact fun h => Bool.noConfusion h
theorem cvtpk (fmt : EFmt) (o : OpA) : Statement (.cvtpk fmt o) := by
  cases fmt <;> first | exact fun _ => ⟨_, rfl, rfl, rfl⟩ | exact fun h => Bool.noConfusion h
theorem cvtwd (fmt : EFmt) (o : OpA) : Statement (.cvtwd fmt o) := by
  cases fmt <;> first | exact fun _ => ⟨_, rfl, rfl, rfl⟩ | exact fun h => Bool.noConfusion h
theorem qscaleE8m0 (o : OpA) : Statement (.qscaleE8m0 o) := fun _ => ⟨_, rfl, rfl, rfl⟩
theorem qscaleE4m3 (o : OpA) : Statement (.qscaleE4m3 o) := fun _ => ⟨_, rfl, rfl, rfl⟩
theorem qscaleF32 (o : OpA) : Statement (.qscaleF32 o) := fun _ => ⟨_, rfl, rfl, rfl⟩
theorem qscaleF16 (o : OpA) : Statement (.qscaleF16 o) := fun _ => ⟨_, rfl, rfl, rfl⟩
theorem redAdd (o : OpA) : Statement (.redAdd o) := fun _ => ⟨_, rfl, rfl, rfl⟩
theorem redMin (o : OpA) : Statement (.redMin o) := fun _ => ⟨_, rfl, rfl, rfl⟩
theorem redMax (o : OpA) : Statement (.redMax o) := fun _ => ⟨_, rfl, rfl, rfl⟩
theorem redAnd (o : OpA) : Statement (.redAnd o) := fun _ => ⟨_, rfl, rfl, rfl⟩
theorem redOr (o : OpA) : Statement (.redOr o) := fun _ => ⟨_, rfl, rfl, rfl⟩
theorem redXor (o : OpA) : Statement (.redXor o) := fun _ => ⟨_, rfl, rfl, rfl⟩
theorem scanAdd (o : OpA) : Statement (.scanAdd o) := fun _ => ⟨_, rfl, rfl, rfl⟩
theorem scanMin (o : OpA) : Statement (.scanMin o) := fun _ => ⟨_, rfl, rfl, rfl⟩
theorem scanMax (o : OpA) : Statement (.scanMax o) := fun _ => ⟨_, rfl, rfl, rfl⟩
theorem scanAnd (o : OpA) : Statement (.scanAnd o) := fun _ => ⟨_, rfl, rfl, rfl⟩
theorem scanOr (o : OpA) : Statement (.scanOr o) := fun _ => ⟨_, rfl, rfl, rfl⟩
theorem scanXor (o : OpA) : Statement (.scanXor o) := fun _ => ⟨_, rfl, rfl, rfl⟩
theorem ld (o : OpM) : Statement (.ld o) := fun _ => ⟨_, rfl, rfl, rfl⟩
theorem st (o : OpM) : Statement (.st o) := fun _ => ⟨_, rfl, rfl, rfl⟩
theorem lda (o : OpM) : Statement (.lda o) := fun _ => ⟨_, rfl, rfl, rfl⟩
theorem str (o : OpM) : Statement (.str o) := fun _ => ⟨_, rfl, rfl, rfl⟩
theorem ldfmt (o : OpM) : Statement (.ldfmt o) := fun _ => ⟨_, rfl, rfl, rfl⟩
theorem ldu (o : OpM) : Statement (.ldu o) := fun _ => ⟨_, rfl, rfl, rfl⟩
theorem stu (o : OpM) : Statement (.stu o) := fun _ => ⟨_, rfl, rfl, rfl⟩
theorem stmc (o : OpM) : Statement (.stmc o) := fun _ => ⟨_, rfl, rfl, rfl⟩
theorem stredAdd (o : OpM) : Statement (.stredAdd o) := fun _ => ⟨_, rfl, rfl, rfl⟩
theorem stredAnd (o : OpM) : Statement (.stredAnd o) := fun _ => ⟨_, rfl, rfl, rfl⟩
theorem stredOr (o : OpM) : Statement (.stredOr o) := fun _ => ⟨_, rfl, rfl, rfl⟩
theorem stredXor (o : OpM) : Statement (.stredXor o) := fun _ => ⟨_, rfl, rfl, rfl⟩
theorem stredMin (o : OpM) : Statement (.stredMin o) := fun _ => ⟨_, rfl, rfl, rfl⟩
theorem stredMax (o : OpM) : Statement (.stredMax o) := fun _ => ⟨_, rfl, rfl, rfl⟩
theorem fenceAcq (o : OpM) : Statement (.fenceAcq o) := fun _ => ⟨_, rfl, rfl, rfl⟩
theorem fenceRel (o : OpM) : Statement (.fenceRel o) := fun _ => ⟨_, rfl, rfl, rfl⟩
theorem fenceFull (o : OpM) : Statement (.fenceFull o) := fun _ => ⟨_, rfl, rfl, rfl⟩
theorem brmake (o : OpX) : Statement (.brmake o) := fun _ => ⟨_, rfl, rfl, rfl⟩
theorem brsetBase (o : OpX) : Statement (.brsetBase o) := fun _ => ⟨_, rfl, rfl, rfl⟩
theorem brsetStride (o : OpX) : Statement (.brsetStride o) := fun _ => ⟨_, rfl, rfl, rfl⟩
theorem brsetExtent (o : OpX) : Statement (.brsetExtent o) := fun _ => ⟨_, rfl, rfl, rfl⟩
theorem brsetSwz (o : OpX) : Statement (.brsetSwz o) := fun _ => ⟨_, rfl, rfl, rfl⟩
theorem brsetEsz (o : OpX) : Statement (.brsetEsz o) := fun _ => ⟨_, rfl, rfl, rfl⟩
theorem brsetOobf (o : OpX) : Statement (.brsetOobf o) := fun _ => ⟨_, rfl, rfl, rfl⟩
theorem brgetBase (o : OpX) : Statement (.brgetBase o) := fun _ => ⟨_, rfl, rfl, rfl⟩
theorem brgetStride (o : OpX) : Statement (.brgetStride o) := fun _ => ⟨_, rfl, rfl, rfl⟩
theorem brgetExtent (o : OpX) : Statement (.brgetExtent o) := fun _ => ⟨_, rfl, rfl, rfl⟩
theorem brgetSwz (o : OpX) : Statement (.brgetSwz o) := fun _ => ⟨_, rfl, rfl, rfl⟩
theorem brgetEsz (o : OpX) : Statement (.brgetEsz o) := fun _ => ⟨_, rfl, rfl, rfl⟩
theorem brgetOobf (o : OpX) : Statement (.brgetOobf o) := fun _ => ⟨_, rfl, rfl, rfl⟩
theorem bradv (o : OpX) : Statement (.bradv o) := fun _ => ⟨_, rfl, rfl, rfl⟩
theorem lea (o : OpM) : Statement (.lea o) := fun _ => ⟨_, rfl, rfl, rfl⟩
theorem atomAdd (o : OpM) : Statement (.atomAdd o) := fun _ => ⟨_, rfl, rfl, rfl⟩
theorem atomAnd (o : OpM) : Statement (.atomAnd o) := fun _ => ⟨_, rfl, rfl, rfl⟩
theorem atomOr (o : OpM) : Statement (.atomOr o) := fun _ => ⟨_, rfl, rfl, rfl⟩
theorem atomXor (o : OpM) : Statement (.atomXor o) := fun _ => ⟨_, rfl, rfl, rfl⟩
theorem atomMin (o : OpM) : Statement (.atomMin o) := fun _ => ⟨_, rfl, rfl, rfl⟩
theorem atomMax (o : OpM) : Statement (.atomMax o) := fun _ => ⟨_, rfl, rfl, rfl⟩
theorem atomXchg (o : OpM) : Statement (.atomXchg o) := fun _ => ⟨_, rfl, rfl, rfl⟩
theorem cas (o : OpM) : Statement (.cas o) := fun _ => ⟨_, rfl, rfl, rfl⟩
theorem atomnAdd (o : OpM) : Statement (.atomnAdd o) := fun _ => ⟨_, rfl, rfl, rfl⟩
theorem atomnAnd (o : OpM) : Statement (.atomnAnd o) := fun _ => ⟨_, rfl, rfl, rfl⟩
theorem atomnOr (o : OpM) : Statement (.atomnOr o) := fun _ => ⟨_, rfl, rfl, rfl⟩
theorem atomnXor (o : OpM) : Statement (.atomnXor o) := fun _ => ⟨_, rfl, rfl, rfl⟩
theorem atomnMin (o : OpM) : Statement (.atomnMin o) := fun _ => ⟨_, rfl, rfl, rfl⟩
theorem atomnMax (o : OpM) : Statement (.atomnMax o) := fun _ => ⟨_, rfl, rfl, rfl⟩
theorem ldwE (o : OpM) : Statement (.ldwE o) := fun _ => ⟨_, rfl, rfl, rfl⟩
theorem ldf (o : OpM) : Statement (.ldf o) := fun _ => ⟨_, rfl, rfl, rfl⟩
theorem fill (o : OpM) : Statement (.fill o) := fun _ => ⟨_, rfl, rfl, rfl⟩
theorem empty (o : OpM) : Statement (.empty o) := fun _ => ⟨_, rfl, rfl, rfl⟩
theorem feget (o : OpM) : Statement (.feget o) := fun _ => ⟨_, rfl, rfl, rfl⟩
theorem cpyb (o : OpX) : Statement (.cpyb o) := fun _ => ⟨_, rfl, rfl, rfl⟩
theorem cpyk (o : OpM) : Statement (.cpyk o) := fun _ => ⟨_, rfl, rfl, rfl⟩
theorem cpyw (o : OpX) : Statement (.cpyw o) := fun _ => ⟨_, rfl, rfl, rfl⟩
theorem cpyq (o : OpX) : Statement (.cpyq o) := fun _ => ⟨_, rfl, rfl, rfl⟩
theorem job (o : OpX) : Statement (.job o) := fun _ => ⟨_, rfl, rfl, rfl⟩
theorem jobp (o : OpX) : Statement (.jobp o) := fun _ => ⟨_, rfl, rfl, rfl⟩
theorem jwait (o : OpX) : Statement (.jwait o) := fun _ => ⟨_, rfl, rfl, rfl⟩
theorem jstat (o : OpX) : Statement (.jstat o) := fun _ => ⟨_, rfl, rfl, rfl⟩
theorem tdset (wd : BitVec 3) (o : OpX) : Statement (.tdset wd o) := by
  obtain ⟨n, hn⟩ := wd
  match n, hn with
  | 0, _ | 1, _ | 2, _ | 3, _ | 4, _ | 5, _ | 6, _ | 7, _ => first | exact fun _ => ⟨_, rfl, rfl, rfl⟩ | exact fun h => Bool.noConfusion h
theorem tdget (wd : BitVec 3) (o : OpX) : Statement (.tdget wd o) := by
  obtain ⟨n, hn⟩ := wd
  match n, hn with
  | 0, _ | 1, _ | 2, _ | 3, _ | 4, _ | 5, _ | 6, _ | 7, _ => first | exact fun _ => ⟨_, rfl, rfl, rfl⟩ | exact fun h => Bool.noConfusion h
theorem bsld (o : OpX) : Statement (.bsld o) := fun _ => ⟨_, rfl, rfl, rfl⟩
theorem accrd (o : OpX) : Statement (.accrd o) := fun _ => ⟨_, rfl, rfl, rfl⟩
theorem accwr (o : OpX) : Statement (.accwr o) := fun _ => ⟨_, rfl, rfl, rfl⟩
theorem accz (o : OpX) : Statement (.accz o) := fun _ => ⟨_, rfl, rfl, rfl⟩
theorem jchk (o : OpX) : Statement (.jchk o) := fun _ => ⟨_, rfl, rfl, rfl⟩
theorem emit (o : OpX) : Statement (.emit o) := fun _ => ⟨_, rfl, rfl, rfl⟩
theorem take (o : OpX) : Statement (.take o) := fun _ => ⟨_, rfl, rfl, rfl⟩
theorem done (o : OpX) : Statement (.done o) := fun _ => ⟨_, rfl, rfl, rfl⟩
theorem syscall (o : OpX) : Statement (.syscall o) := fun _ => ⟨_, rfl, rfl, rfl⟩
theorem brk (o : OpX) : Statement (.brk o) := fun _ => ⟨_, rfl, rfl, rfl⟩
theorem timerarm (o : OpX) : Statement (.timerarm o) := fun _ => ⟨_, rfl, rfl, rfl⟩
theorem rdsr (o : OpX) : Statement (.rdsr o) := fun _ => ⟨_, rfl, rfl, rfl⟩
theorem wrsr (o : OpX) : Statement (.wrsr o) := fun _ => ⟨_, rfl, rfl, rfl⟩
theorem rdcnt (o : OpX) : Statement (.rdcnt o) := fun _ => ⟨_, rfl, rfl, rfl⟩
theorem hintClass (o : OpX) : Statement (.hintClass o) := fun _ => ⟨_, rfl, rfl, rfl⟩
theorem hintIdle (o : OpX) : Statement (.hintIdle o) := fun _ => ⟨_, rfl, rfl, rfl⟩
theorem compactAddV (o : OpK) : Statement (.compactAddV o) := ⟨_, rfl, rfl, rfl⟩
theorem compactAddVi (o : OpK) : Statement (.compactAddVi o) := ⟨_, rfl, rfl, rfl⟩
theorem compactSubV (o : OpK) : Statement (.compactSubV o) := ⟨_, rfl, rfl, rfl⟩
theorem compactMulV (o : OpK) : Statement (.compactMulV o) := ⟨_, rfl, rfl, rfl⟩
theorem compactMulVi (o : OpK) : Statement (.compactMulVi o) := ⟨_, rfl, rfl, rfl⟩
theorem compactMin (o : OpK) : Statement (.compactMin o) := ⟨_, rfl, rfl, rfl⟩
theorem compactMax (o : OpK) : Statement (.compactMax o) := ⟨_, rfl, rfl, rfl⟩
theorem compactAndV (o : OpK) : Statement (.compactAndV o) := ⟨_, rfl, rfl, rfl⟩
theorem compactAndVi (o : OpK) : Statement (.compactAndVi o) := ⟨_, rfl, rfl, rfl⟩
theorem compactOrV (o : OpK) : Statement (.compactOrV o) := ⟨_, rfl, rfl, rfl⟩
theorem compactOrVi (o : OpK) : Statement (.compactOrVi o) := ⟨_, rfl, rfl, rfl⟩
theorem compactXorV (o : OpK) : Statement (.compactXorV o) := ⟨_, rfl, rfl, rfl⟩
theorem compactXorVi (o : OpK) : Statement (.compactXorVi o) := ⟨_, rfl, rfl, rfl⟩
theorem compactShlV (o : OpK) : Statement (.compactShlV o) := ⟨_, rfl, rfl, rfl⟩
theorem compactShlVi (o : OpK) : Statement (.compactShlVi o) := ⟨_, rfl, rfl, rfl⟩
theorem compactShrVi (o : OpK) : Statement (.compactShrVi o) := ⟨_, rfl, rfl, rfl⟩
theorem compactSarVi (o : OpK) : Statement (.compactSarVi o) := ⟨_, rfl, rfl, rfl⟩
theorem compactMovV (o : OpK) : Statement (.compactMovV o) := ⟨_, rfl, rfl, rfl⟩
theorem compactMovVi (o : OpK) : Statement (.compactMovVi o) := ⟨_, rfl, rfl, rfl⟩
theorem compactAddS (o : OpK) : Statement (.compactAddS o) := ⟨_, rfl, rfl, rfl⟩
theorem compactAddSi (o : OpK) : Statement (.compactAddSi o) := ⟨_, rfl, rfl, rfl⟩
theorem compactMovS (o : OpK) : Statement (.compactMovS o) := ⟨_, rfl, rfl, rfl⟩
theorem compactMovSi (o : OpK) : Statement (.compactMovSi o) := ⟨_, rfl, rfl, rfl⟩
theorem compactCmpEq (o : OpK) : Statement (.compactCmpEq o) := ⟨_, rfl, rfl, rfl⟩
theorem compactCmpLt (o : OpK) : Statement (.compactCmpLt o) := ⟨_, rfl, rfl, rfl⟩
theorem compactCmpLtU32 (o : OpK) : Statement (.compactCmpLtU32 o) := ⟨_, rfl, rfl, rfl⟩
theorem compactCmpLtI (o : OpK) : Statement (.compactCmpLtI o) := ⟨_, rfl, rfl, rfl⟩
theorem compactFadd (o : OpK) : Statement (.compactFadd o) := ⟨_, rfl, rfl, rfl⟩
theorem compactFmul (o : OpK) : Statement (.compactFmul o) := ⟨_, rfl, rfl, rfl⟩
theorem compactFmin (o : OpK) : Statement (.compactFmin o) := ⟨_, rfl, rfl, rfl⟩
theorem compactFmax (o : OpK) : Statement (.compactFmax o) := ⟨_, rfl, rfl, rfl⟩
theorem compactLdV (o : OpK) : Statement (.compactLdV o) := ⟨_, rfl, rfl, rfl⟩
theorem compactLdI (o : OpK) : Statement (.compactLdI o) := ⟨_, rfl, rfl, rfl⟩
theorem compactSt (o : OpK) : Statement (.compactSt o) := ⟨_, rfl, rfl, rfl⟩
theorem compactLdu (o : OpK) : Statement (.compactLdu o) := ⟨_, rfl, rfl, rfl⟩
theorem compactPopc (o : OpK) : Statement (.compactPopc o) := ⟨_, rfl, rfl, rfl⟩
theorem compactShflXor (o : OpK) : Statement (.compactShflXor o) := ⟨_, rfl, rfl, rfl⟩
theorem compactShflIdx (o : OpK) : Statement (.compactShflIdx o) := ⟨_, rfl, rfl, rfl⟩
theorem sliceCycle (sl : Nat) : Statement (.sliceCycle sl) := rfl
theorem nop : Statement .nop := fun _ => ⟨_, rfl, rfl, rfl⟩
theorem ret : Statement .ret := fun _ => ⟨_, rfl, rfl, rfl⟩
theorem park : Statement .park := fun _ => ⟨_, rfl, rfl, rfl⟩
theorem exit : Statement .exit := fun _ => ⟨_, rfl, rfl, rfl⟩
theorem fenceOpr : Statement .fenceOpr := fun _ => ⟨_, rfl, rfl, rfl⟩
theorem tret : Statement .tret := fun _ => ⟨_, rfl, rfl, rfl⟩
theorem tretW : Statement .tretW := fun _ => ⟨_, rfl, rfl, rfl⟩
theorem ckpt : Statement .ckpt := fun _ => ⟨_, rfl, rfl, rfl⟩
theorem compactNop : Statement .compactNop := ⟨_, rfl, rfl, rfl⟩
theorem compactExit : Statement .compactExit := ⟨_, rfl, rfl, rfl⟩
theorem ceiling (g : Nat) : Statement (.ceiling g) := rfl
theorem instructionLineFill (core : Nat) (root : BitVec 64) (va : BitVec 64) (soft : Bool) : Statement (.instructionLineFill core root va soft) := rfl
theorem operandCollect (x : Collecting) : Statement (.operandCollect x) := rfl
theorem resultWriteback (sl : Nat) : Statement (.resultWriteback sl) := rfl
theorem wRegisterApply (core : Nat) : Statement (.wRegisterApply core) := rfl
theorem joinTest (g : Nat) : Statement (.joinTest g) := rfl
theorem barrierRelease (blk : Nat) (lv : BarLvl) (n : Nat) : Statement (.barrierRelease blk lv n) := rfl
theorem hintIdleWake (sl : Nat) : Statement (.hintIdleWake sl) := rfl
theorem memoryRequestServe (r : ServeReq) : Statement (.memoryRequestServe r) := rfl
theorem loadReply (core : Nat) (id : Nat) : Statement (.loadReply core id) := rfl
theorem inboundDrain (core : Nat) : Statement (.inboundDrain core) := rfl
theorem creditAcknowledge (src : Nat) (tgt : Nat) : Statement (.creditAcknowledge src tgt) := rfl
theorem creditReturn (src : Nat) (tgt : Nat) : Statement (.creditReturn src tgt) := rfl
theorem denialNotice (id : Nat) : Statement (.denialNotice id) := rfl
theorem fullEmptyAnswer (core : Nat) (id : Nat) : Statement (.fullEmptyAnswer core id) := rfl
theorem ldwEWake (core : Nat) (id : Nat) : Statement (.ldwEWake core id) := rfl
theorem promotionDemand (id : Nat) : Statement (.promotionDemand id) := rfl
theorem promotionAnswer (id : Nat) : Statement (.promotionAnswer id) := rfl
theorem atomicPerform (core : Nat) (id : Nat) (lost : Bool) (err : Ecc) : Statement (.atomicPerform core id lost err) := rfl
theorem atomicReplay (core : Nat) (id : Nat) : Statement (.atomicReplay core id) := rfl
theorem streamPrefetch (die : Nat) (line : Nat) : Statement (.streamPrefetch die line) := rfl
theorem copyElement (core : Nat) (tag : Nat) (k : Nat) (err : Ecc) : Statement (.copyElement core tag k err) := rfl
theorem copyRetire (core : Nat) (tag : Nat) : Statement (.copyRetire core tag) := rfl
theorem copyFault (core : Nat) (tag : Nat) : Statement (.copyFault core tag) := rfl
theorem bsldComplete (core : Nat) (id : Nat) : Statement (.bsldComplete core id) := rfl
theorem jobStart (core : Nat) : Statement (.jobStart core) := rfl
theorem anvilIteration (core : Nat) (soft : Nat) : Statement (.anvilIteration core soft) := rfl
theorem anvilDrain (core : Nat) : Statement (.anvilDrain core) := rfl
theorem jobDone (core : Nat) : Statement (.jobDone core) := rfl
theorem jobFault (core : Nat) : Statement (.jobFault core) := rfl
theorem recordArrival (die : Nat) : Statement (.recordArrival die) := rfl
theorem overflowRefill (gr : Nat) (node : Nat) (q : Nat) : Statement (.overflowRefill gr node q) := rfl
theorem binfull (g : Nat) : Statement (.binfull g) := rfl
theorem binEvaluation (die : Nat) : Statement (.binEvaluation die) := rfl
theorem binTimerExpiry (gr : Nat) (node : Nat) (q : Nat) : Statement (.binTimerExpiry gr node q) := rfl
theorem vaneDone (die : Nat) : Statement (.vaneDone die) := rfl
theorem vaneTake (die : Nat) : Statement (.vaneTake die) := rfl
theorem nodeStatusWrite (gr : Nat) : Statement (.nodeStatusWrite gr) := rfl
theorem graphComplete (gr : Nat) : Statement (.graphComplete gr) := rfl
theorem qres (die : Nat) (q : Nat) : Statement (.qres die q) := rfl
theorem qcommit (die : Nat) (q : Nat) (v : BitVec 32) : Statement (.qcommit die q v) := rfl
theorem qcfg (die : Nat) (q : Nat) (v : BitVec 32) : Statement (.qcfg die q v) := rfl
theorem commandConsume (die : Nat) (q : Nat) : Statement (.commandConsume die q) := rfl
theorem nopCommand (die : Nat) (q : Nat) : Statement (.nopCommand die q) := rfl
theorem launch (die : Nat) (q : Nat) : Statement (.launch die q) := rfl
theorem graph (die : Nat) (q : Nat) : Statement (.graph die q) := rfl
theorem waitmem (die : Nat) (q : Nat) : Statement (.waitmem die q) := rfl
theorem waitmemSatisfied (die : Nat) (q : Nat) : Statement (.waitmemSatisfied die q) := rfl
theorem writemem (die : Nat) (q : Nat) : Statement (.writemem die q) := rfl
theorem gstatus (die : Nat) (q : Nat) : Statement (.gstatus die q) := rfl
theorem blockStart (id : Nat) : Statement (.blockStart id) := rfl
theorem launchComplete (id : Nat) : Statement (.launchComplete id) := rfl
theorem blockRelease (id : Nat) : Statement (.blockRelease id) := rfl
theorem leaseRenew (die : Nat) : Statement (.leaseRenew die) := rfl
theorem leasePoll (die : Nat) : Statement (.leasePoll die) := rfl
theorem leaderLapse (die : Nat) : Statement (.leaderLapse die) := rfl
theorem leaseHandover (die : Nat) (succ : Nat) : Statement (.leaseHandover die succ) := rfl
theorem setregion (die : Nat) : Statement (.setregion die) := rfl
theorem clearregion (die : Nat) : Statement (.clearregion die) := rfl
theorem preempt (die : Nat) : Statement (.preempt die) := rfl
theorem restore (die : Nat) : Statement (.restore die) := rfl
theorem setrspace (die : Nat) : Statement (.setrspace die) := rfl
theorem blockPreempt (id : Nat) : Statement (.blockPreempt id) := rfl
theorem blockRestore (id : Nat) : Statement (.blockRestore id) := rfl
theorem tsync (die : Nat) (v : BitVec 64) : Statement (.tsync die v) := rfl
theorem tlbInvalidation (core : Nat) : Statement (.tlbInvalidation core) := rfl
theorem tableWalk (core : Nat) (root : BitVec 64) (va : BitVec 64) (kind : AccKind) : Statement (.tableWalk core root va kind) := rfl
theorem trapDelivery (die : Nat) : Statement (.trapDelivery die) := rfl
theorem trcfg (die : Nat) (v : BitVec 32) : Statement (.trcfg die v) := rfl
theorem tractResumeTrpc (die : Nat) (v : BitVec 32) : Statement (.tractResumeTrpc die v) := rfl
theorem tractResumePc (die : Nat) (v : BitVec 32) : Statement (.tractResumePc die v) := rfl
theorem tractEndGroup (die : Nat) (v : BitVec 32) : Statement (.tractEndGroup die v) := rfl
theorem tractKill (die : Nat) (v : BitVec 32) : Statement (.tractKill die v) := rfl
theorem migctlGo (die : Nat) : Statement (.migctlGo die) := rfl
theorem migrationFreeze (die : Nat) : Statement (.migrationFreeze die) := rfl
theorem migrationDone (die : Nat) : Statement (.migrationDone die) := rfl
theorem rollback (id : Nat) : Statement (.rollback id) := rfl
theorem launchKill (id : Nat) (cause : BitVec 9) : Statement (.launchKill id cause) := rfl
theorem syscallTicketDraw (g : Nat) : Statement (.syscallTicketDraw g) := rfl
theorem scdone (die : Nat) (h : Nat) (v : BitVec 64) : Statement (.scdone die h v) := rfl
theorem syscallCompletion (id : Nat) : Statement (.syscallCompletion id) := rfl
theorem introute (die : Nat) (k : Nat) (v : BitVec 32) : Statement (.introute die k v) := rfl
theorem comparatorFire (core : Nat) (n : Nat) : Statement (.comparatorFire core n) := rfl
theorem lqdevattr (h : Nat) (o : DevAttrOp) : Statement (.lqdevattr h o) := rfl
theorem lqcuralm (a : HartCsr) (ev : BitVec 5) : Statement (.lqcuralm a ev) := rfl
theorem lqpwrctl (r : PowerCsr) : Statement (.lqpwrctl r) := rfl
theorem currentAlarm (k : Nat) : Statement (.currentAlarm k) := rfl
theorem boostGrant (on : Bool) : Statement (.boostGrant on) := rfl
theorem telemetryUpdate (avg : BitVec 32) (pwr tmp uj : BitVec 64) : Statement (.telemetryUpdate avg pwr tmp uj) := rfl
theorem slottabWrite (sl : Nat) (row : Nat) (v : BitVec 32) : Statement (.slottabWrite sl row v) := rfl
theorem clkratWrite (sl : Nat) (v : BitVec 32) : Statement (.clkratWrite sl v) := rfl
theorem passcntWrite (core : Nat) (v : BitVec 32) : Statement (.passcntWrite core v) := rfl
theorem tokbalWrite (sl : Nat) (v : BitVec 32) : Statement (.tokbalWrite sl v) := rfl
theorem tokenRefill (sl : Nat) : Statement (.tokenRefill sl) := rfl
theorem sgate (sl : Nat) : Statement (.sgate sl) := rfl
theorem cgate (core : Nat) : Statement (.cgate core) := rfl
theorem coff (core : Nat) : Statement (.coff core) := rfl
theorem unitWake (core : Nat) : Statement (.unitWake core) := rfl
theorem coldReset : Statement .coldReset := rfl
theorem warmReset : Statement .warmReset := rfl
theorem flitSend (d : LinkEnd) (pay : BitVec 64) : Statement (.flitSend d pay) := rfl
theorem flitReceive (d : LinkEnd) (lane : BitVec 8) : Statement (.flitReceive d lane) := rfl
theorem ackReceive (d : LinkEnd) : Statement (.ackReceive d) := rfl
theorem nakReceive (d : LinkEnd) : Statement (.nakReceive d) := rfl
theorem ackTimeout (d : LinkEnd) : Statement (.ackTimeout d) := rfl
theorem laneShed (l : Nat) : Statement (.laneShed l) := rfl
theorem linkReset (l : Nat) : Statement (.linkReset l) := rfl
theorem finjctl (l : Nat) (v : BitVec 64) : Statement (.finjctl l v) := rfl
theorem collctlGo (die : Nat) : Statement (.collctlGo die) := rfl
theorem collectiveComplete (die : Nat) : Statement (.collectiveComplete die) := rfl
theorem attctlGo (die : Nat) : Statement (.attctlGo die) := rfl
theorem quoteSign (die : Nat) : Statement (.quoteSign die) := rfl
theorem twinCompare (t : Nat) : Statement (.twinCompare t) := rfl
theorem ckptRendezvous (t : Nat) : Statement (.ckptRendezvous t) := rfl
theorem pciePeerRequest (k : Nat) (r : PeerReq) : Statement (.pciePeerRequest k r) := rfl
theorem registerWrite (die : Nat) (off : Nat) (n : Nat) (v : BitVec 64) (m : Master) : Statement (.registerWrite die off n v m) := rfl
theorem aplicWiredSource (die : Nat) (src : Nat) (on : Bool) : Statement (.aplicWiredSource die src on) := rfl
theorem pcieLinkReset (k : Nat) : Statement (.pcieLinkReset k) := rfl
theorem retrainComplete (l : Nat) (bad : BitVec 8) : Statement (.retrainComplete l bad) := rfl
theorem dramActivationWindow (die : Nat) (v : BitVec 16) : Statement (.dramActivationWindow die v) := rfl
theorem badreq (die : Nat) : Statement (.badreq die) := rfl

end Sys2Proof.Laws.OwnRow
end

