-- ==== Sys2Proof/Tests/Slice0.lean ====
section
/-! SUPPORT. Tests of one step each: words of the spec, ill-formed terms, results that the spec works out, and a state that meets the hypotheses of each
statement. -/

set_option maxRecDepth 100000
set_option Elab.async false

namespace Sys2Proof.Tests

open Sys2Proof Sys2Proof.Machine

/-! ## Small states -/

/-- A record of 64 words from the start of the block's window, as fields of 04 R85. -/
def recW : BitVec 128 := (0x8000_0000_0000_0000 : BitVec 64) ++ (4 : BitVec 24) ++ (64 : BitVec 32) ++ (0 : BitVec 3) ++ (2 : BitVec 2) ++ (0 : BitVec 3)
/-- A group of 32 lanes at address 0 that holds baton 0 of slice 0. -/
def gp : Group :=
  { blk := 0, idx := 0, nv := 256, lanes := (List.range 32).map (fun l => (l, { pc := 0 })), m := [(0, 0xFFFFFFFF)], b := [(0, recW)], baton := some 0 }
def gpB : Group := { gp with b := [(1, 1)] }
def bk : Block :=
  { launch := 0, lin := 0, core := 0, region := 1, threads := 32, groups := 1, nv := 256, grans := 1, bgrans := 64, place := [(0, 0)], tiles := [0, 1, 2, 3, 4, 5, 6, 7] }
/-- That group in slot 0 of core 0, with one granule, executing an instruction at address 0 in the lanes given. -/
def on (g : Group) (m : BitVec 32) : State :=
  let s := State.reset.withFetchWord 96 0
  let s := s.putCore 0 { s.core 0 with gran := [(0, { blk := 0, region := 1 })] }
  { s with groups := [(0, g)], blocks := [(0, bk)], latch := none, cur := { at_ := m, lanes := m, npc := 12 } }
def oa (d a b c : Sel) : OpA := { pfx := none, ty := .dflt, dst := d, sa := a, sb := b, sc := c, rnd := 0, sat := false, imm := 0 }
def om (d : Sel) (b : BitVec 4) (x a : Sel) : OpM :=
  { pfx := none, ty := .dflt, data := d, brec := b, index := x, scope := 5, rem := false, aux := a, glen := 0, imm := 0 }
def oc (d1 d2 a c : Sel) : OpC := { pfx := none, d1, d2, sa := a, carry := c, clen := 0, tslot := 2, ldisp := 1 }
def ox (d a b c : Sel) (i : BitVec 32) : OpX := { pfx := none, dst := d, sa := a, sb := b, sc := c, imm := i }

/-- Poison 7 in p0 of lane 0. -/
def gpPsn : Group := { gp with p := [(0, ⟨true, some 7⟩)] }
/-- A line of five one-slot instructions, each a legal target. -/
def line : List Byte := List.replicate 60 0 ++ [0x1F, 0, 0, 0xE0]
/-- The state with the line of its target in the core's cache. -/
def onR (g : Group) (m : BitVec 32) : State :=
  let s := on g m
  s.putCore 0 { s.core 0 with icache := [(0, 0, 0, line), (0, 64, 64, line)] }
def gpStk : Group := { gp with lanes := (List.range 32).map (fun l => (l, { pc := 0, stk := [12] })) }
/-- Lane 0's return stack is full, and b15 names the window. -/
def gpFull : Group := { gp with b := [(15, recW)], lanes := [(0, { pc := 0, stk := List.replicate 16 12 })] }
def gpJoin : Group := { gp with m := [(7, 3)], lanes := [(0, { pc := 0, wait := .join 7 }), (1, { pc := 0, wait := .join 7 })] }
/-- s0 names slot 15, slot 16, and the set of slot 15. -/
def gpS : Group := { gp with u := (List.range 32).map (fun l => (64 * l, ⟨15, none⟩)) }
def gpS16 : Group := { gp with u := (List.range 32).map (fun l => (64 * l, ⟨16, none⟩)) }
def gpSA : Group := { gp with u := (List.range 32).map (fun l => (64 * l, ⟨0x8000, none⟩)) }
/-- A group of the block without a baton. -/
def gpTo : Group := { gp with idx := 1, baton := none }
def on2 (g h : Group) : State := { on g 3 with groups := [(0, g), (15, h)] }

theorem remap_get (l : SMap Die) (h : l.all (fun x => x.2.remap == []) = true) (d : Nat) : (SMap.get (Die.reset d) l d).remap = [] := by
  induction l with
  | nil => rfl
  | cons c l ih =>
    simp only [List.all_cons, Bool.and_eq_true, beq_iff_eq] at h
    simp only [SMap.get, SMap.find?] at ih ⊢
    split
    · exact h.1
    · exact ih h.2
/-- No die of the state has moved a frame. -/
theorem remap_of (s : State) (h : s.dies.all (fun x => x.2.remap == []) = true) : ∀ d, (s.die d).remap = [] := remap_get _ h

def bkBar : Block := { bk with bars := [(7, { arrived := [0] })] }
def onBar : State := { on gp 3 with blocks := [(0, bkBar)] }
/-- The first word of the window is empty. -/
def onEmpty (g : Group) : State :=
  let s := onR g 1
  { s with emptyw := [sramLoc 0 0] }
def gpFut : Group := { gp with futh := 1 }
def gpHand : Group := { gp with futpc := 13, hlanes := 3 }
/-- Tables that map the low addresses to themselves, with a FORMAT in the leaf's bytes 6 and 7. -/
def tabled (s : State) (b6 b7 : Byte) : State :=
  let m : Mem := Mem.setByte (Mem.setByte (Mem.setByte [] 0x1000 0xDF) 0x1006 b6) 0x1007 b7
  { s with dram := m, launches := s.launches.map (fun x => (x.1, { x.2 with root := 0x9000000000000001 })) }
def recV : BitVec 128 := (0 : BitVec 64) ++ (0 : BitVec 24) ++ (64 : BitVec 32) ++ (0 : BitVec 8)
def gpFmt : Group := { gp with b := [(1, recV)] }
/-- FORMAT 0, or FORMAT 17 (`k` is 0x44). -/
def onFmt (k : Nat) : State := if k = 0 then tabled (on gpFmt 1) 0 0 else tabled (on gpFmt 1) 0x40 0x04
def xlate (s : State) (g : Group) : Except Nat Xlate × State := (issuing s g).translate 0 0x9000000000000001 0 .read
def xl (s : State) (g : Group) : Xlate := match (xlate s g).1 with | .ok x => x | .error _ => ⟨0, 0, 0⟩
def xs (s : State) (g : Group) : State := (xlate s g).2
def fa : Acc := match ((xs (onFmt 0x44) gpFmt).fmtAcc 0 bk 0 17 0 0).1 with | .ok a => a | .error _ => { lane := 0, ga := 0, loc := 0, n := 0 }
def withReq (s : State) (r : Req) : State := s.putCore 0 { s.core 0 with reqs := [r] }
def withIn (e : InEntry) : State := let s := on gp 3; s.putCore 0 { s.core 0 with inq := [e] }
def withCredit : State := let s := { on gp 3 with now := 10240 }; s.putCore 0 { s.core 0 with spent := [(1, 1)], granted := [(2, 1)], credAt := [(2, [0])] }
def nt : Notice := { id := 1, key := 0, blk := 0, launch := 0, addr := 0x9000000000000000 }
def gpOut : Group := { gp with lanes := [] }
def withNotice (g : Group) : State := { on g 3 with notices := [nt] }
def withRes (s : State) : State := s.putCore 0 { s.core 0 with ares := [{ src := 0, seq := 9, res := [[7, 0, 0, 0]] }] }

/-- A record of 16384 bytes at virtual address 0. -/
def recP : BitVec 128 := (0 : BitVec 64) ++ (0 : BitVec 24) ++ (16384 : BitVec 32) ++ (0 : BitVec 8)
/-- A record whose BASE is given. -/
def recAt (a : BitVec 64) : BitVec 128 := a ++ (4 : BitVec 24) ++ (64 : BitVec 32) ++ (0 : BitVec 3) ++ (2 : BitVec 2) ++ (0 : BitVec 3)
def cp : Copy := { blk := 0, src := recW, dst := recAt 0x8000000000000100, count := 1 }
def cpFar : Copy := { cp with dst := recAt 0x9000000002000000, st := .flight }
def withTag (s : State) (c : Copy) : State := s.putCore 0 { s.core 0 with tags := [(3, c)] }
def onCopy (c : Copy) : State :=
  let s := withTag (on gp 3) c
  s.putCore 1 { s.core 1 with gran := [(0, { blk := 0, region := 1 })] }
def gpT : Group := { gp with u := (List.range 32).map (fun l => (64 * l, ⟨3, none⟩)) }
def gpTags : Group := { gp with cpyw := some (3, 12, 3) }
def withJob (s : State) (j : Job) : State := s.putCore 0 { s.core 0 with jobs := [j] }
def jb : Job := { slot := 0, seq := 0, key := 0, blk := 0, pc := 0, lanes := 1, cardVa := 0, card := 0, atd := 0, btd := 0 }
def ef : Eff := { rid := 1, inject := true, tmrgrant := 2 }
/-- The launch of block 0, in a region. -/
def withEff (s : State) (e : Eff) : State :=
  { s with launches := [(0, { die := 0, queue := 0, ticket := 0, root := 0x9000000000000001, desc := 0, eff := e })] }
/-- The group with the views that a destination needs. -/
def vf (s : State) (g : Group) (x : Sel) : Group := match s.viewsFor (g.advance s.cur) x with | .ok h => h | .error _ => g
theorem copyPlace_window {s : State} {core : Nat} {b : Block} {k : AccKind} {ga : DWord} {loc : Nat} (h : field ga.toNat 63 60 ≠ 0)
    (hs : s.scratch b ga = some loc) (hd : s.denied b.region loc = false) : s.copyPlace core b k ga = (.ok loc, s) := by
  simp [State.copyPlace, h, hs, hd]
theorem engineAcc_window {s : State} {b : Block} {r : Brec} {k : AccKind} {n i : Nat} {ga : DWord} {loc : Nat}
    (hc : s.laneCheck b r (r.oobf == 1) k false n 0 i = .ok (some ga)) (h : field ga.toNat 63 60 ≠ 0)
    (hs : s.scratch b ga = some loc) (hd : s.denied b.region loc = false) : s.engineAcc b r k n i = (.ok (some (loc, ga)), s) := by
  rw [State.engineAcc, hc]; simp [copyPlace_window h hs hd]
/-- A card of one level (K, count 1) with descriptors t0 and t1, and the same with a C record that is stored. -/
def card1 : BitVec 1024 := BitVec.ofNat 1024 (2 ^ 682 + 3 * 2 ^ 542 + 2 ^ 675)
def cardC : BitVec 1024 := BitVec.ofNat 1024 (2 ^ 682 + 3 * 2 ^ 542 + 2 ^ 675 + 2 ^ 681 + 2 ^ 384 * recW.toNat)
/-- Descriptors of one slot of 64 units, of bytes (FORMAT 10), of kind A or B. -/
def tdA : BitVec 256 := BitVec.ofNat 256 (10 * 2 ^ 96 + 64 * 2 ^ 48 + 2 ^ 38 + 2 ^ 32)
def tdB : BitVec 256 := BitVec.ofNat 256 (10 * 2 ^ 96 + 64 * 2 ^ 48 + 2 ^ 38 + 2 ^ 33)
def jr : Job := { jb with st := .run, card := card1, atd := tdA, btd := tdB }
def jrC : Job := { jr with card := cardC, iter := 1 }
theorem uint8_finite (rd : Nat → Byte) (e : Nat) : (tileElem 10 rd e).special = false := by
  simp [tileElem, fmtPos, fmtLine, fmtValue, fmtElem, fmtBits, elemValue, FV.special, EFmt.bits, EFmtF, FV.ofInt]
def gpTd : Group := { gp with t := [(0, tdB)], b := [(0, recP)] }
def gpJw : Group := { gp with jwait := some (0, 12, 1) }
def bsPages : Except (Nat × DWord) (List Nat) × State := (issuing (tabled (withEff (on gpTd 3) ef) 0x80 2) gpTd).bsldPages 0 0x9000000000000001 0 16384 10
def bsl : Bsld := { id := 4, key := 0, blk := 0, pc := 0, lanes := 1, dst := 0, size := 16384, code := 10, extent := 16384, base := 0, pages := [0, 4096, 8192, 12288] }
theorem ok_of {α β : Type} [DecidableEq β] {x : Except α β} {v : β} (h : (match x with | .ok w => decide (w = v) | .error _ => false) = true) : x = .ok v := by
  cases x with
  | ok w => simpa using h
  | error e => cases h
/-- The launch's region has a ring of eight entries at 0x2000; full, or with room. -/
def onRing (full : Bool) (g : Group) : State :=
  { withEff (on g 3) { ef with sysring := 0x2000 } with dram := (if full then [(0x2000, 8)] else []) ++ [(0x200B, 0x80), (0x200C, 3)] }
def ringH (full : Bool) : RingHdr := { base := 0x2000, head := 0, tail := if full then 8 else 0, route := 0x80000000, log2 := 3, bad := false }
def cl : Call := { ticket := 5, lanes := 3, dst := .v 0 }
def gpCall : Group := { gp with calls := [cl] }
def cmpl : Completion := { id := 7, region := 1, ticket := 5, value := 9 }
/-- A node of cap 1, and a graph of it, in core cycle 1. -/
def nd : Node := { desc := BitVec.ofNat 512 (2 ^ 256), queues := [{}], gen := 0 }
def onVane (x : Node) (g : Group) : State := { withEff (on g 3) ef with graphs := [(0, { launch := 0, array := 0, nodes := [x] })], slices := [(0, { tick := 10 })] }
def gpNode : Group := { gp with graph := some 0, node := some 0 }
def gpHeld : Group := { gpNode with lanes := (List.range 32).map (fun l => (l, { pc := 0, held := some { key := 0, node := 0 } })) }
def gpTwin : Group := { gp with twin := some (4, true) }
def rc0 : Rec := { key := 7, node := 0 }
def em : Emitted := { graph := 0, cyc := 0, core := 0, slice := 0, lane := 0, key := 0, record := rc0 }
def vdone : VOp := { take := false, graph := 0, node := 0, stage := none, cyc := 0, key := 0, lane := 31, record := some rc0 }
def vtake : VOp := { take := true, graph := 0, node := 0, stage := none, cyc := 0, key := 0, lane := 31, dst := 6 }
def gpEw : Group := { gp with emitWait := some (12, 0) }
def tickAt (n : Nat) (g : Group) : State := { on g 3 with slices := [(0, { tick := n })] }
theorem pairs_of {α β : Type} {l : List (α × β)} {P : α → β → Prop} (h : ∀ x ∈ l, P x.1 x.2) : ∀ k b, (k, b) ∈ l → P k b := fun k b hm => h (k, b) hm
/-- Identity tables, a region control block of region 1 at 0x2000 and a node array of one node at 0x3000. -/
def memR : Mem :=
  [(0x1000, 0xDF), (0x2008, 1), (0x200C, 0xFF), (0x200D, 3), (0x2018, 4), (0x2028, 1), (0x2029, 0x88), (0x202C, 0x81),
   (0x3018, 0x40), (0x3019, 8), (0x301A, 4), (0x3020, 32)]
/-- A part whose leader is die 0 and whose region 1 holds baton 0 of slice 0. -/
def onReg : State :=
  let s := { State.reset with dram := memR, regtab := [(1, 0x2000)], rspace := some 0x9000000000000001, slices := [(0, { bound := [(0, 1)] })], lease := 100 }
  s.putDie 0 { s.die 0 with lead := some 100 }
def eR : Eff := { rid := 1, chain := [1], nbat := 1, share := 1, w := 1, h := 1, diemask := 1, budgets := [(1, 4, 0, 0, 0)] }
def eInj : Eff := { eR with budgets := [(1, 0, 0, 0, 0)], inject := true }
/-- A command at hand in queue 0 of die 0, of some code and operands. -/
def cm (x : Nat) : Cmd := { id := 3, ticket := 0, entry := BitVec.ofNat 1024 x, va := 0x5000, root := 0x9000000000000001 }
def qu (x : Nat) : Queue := { en := true, root := 0x9000000000000001, base := 0x5000, live := [cm x], cur := some 3 }
def onCmd (x : Nat) : State := onReg.putQueue 0 0 (qu x)
def onWait (x : Nat) : State := onReg.putQueue 0 0 { qu x with cur := none, wait := some 3 }
/-- A launch of one block of 32 threads in region 1; a graph of the node array. -/
def launchX : Nat := 1 + 2 ^ 16 + 2 ^ 320 + 2 ^ 336 + 2 ^ 352 + 2 ^ 373 + 2 ^ 448
def graphX : Nat := 2 + 2 ^ 16 + 2 ^ 320 + 0x3000 * 2 ^ 512
def lnX : Launch := { onReg.launchOf 0 0 (cm launchX) eR false with wset := [] }
def lnG : Launch := { onReg.launchOf 0 0 (cm graphX) eR true with wset := [] }
/-- The launch accepted; the graph running with its node in a state. -/
def onLaunch : State := { onReg with launches := [(3, lnX)] }
def grX (x : Node) : Graph := { launch := 3, array := 0x3000, nodes := [x] }
def onGraph3 (x : Node) : State := { onReg with launches := [(3, lnG)], graphs := [(3, grX x)] }
/-- A node of COALESCE `n` with records that wait. -/
def ndC (n : Nat) (q : NQueue) : Node := { desc := BitVec.ofNat 512 (32 * 2 ^ 256 + 2 * 2 ^ 197 + n * 2 ^ 203 + 2 ^ 240), queues := [q], gen := 0 }
def quiet (s : State) : State := { s with groups := [(1600, { gp with graph := some 3, node := some 0 })] }
def lnd (s : State) : State := (s.launchNode 3 0 0 1).getD s
def ndA (s : State) : Node := (s.node? 3 0).getD nd
def vw (s : State) (va : DWord) (bs : List Byte) (r : Option RelRec) : State := (s.virtWrite 0 0x9000000000000001 va bs r).getD s
def plB : Plan := { core := 0, place := [(0, 0)], gran0 := 0, b0 := 0, tiles := [], bars := [], batons := [(0, [0])] }
def bkEnd : Block := { bk with ended := true }
/-- A mailbox request of die 0. -/
def onMail (w0 w1 : DWord) : State := onReg.putDie 0 { onReg.die 0 with fwbusy := true, fwreq := [(0, w0), (1, w1)] }
def noRoot (s : State) : State := { s with rspace := none }
def adm (s : State) (r : Nat) (w : DWord) (e : Eff) : State := ((({ s with regtab := s.regtab.put r w } : State).withdraw r).letIn e).getD s
def leads (w : DWord) (n : Nat) (l : DWord) : State := { State.reset.putDie 0 { State.reset.die 0 with lead := some w } with lease := l, now := n }
theorem error_of {α β : Type} [DecidableEq α] {x : Except α β} {e : α} (h : (match x with | .ok _ => false | .error d => decide (d = e)) = true) : x = .error e := by
  cases x with
  | ok w => cases h
  | error d => simpa using h
def after (s : State) (o : Host.Outcome State Fault Refusal) : State := match o with | .next t => t | _ => s
theorem reqs_get (l : SMap Core) (h : l.all (fun x => x.2.reqs == []) = true) (c : Nat) : (SMap.get ({} : Core) l c).reqs = [] := by
  induction l with
  | nil => rfl
  | cons x l ih =>
    simp only [List.all_cons, Bool.and_eq_true, beq_iff_eq] at h
    simp only [SMap.get, SMap.find?] at ih ⊢
    split
    · exact h.1
    · exact ih h.2
theorem reqs_of {s : State} (h : s.cores.all (fun x => x.2.reqs == []) = true) : ∀ c, (s.core c).reqs = [] := reqs_get _ h
def tr : Trap := { cause := 0x080, pc := 12, lanes := 1 }
def gpF : Group := { gp with fault := some { trap := tr, written := true } }
def trr : TrapRec := { key := 0, trap := tr, time := 5 }
def onTr (en : Bool) (tail : Word) (g : Group) : State :=
  let s := (onR g 3).putSlice 0 { (onR g 3).slice 0 with tick := 10 }
  s.putDie 0 { s.die 0 with traps := [trr], trEn := en, trtail := tail, trbase := 0x2000 }
def onPc (pc : DWord) (g : Group) : State := let s := onR g 3; s.putDie 0 { s.die 0 with trpc := pc }
def withMig (st : MigSt) (n : Nat) : State := State.reset.putDie 0 { State.reset.die 0 with migst := st, remap := (List.range n).map (fun i => (i, i)) }
def migBad : State := { State.reset.putDie 0 { State.reset.die 0 with migdst := 0x1000 } with il4 := (0, 0x1000) }
def snap : Snap := { va := 4, base := 0x4000, data := List.replicate 4096 0 }
def lnU (l : List Snap) : Launch := { lnX with unc := some 0x1C0, snaps := l }
def onUnc (l : List Snap) : State := { onReg with launches := [(3, lnU l)] }
def onMail3 (w0 w1 w2 : DWord) : State := onReg.putDie 0 { onReg.die 0 with fwbusy := true, fwreq := [(0, w0), (1, w1), (2, w2)] }
/-- A stopped block, and a block whose records stand at 0x8000, in a suspended region. -/
def blS : Block := { bk with stopped := true }
def onStop : State := { on gp 3 with blocks := [(0, blS)], susp := [(1, { base := 0x8000, die := 0 })] }
def blB : Block := { launch := 3, lin := 0, core := 0, region := 1, threads := 32, groups := 1, nv := 8, place := [(0, 0)], saved := some 0 }
def onBack : State :=
  { onReg with dram := memR ++ [(0x8008, 1), (0x800C, 0x20), (0x1D810, 8)] ++ (List.range 31).map (fun l => (0x1D800 + 0x291 + 16 * l, 1)), blocks := [(0, blB)], launches := [(3, lnX)],
               susp := [(1, { base := 0x8000, die := 0, restore := true })] }
/-- A twin pair: the groups of slot 0 of cores 0 and 1. -/
def tw (l r : List TwinEntry) : Twin := { lead := 0, trail := 96, slack := 1, lq := l, tq := r, ckptL := some gp, ckptT := some gp }
def onTw (x : Twin) (g h : Group) (r : List Req) : State :=
  let s := { on g 3 with groups := [(0, g), (96, h)], twins := [(4, x)] }
  s.putCore 0 { s.core 0 with reqs := r }
def te (k : Nat) : TwinEntry := { sig := [k], op := .timer 0 0 }
def tq (a : Nat) (w : Bool) : TwinEntry := { sig := [1], op := .req [a] w, inst := 1 }
def gpCk (n : Nat) : Group := { gpTwin with ckptWait := true, ckpts := n }
/-- That group about to issue the instruction whose word is given, alone in its line. -/
def onI (nbits w : Nat) (g : Group) : State :=
  let s := State.reset.withFetchWord nbits w
  let s := s.putCore 0 { s.core 0 with gran := [(0, { blk := 0, region := 1 })] }
  { s with groups := [(0, g)], blocks := [(0, bk)], launches := [], latch := none }
def lineIn (nbits w : Nat) : List Byte := ((onI nbits w gp).core 0).cached ((onI nbits w gp).fetchRoot gp) 0 |>.getD []
def madW : Nat := 0x2407_0000_1C01_00B0_0200_03E8
def gpOver : Group := { gp with overCls := some (0, 0) }
def onOver (n : Nat) : State := { onI 96 madW gpOver with slices := [(0, { cyc := n })] }
def lkOver : Coding × Instr × Cur := match (onOver 64).look 0 gpOver { pc := 0 } with | .ok c i cur => (c, i, cur) | _ => ({ h := { neg := false, p := 7, stall := 0 } }, .exit, {})
def onEnd : State := { on gp 3 with latch := some { slice := 0 }, slices := [(0, { stages := [(1, 1), (3, 2)], clkrat := 7 })] }
def onColl (l : SMap Coll) : State := { on gp 3 with slices := [(0, { coll := l })] }
def ww (p : Nat) (d : Option Nat) : WWrite := { blk := 0, reg := 15, bits := 1, slice := 0, baton := 3, prim := p, due := 0, ended := d }
def onWq (l : List WWrite) (n : Nat) : State :=
  let s := { on gp 3 with now := n }
  s.putCore 0 { s.core 0 with wq := l }
def rootD : DWord := 0x9000000000000001
def onTab : State := tabled (withEff (on gp 3) ef) 0 0
theorem tol_of {o : Option Nat} {n : Nat} (h : (match o with | some k => decide (n ≤ k) | none => true) = true) : ∀ k, o = some k → n ≤ k := by
  intro k hk; subst hk; simpa using h
def onLink (x : Link) : State := State.reset.putDie 0 { State.reset.die 0 with links := [(0, x)] }
def lkUp : Link := { up := true }
def fl (n : Nat) : Flit := { num := n, pay := 7, hurt := 0, lanes := 0xFF, due := 0 }
def errsAt (n : Nat) : Link := { up := true, errs := [(3, List.replicate n 0)] }
/-- Region 1 with the injection right, whose control block stands at 0x2000. -/
def onInj : State := { onReg with dram := [(0x1000, 0xDF), (0x2008, 1), (0x200A, 4), (0x200C, 0xFF), (0x200D, 3), (0x2028, 1), (0x2029, 0x88), (0x202C, 0x81)] }
/-- A collective of one rank whose fields stand at 0x2000. -/
def onColl1 (m : Mem) (busy : Bool) : State := { State.reset.putDie 0 { State.reset.die 0 with collbusy := busy, colldesc := 0x2000 } with dram := m }
def descC : Mem := [(0x2001, 0x30), (0x2009, 0x40), (0x2011, 0x50), (0x2018, 1), (0x201C, 1), (0x2021, 5), (0x2029, 0x60), (0x3000, 9)]
def descBad : Mem := [(0x2001, 0x30), (0x2009, 0x40), (0x2011, 0x50), (0x2018, 1), (0x201C, 1), (0x2020, 3), (0x2021, 5), (0x2029, 0x60)]
def descTwo : Mem := [(0x2001, 0x30), (0x2009, 0x40), (0x2011, 0x50), (0x2018, 1), (0x201C, 2), (0x2021, 5), (0x2029, 0x60), (0x5002, 1)]
def onColl2 (m : Mem) : State := let s := onColl1 m true; s.putDie 1 { s.die 1 with collbusy := true }
def onAtt (busy : Bool) (a : DWord) : State := onReg.putDie 0 { onReg.die 0 with attbusy := busy, attbuf := a }
/-- Eight views, each with lanes on both sides of a mask. -/
def gpViews : Group := { gp with lanes := (List.range 32).map (fun l => (l, { pc := 0, view := l % 8 })) }
def onStep : State := { onI 96 madW gp with latch := some { slice := 0, todo := [{ pc := 0 }], group := some 0 } }
def cutMad : Coding × Instr × DWord := match reach (lineIn 96 madW) 0 with | .ok x => x | .error _ => ({ h := { neg := false, p := 7, stall := 0 } }, .exit, 0)
def curMad : Cur := onStep.curOf 0 gp { pc := 0 } cutMad.1 cutMad.2.1 cutMad.2.2
def goMad : State := { onStep.putGroup 0 (gp.onLanes curMad.at_ (fun _ x => { x with ready := 0 })) with cur := { curMad with ws := (onStep.slice 0).foundW 0 0, baton := 0, start := none } }
def formMad : Form × Nat × Op := (formOf cutMad.2.1).getD (Forms.mad, 0, .a (oa .none .none .none .none))
def cutOf (t : Tpl) (bs : List Byte) : Coding × Instr × List Byte := match decodeBytes t bs with | .ok x => x | .error _ => ({ h := { neg := false, p := 7, stall := 0 } }, .exit, [])
/-- A line whose slots are zeros, with its last word. -/
def lineW (w : Nat) : List Byte := List.replicate 60 0 ++ leBytes 4 w
def ldW : Nat := match encode { h := { neg := false, p := 7, stall := 0 } } (.ld { om (.v 0) 0 .none .none with scope := 0 }) with | some (.one w) => w.toNat | _ => 0
/-- A load of the window's first word, which a copy in flight writes. -/
def onHeld : State :=
  let s := onI 96 ldW gp
  { s.putCore 0 { s.core 0 with tags := [(3, { cp with st := .flight, sspan := some (0, 4), dspan := some (9 * 2 ^ 60, 9 * 2 ^ 60 + 4) })] } with
    latch := some { slice := 0, todo := [{ pc := 0 }], group := some 0 } }
def cutLd : Coding × Instr × DWord := match reach (lineIn 96 ldW) 0 with | .ok x => x | .error _ => ({ h := { neg := false, p := 7, stall := 0 } }, .exit, 0)
def curLd : Cur := onHeld.curOf 0 gp { pc := 0 } cutLd.1 cutLd.2.1 cutLd.2.2
def goLd : State := { onHeld.putGroup 0 (gp.onLanes curLd.at_ (fun _ x => { x with ready := 0 })) with cur := { curLd with ws := (onHeld.slice 0).foundW 0 0, baton := 0, start := none } }
def formLd : Form × Nat × Op := (formOf cutLd.2.1).getD (Forms.mad, 0, .a (oa .none .none .none .none))
/-- The instruction in the last slot of a line. -/
def lineM4 : List Byte := List.replicate 48 0 ++ (slotOf' (lineIn 96 madW) 0) ++ (leBytes 4 0x10000000)
def lineP : List Byte := leBytes 6 0x080500000009 ++ leBytes 6 0x080500000009 ++ List.replicate 48 0 ++ leBytes 4 0x20000020
def acS : Acc := { lane := 0, ga := 0x8000000000000000, loc := sramLoc 0 0, n := 4 }
def gpPs : Group := { gp with u := [(62, ⟨1, some 3⟩)] }
/-- A card of memory at address 0 with its descriptors in t0 and t1. -/
def gpJob : Group := { gp with t := [(0, tdA), (1, tdB)] }
def bkJob : Block := { bk with grans := 4 }
def memJob (l : Mem) : Mem := l ++ [(0x1000, 0xDF), (0x1006, 0x80), (0x1007, 2)]
def onJob (l : Mem) : State :=
  let s := withEff (on gpJob 3) ef
  { s with dram := memJob l, blocks := [(0, bkJob)] }
def cardM : Mem := [(67, 0xC0), (84, 8), (85, 4)]
def jobAt (l : Mem) : Except Nat Xlate × State := (issuing (onJob l) gpJob).translate 0 0x9000000000000001 0 .read
def jobOf (l : Mem) : Job := jobOfCard (onJob l) (jobAt l).2 gpJob 0 0

/-! A chunk of zeros passes its checks. -/
def FVZero (x : FV) : Prop := ∃ n e, x = .fin n 0 e
theorem FVZero.add {x y : FV} (hx : FVZero x) (hy : FVZero y) : FVZero (x.add .rne y) := by
  obtain ⟨a, e, rfl⟩ := hx; obtain ⟨b, k, rfl⟩ := hy
  simp only [FV.add, and_self, if_true]
  split <;> exact ⟨_, _, rfl⟩
theorem FVZero.mul {x y : FV} (hx : FVZero x) (hy : FVZero y) : FVZero (x.mul y) := by
  obtain ⟨a, e, rfl⟩ := hx; obtain ⟨b, k, rfl⟩ := hy; exact ⟨_, _, rfl⟩
theorem FVZero.same {x y : FV} (hx : FVZero x) (hy : FVZero y) : x.same y = true := by
  obtain ⟨a, e, rfl⟩ := hx; obtain ⟨b, k, rfl⟩ := hy
  simp [FV.same, FV.cmp, FV.at]
theorem FVZero.exact {x : FV} (hx : FVZero x) : FVZero (ofExact x.exact) := by
  obtain ⟨a, e, rfl⟩ := hx
  cases a <;> exact ⟨_, _, rfl⟩
theorem FVZero.exactSum {f : Nat → FV} (n : Nat) (h : ∀ k, FVZero (f k)) : FVZero (exactSum n f) := by
  have key : ∀ (l : List Nat) (m : Option FV), (∀ x, m = some x → FVZero x) →
      ∀ x, l.foldl (fun (m : Option FV) k => some (match m with | none => f k | some x => x.add .rne (f k))) m = some x → FVZero x := by
    intro l
    induction l with
    | nil => exact fun m hm => hm
    | cons a l ih =>
      intro m hm
      refine ih _ (fun x hx => ?_)
      cases m with
      | none => cases hx; exact h a
      | some y => cases hx; exact (hm y rfl).add (h a)
  unfold Machine.exactSum
  cases he : (List.range n).foldl (fun (m : Option FV) k => some (match m with | none => f k | some x => x.add .rne (f k))) none with
  | none => exact ⟨_, _, rfl⟩
  | some x => exact key _ none (fun _ h => nomatch h) x he
theorem FVZero.pick {n : Nat} {f : Nat → FV} (h : ∀ k, FVZero (f k)) (i : Nat) : FVZero (pick (keep n f) i) := by
  simp only [Machine.pick, keep, Array.getD_eq_getD_getElem?, List.getElem?_toArray, List.getElem?_map]
  cases (List.range n)[i]? with
  | none => exact ⟨_, _, rfl⟩
  | some k => exact h k
theorem good_of {c : Chunk} (hS : ∀ i, FVZero (pick c.sums i)) (hc : ∀ i, FVZero (pick c.col i)) (hr : ∀ i, FVZero (pick c.row i)) : c.decide.1 = .good := by
  have h1 : c.rows = [] := by
    rw [Chunk.rows, List.filter_eq_nil_iff]
    intro i _
    have := FVZero.same (FVZero.exactSum 128 (fun j => hS (128 * i + j))) (hc i)
    unfold Chunk.rs
    generalize (Machine.exactSum 128 fun j => pick c.sums (128 * i + j)).same (pick c.col i) = z at this ⊢
    subst this
    decide
  have h2 : c.cols = [] := by
    rw [Chunk.cols, List.filter_eq_nil_iff]
    intro i _
    have := FVZero.same (FVZero.exactSum 128 (fun j => hS (128 * j + i))) (hr i)
    unfold Chunk.cs
    generalize (Machine.exactSum 128 fun j => pick c.sums (128 * j + i)).same (pick c.row i) = z at this ⊢
    subst this
    decide
  unfold Chunk.decide
  simp only [h1, h2]
theorem chunk_zero {a b bs : Nat → FV} (ha : ∀ e, FVZero (a e)) (hb : ∀ e, FVZero (b e)) (hs : ∀ k, FVZero (bs k)) :
    ((chunkOf a b bs).decide).1 = .good := by
  refine good_of ?_ ?_ ?_ <;> intro i <;> simp only [chunkOf, chunkSum] <;> refine FVZero.pick (fun e => FVZero.exactSum _ (fun k => ?_)) i
  · exact (ha _).mul (hb _)
  · exact (ha _).mul (hs _)
  · exact (FVZero.pick (fun k => FVZero.exactSum _ (fun i => ha _)) _).mul (hb _)
theorem uint8_zero {rd : Nat → Byte} (h : ∀ i, rd i = 0) (e : Nat) : FVZero (tileElem 10 rd e) := by
  have hr : rd = fun _ => 0 := funext h
  subst hr
  have hl : ∀ l : List Nat, leNat (l.map (fun _ => (0 : Byte))) = 0 := by
    intro l; induction l with
    | nil => rfl
    | cons a l ih => rw [List.map_cons, leNat, ih]; rfl
  simp only [tileElem, fmtPos, fmtLine, fmtValue, fmtElem, elemValue, EFmtF, hl]
  exact ⟨false, 0, by simp [FV.ofInt, EFmtSigned]⟩
theorem byte_blank {s : State} (h1 : s.sram = []) (h2 : s.dram = []) (a : Nat) : s.byteAt a = 0 := by
  unfold State.byteAt
  rw [h1, h2]
  split <;> rfl
theorem jr_ring (a : Nat) : (withJob (on gp 3) jr).byteAt a = 0 := byte_blank (by decide +kernel) (by decide +kernel) a
theorem jr_bst (a : Nat) : (withJob (on gp 3) jr).bst.byte a = 0 := by
  rw [show (withJob (on gp 3) jr).bst = [] from rfl]; rfl
theorem bsum_zero {s : State} (h : s.bck = []) {b : Nat → FV} (hb : ∀ e, FVZero (b e)) (p k : Nat) : FVZero (s.bsumAt p b k) := by
  unfold State.bsumAt
  rw [h]
  exact FVZero.exactSum 128 (fun _ => (hb _).exact)
theorem jr_bsum {b : Nat → FV} (hb : ∀ e, FVZero (b e)) (p k : Nat) : FVZero ((withJob (on gp 3) jr).bsumAt p b k) := bsum_zero (by decide +kernel) hb p k

/-- The elements of a whole tile of bytes at virtual address 0 pass their checks. -/
theorem elem_ok (s : State) (b : Block) (e : Nat) (h : e < 16384) : s.elemCheck b (Brec.of recP) 10 e = none := by
  have h1 : (Brec.of recP).base = 0#64 := by decide
  have h2 : (Brec.of recP).extent.toNat = 16384 := by decide
  have h3 : (fmtPos 10 e).1 / 8 = e := Nat.mul_div_cancel e (by decide)
  have h4 : (fmtAddr 0#64 e).toNat = e := by
    show (0#4 ++ BitVec.ofNat 60 (0 + e)).toNat = e
    rw [BitVec.toNat_append]
    simp
    omega
  have h5 : ∀ hi lo, 47 ≤ lo → field e hi lo = 0 := fun hi lo hl => by
    unfold field
    rw [Nat.div_eq_of_lt (Nat.lt_of_lt_of_le h (Nat.le_trans (by decide : 16384 ≤ 2 ^ 47) (Nat.pow_le_pow_right (by decide) hl)))]
    exact Nat.zero_mod _
  unfold State.elemCheck
  rw [h1, h2, h3]
  generalize fmtAddr 0#64 e = a at h4 ⊢
  simp [h, canonical, h4, h5 63 60 (by decide), h5 59 47 (by decide)]
theorem record_ok (s : State) (b : Block) : s.bsldRecord b (Brec.of recP) 10 = none := by
  have h : (List.range 16384).findSome? (s.elemCheck b (Brec.of recP) 10) = none :=
    List.findSome?_eq_none_iff.mpr (fun e he => elem_ok s b e (List.mem_range.mp he))
  unfold State.bsldRecord
  rw [h]
  decide
theorem carry_of {o : OpC} {s : State} {g : Group} (h : ∀ l ∈ lanesOf s.cur.lanes, ∀ r < 600, carries o r = true → (s.readV g r l).psn = none) :
    ∀ l ∈ lanesOf s.cur.lanes, ∀ r, carries o r = true → (s.readV g r l).psn = none := by
  intro l hl r hr
  refine h l hl r ?_ hr
  unfold carries at hr
  split at hr
  · rename_i n _
    have := n.isLt
    have := o.clen.isLt
    simp at hr
    omega
  · cases hr
/-- Groups of the slice of another slot: the first with batons held, or faulted. -/
def gpBig : Group := { gp with u := (List.range 32).map (fun l => (64 * l, ⟨0x10000, none⟩)) }
def gpSp : Group := { gp with u := (List.range 32).map (fun l => (64 * l, ⟨0, some 3⟩)) }
def gpVp : Group := { gpS with v := (List.range 32).map (fun l => (32 * 3 + l, ⟨1, some 3⟩)) }
def gpSc : Group := { gpS with v := (List.range 32).map (fun l => (32 * 3 + l, ⟨7, none⟩)) }
def gpNb : Group := { gpS with baton := none }
def gpSp15 : Group := { gpS with u := (List.range 32).map (fun l => (64 * l, ⟨15, some 3⟩)) }
def gpRet : Group := { gp with b := [(15, recW)], lanes := [(0, { pc := 0, spc := 1 })] }
def retF : List Bad × List Acc × State := (onR gpRet 1).formAccs 0 bk (Brec.of recW) true .read false 8 [(0, 0)]
def retA : Acc := retF.2.1.headD { lane := 9, ga := 0, loc := 0, n := 0 }
/-- In the handler with lane 0's words. -/
def gpNest : Group := { gp with futh := 1, futpc := 1, hlanes := 1 }
def gpNest2 : Group := { gp with futh := 1, futpc := 1, hlanes := 2 }
/-- Hart 31 released. -/
def onHart : State := State.reset.putHart 31 { entry := some 0x1000 }
/-- A hart's access waits. -/
def onParked : State := { onHart with parked := [.bus (.hart 31) 0 0 (.read 8)] }
/-- 256 accesses asleep at core 0. -/
def rqSleep : Req := { id := 6, key := 0, blk := 0, region := 1, pc := 0, kind := .ldwe, st := .done, accs := List.replicate 256 { acS with st := .sleep } }
def onSleep (r : Req) : State := let s := onEmpty gp; s.putCore 0 { s.core 0 with reqs := [r, rqSleep] }
def clS : Call := { ticket := 5, lanes := 3, dst := .s 62 }
def gpCallS : Group := { gp with calls := [clS] }
/-- A saved block with a group that waits on ticket 5. -/
def bkSaved : Block := { bk with saved := some 0, sgroups := [gpCallS] }
def gpFn : Group := { gpF with baton := none }
def gpF3 : Group := { gpFn with fault := some { trap := { tr with pc := 3 }, written := true } }
/-- Another generation of the tables, which core 0 has not seen. -/
def unseen (s : State) : State := { s with tgen := 1 }
def gpGone : Group := { gpTwin with lanes := [] }
def onOwed : State := let s := onColl1 descTwo true; s.putDie 1 { s.die 1 with collOwes := [0] }
/-- A frame in FREEZE: 4 KiB from place 0 of die 0. -/
def onFroz : State := State.reset.putDie 0 { State.reset.die 0 with migst := .freeze }
def onPeerWaits : State := { State.reset with parked := [.peer 1 (.read (.pa 0 0) 8)] }
/-- The injector of a link armed at lane 0 to strike the second flit. -/
def onArm (n : BitVec 16) : State := onLink { lkUp with finjctl := 0x0001_0002_0000_0001, finjcnt := n }
/-- The hypotheses of IntegerArithmetic are met. -/
theorem witness_integer_arithmetic :
    (∃ o : OpA, ((Instr.absd o).wellFormed = true)) :=
  ⟨oa (.v 0) (.v 1) (.v 2) .none, (by first | decide +kernel | exact rfl)⟩

/-- The hypotheses of Moves are met. -/
theorem witness_moves :
    (∃ o : OpA, ∃ s : State, ∃ g : Group, (s.group? s.cur.key = some g) ∧ ((s.cur.lanes ≠ 0) ∧ (((s.low g Forms.movxMs 0 (.a o) 2).psn = none)))) ∧
    (∃ o : OpA, ∃ s : State, ∃ g : Group, (s.group? s.cur.key = some g) ∧ ((s.cur.lanes ≠ 0) ∧ (((s.low g Forms.movxWs 0 (.a o) 2).psn = none)))) ∧
    (∃ s : State, ∃ g : Group, (s.group? s.cur.key = some g) ∧ ((s.cur.lanes = 0))) ∧
    (∃ o : OpA, ∃ s : State, ∃ g : Group, ∃ p, (s.group? s.cur.key = some g) ∧ ((s.cur.lanes ≠ 0) ∧ (((s.low g Forms.movxMs 0 (.a o) 2).psn = some p)))) ∧
    (∃ o : OpA, ∃ s : State, ∃ g : Group, ∃ p, (s.group? s.cur.key = some g) ∧ ((s.cur.lanes ≠ 0) ∧ (((s.low g Forms.movxWs 0 (.a o) 2).psn = some p)))) :=
  ⟨⟨oa (.m 1) (.s 0) .none .none, ⟨on gp 3, ⟨gp, ⟨(by first | decide +kernel | exact rfl), ⟨(by first | decide +kernel | exact rfl), (by first | decide +kernel | exact rfl)⟩⟩⟩⟩⟩,
   ⟨oa (.w 15) (.s 63) .none .none, ⟨on gp 3, ⟨gp, ⟨(by first | decide +kernel | exact rfl), ⟨(by first | decide +kernel | exact rfl), (by first | decide +kernel | exact rfl)⟩⟩⟩⟩⟩,
   ⟨on gp 0, ⟨gp, ⟨(by first | decide +kernel | exact rfl), (by first | decide +kernel | exact rfl)⟩⟩⟩,
   ⟨oa (.m 1) (.s 62) .none .none, ⟨on gpPs 3, ⟨gpPs, ⟨3, ⟨(by first | decide +kernel | exact rfl), ⟨(by first | decide +kernel | exact rfl), (by first | decide +kernel | exact rfl)⟩⟩⟩⟩⟩⟩,
   ⟨oa (.w 15) (.s 62) .none .none, ⟨on gpPs 3, ⟨gpPs, ⟨3, ⟨(by first | decide +kernel | exact rfl), ⟨(by first | decide +kernel | exact rfl), (by first | decide +kernel | exact rfl)⟩⟩⟩⟩⟩⟩⟩

/-- The hypotheses of BufferRecordReads are met. -/
theorem witness_buffer_record_reads :
    (∃ o : OpM, ∃ s : State, ∃ g : Group, ∃ g0 : Group, (s.group? s.cur.key = some g) ∧ ((s.viewsFor (g.advance s.cur) o.data = .ok g0) ∧ ((Sel.within o.data 2 = true) ∧ ((isUniform o.aux = false) ∧ (((g.bAt o.brec.toNat).extractLsb' 0 2 = 0)))))) ∧
    (∃ o : OpM, ∃ s : State, ∃ g : Group, ∃ l : Nat, (s.group? s.cur.key = some g) ∧ ((lowest s.cur.lanes = some l) ∧ (((g.bAt o.brec.toNat).extractLsb' 0 2 ≠ 0)))) :=
  ⟨⟨om (.v 254) 0 (.v 2) (.p 6), ⟨on gp 3, ⟨gp, ⟨gp.advance (on gp 3).cur, ⟨(by first | decide +kernel | exact rfl), ⟨(by first | decide +kernel | exact rfl), ⟨(by first | decide +kernel | exact rfl), ⟨(by first | decide +kernel | exact rfl), (by first | decide +kernel | exact rfl)⟩⟩⟩⟩⟩⟩⟩⟩,
   ⟨om (.v 0) 1 .none .none, ⟨on gpB 3, ⟨gpB, ⟨0, ⟨(by first | decide +kernel | exact rfl), ⟨(by first | decide +kernel | exact rfl), (by first | decide +kernel | exact rfl)⟩⟩⟩⟩⟩⟩⟩

/-- The hypotheses of Approximations are met. -/
theorem witness_approximations :
    (∃ m : Nat, (m ≠ 0)) ∧
    (∃ k : Int, (-4096 < k) ∧ ((k < 4096))) :=
  ⟨⟨1, (by first | decide +kernel | exact rfl)⟩,
   ⟨-4095, ⟨(by first | decide +kernel | exact rfl), (by first | decide +kernel | exact rfl)⟩⟩⟩

/-- The hypotheses of RoundingIsExactOnTheFormat are met. -/
theorem witness_rounding_is_exact_on_the_format :
    (∃ f, f ∈ [FFmt.f32, FFmt.bf16, FFmt.f16, FFmt.e4m3, FFmt.e5m2, FFmt.e3m2, FFmt.e2m3, FFmt.e2m1] ∧ (∃ n : Nat, (n < 2 ^ (f.signBit + 1)) ∧ ((FV.isNan (f.value false n) = false)))) :=
  ⟨FFmt.f32, ⟨(by first | decide +kernel | exact rfl), ⟨1, ⟨(by first | decide +kernel | exact rfl), (by first | decide +kernel | exact rfl)⟩⟩⟩⟩

/-- The hypotheses of ReductionIsTheSum are met. -/
theorem witness_reduction_is_the_sum :
    (∃ r : Rnd, (r.sat = false)) :=
  ⟨(gp.rndOf (oa (.v 0) (.v 1) .none .none)), (by first | decide +kernel | exact rfl)⟩

/-- The hypotheses of Transfers are met. -/
theorem witness_transfers :
    (∃ s : State, ∃ g : Group, (s.group? s.cur.key = some g)) ∧
    (∃ s : State, ∃ g : Group, (s.group? s.cur.key = some g)) ∧
    (∃ o : OpC, ∃ s : State, ∃ g : Group, (s.group? s.cur.key = some g) ∧ ((∀ l ∈ lanesOf s.cur.lanes, (s.readSel g o.sa 0 l).psn = none ∧ (s.readSel g o.sa 1 l).psn = none))) ∧
    (∃ o : OpC, ∃ s : State, ∃ g : Group, (s.group? s.cur.key = some g) ∧ ((unpoisoned s g o.sa) ∧ ((0 < votes s g o.sa)))) ∧
    (∃ o : OpC, ∃ s : State, ∃ g : Group, (s.group? s.cur.key = some g) ∧ ((unpoisoned s g o.sa) ∧ ((votes s g o.sa = 0)))) ∧
    (∃ o : OpC, ∃ s : State, ∃ g : Group, (s.group? s.cur.key = some g) ∧ ((unpoisoned s g o.sa) ∧ ((s.cur.lanes ≠ 0) ∧ ((votes s g o.sa = (lanesOf s.cur.lanes).length))))) ∧
    (∃ o : OpC, ∃ s : State, ∃ g : Group, (s.group? s.cur.key = some g) ∧ ((unpoisoned s g o.sa) ∧ ((votes s g o.sa < (lanesOf s.cur.lanes).length)))) ∧
    (∃ o : OpC, ∃ s : State, ∃ g : Group, (s.group? s.cur.key = some g) ∧ ((unpoisoned s g o.sa) ∧ ((s.cur.lanes ≠ 0) ∧ ((votes s g o.sa = 0))))) ∧
    (∃ i : Instr, ∃ o : OpC, ∃ s : State, ∃ g : Group, ∃ p : Nat, (i = .brvAny o ∨ i = .brvAll o ∨ i = .brvNone o) ∧ ((s.group? s.cur.key = some g) ∧ (((lanesOf s.cur.lanes).findSome? (fun l => (s.sourceP g o.sa l).psn) = some p)))) ∧
    (∃ i : Instr, ∃ o : OpC, ∃ s : State, ∃ g : Group, ∃ p : Nat, (i = .brvAny o ∨ i = .brvAll o ∨ i = .brvNone o) ∧ ((s.group? s.cur.key = some g) ∧ (((lanesOf s.cur.lanes).findSome? (fun l => (s.sourceP g o.sa l).psn) = some p)))) ∧
    (∃ i : Instr, ∃ o : OpC, ∃ s : State, ∃ g : Group, ∃ p : Nat, (i = .brvAny o ∨ i = .brvAll o ∨ i = .brvNone o) ∧ ((s.group? s.cur.key = some g) ∧ (((lanesOf s.cur.lanes).findSome? (fun l => (s.sourceP g o.sa l).psn) = some p)))) ∧
    (∃ i : Instr, ∃ o : OpC, ∃ s : State, ∃ g : Group, ∃ p : Nat, (i = .brx o ∨ i = .callx o) ∧ ((s.group? s.cur.key = some g) ∧ ((pairPsn s g o.sa = some p)))) ∧
    (∃ i : Instr, ∃ o : OpC, ∃ s : State, ∃ g : Group, ∃ p : Nat, (i = .brx o ∨ i = .callx o) ∧ ((s.group? s.cur.key = some g) ∧ ((pairPsn s g o.sa = some p)))) :=
  ⟨⟨on gp 3, ⟨gp, (by first | decide +kernel | exact rfl)⟩⟩,
   ⟨on gp 3, ⟨gp, (by first | decide +kernel | exact rfl)⟩⟩,
   ⟨oc .none .none (.s 62) .none, ⟨on gp 3, ⟨gp, ⟨(by first | decide +kernel | exact rfl), (by first | decide +kernel | exact rfl)⟩⟩⟩⟩,
   ⟨oc .none .none (.p 7) .none, ⟨on gp 3, ⟨gp, ⟨(by first | decide +kernel | exact rfl), ⟨(by unfold unpoisoned; decide +kernel), (by first | decide +kernel | exact rfl)⟩⟩⟩⟩⟩,
   ⟨oc .none .none (.p 0) .none, ⟨on gp 3, ⟨gp, ⟨(by first | decide +kernel | exact rfl), ⟨(by unfold unpoisoned; decide +kernel), (by first | decide +kernel | exact rfl)⟩⟩⟩⟩⟩,
   ⟨oc .none .none (.p 7) .none, ⟨on gp 3, ⟨gp, ⟨(by first | decide +kernel | exact rfl), ⟨(by unfold unpoisoned; decide +kernel), ⟨(by first | decide +kernel | exact rfl), (by first | decide +kernel | exact rfl)⟩⟩⟩⟩⟩⟩,
   ⟨oc .none .none (.p 0) .none, ⟨on gp 3, ⟨gp, ⟨(by first | decide +kernel | exact rfl), ⟨(by unfold unpoisoned; decide +kernel), (by first | decide +kernel | exact rfl)⟩⟩⟩⟩⟩,
   ⟨oc .none .none (.p 0) .none, ⟨on gp 3, ⟨gp, ⟨(by first | decide +kernel | exact rfl), ⟨(by unfold unpoisoned; decide +kernel), ⟨(by first | decide +kernel | exact rfl), (by first | decide +kernel | exact rfl)⟩⟩⟩⟩⟩⟩,
   ⟨.brvAny (oc .none .none (.p 0) .none), ⟨oc .none .none (.p 0) .none, ⟨on gpPsn 3, ⟨gpPsn, ⟨7, ⟨(Or.inl rfl), ⟨(by first | decide +kernel | exact rfl), (by first | decide +kernel | exact rfl)⟩⟩⟩⟩⟩⟩⟩,
   ⟨.brvAll (oc .none .none (.p 0) .none), ⟨oc .none .none (.p 0) .none, ⟨on gpPsn 3, ⟨gpPsn, ⟨7, ⟨(Or.inr (Or.inl rfl)), ⟨(by first | decide +kernel | exact rfl), (by first | decide +kernel | exact rfl)⟩⟩⟩⟩⟩⟩⟩,
   ⟨.brvNone (oc .none .none (.p 0) .none), ⟨oc .none .none (.p 0) .none, ⟨on gpPsn 3, ⟨gpPsn, ⟨7, ⟨(Or.inr (Or.inr rfl)), ⟨(by first | decide +kernel | exact rfl), (by first | decide +kernel | exact rfl)⟩⟩⟩⟩⟩⟩⟩,
   ⟨.brx (oc .none .none (.s 62) .none), ⟨oc .none .none (.s 62) .none, ⟨on gpPs 3, ⟨gpPs, ⟨3, ⟨(Or.inl rfl), ⟨(by first | decide +kernel | exact rfl), (by first | decide +kernel | exact rfl)⟩⟩⟩⟩⟩⟩⟩,
   ⟨.callx (oc .none .none (.s 62) .none), ⟨oc .none .none (.s 62) .none, ⟨on gpPs 3, ⟨gpPs, ⟨3, ⟨(Or.inr rfl), ⟨(by first | decide +kernel | exact rfl), (by first | decide +kernel | exact rfl)⟩⟩⟩⟩⟩⟩⟩⟩

/-- The hypotheses of CallsAndReturns are met. -/
theorem witness_calls_and_returns :
    (∃ o : OpC, ∃ s : State, ∃ g : Group, (s.group? s.cur.key = some g) ∧ (((s.block? g.blk).isSome) ∧ ((∀ l ∈ lanesOf s.cur.lanes, (g.lane l).stk.length < 16) ∧ ((targetsOk s g true (fun _ => directTo s.cur.pc o) = true))))) ∧
    (∃ o : OpC, ∃ s : State, ∃ g : Group, (s.group? s.cur.key = some g) ∧ (((s.block? g.blk).isSome) ∧ ((∀ l ∈ lanesOf s.cur.lanes, (g.lane l).stk.length < 16) ∧ ((∀ l ∈ lanesOf s.cur.lanes, (s.readSel g o.sa 0 l).psn = none ∧ (s.readSel g o.sa 1 l).psn = none) ∧ ((targetsOk s g true (fun l => (s.readSel g o.sa 1 l).bits ++ (s.readSel g o.sa 0 l).bits) = true)))))) ∧
    (∃ s : State, ∃ g : Group, (s.group? s.cur.key = some g) ∧ (((s.block? g.blk).isSome) ∧ ((∀ l ∈ lanesOf s.cur.lanes, (g.lane l).stk ≠ []) ∧ ((targetsOk s g false (fun l => (g.lane l).stk.getLastD 0) = true))))) ∧
    (∃ s : State, ∃ g : Group, ∃ l : Nat, (s.group? s.cur.key = some g) ∧ ((l ∈ lanesOf s.cur.lanes) ∧ (((g.lane l).stk = []) ∧ (((g.lane l).spc = 0))))) ∧
    (∃ o : OpC, ∃ s : State, ∃ g : Group, ∃ b : Block, ∃ accs : List Acc, ∃ t : State, (s.group? s.cur.key = some g) ∧ ((s.block? g.blk = some b) ∧ ((targetsOk s g true (fun _ => directTo s.cur.pc o) = true) ∧ (let full := (lanesOf s.cur.lanes).filter (fun l => decide (16 ≤ (g.lane l).stk.length))
      ((s.putGroup s.cur.key (g.advance s.cur)).formAccs s.cur.core b (Brec.of (g.bAt 15)) true .write false 8 (full.map (fun l => (l, (32 * (g.lane l).spc + l) % 2 ^ 32))) = ([], accs, t)) ∧ ((g.twin = none) ∧ ((accs ≠ []) ∧ ((∀ a ∈ accs, a.fail = none) ∧ ((accs.find? (t.deniedTo b) = none))))))))) ∧
    (∃ s : State, ∃ g : Group, ∃ b : Block, ∃ l : Nat, ∃ a : Acc, ∃ t : State, (s.group? s.cur.key = some g) ∧ ((s.block? g.blk = some b) ∧ ((lanesOf s.cur.lanes = [l]) ∧ (((g.lane l).stk = []) ∧ ((0 < (g.lane l).spc) ∧ ((s.formAccs s.cur.core b (Brec.of (g.bAt 15)) true .read false 8 [(l, (32 * ((g.lane l).spc - 1) + l) % 2 ^ 32)] = ([], [a], t)) ∧ ((a.lane = l) ∧ ((a.n = 8) ∧ ((a.st = .todo) ∧ ((a.fail = none) ∧ ((a.scale = none) ∧ ((s.denied b.region a.loc = false) ∧ ((s.eccIn a.loc 8 = false) ∧ ((s.targetOk s.cur.core (s.fetchRoot g) false (BitVec.ofNat 64 (s.numAt a.loc 8)) = true))))))))))))))) :=
  ⟨⟨oc .none .none .none .none, ⟨onR gp 3, ⟨gp, ⟨(by first | decide +kernel | exact rfl), ⟨(by first | decide +kernel | exact rfl), ⟨(by first | decide +kernel | exact rfl), (by first | decide +kernel | exact rfl)⟩⟩⟩⟩⟩⟩,
   ⟨oc .none .none (.v 0) .none, ⟨onR gp 3, ⟨gp, ⟨(by first | decide +kernel | exact rfl), ⟨(by first | decide +kernel | exact rfl), ⟨(by first | decide +kernel | exact rfl), ⟨(by first | decide +kernel | exact rfl), (by first | decide +kernel | exact rfl)⟩⟩⟩⟩⟩⟩⟩,
   ⟨onR gpStk 3, ⟨gpStk, ⟨(by first | decide +kernel | exact rfl), ⟨(by first | decide +kernel | exact rfl), ⟨(by first | decide +kernel | exact rfl), (by first | decide +kernel | exact rfl)⟩⟩⟩⟩⟩,
   ⟨on gp 3, ⟨gp, ⟨1, ⟨(by first | decide +kernel | exact rfl), ⟨(by first | decide +kernel | exact rfl), ⟨(by first | decide +kernel | exact rfl), (by first | decide +kernel | exact rfl)⟩⟩⟩⟩⟩⟩,
   ⟨oc .none .none .none .none, ⟨onR gpFull 1, ⟨gpFull, ⟨bk, ⟨((onR gpFull 1).putGroup 0 (gpFull.advance (onR gpFull 1).cur)).formAccs 0 bk (Brec.of recW) true .write false 8 [(0, 0)] |>.2.1, ⟨((onR gpFull 1).putGroup 0 (gpFull.advance (onR gpFull 1).cur)).formAccs 0 bk (Brec.of recW) true .write false 8 [(0, 0)] |>.2.2, ⟨(by first | decide +kernel | exact rfl), ⟨(by first | decide +kernel | exact rfl), ⟨(by first | decide +kernel | exact rfl), ⟨(by first | decide +kernel | exact rfl), ⟨(by first | decide +kernel | exact rfl), ⟨(by first | decide +kernel | exact rfl), ⟨(by first | decide +kernel | exact rfl), (by first | decide +kernel | exact rfl)⟩⟩⟩⟩⟩⟩⟩⟩⟩⟩⟩⟩⟩,
   ⟨onR gpRet 1, ⟨gpRet, ⟨bk, ⟨0, ⟨retA, ⟨retF.2.2, ⟨(by first | decide +kernel | exact rfl), ⟨(by first | decide +kernel | exact rfl), ⟨(by first | decide +kernel | exact rfl), ⟨(by first | decide +kernel | exact rfl), ⟨(by first | decide +kernel | exact rfl), ⟨(Prod.ext (by decide +kernel) (Prod.ext (by decide +kernel) rfl)), ⟨(by first | decide +kernel | exact rfl), ⟨(by first | decide +kernel | exact rfl), ⟨(by first | decide +kernel | exact rfl), ⟨(by first | decide +kernel | exact rfl), ⟨(by first | decide +kernel | exact rfl), ⟨(by first | decide +kernel | exact rfl), ⟨(by first | decide +kernel | exact rfl), (by first | decide +kernel | exact rfl)⟩⟩⟩⟩⟩⟩⟩⟩⟩⟩⟩⟩⟩⟩⟩⟩⟩⟩⟩⟩

/-- The hypotheses of Joins are met. -/
theorem witness_joins :
    (∃ s : State, ∃ g : Group, (s.group? s.cur.key = some g)) ∧
    (∃ s : State, ∃ key : Nat, ∃ g : Group, (s.group? key = some g)) :=
  ⟨⟨on gp 3, ⟨gp, (by first | decide +kernel | exact rfl)⟩⟩,
   ⟨on gpJoin 3, ⟨0, ⟨gpJoin, (by first | decide +kernel | exact rfl)⟩⟩⟩⟩

/-- The hypotheses of BatonPassing are met. -/
theorem witness_baton_passing :
    (∃ i : Instr, ∃ o : OpC, ∃ s : State, ∃ g : Group, (i = .pass o ∨ i = .passAny o) ∧ ((s.group? s.cur.key = some g) ∧ ((s.cur.lanes = 0)))) ∧
    (∃ i : Instr, ∃ o : OpC, ∃ s : State, ∃ g : Group, (i = .pass o ∨ i = .passAny o) ∧ ((s.group? s.cur.key = some g) ∧ ((s.cur.lanes = 0)))) ∧
    (∃ o : OpC, ∃ s : State, ∃ g : Group, ∃ g0 : Group, ∃ v : Val, (PassReady o s g g0 v 4)) ∧
    (∃ o : OpC, ∃ s : State, ∃ g : Group, ∃ g0 : Group, ∃ v : Val, (PassReady o s g g0 v 4)) ∧
    (∃ o : OpC, ∃ s : State, ∃ g : Group, ∃ g0 : Group, ∃ v : Val, (PassReady o s g g0 v 16) ∧ ((g.baton = none))) ∧
    (∃ o : OpC, ∃ s : State, ∃ g : Group, ∃ g0 : Group, ∃ v : Val, (PassReady o s g g0 v 16) ∧ ((g.baton.isSome) ∧ ((∀ k < 16, v.bits.getLsbD k = true → outcome s s.cur.key k ≠ 0)))) ∧
    (∃ o : OpC, ∃ s : State, ∃ g : Group, ∃ g0 : Group, ∃ v : Val, (PassReady o s g g0 v 16) ∧ (∃ k : Nat, k < 16 ∧ ((v.bits.getLsbD k = true) ∧ ((outcome s s.cur.key k = 0) ∧ ((∀ j < 16, v.bits.getLsbD j = true → outcome s s.cur.key j = 0 → rankOf s s.cur.key k ≤ rankOf s s.cur.key j)))))) ∧
    (∃ i : Instr, ∃ o : OpC, ∃ w : Nat, ∃ s : State, ∃ g : Group, ∃ v : Val, ((i = .pass o ∧ w = 4) ∨ (i = .passAny o ∧ w = 16)) ∧ ((s.group? s.cur.key = some g) ∧ ((s.cur.lanes ≠ 0) ∧ ((s.successor g o.sa (o.ldisp.extractLsb' 0 16).toNat = some v) ∧ (∃ p : Nat, (v.psn = some p)))))) ∧
    (∃ i : Instr, ∃ o : OpC, ∃ w : Nat, ∃ s : State, ∃ g : Group, ∃ v : Val, ((i = .pass o ∧ w = 4) ∨ (i = .passAny o ∧ w = 16)) ∧ ((s.group? s.cur.key = some g) ∧ ((s.cur.lanes ≠ 0) ∧ ((s.successor g o.sa (o.ldisp.extractLsb' 0 16).toNat = some v) ∧ ((v.psn = none) ∧ ((2 ^ w ≤ v.bits.toNat))))))) ∧
    (∃ i : Instr, ∃ o : OpC, ∃ w : Nat, ∃ s : State, ∃ g : Group, ∃ v : Val, ((i = .pass o ∧ w = 4) ∨ (i = .passAny o ∧ w = 16)) ∧ ((s.group? s.cur.key = some g) ∧ ((s.cur.lanes ≠ 0) ∧ ((s.successor g o.sa (o.ldisp.extractLsb' 0 16).toNat = some v) ∧ ((v.psn = none) ∧ ((2 ^ w ≤ v.bits.toNat))))))) ∧
    (∃ i : Instr, ∃ o : OpC, ∃ w : Nat, ∃ s : State, ∃ g : Group, ∃ v : Val, ((i = .pass o ∧ w = 4) ∨ (i = .passAny o ∧ w = 16)) ∧ ((s.group? s.cur.key = some g) ∧ ((s.cur.lanes ≠ 0) ∧ ((s.successor g o.sa (o.ldisp.extractLsb' 0 16).toNat = some v) ∧ (∃ p : Nat, (v.psn = none) ∧ ((v.bits.toNat < 2 ^ w) ∧ (((lanesOf s.cur.lanes).findSome? (fun l => (carriedBy o).findSome? (fun r => (s.readV g r l).psn)) = some p)))))))) :=
  ⟨⟨.pass (oc .none .none (.s 0) .none), ⟨oc .none .none (.s 0) .none, ⟨on gp 0, ⟨gp, ⟨(Or.inl rfl), ⟨(by first | decide +kernel | exact rfl), (by first | decide +kernel | exact rfl)⟩⟩⟩⟩⟩⟩,
   ⟨.passAny (oc .none .none (.s 0) .none), ⟨oc .none .none (.s 0) .none, ⟨on gp 0, ⟨gp, ⟨(Or.inr rfl), ⟨(by first | decide +kernel | exact rfl), (by first | decide +kernel | exact rfl)⟩⟩⟩⟩⟩⟩,
   ⟨oc .none .none (.s 0) .none, ⟨on2 gpS gpTo, ⟨gpS, ⟨gpS.advance (on2 gpS gpTo).cur, ⟨⟨15, none⟩, ⟨by decide +kernel, by decide +kernel, by decide +kernel, by exact rfl, rfl, by decide +kernel, carry_of (by decide +kernel), Or.inr rfl, Or.inr rfl, by exact rfl⟩⟩⟩⟩⟩⟩,
   ⟨oc (.p 1) (.s 63) (.s 0) (.v 3), ⟨on2 gpS gpTo, ⟨gpS, ⟨vf (on2 gpS gpTo) gpS (.s 63), ⟨⟨15, none⟩, ⟨by decide +kernel, by decide +kernel, by decide +kernel, by exact rfl, rfl, by decide +kernel, carry_of (by decide +kernel), Or.inl ⟨_, rfl, by decide⟩, Or.inl ⟨_, rfl⟩, by exact rfl⟩⟩⟩⟩⟩⟩,
   ⟨oc .none .none (.s 0) .none, ⟨on gpNb 3, ⟨gpNb, ⟨gpNb.advance (on gpNb 3).cur, ⟨⟨15, none⟩, ⟨⟨by decide +kernel, by decide +kernel, by decide +kernel, by exact rfl, rfl, by decide +kernel, carry_of (by decide +kernel), Or.inr rfl, Or.inr rfl, by exact rfl⟩, (by first | decide +kernel | exact rfl)⟩⟩⟩⟩⟩⟩,
   ⟨oc .none .none (.s 0) .none, ⟨on gp 3, ⟨gp, ⟨gp.advance (on gp 3).cur, ⟨⟨0, none⟩, ⟨⟨by decide +kernel, by decide +kernel, by decide +kernel, by exact rfl, rfl, by decide +kernel, carry_of (by decide +kernel), Or.inr rfl, Or.inr rfl, by exact rfl⟩, ⟨(by first | decide +kernel | exact rfl), (by first | decide +kernel | exact rfl)⟩⟩⟩⟩⟩⟩⟩,
   ⟨oc (.p 1) (.s 63) (.s 0) (.v 3), ⟨on2 gpSA gpTo, ⟨gpSA, ⟨vf (on2 gpSA gpTo) gpSA (.s 63), ⟨⟨0x8000, none⟩, ⟨⟨by decide +kernel, by decide +kernel, by decide +kernel, by exact rfl, rfl, by decide +kernel, carry_of (by decide +kernel), Or.inl ⟨_, rfl, by decide⟩, Or.inl ⟨_, rfl⟩, by exact rfl⟩, ⟨15, ⟨(by first | decide +kernel | exact rfl), ⟨(by first | decide +kernel | exact rfl), ⟨(by first | decide +kernel | exact rfl), (by first | decide +kernel | exact rfl)⟩⟩⟩⟩⟩⟩⟩⟩⟩⟩,
   ⟨.pass (oc .none .none (.s 0) .none), ⟨oc .none .none (.s 0) .none, ⟨4, ⟨on gpSp 3, ⟨gpSp, ⟨⟨0, some 3⟩, ⟨(Or.inl ⟨rfl, rfl⟩), ⟨(by first | decide +kernel | exact rfl), ⟨(by first | decide +kernel | exact rfl), ⟨(by exact rfl), ⟨3, (by first | decide +kernel | exact rfl)⟩⟩⟩⟩⟩⟩⟩⟩⟩⟩⟩,
   ⟨.pass (oc .none .none (.s 0) .none), ⟨oc .none .none (.s 0) .none, ⟨4, ⟨on gpS16 3, ⟨gpS16, ⟨⟨16, none⟩, ⟨(Or.inl ⟨rfl, rfl⟩), ⟨(by first | decide +kernel | exact rfl), ⟨(by first | decide +kernel | exact rfl), ⟨(by exact rfl), ⟨(by first | decide +kernel | exact rfl), (by first | decide +kernel | exact rfl)⟩⟩⟩⟩⟩⟩⟩⟩⟩⟩⟩,
   ⟨.passAny (oc .none .none (.s 0) .none), ⟨oc .none .none (.s 0) .none, ⟨16, ⟨on gpBig 3, ⟨gpBig, ⟨⟨0x10000, none⟩, ⟨(Or.inr ⟨rfl, rfl⟩), ⟨(by first | decide +kernel | exact rfl), ⟨(by first | decide +kernel | exact rfl), ⟨(by exact rfl), ⟨(by first | decide +kernel | exact rfl), (by first | decide +kernel | exact rfl)⟩⟩⟩⟩⟩⟩⟩⟩⟩⟩⟩,
   ⟨.pass (oc .none .none (.s 0) (.v 3)), ⟨oc .none .none (.s 0) (.v 3), ⟨4, ⟨on gpVp 3, ⟨gpVp, ⟨⟨15, none⟩, ⟨(Or.inl ⟨rfl, rfl⟩), ⟨(by first | decide +kernel | exact rfl), ⟨(by first | decide +kernel | exact rfl), ⟨(by exact rfl), ⟨3, ⟨(by first | decide +kernel | exact rfl), ⟨(by first | decide +kernel | exact rfl), (by first | decide +kernel | exact rfl)⟩⟩⟩⟩⟩⟩⟩⟩⟩⟩⟩⟩⟩⟩

/-- The hypotheses of ParkAndExit are met. -/
theorem witness_park_and_exit :
    (∃ s : State, ∃ g : Group, (s.group? s.cur.key = some g) ∧ ((s.cur.lanes ≠ 0) ∧ (let h := (g.advance s.cur).onLanes s.cur.lanes (fun _ x => { x with parked := true })
      (h.eligible ≠ 0)))) ∧
    (∃ s : State, ∃ g : Group, (s.group? s.cur.key = some g) ∧ ((s.cur.lanes ≠ 0) ∧ (let h := (g.advance s.cur).onLanes s.cur.lanes (fun _ x => { x with parked := true })
      ∃ n, (h.eligible = 0) ∧ ((g.baton = some n))))) ∧
    (∃ s : State, ∃ g : Group, (s.group? s.cur.key = some g)) :=
  ⟨⟨on gp 3, ⟨gp, ⟨(by first | decide +kernel | exact rfl), ⟨(by first | decide +kernel | exact rfl), (by first | decide +kernel | exact rfl)⟩⟩⟩⟩,
   ⟨on gp 0xFFFFFFFF, ⟨gp, ⟨(by first | decide +kernel | exact rfl), ⟨(by first | decide +kernel | exact rfl), ⟨0, ⟨(by first | decide +kernel | exact rfl), (by first | decide +kernel | exact rfl)⟩⟩⟩⟩⟩⟩,
   ⟨on gp 3, ⟨gp, (by first | decide +kernel | exact rfl)⟩⟩⟩

/-- The hypotheses of Barriers are met. -/
theorem witness_barriers :
    (∃ lvl : BarLvl, ∃ o : OpC, ∃ s : State, ∃ g : Group, ∃ b : Block, (s.group? s.cur.key = some g) ∧ ((s.block? g.blk = some b) ∧ ((s.cur.lanes ≠ 0) ∧ (let u := s.putGroup s.cur.key (g.advance s.cur)
      let n := o.d1.num % 8
      let x := u.bar lvl s.cur.key g.blk n
      let ths := (lanesOf s.cur.lanes).map (threadNum lvl b g.idx)
      let y := { x with arrived := x.arrived ++ ths, last := ths.foldl (fun m th => m.put th (x.phase + 1)) x.last }
      let v := u.putBar lvl s.cur.key g.blk n y
      (∀ th ∈ ths, th ∉ x.arrived) ∧ ((v.bar lvl s.cur.key g.blk n = y)))))) ∧
    (∃ lvl : BarLvl, ∃ o : OpC, ∃ s : State, ∃ g : Group, ∃ b : Block, (s.group? s.cur.key = some g) ∧ ((s.block? g.blk = some b) ∧ ((s.cur.lanes ≠ 0) ∧ (let u := s.putGroup s.cur.key (g.advance s.cur)
      let n := o.d1.num % 8
      let x := u.bar lvl s.cur.key g.blk n
      let ths := (lanesOf s.cur.lanes).map (threadNum lvl b g.idx)
      let y := { x with arrived := x.arrived ++ ths, last := ths.foldl (fun m th => m.put th (x.phase + 1)) x.last }
      (∃ th ∈ ths, th ∈ x.arrived))))) ∧
    (∃ o : OpC, ∃ s : State, ∃ g : Group, ∃ b : Block, (s.group? s.cur.key = some g) ∧ ((s.block? g.blk = some b) ∧ ((s.cur.lanes ≠ 0) ∧ ((∀ w, s.successor g o.sa (o.ldisp.extractLsb' 0 16).toNat = some w → w.psn = none ∧ w.bits.toNat < 16))))) ∧
    (∃ lvl : BarLvl, ∃ o : OpC, ∃ s : State, ∃ g : Group, ∃ b : Block, ∃ v : Option Val, (s.group? s.cur.key = some g) ∧ ((s.block? g.blk = some b) ∧ ((s.cur.lanes ≠ 0) ∧ ((s.successor g o.sa (o.ldisp.extractLsb' 0 16).toNat = v) ∧ ((∀ w, v = some w → w.psn = none ∧ w.bits.toNat < 16) ∧ (let u := s.putGroup s.cur.key (g.advance s.cur)
      let n := o.d1.num % 8
      let x := u.bar lvl s.cur.key g.blk n
      let ths := (lanesOf s.cur.lanes).map (threadNum lvl b g.idx)
      let y := { x with arrived := x.arrived ++ ths, last := ths.foldl (fun m th => m.put th (x.phase + 1)) x.last }
      let w := u.putBar lvl s.cur.key g.blk n y
      (∀ th ∈ ths, th ∉ x.arrived) ∧ ((w.bar lvl s.cur.key g.blk n = y)))))))) ∧
    (∃ lvl : BarLvl, ∃ o : OpC, ∃ s : State, ∃ g : Group, ∃ b : Block, ∃ v : Option Val, (s.group? s.cur.key = some g) ∧ ((s.block? g.blk = some b) ∧ ((s.cur.lanes ≠ 0) ∧ ((s.successor g o.sa (o.ldisp.extractLsb' 0 16).toNat = v) ∧ ((∀ w, v = some w → w.psn = none ∧ w.bits.toNat < 16) ∧ (let u := s.putGroup s.cur.key (g.advance s.cur)
      let n := o.d1.num % 8
      let x := u.bar lvl s.cur.key g.blk n
      let ths := (lanesOf s.cur.lanes).map (threadNum lvl b g.idx)
      let y := { x with arrived := x.arrived ++ ths, last := ths.foldl (fun m th => m.put th (x.phase + 1)) x.last }
      let w := u.putBar lvl s.cur.key g.blk n y
      (∀ th ∈ ths, th ∉ x.arrived) ∧ ((w.bar lvl s.cur.key g.blk n = y)))))))) ∧
    (∃ lvl : BarLvl, ∃ o : OpC, ∃ s : State, ∃ g : Group, ∃ b : Block, ∃ v : Option Val, (s.group? s.cur.key = some g) ∧ ((s.block? g.blk = some b) ∧ ((s.cur.lanes ≠ 0) ∧ ((s.successor g o.sa (o.ldisp.extractLsb' 0 16).toNat = v) ∧ ((∀ w, v = some w → w.psn = none ∧ w.bits.toNat < 16) ∧ (let u := s.putGroup s.cur.key (g.advance s.cur)
      let n := o.d1.num % 8
      let x := u.bar lvl s.cur.key g.blk n
      let ths := (lanesOf s.cur.lanes).map (threadNum lvl b g.idx)
      let y := { x with arrived := x.arrived ++ ths, last := ths.foldl (fun m th => m.put th (x.phase + 1)) x.last }
      (∃ th ∈ ths, th ∈ x.arrived))))))) ∧
    (∃ i : Instr, ∃ lvl : BarLvl, ∃ o : OpC, ∃ s : State, ∃ g : Group, ∃ v : Val, (i = .barWait lvl o ∨ i = .barSync lvl o) ∧ ((s.group? s.cur.key = some g) ∧ (((s.block? g.blk).isSome) ∧ ((s.cur.lanes ≠ 0) ∧ ((s.successor g o.sa (o.ldisp.extractLsb' 0 16).toNat = some v) ∧ (∃ p : Nat, (v.psn = some p))))))) ∧
    (∃ i : Instr, ∃ lvl : BarLvl, ∃ o : OpC, ∃ s : State, ∃ g : Group, ∃ v : Val, (i = .barWait lvl o ∨ i = .barSync lvl o) ∧ ((s.group? s.cur.key = some g) ∧ (((s.block? g.blk).isSome) ∧ ((s.cur.lanes ≠ 0) ∧ ((s.successor g o.sa (o.ldisp.extractLsb' 0 16).toNat = some v) ∧ (∃ p : Nat, (v.psn = some p))))))) ∧
    (∃ i : Instr, ∃ lvl : BarLvl, ∃ o : OpC, ∃ s : State, ∃ g : Group, ∃ v : Val, (i = .barWait lvl o ∨ i = .barSync lvl o) ∧ ((s.group? s.cur.key = some g) ∧ (((s.block? g.blk).isSome) ∧ ((s.cur.lanes ≠ 0) ∧ ((s.successor g o.sa (o.ldisp.extractLsb' 0 16).toNat = some v) ∧ ((v.psn = none) ∧ ((16 ≤ v.bits.toNat)))))))) ∧
    (∃ i : Instr, ∃ lvl : BarLvl, ∃ o : OpC, ∃ s : State, ∃ g : Group, ∃ v : Val, (i = .barWait lvl o ∨ i = .barSync lvl o) ∧ ((s.group? s.cur.key = some g) ∧ (((s.block? g.blk).isSome) ∧ ((s.cur.lanes ≠ 0) ∧ ((s.successor g o.sa (o.ldisp.extractLsb' 0 16).toNat = some v) ∧ ((v.psn = none) ∧ ((16 ≤ v.bits.toNat)))))))) ∧
    (∃ s : State, ∃ key : Nat, ∃ blk : Nat, ∃ g : Group, ∃ b : Block, ∃ c : Block, (s.group? key = some g) ∧ ((s.block? blk = some b) ∧ ((s.block? g.blk = some c) ∧ ((s.groups.sorted = true))))) :=
  ⟨⟨.blk, ⟨oc (.v 7) .none .none .none, ⟨on gp 3, ⟨gp, ⟨bk, ⟨(by first | decide +kernel | exact rfl), ⟨(by first | decide +kernel | exact rfl), ⟨(by first | decide +kernel | exact rfl), ⟨(by first | decide +kernel | exact rfl), (by first | decide +kernel | exact rfl)⟩⟩⟩⟩⟩⟩⟩⟩⟩,
   ⟨.blk, ⟨oc (.v 7) .none .none .none, ⟨onBar, ⟨gp, ⟨bkBar, ⟨(by first | decide +kernel | exact rfl), ⟨(by first | decide +kernel | exact rfl), ⟨(by first | decide +kernel | exact rfl), (by first | decide +kernel | exact rfl)⟩⟩⟩⟩⟩⟩⟩⟩,
   ⟨oc (.v 7) .none .none .none, ⟨on gp 3, ⟨gp, ⟨bk, ⟨(by first | decide +kernel | exact rfl), ⟨(by first | decide +kernel | exact rfl), ⟨(by first | decide +kernel | exact rfl), (by intro w hw; exact absurd hw (by exact fun h => by cases h))⟩⟩⟩⟩⟩⟩⟩,
   ⟨.blk, ⟨oc (.v 7) .none .none .none, ⟨on gp 3, ⟨gp, ⟨bk, ⟨none, ⟨(by first | decide +kernel | exact rfl), ⟨(by first | decide +kernel | exact rfl), ⟨(by first | decide +kernel | exact rfl), ⟨rfl, ⟨(by intro w hw; cases hw), ⟨(by first | decide +kernel | exact rfl), (by first | decide +kernel | exact rfl)⟩⟩⟩⟩⟩⟩⟩⟩⟩⟩⟩⟩,
   ⟨.grp, ⟨oc (.v 7) .none (.s 0) .none, ⟨on gpS 3, ⟨gpS, ⟨bk, ⟨some ⟨15, none⟩, ⟨(by first | decide +kernel | exact rfl), ⟨(by first | decide +kernel | exact rfl), ⟨(by first | decide +kernel | exact rfl), ⟨(by exact rfl), ⟨(by intro w hw; cases hw; decide), ⟨(by first | decide +kernel | exact rfl), (by first | decide +kernel | exact rfl)⟩⟩⟩⟩⟩⟩⟩⟩⟩⟩⟩⟩,
   ⟨.blk, ⟨oc (.v 7) .none .none .none, ⟨onBar, ⟨gp, ⟨bkBar, ⟨none, ⟨(by first | decide +kernel | exact rfl), ⟨(by first | decide +kernel | exact rfl), ⟨(by first | decide +kernel | exact rfl), ⟨rfl, ⟨(by intro w hw; cases hw), (by first | decide +kernel | exact rfl)⟩⟩⟩⟩⟩⟩⟩⟩⟩⟩⟩,
   ⟨.barWait .blk (oc .none .none (.s 0) .none), ⟨.blk, ⟨oc .none .none (.s 0) .none, ⟨on gpSp 3, ⟨gpSp, ⟨⟨0, some 3⟩, ⟨(Or.inl rfl), ⟨(by first | decide +kernel | exact rfl), ⟨(by first | decide +kernel | exact rfl), ⟨(by first | decide +kernel | exact rfl), ⟨(by exact rfl), ⟨3, (by first | decide +kernel | exact rfl)⟩⟩⟩⟩⟩⟩⟩⟩⟩⟩⟩⟩,
   ⟨.barSync .grid (oc .none .none (.s 0) .none), ⟨.grid, ⟨oc .none .none (.s 0) .none, ⟨on gpSp 3, ⟨gpSp, ⟨⟨0, some 3⟩, ⟨(Or.inr rfl), ⟨(by first | decide +kernel | exact rfl), ⟨(by first | decide +kernel | exact rfl), ⟨(by first | decide +kernel | exact rfl), ⟨(by exact rfl), ⟨3, (by first | decide +kernel | exact rfl)⟩⟩⟩⟩⟩⟩⟩⟩⟩⟩⟩⟩,
   ⟨.barWait .blk (oc .none .none (.s 0) .none), ⟨.blk, ⟨oc .none .none (.s 0) .none, ⟨on gpS16 3, ⟨gpS16, ⟨⟨16, none⟩, ⟨(Or.inl rfl), ⟨(by first | decide +kernel | exact rfl), ⟨(by first | decide +kernel | exact rfl), ⟨(by first | decide +kernel | exact rfl), ⟨(by exact rfl), ⟨(by first | decide +kernel | exact rfl), (by first | decide +kernel | exact rfl)⟩⟩⟩⟩⟩⟩⟩⟩⟩⟩⟩⟩,
   ⟨.barSync .nbh (oc .none .none (.s 0) .none), ⟨.nbh, ⟨oc .none .none (.s 0) .none, ⟨on gpS16 3, ⟨gpS16, ⟨⟨16, none⟩, ⟨(Or.inr rfl), ⟨(by first | decide +kernel | exact rfl), ⟨(by first | decide +kernel | exact rfl), ⟨(by first | decide +kernel | exact rfl), ⟨(by exact rfl), ⟨(by first | decide +kernel | exact rfl), (by first | decide +kernel | exact rfl)⟩⟩⟩⟩⟩⟩⟩⟩⟩⟩⟩⟩,
   ⟨on gp 3, ⟨0, ⟨0, ⟨gp, ⟨bk, ⟨bk, ⟨(by first | decide +kernel | exact rfl), ⟨(by first | decide +kernel | exact rfl), ⟨(by first | decide +kernel | exact rfl), (by first | decide +kernel | exact rfl)⟩⟩⟩⟩⟩⟩⟩⟩⟩⟩

/-- The hypotheses of Futures are met. -/
theorem witness_futures :
    (∃ o : OpM, ∃ s : State, ∃ g : Group, ∃ b : Block, ∃ a : Acc, ∃ l : Nat, (s.group? s.cur.key = some g) ∧ ((s.block? g.blk = some b) ∧ ((lanesOf s.cur.lanes = [l]) ∧ (((s.index g o l).psn = none) ∧ (((s.putGroup s.cur.key (g.advance s.cur)).formAccs s.cur.core b (Brec.of (g.bAt o.brec.toNat)) ((Brec.of (g.bAt o.brec.toNat)).oobf == 1) .read true 4 [(l, ((s.index g o l).bits + memImm o).toNat)] = ([], [a], s.putGroup s.cur.key (g.advance s.cur))) ∧ ((a.lane = l) ∧ ((a.st = .todo) ∧ ((a.fail = none) ∧ ((s.denied b.region a.loc = false) ∧ ((s.isFull a.loc = false) ∧ ((g.futh.getLsbD 0 = false)))))))))))) ∧
    (∃ o : OpM, ∃ s : State, ∃ g : Group, ∃ b : Block, ∃ a : Acc, ∃ l : Nat, (s.group? s.cur.key = some g) ∧ ((s.block? g.blk = some b) ∧ ((lanesOf s.cur.lanes = [l]) ∧ (((s.index g o l).psn = none) ∧ (((s.putGroup s.cur.key (g.advance s.cur)).formAccs s.cur.core b (Brec.of (g.bAt o.brec.toNat)) ((Brec.of (g.bAt o.brec.toNat)).oobf == 1) .read true 4 [(l, ((s.index g o l).bits + memImm o).toNat)] = ([], [a], s.putGroup s.cur.key (g.advance s.cur))) ∧ ((a.lane = l) ∧ ((a.st = .todo) ∧ ((a.fail = none) ∧ ((s.denied b.region a.loc = false) ∧ ((s.isFull a.loc = false) ∧ ((g.futh.getLsbD 0 = true) ∧ ((g.futpc.getLsbD 0 = true) ∧ ((g.hlanes.getLsbD l = true)))))))))))))) ∧
    (∃ o : OpM, ∃ s : State, ∃ g : Group, ∃ b : Block, ∃ a : Acc, ∃ l : Nat, (s.group? s.cur.key = some g) ∧ ((s.block? g.blk = some b) ∧ ((lanesOf s.cur.lanes = [l]) ∧ (((s.index g o l).psn = none) ∧ (((s.putGroup s.cur.key (g.advance s.cur)).formAccs s.cur.core b (Brec.of (g.bAt o.brec.toNat)) ((Brec.of (g.bAt o.brec.toNat)).oobf == 1) .read true 4 [(l, ((s.index g o l).bits + memImm o).toNat)] = ([], [a], s.putGroup s.cur.key (g.advance s.cur))) ∧ ((a.lane = l) ∧ ((a.st = .todo) ∧ ((a.fail = none) ∧ ((s.denied b.region a.loc = false) ∧ ((s.isFull a.loc = false) ∧ ((g.futh.getLsbD 0 = true) ∧ ((g.futpc.getLsbD 0 = true) ∧ ((g.hlanes.getLsbD l = false)))))))))))))) ∧
    (∃ o : OpM, ∃ s : State, ∃ g : Group, ∃ b : Block, ∃ a : Acc, ∃ l : Nat, (s.group? s.cur.key = some g) ∧ ((s.block? g.blk = some b) ∧ ((lanesOf s.cur.lanes = [l]) ∧ (((s.index g o l).psn = none) ∧ (((s.putGroup s.cur.key (g.advance s.cur)).formAccs s.cur.core b (Brec.of (g.bAt o.brec.toNat)) ((Brec.of (g.bAt o.brec.toNat)).oobf == 1) .read true 4 [(l, ((s.index g o l).bits + memImm o).toNat)] = ([], [a], s.putGroup s.cur.key (g.advance s.cur))) ∧ ((a.lane = l) ∧ ((a.st = .todo) ∧ ((a.fail = none) ∧ ((s.denied b.region a.loc = false) ∧ ((s.isFull a.loc = false) ∧ ((g.futh.getLsbD 0 = true) ∧ ((g.futpc.getLsbD 0 = false) ∧ ((s.targetOk s.cur.core (s.fetchRoot g) true (g.futh &&& ~~~3) = true)))))))))))))) ∧
    (∃ o : OpM, ∃ s : State, ∃ g : Group, ∃ b : Block, ∃ a : Acc, ∃ l : Nat, (s.group? s.cur.key = some g) ∧ ((s.block? g.blk = some b) ∧ ((lanesOf s.cur.lanes = [l]) ∧ (((s.index g o l).psn = none) ∧ (((s.putGroup s.cur.key (g.advance s.cur)).formAccs s.cur.core b (Brec.of (g.bAt o.brec.toNat)) ((Brec.of (g.bAt o.brec.toNat)).oobf == 1) .read true 4 [(l, ((s.index g o l).bits + memImm o).toNat)] = ([], [a], s.putGroup s.cur.key (g.advance s.cur))) ∧ ((a.lane = l) ∧ ((a.st = .todo) ∧ ((a.fail = none) ∧ ((s.isFull a.loc = true)))))))))) ∧
    (∃ s : State, ∃ g : Group, (s.group? s.cur.key = some g) ∧ (((s.block? g.blk).isSome) ∧ ((s.cur.lanes ≠ 0) ∧ ((g.futpc.getLsbD 0 = true) ∧ ((s.cur.lanes = g.hlanes) ∧ ((targetsOk s g false (fun _ => g.futpc &&& ~~~1) = true) ∧ ((∀ l ∈ lanesOf g.live, (g.lane l).wait ≠ .future)))))))) ∧
    (∃ s : State, ∃ g : Group, (s.group? s.cur.key = some g) ∧ ((s.cur.lanes ≠ 0) ∧ ((g.futpc.getLsbD 0 = false)))) ∧
    (∃ i : Instr, ∃ s : State, ∃ g : Group, (i = .tret ∨ i = .tretW) ∧ ((s.group? s.cur.key = some g) ∧ ((g.futpc.getLsbD 0 = true) ∧ ((s.cur.lanes &&& ~~~g.hlanes ≠ 0))))) ∧
    (∃ i : Instr, ∃ s : State, ∃ g : Group, (i = .tret ∨ i = .tretW) ∧ ((s.group? s.cur.key = some g) ∧ ((g.futpc.getLsbD 0 = true) ∧ ((s.cur.lanes &&& ~~~g.hlanes ≠ 0))))) ∧
    (∃ s : State, ∃ g : Group, (s.group? s.cur.key = some g) ∧ (((s.block? g.blk).isSome) ∧ ((s.cur.lanes ≠ 0) ∧ ((g.futpc.getLsbD 0 = true) ∧ ((s.cur.lanes = g.hlanes) ∧ ((targetsOk s g false (fun _ => g.futpc &&& ~~~1) = true))))))) :=
  ⟨⟨om (.v 0) 0 .none .none, ⟨onEmpty gp, ⟨gp, ⟨bk, ⟨{ lane := 0, ga := 0x8000000000000000, loc := sramLoc 0 0, n := 4 }, ⟨0, ⟨(by first | decide +kernel | exact rfl), ⟨(by first | decide +kernel | exact rfl), ⟨(by first | decide +kernel | exact rfl), ⟨(by first | decide +kernel | exact rfl), ⟨(by first | decide +kernel | exact rfl), ⟨(by first | decide +kernel | exact rfl), ⟨(by first | decide +kernel | exact rfl), ⟨(by first | decide +kernel | exact rfl), ⟨(by first | decide +kernel | exact rfl), ⟨(by first | decide +kernel | exact rfl), (by first | decide +kernel | exact rfl)⟩⟩⟩⟩⟩⟩⟩⟩⟩⟩⟩⟩⟩⟩⟩⟩,
   ⟨om (.v 0) 0 .none .none, ⟨onEmpty gpNest, ⟨gpNest, ⟨bk, ⟨{ lane := 0, ga := 0x8000000000000000, loc := sramLoc 0 0, n := 4 }, ⟨0, ⟨(by first | decide +kernel | exact rfl), ⟨(by first | decide +kernel | exact rfl), ⟨(by first | decide +kernel | exact rfl), ⟨(by first | decide +kernel | exact rfl), ⟨(by first | decide +kernel | exact rfl), ⟨(by first | decide +kernel | exact rfl), ⟨(by first | decide +kernel | exact rfl), ⟨(by first | decide +kernel | exact rfl), ⟨(by first | decide +kernel | exact rfl), ⟨(by first | decide +kernel | exact rfl), ⟨(by first | decide +kernel | exact rfl), ⟨(by first | decide +kernel | exact rfl), (by first | decide +kernel | exact rfl)⟩⟩⟩⟩⟩⟩⟩⟩⟩⟩⟩⟩⟩⟩⟩⟩⟩⟩,
   ⟨om (.v 0) 0 .none .none, ⟨onEmpty gpNest2, ⟨gpNest2, ⟨bk, ⟨{ lane := 0, ga := 0x8000000000000000, loc := sramLoc 0 0, n := 4 }, ⟨0, ⟨(by first | decide +kernel | exact rfl), ⟨(by first | decide +kernel | exact rfl), ⟨(by first | decide +kernel | exact rfl), ⟨(by first | decide +kernel | exact rfl), ⟨(by first | decide +kernel | exact rfl), ⟨(by first | decide +kernel | exact rfl), ⟨(by first | decide +kernel | exact rfl), ⟨(by first | decide +kernel | exact rfl), ⟨(by first | decide +kernel | exact rfl), ⟨(by first | decide +kernel | exact rfl), ⟨(by first | decide +kernel | exact rfl), ⟨(by first | decide +kernel | exact rfl), (by first | decide +kernel | exact rfl)⟩⟩⟩⟩⟩⟩⟩⟩⟩⟩⟩⟩⟩⟩⟩⟩⟩⟩,
   ⟨om (.v 0) 0 .none .none, ⟨onEmpty gpFut, ⟨gpFut, ⟨bk, ⟨{ lane := 0, ga := 0x8000000000000000, loc := sramLoc 0 0, n := 4 }, ⟨0, ⟨(by first | decide +kernel | exact rfl), ⟨(by first | decide +kernel | exact rfl), ⟨(by first | decide +kernel | exact rfl), ⟨(by first | decide +kernel | exact rfl), ⟨(by first | decide +kernel | exact rfl), ⟨(by first | decide +kernel | exact rfl), ⟨(by first | decide +kernel | exact rfl), ⟨(by first | decide +kernel | exact rfl), ⟨(by first | decide +kernel | exact rfl), ⟨(by first | decide +kernel | exact rfl), ⟨(by first | decide +kernel | exact rfl), ⟨(by first | decide +kernel | exact rfl), (by first | decide +kernel | exact rfl)⟩⟩⟩⟩⟩⟩⟩⟩⟩⟩⟩⟩⟩⟩⟩⟩⟩⟩,
   ⟨om (.v 0) 0 .none .none, ⟨on gp 1, ⟨gp, ⟨bk, ⟨{ lane := 0, ga := 0x8000000000000000, loc := sramLoc 0 0, n := 4 }, ⟨0, ⟨(by first | decide +kernel | exact rfl), ⟨(by first | decide +kernel | exact rfl), ⟨(by first | decide +kernel | exact rfl), ⟨(by first | decide +kernel | exact rfl), ⟨(by first | decide +kernel | exact rfl), ⟨(by first | decide +kernel | exact rfl), ⟨(by first | decide +kernel | exact rfl), ⟨(by first | decide +kernel | exact rfl), (by first | decide +kernel | exact rfl)⟩⟩⟩⟩⟩⟩⟩⟩⟩⟩⟩⟩⟩⟩,
   ⟨onR gpHand 3, ⟨gpHand, ⟨(by first | decide +kernel | exact rfl), ⟨(by first | decide +kernel | exact rfl), ⟨(by first | decide +kernel | exact rfl), ⟨(by first | decide +kernel | exact rfl), ⟨(by first | decide +kernel | exact rfl), ⟨(by first | decide +kernel | exact rfl), (by first | decide +kernel | exact rfl)⟩⟩⟩⟩⟩⟩⟩⟩,
   ⟨on gp 3, ⟨gp, ⟨(by first | decide +kernel | exact rfl), ⟨(by first | decide +kernel | exact rfl), (by first | decide +kernel | exact rfl)⟩⟩⟩⟩,
   ⟨.tret, ⟨onR gpHand 7, ⟨gpHand, ⟨(Or.inl rfl), ⟨(by first | decide +kernel | exact rfl), ⟨(by first | decide +kernel | exact rfl), (by first | decide +kernel | exact rfl)⟩⟩⟩⟩⟩⟩,
   ⟨.tretW, ⟨onR gpHand 7, ⟨gpHand, ⟨(Or.inr rfl), ⟨(by first | decide +kernel | exact rfl), ⟨(by first | decide +kernel | exact rfl), (by first | decide +kernel | exact rfl)⟩⟩⟩⟩⟩⟩,
   ⟨onR gpHand 3, ⟨gpHand, ⟨(by first | decide +kernel | exact rfl), ⟨(by first | decide +kernel | exact rfl), ⟨(by first | decide +kernel | exact rfl), ⟨(by first | decide +kernel | exact rfl), ⟨(by first | decide +kernel | exact rfl), (by first | decide +kernel | exact rfl)⟩⟩⟩⟩⟩⟩⟩⟩

/-- The hypotheses of LoadsIssue are met. -/
theorem witness_loads_issue :
    (∃ o : OpM, ∃ s : State, ∃ g : Group, ∃ b : Block, ∃ accs : List Acc, ∃ t : State, ∃ g0 : Group, (Issues s g b) ∧ ((s.cur.lanes ≠ 0) ∧ ((o.aux = .none) ∧ ((s.viewsFor (g.advance s.cur) o.data = .ok g0) ∧ ((∀ l ∈ lanesOf s.cur.lanes, (s.index g o l).psn = none) ∧ ((Formed s g b o .read true false (memBytes Forms.ldwE o) accs t) ∧ ((accs ≠ []) ∧ ((∀ a ∈ accs, a.fail ≠ some Cause.memunc))))))))) :=
  ⟨om (.v 0) 0 .none .none, ⟨on gp 1, ⟨gp, ⟨bk, ⟨[{ lane := 0, ga := 0x8000000000000000, loc := sramLoc 0 0, n := 4 }], ⟨issuing (on gp 1) gp, ⟨gp.advance (on gp 1).cur, ⟨⟨rfl, rfl, rfl⟩, ⟨(by first | decide +kernel | exact rfl), ⟨(by first | decide +kernel | exact rfl), ⟨(by first | decide +kernel | exact rfl), ⟨(by first | decide +kernel | exact rfl), ⟨(by unfold Formed; decide +kernel), ⟨(by first | decide +kernel | exact rfl), (by first | decide +kernel | exact rfl)⟩⟩⟩⟩⟩⟩⟩⟩⟩⟩⟩⟩⟩⟩

/-- The hypotheses of FormattedLoad are met. -/
theorem witness_formatted_load :
    (∃ o : OpM, ∃ s : State, ∃ g : Group, ∃ b : Block, ∃ l : Nat, ∃ x : Xlate, ∃ t1 : State, (Issues s g b) ∧ ((lanesOf s.cur.lanes = [l]) ∧ (((s.index g o l).psn = none) ∧ (let r := Brec.of (g.bAt o.brec.toNat)
      let idx := ((s.index g o l).bits + memImm o).toNat
      (r.res = 0) ∧ ((idx < r.extent.toNat) ∧ ((r.base.toNat % 256 = 0) ∧ ((r.base.extractLsb' 47 17 = 0) ∧ ((r.stride = 0) ∧ ((r.swz = 0) ∧ ((r.esz = 0) ∧ (((issuing s g).translate s.cur.core (s.rootOf b.launch) r.base.toNat .read = (.ok x, t1)) ∧ ((x.format = 0))))))))))))) ∧
    (∃ o : OpM, ∃ s : State, ∃ g : Group, ∃ b : Block, ∃ l : Nat, ∃ x : Xlate, ∃ t1 : State, ∃ t2 : State, ∃ a : Acc, (Issues s g b) ∧ ((lanesOf s.cur.lanes = [l]) ∧ (((s.index g o l).psn = none) ∧ (let r := Brec.of (g.bAt o.brec.toNat)
      let idx := ((s.index g o l).bits + memImm o).toNat
      (r.res = 0) ∧ ((idx < r.extent.toNat) ∧ ((r.base.toNat % 256 = 0) ∧ ((r.base.extractLsb' 47 17 = 0) ∧ ((r.stride = 0) ∧ ((r.swz = 0) ∧ ((r.esz = 0) ∧ (((issuing s g).translate s.cur.core (s.rootOf b.launch) r.base.toNat .read = (.ok x, t1)) ∧ ((x.format ≠ 0) ∧ ((t1.fmtAcc s.cur.core b r.base x.format l idx = (.ok a, t2)) ∧ ((a.fail ≠ some Cause.memunc))))))))))))))) :=
  ⟨⟨om (.v 0) 1 .none .none, ⟨onFmt 0, ⟨gpFmt, ⟨bk, ⟨0, ⟨xl (onFmt 0) gpFmt, ⟨xs (onFmt 0) gpFmt, ⟨⟨rfl, rfl, rfl⟩, ⟨(by first | decide +kernel | exact rfl), ⟨(by first | decide +kernel | exact rfl), ⟨(by first | decide +kernel | exact rfl), ⟨(by first | decide +kernel | exact rfl), ⟨(by first | decide +kernel | exact rfl), ⟨(by first | decide +kernel | exact rfl), ⟨(by first | decide +kernel | exact rfl), ⟨(by first | decide +kernel | exact rfl), ⟨(by first | decide +kernel | exact rfl), ⟨(by first | decide +kernel | exact rfl), (by first | decide +kernel | exact rfl)⟩⟩⟩⟩⟩⟩⟩⟩⟩⟩⟩⟩⟩⟩⟩⟩⟩⟩,
   ⟨om (.v 0) 1 .none .none, ⟨onFmt 0x44, ⟨gpFmt, ⟨bk, ⟨0, ⟨xl (onFmt 0x44) gpFmt, ⟨xs (onFmt 0x44) gpFmt, ⟨((xs (onFmt 0x44) gpFmt).fmtAcc 0 bk 0 17 0 0).2, ⟨fa, ⟨⟨rfl, rfl, rfl⟩, ⟨(by first | decide +kernel | exact rfl), ⟨(by first | decide +kernel | exact rfl), ⟨(by first | decide +kernel | exact rfl), ⟨(by first | decide +kernel | exact rfl), ⟨(by first | decide +kernel | exact rfl), ⟨(by first | decide +kernel | exact rfl), ⟨(by first | decide +kernel | exact rfl), ⟨(by first | decide +kernel | exact rfl), ⟨(by first | decide +kernel | exact rfl), ⟨(by first | decide +kernel | exact rfl), ⟨(by first | decide +kernel | exact rfl), ⟨(by first | decide +kernel | exact rfl), (by first | decide +kernel | exact rfl)⟩⟩⟩⟩⟩⟩⟩⟩⟩⟩⟩⟩⟩⟩⟩⟩⟩⟩⟩⟩⟩⟩⟩


/-- The hypotheses of Fences are met. -/
theorem witness_fences :
    (∃ s : State, ∃ g : Group, ∃ b : Block, (Issues s g b) ∧ ((s.cur.lanes ≠ 0))) ∧
    (∃ s : State, ∃ g : Group, (s.group? s.cur.key = some g) ∧ ((s.cur.lanes ≠ 0))) ∧
    (∃ s : State, ∃ g : Group, (s.group? s.cur.key = some g) ∧ ((s.cur.lanes ≠ 0))) :=
  ⟨⟨on gp 1, ⟨gp, ⟨bk, ⟨⟨rfl, rfl, rfl⟩, (by first | decide +kernel | exact rfl)⟩⟩⟩⟩,
   ⟨on gp 1, ⟨gp, ⟨(by first | decide +kernel | exact rfl), (by first | decide +kernel | exact rfl)⟩⟩⟩,
   ⟨on gp 1, ⟨gp, ⟨(by first | decide +kernel | exact rfl), (by first | decide +kernel | exact rfl)⟩⟩⟩⟩

/-- The hypotheses of LoadsPerform are met. -/
theorem witness_loads_perform :
    (∃ s : State, ∃ c : Nat, ∃ id : Nat, ∃ r : Req, ∃ a : Acc, (s.req? c id = some r) ∧ ((r.kind = .load) ∧ ((r.st = .queued) ∧ ((r.accs = [a]) ∧ ((a.st = .todo) ∧ ((a.fail = none) ∧ ((s.mayPerform c r = true) ∧ ((s.demandOf c r = []) ∧ ((s.eccIn a.loc a.n = false) ∧ ((a.scale = none) ∧ ((a.n ≠ 16) ∧ ((a.half = none))))))))))))) ∧
    (∃ s : State, ∃ c : Nat, ∃ id : Nat, ∃ r : Req, ∃ a : Acc, (s.req? c id = some r) ∧ ((r.kind = .load) ∧ ((r.st = .queued) ∧ ((r.accs = [a]) ∧ ((a.st = .todo) ∧ ((a.fail = none) ∧ ((s.mayPerform c r = true) ∧ ((s.demandOf c r = []) ∧ ((s.eccIn a.loc a.n = false) ∧ ((a.scale = none) ∧ ((a.n = 16) ∧ ((a.half = none) ∧ ((s.denied r.region a.loc = false)))))))))))))) ∧
    (∃ s : State, ∃ c : Nat, ∃ id : Nat, ∃ r : Req, ∃ a : Acc, (s.req? c id = some r) ∧ ((r.kind = .load) ∧ ((r.st = .queued) ∧ ((r.accs = [a]) ∧ ((a.st = .todo) ∧ ((a.fail = none) ∧ ((s.mayPerform c r = true) ∧ ((s.demandOf c r = []) ∧ ((s.eccIn a.loc a.n = false) ∧ ((a.scale = none) ∧ (∃ u : Bool, ∃ bs : List Byte, (a.n = 16) ∧ ((a.half = some (u, bs)) ∧ ((s.denied r.region a.loc = false)))))))))))))) ∧
    (∃ s : State, ∃ c : Nat, ∃ id : Nat, ∃ r : Req, ∃ a : Acc, ∃ d : BitVec 8, ∃ g : Group, (s.req? c id = some r) ∧ ((r.kind = .load) ∧ ((r.st = .done) ∧ ((r.accs = [a]) ∧ ((a.fail = none) ∧ ((a.n = 4) ∧ ((a.res.length = 4) ∧ ((r.dst = .v d) ∧ ((r.once = false) ∧ ((a.lane < 32) ∧ ((s.group? r.key = some g) ∧ ((g.blk = r.blk) ∧ (((g.lane a.lane).exited = false) ∧ ((r.cmpd = false) ∧ ((r.dead = false) ∧ ((s.banksFree r.key (r.fills r.accs) = true))))))))))))))))) :=
  ⟨⟨withReq (on gp 3) ({ id := 5, key := 0, blk := 0, region := 1, pc := 0, kind := .load, st := .queued, accs := [{ lane := 0, ga := 0x8000000000000000, loc := sramLoc 0 0, n := 4 }] }), ⟨0, ⟨5, ⟨{ id := 5, key := 0, blk := 0, region := 1, pc := 0, kind := .load, st := .queued, accs := [{ lane := 0, ga := 0x8000000000000000, loc := sramLoc 0 0, n := 4 }] }, ⟨{ lane := 0, ga := 0x8000000000000000, loc := sramLoc 0 0, n := 4 }, ⟨(by first | decide +kernel | exact rfl), ⟨(by first | decide +kernel | exact rfl), ⟨(by first | decide +kernel | exact rfl), ⟨(by first | decide +kernel | exact rfl), ⟨(by first | decide +kernel | exact rfl), ⟨(by first | decide +kernel | exact rfl), ⟨(by first | decide +kernel | exact rfl), ⟨(by first | decide +kernel | exact rfl), ⟨(by first | decide +kernel | exact rfl), ⟨(by first | decide +kernel | exact rfl), ⟨(by first | decide +kernel | exact rfl), (by first | decide +kernel | exact rfl)⟩⟩⟩⟩⟩⟩⟩⟩⟩⟩⟩⟩⟩⟩⟩⟩,
   ⟨withReq (on gp 3) ({ id := 5, key := 0, blk := 0, region := 1, pc := 0, kind := .load, st := .queued, accs := [{ lane := 0, ga := 0x8000000000000000, loc := sramLoc 0 0, n := 16 }] }), ⟨0, ⟨5, ⟨{ id := 5, key := 0, blk := 0, region := 1, pc := 0, kind := .load, st := .queued, accs := [{ lane := 0, ga := 0x8000000000000000, loc := sramLoc 0 0, n := 16 }] }, ⟨{ lane := 0, ga := 0x8000000000000000, loc := sramLoc 0 0, n := 16 }, ⟨(by first | decide +kernel | exact rfl), ⟨(by first | decide +kernel | exact rfl), ⟨(by first | decide +kernel | exact rfl), ⟨(by first | decide +kernel | exact rfl), ⟨(by first | decide +kernel | exact rfl), ⟨(by first | decide +kernel | exact rfl), ⟨(by first | decide +kernel | exact rfl), ⟨(by first | decide +kernel | exact rfl), ⟨(by first | decide +kernel | exact rfl), ⟨(by first | decide +kernel | exact rfl), ⟨(by first | decide +kernel | exact rfl), ⟨(by first | decide +kernel | exact rfl), (by first | decide +kernel | exact rfl)⟩⟩⟩⟩⟩⟩⟩⟩⟩⟩⟩⟩⟩⟩⟩⟩⟩,
   ⟨withReq (on gp 3) ({ id := 5, key := 0, blk := 0, region := 1, pc := 0, kind := .load, st := .queued, accs := [{ lane := 0, ga := 0x8000000000000000, loc := sramLoc 0 0, n := 16, half := some (true, [1, 2, 3, 4, 5, 6, 7, 8]) }] }), ⟨0, ⟨5, ⟨{ id := 5, key := 0, blk := 0, region := 1, pc := 0, kind := .load, st := .queued, accs := [{ lane := 0, ga := 0x8000000000000000, loc := sramLoc 0 0, n := 16, half := some (true, [1, 2, 3, 4, 5, 6, 7, 8]) }] }, ⟨{ lane := 0, ga := 0x8000000000000000, loc := sramLoc 0 0, n := 16, half := some (true, [1, 2, 3, 4, 5, 6, 7, 8]) }, ⟨(by first | decide +kernel | exact rfl), ⟨(by first | decide +kernel | exact rfl), ⟨(by first | decide +kernel | exact rfl), ⟨(by first | decide +kernel | exact rfl), ⟨(by first | decide +kernel | exact rfl), ⟨(by first | decide +kernel | exact rfl), ⟨(by first | decide +kernel | exact rfl), ⟨(by first | decide +kernel | exact rfl), ⟨(by first | decide +kernel | exact rfl), ⟨(by first | decide +kernel | exact rfl), ⟨true, ⟨[1, 2, 3, 4, 5, 6, 7, 8], ⟨(by first | decide +kernel | exact rfl), ⟨(by first | decide +kernel | exact rfl), (by first | decide +kernel | exact rfl)⟩⟩⟩⟩⟩⟩⟩⟩⟩⟩⟩⟩⟩⟩⟩⟩⟩⟩⟩,
   ⟨withReq (on gp 3) ({ id := 5, key := 0, blk := 0, region := 1, pc := 0, kind := .load, st := .done, accs := [{ lane := 0, ga := 0x8000000000000000, loc := sramLoc 0 0, n := 4, st := .done, res := [1, 2, 3, 4] }], dst := .v 255 }), ⟨0, ⟨5, ⟨{ id := 5, key := 0, blk := 0, region := 1, pc := 0, kind := .load, st := .done, accs := [{ lane := 0, ga := 0x8000000000000000, loc := sramLoc 0 0, n := 4, st := .done, res := [1, 2, 3, 4] }], dst := .v 255 }, ⟨{ lane := 0, ga := 0x8000000000000000, loc := sramLoc 0 0, n := 4, st := .done, res := [1, 2, 3, 4] }, ⟨255, ⟨gp, ⟨(by first | decide +kernel | exact rfl), ⟨(by first | decide +kernel | exact rfl), ⟨(by first | decide +kernel | exact rfl), ⟨(by first | decide +kernel | exact rfl), ⟨(by first | decide +kernel | exact rfl), ⟨(by first | decide +kernel | exact rfl), ⟨(by first | decide +kernel | exact rfl), ⟨(by first | decide +kernel | exact rfl), ⟨(by first | decide +kernel | exact rfl), ⟨(by first | decide +kernel | exact rfl), ⟨(by first | decide +kernel | exact rfl), ⟨(by first | decide +kernel | exact rfl), ⟨(by first | decide +kernel | exact rfl), ⟨(by first | decide +kernel | exact rfl), ⟨(by first | decide +kernel | exact rfl), (by first | decide +kernel | exact rfl)⟩⟩⟩⟩⟩⟩⟩⟩⟩⟩⟩⟩⟩⟩⟩⟩⟩⟩⟩⟩⟩⟩⟩

/-- The hypotheses of StoresPerform are met. -/
theorem witness_stores_perform :
    (∃ s : State, ∃ c : Nat, ∃ id : Nat, ∃ r : Req, ∃ a : Acc, (s.req? c id = some r) ∧ ((r.kind = .store) ∧ ((r.st = .queued) ∧ ((r.accs = [a]) ∧ ((a.st = .todo) ∧ ((a.entry = false) ∧ ((a.data.length = a.n) ∧ ((s.mayPerform c r = true) ∧ ((s.demandOf c r = []) ∧ ((s.denied r.region a.loc = false) ∧ ((∀ d, (s.die d).remap = []) ∧ ((a.n ≠ 16))))))))))))) ∧
    (∃ s : State, ∃ c : Nat, ∃ id : Nat, ∃ r : Req, ∃ a : Acc, (s.req? c id = some r) ∧ ((r.kind = .store) ∧ ((r.st = .queued) ∧ ((r.accs = [a]) ∧ ((a.st = .todo) ∧ ((a.entry = false) ∧ ((a.data.length = a.n) ∧ ((s.mayPerform c r = true) ∧ ((s.demandOf c r = []) ∧ ((s.denied r.region a.loc = false) ∧ ((∀ d, (s.die d).remap = []) ∧ ((a.n = 16) ∧ ((a.half = none)))))))))))))) ∧
    (∃ s : State, ∃ c : Nat, ∃ id : Nat, ∃ r : Req, ∃ a : Acc, (s.req? c id = some r) ∧ ((r.kind = .store) ∧ ((r.st = .queued) ∧ ((r.accs = [a]) ∧ ((a.st = .todo) ∧ ((a.entry = false) ∧ ((a.data.length = a.n) ∧ ((s.mayPerform c r = true) ∧ ((s.demandOf c r = []) ∧ ((s.denied r.region a.loc = false) ∧ ((∀ d, (s.die d).remap = []) ∧ (∃ u : Bool, ∃ bs : List Byte, (a.n = 16) ∧ ((a.half = some (u, bs))))))))))))))) ∧
    (∃ s : State, ∃ m : Master, ∃ pa : Nat, ∃ n : Nat, ∃ place : Nat, (s.acts m = true) ∧ ((s.waitsBehind (.bus m pa place (.read n)) = false) ∧ ((pa + n ≤ 2 ^ 37)))) ∧
    (∃ s : State, ∃ m : Master, ∃ pa : Nat, ∃ n : Nat, ∃ place : Nat, (s.acts m = true) ∧ ((s.waitsBehind (.bus m pa place (.read n)) = false) ∧ ((pa + n ≤ 2 ^ 37)))) ∧
    (∃ s : State, ∃ m : Master, ∃ pa : Nat, ∃ place : Nat, ∃ x : Byte, ∃ rel : Bool, (s.acts m = true) ∧ ((s.waitsBehind (.bus m pa place (.write [x] rel)) = false) ∧ ((pa + 1 ≤ 2 ^ 37) ∧ ((s.frozen (dramLoc (s.hartPlace m pa place) pa) = false))))) ∧
    (∃ s : State, ∃ m : Master, ∃ pa : Nat, ∃ place : Nat, ∃ v : DWord, ∃ rel : Bool, (s.acts m = true) ∧ ((s.waitsBehind (.bus m pa place (.amoadd v rel)) = false) ∧ ((pa + 8 ≤ 2 ^ 37) ∧ ((s.frozen (dramLoc (s.hartPlace m pa place) pa) = false) ∧ ((∀ d, (s.die d).remap = [])))))) ∧
    (∃ s : State, ∃ m : Master, ∃ pa : Nat, ∃ place : Nat, ∃ o : BusOp, (s.acts m = true) ∧ ((s.waitsBehind (.bus m pa place o) = true ∨ (pa + o.size ≤ 2 ^ 37 ∧ o.writes = true ∧ s.frozen (dramLoc (s.hartPlace m pa place) pa) = true)))) :=
  ⟨⟨withReq (on gp 3) ({ id := 5, key := 0, blk := 0, region := 1, pc := 0, kind := .store, st := .queued, accs := [{ lane := 0, ga := 0x8000000000000000, loc := sramLoc 0 0, n := 4, data := [1, 2, 3, 4] }] }), ⟨0, ⟨5, ⟨{ id := 5, key := 0, blk := 0, region := 1, pc := 0, kind := .store, st := .queued, accs := [{ lane := 0, ga := 0x8000000000000000, loc := sramLoc 0 0, n := 4, data := [1, 2, 3, 4] }] }, ⟨{ lane := 0, ga := 0x8000000000000000, loc := sramLoc 0 0, n := 4, data := [1, 2, 3, 4] }, ⟨(by first | decide +kernel | exact rfl), ⟨(by first | decide +kernel | exact rfl), ⟨(by first | decide +kernel | exact rfl), ⟨(by first | decide +kernel | exact rfl), ⟨(by first | decide +kernel | exact rfl), ⟨(by first | decide +kernel | exact rfl), ⟨(by first | decide +kernel | exact rfl), ⟨(by first | decide +kernel | exact rfl), ⟨(by first | decide +kernel | exact rfl), ⟨(by first | decide +kernel | exact rfl), ⟨(remap_of _ rfl), (by first | decide +kernel | exact rfl)⟩⟩⟩⟩⟩⟩⟩⟩⟩⟩⟩⟩⟩⟩⟩⟩,
   ⟨withReq (on gp 3) ({ id := 5, key := 0, blk := 0, region := 1, pc := 0, kind := .store, st := .queued, accs := [{ lane := 0, ga := 0x8000000000000000, loc := sramLoc 0 0, n := 16, data := List.replicate 16 7 }] }), ⟨0, ⟨5, ⟨{ id := 5, key := 0, blk := 0, region := 1, pc := 0, kind := .store, st := .queued, accs := [{ lane := 0, ga := 0x8000000000000000, loc := sramLoc 0 0, n := 16, data := List.replicate 16 7 }] }, ⟨{ lane := 0, ga := 0x8000000000000000, loc := sramLoc 0 0, n := 16, data := List.replicate 16 7 }, ⟨(by first | decide +kernel | exact rfl), ⟨(by first | decide +kernel | exact rfl), ⟨(by first | decide +kernel | exact rfl), ⟨(by first | decide +kernel | exact rfl), ⟨(by first | decide +kernel | exact rfl), ⟨(by first | decide +kernel | exact rfl), ⟨(by first | decide +kernel | exact rfl), ⟨(by first | decide +kernel | exact rfl), ⟨(by first | decide +kernel | exact rfl), ⟨(by first | decide +kernel | exact rfl), ⟨(remap_of _ rfl), ⟨(by first | decide +kernel | exact rfl), (by first | decide +kernel | exact rfl)⟩⟩⟩⟩⟩⟩⟩⟩⟩⟩⟩⟩⟩⟩⟩⟩⟩,
   ⟨withReq (on gp 3) ({ id := 5, key := 0, blk := 0, region := 1, pc := 0, kind := .store, st := .queued, accs := [{ lane := 0, ga := 0x8000000000000000, loc := sramLoc 0 0, n := 16, data := List.replicate 16 7, half := some (true, [1, 2, 3, 4, 5, 6, 7, 8]) }] }), ⟨0, ⟨5, ⟨{ id := 5, key := 0, blk := 0, region := 1, pc := 0, kind := .store, st := .queued, accs := [{ lane := 0, ga := 0x8000000000000000, loc := sramLoc 0 0, n := 16, data := List.replicate 16 7, half := some (true, [1, 2, 3, 4, 5, 6, 7, 8]) }] }, ⟨{ lane := 0, ga := 0x8000000000000000, loc := sramLoc 0 0, n := 16, data := List.replicate 16 7, half := some (true, [1, 2, 3, 4, 5, 6, 7, 8]) }, ⟨(by first | decide +kernel | exact rfl), ⟨(by first | decide +kernel | exact rfl), ⟨(by first | decide +kernel | exact rfl), ⟨(by first | decide +kernel | exact rfl), ⟨(by first | decide +kernel | exact rfl), ⟨(by first | decide +kernel | exact rfl), ⟨(by first | decide +kernel | exact rfl), ⟨(by first | decide +kernel | exact rfl), ⟨(by first | decide +kernel | exact rfl), ⟨(by first | decide +kernel | exact rfl), ⟨(remap_of _ rfl), ⟨true, ⟨[1, 2, 3, 4, 5, 6, 7, 8], ⟨(by first | decide +kernel | exact rfl), (by first | decide +kernel | exact rfl)⟩⟩⟩⟩⟩⟩⟩⟩⟩⟩⟩⟩⟩⟩⟩⟩⟩⟩⟩,
   ⟨onHart, ⟨.hart 31, ⟨0x1FFFFFFFFF, ⟨1, ⟨2, ⟨(by first | decide +kernel | exact rfl), ⟨(by first | decide +kernel | exact rfl), (by first | decide +kernel | exact rfl)⟩⟩⟩⟩⟩⟩⟩,
   ⟨State.reset, ⟨.firm 3, ⟨0, ⟨8, ⟨0, ⟨(by first | decide +kernel | exact rfl), ⟨(by first | decide +kernel | exact rfl), (by first | decide +kernel | exact rfl)⟩⟩⟩⟩⟩⟩⟩,
   ⟨onHart, ⟨.hart 31, ⟨0x1FFFFFFFFF, ⟨1, ⟨7, ⟨true, ⟨(by first | decide +kernel | exact rfl), ⟨(by first | decide +kernel | exact rfl), ⟨(by first | decide +kernel | exact rfl), (by first | decide +kernel | exact rfl)⟩⟩⟩⟩⟩⟩⟩⟩⟩,
   ⟨onHart, ⟨.hart 31, ⟨0, ⟨0, ⟨1, ⟨true, ⟨(by first | decide +kernel | exact rfl), ⟨(by first | decide +kernel | exact rfl), ⟨(by first | decide +kernel | exact rfl), ⟨(by first | decide +kernel | exact rfl), (remap_of _ rfl)⟩⟩⟩⟩⟩⟩⟩⟩⟩⟩,
   ⟨onParked, ⟨.hart 31, ⟨0, ⟨0, ⟨.read 4, ⟨(by first | decide +kernel | exact rfl), (Or.inl (by decide +kernel))⟩⟩⟩⟩⟩⟩⟩

/-- The hypotheses of InboundEntries are met. -/
theorem witness_inbound_entries :
    (∃ s : State, ∃ core : Nat, ∃ e : InEntry, ((s.core core).inq = [e]) ∧ ((e.copy = none) ∧ ((e.fill = false) ∧ ((e.data.length ≤ 32) ∧ ((s.denied e.region (sramLoc core e.addr) = false)))))) ∧
    (∃ s : State, ∃ core : Nat, ∃ e : InEntry, ((s.core core).inq = [e]) ∧ ((e.copy = none) ∧ ((s.denied e.region (sramLoc core e.addr) = true)))) ∧
    (∃ s : State, ∃ src : Nat, ∃ tgt : Nat, (s.entriesOf src tgt < SMap.get 0 (s.core src).spent tgt)) ∧
    (∃ s : State, ∃ src : Nat, ∃ tgt : Nat, ∃ since : Nat, (SMap.get 0 (s.core src).granted tgt ≠ 0) ∧ ((((s.core src).unused tgt).getLast? = some since) ∧ ((since + 10240 ≤ s.now)))) ∧
    (∃ s : State, ∃ n : Notice, ∃ g : Group, (s.notices = [n]) ∧ (((s.block? n.blk).isSome) ∧ ((s.group? n.key = some g) ∧ ((g.blk = n.blk) ∧ ((g.exited = false) ∧ ((g.baton.isSome) ∧ ((g.eligible ≠ 0)))))))) ∧
    (∃ s : State, ∃ n : Notice, ∃ g : Group, (s.notices = [n]) ∧ (((s.block? n.blk).isSome) ∧ ((s.group? n.key = some g) ∧ ((g.exited = true))))) :=
  ⟨⟨withIn ({ id := 1, src := 3, key := 0, blk := 0, launch := 0, region := 1, addr := 0, ga := 0x9000000000000000, data := [some 7, none], fill := false }), ⟨0, ⟨{ id := 1, src := 3, key := 0, blk := 0, launch := 0, region := 1, addr := 0, ga := 0x9000000000000000, data := [some 7, none], fill := false }, ⟨(by first | decide +kernel | exact rfl), ⟨(by first | decide +kernel | exact rfl), ⟨(by first | decide +kernel | exact rfl), ⟨(by first | decide +kernel | exact rfl), (by first | decide +kernel | exact rfl)⟩⟩⟩⟩⟩⟩⟩,
   ⟨withIn ({ id := 1, src := 3, key := 0, blk := 0, launch := 0, region := 1, addr := 4096, ga := 0x9000000000000000, data := [some 7, none], fill := false }), ⟨0, ⟨{ id := 1, src := 3, key := 0, blk := 0, launch := 0, region := 1, addr := 4096, ga := 0x9000000000000000, data := [some 7, none], fill := false }, ⟨(by first | decide +kernel | exact rfl), ⟨(by first | decide +kernel | exact rfl), (by first | decide +kernel | exact rfl)⟩⟩⟩⟩⟩,
   ⟨withCredit, ⟨0, ⟨1, (by first | decide +kernel | exact rfl)⟩⟩⟩,
   ⟨withCredit, ⟨0, ⟨2, ⟨0, ⟨(by first | decide +kernel | exact rfl), ⟨(by first | decide +kernel | exact rfl), (by first | decide +kernel | exact rfl)⟩⟩⟩⟩⟩⟩,
   ⟨withNotice gp, ⟨nt, ⟨gp, ⟨(by first | decide +kernel | exact rfl), ⟨(by first | decide +kernel | exact rfl), ⟨(by first | decide +kernel | exact rfl), ⟨(by first | decide +kernel | exact rfl), ⟨(by first | decide +kernel | exact rfl), ⟨(by first | decide +kernel | exact rfl), (by first | decide +kernel | exact rfl)⟩⟩⟩⟩⟩⟩⟩⟩⟩,
   ⟨withNotice gpOut, ⟨nt, ⟨gpOut, ⟨(by first | decide +kernel | exact rfl), ⟨(by first | decide +kernel | exact rfl), ⟨(by first | decide +kernel | exact rfl), (by first | decide +kernel | exact rfl)⟩⟩⟩⟩⟩⟩⟩

/-- The hypotheses of FullEmptyWords are met. -/
theorem witness_full_empty_words :
    (∃ s : State, ∃ c : Nat, ∃ id : Nat, ∃ r : Req, ∃ a : Acc, ∃ g : Group, (s.req? c id = some r) ∧ ((r.kind = .ldwe) ∧ ((r.accs = [a]) ∧ ((a.st = .sleep) ∧ ((r.cmpd = false) ∧ ((r.dead = false) ∧ ((a.lane < 32) ∧ ((s.group? r.key = some g) ∧ ((g.blk = r.blk) ∧ (((g.lane a.lane).exited = false))))))))))) ∧
    (∃ s : State, ∃ c : Nat, ∃ id : Nat, ∃ r : Req, ∃ a : Acc, (s.req? c id = some r) ∧ ((r.kind = .ldwe) ∧ ((r.accs = [a]) ∧ ((a.st = .sleep) ∧ ((r.st ≠ .held) ∧ ((s.isFull a.loc = true) ∧ ((s.denied r.region a.loc = false) ∧ ((∀ x ∈ s.sleepersOn a.loc, x.2.2 = id ∨ a.stamp < x.1) ∧ ((s.eccIn a.loc a.n = false) ∧ ((a.n = 4) ∧ ((a.scale = none) ∧ ((a.half = none) ∧ ((r.promo.all (fun p => p.2 == .back) = true) ∧ ((s.demandOf c { r with accs := [{ a with st := .todo }] } = []))))))))))))))) ∧
    (∃ s : State, ∃ c : Nat, ∃ id : Nat, ∃ r : Req, ∃ a : Acc, (s.req? c id = some r) ∧ ((r.kind = .ldwe ∨ r.kind = .tretw) ∧ ((r.st = .queued) ∧ ((r.accs = [a]) ∧ ((a.st = .todo) ∧ ((a.n = 4) ∧ ((a.scale = none) ∧ ((a.half = none) ∧ ((r.cmpd = false) ∧ ((s.twinOf r.key = none) ∧ ((s.mayPerform c r = true) ∧ ((s.demandOf c r = []) ∧ ((s.denied r.region a.loc = false) ∧ ((s.isFull a.loc = false) ∧ ((s.sleepersAt (sramCore a.loc) < 256)))))))))))))))) ∧
    (∃ s : State, ∃ c : Nat, ∃ id : Nat, ∃ r : Req, ∃ a : Acc, (s.req? c id = some r) ∧ ((r.kind = .ldwe ∨ r.kind = .tretw) ∧ ((r.st = .queued) ∧ ((r.accs = [a]) ∧ ((a.st = .todo) ∧ ((a.n = 4) ∧ ((a.scale = none) ∧ ((a.half = none) ∧ ((r.cmpd = false) ∧ ((s.twinOf r.key = none) ∧ ((s.mayPerform c r = true) ∧ ((s.demandOf c r = []) ∧ ((s.denied r.region a.loc = false) ∧ ((s.isFull a.loc = false) ∧ ((s.sleepersAt (sramCore a.loc) < 256)))))))))))))))) ∧
    (∃ s : State, ∃ c : Nat, ∃ id : Nat, ∃ r : Req, ∃ a : Acc, (s.req? c id = some r) ∧ ((r.kind = .ldwe ∨ r.kind = .tretw) ∧ ((r.st = .queued) ∧ ((r.accs = [a]) ∧ ((a.st = .todo) ∧ ((a.n = 4) ∧ ((a.scale = none) ∧ ((a.half = none) ∧ ((r.cmpd = false) ∧ ((s.twinOf r.key = none) ∧ ((s.mayPerform c r = true) ∧ ((s.demandOf c r = []) ∧ ((s.denied r.region a.loc = false) ∧ ((s.isFull a.loc = false) ∧ ((256 ≤ s.sleepersAt (sramCore a.loc))))))))))))))))) ∧
    (∃ s : State, ∃ c : Nat, ∃ id : Nat, ∃ r : Req, ∃ a : Acc, (s.req? c id = some r) ∧ ((r.kind = .ldwe ∨ r.kind = .tretw) ∧ ((r.st = .queued) ∧ ((r.accs = [a]) ∧ ((a.st = .todo) ∧ ((a.n = 4) ∧ ((a.scale = none) ∧ ((a.half = none) ∧ ((r.cmpd = false) ∧ ((s.twinOf r.key = none) ∧ ((s.mayPerform c r = true) ∧ ((s.demandOf c r = []) ∧ ((s.denied r.region a.loc = false) ∧ ((s.isFull a.loc = true) ∧ ((s.eccIn a.loc 4 = false)))))))))))))))) ∧
    (∃ s : State, ∃ c : Nat, ∃ id : Nat, ∃ r : Req, ∃ a : Acc, (s.req? c id = some r) ∧ ((r.kind = .empty) ∧ ((r.st = .queued) ∧ ((r.accs = [a]) ∧ ((a.st = .todo) ∧ ((a.n = 4) ∧ ((s.mayPerform c r = true) ∧ ((s.demandOf c r = []) ∧ ((s.eccIn a.loc 4 = false)))))))))) ∧
    (∃ s : State, ∃ c : Nat, ∃ id : Nat, ∃ r : Req, ∃ a : Acc, (s.req? c id = some r) ∧ ((r.kind = .feget) ∧ ((r.st = .queued) ∧ ((r.accs = [a]) ∧ ((a.st = .todo) ∧ ((a.n = 4) ∧ ((a.scale = none) ∧ ((a.half = none) ∧ ((s.mayPerform c r = true) ∧ ((s.demandOf c r = []) ∧ ((s.denied r.region a.loc = false) ∧ ((s.eccIn a.loc 4 = false))))))))))))) ∧
    (∃ s : State, ∃ c : Nat, ∃ id : Nat, ∃ r : Req, ∃ a : Acc, (s.req? c id = some r) ∧ ((r.kind = .fill) ∧ ((r.st = .queued) ∧ ((r.accs = [a]) ∧ ((a.st = .todo) ∧ ((a.n = 4) ∧ ((a.entry = false) ∧ ((a.data.length = 4) ∧ ((isSram a.loc = true) ∧ ((a.loc % 4 = 0) ∧ ((s.mayPerform c r = true) ∧ ((s.demandOf c r = []) ∧ ((s.denied r.region a.loc = false)))))))))))))) :=
  ⟨⟨withReq (on gp 3) ({ id := 5, key := 0, blk := 0, region := 1, pc := 0, kind := .ldwe, st := .done, accs := [{ lane := 0, ga := 0x8000000000000000, loc := sramLoc 0 0, n := 4, st := .sleep }] }), ⟨0, ⟨5, ⟨{ id := 5, key := 0, blk := 0, region := 1, pc := 0, kind := .ldwe, st := .done, accs := [{ lane := 0, ga := 0x8000000000000000, loc := sramLoc 0 0, n := 4, st := .sleep }] }, ⟨{ lane := 0, ga := 0x8000000000000000, loc := sramLoc 0 0, n := 4, st := .sleep }, ⟨gp, ⟨(by first | decide +kernel | exact rfl), ⟨(by first | decide +kernel | exact rfl), ⟨(by first | decide +kernel | exact rfl), ⟨(by first | decide +kernel | exact rfl), ⟨(by first | decide +kernel | exact rfl), ⟨(by first | decide +kernel | exact rfl), ⟨(by first | decide +kernel | exact rfl), ⟨(by first | decide +kernel | exact rfl), ⟨(by first | decide +kernel | exact rfl), (by first | decide +kernel | exact rfl)⟩⟩⟩⟩⟩⟩⟩⟩⟩⟩⟩⟩⟩⟩⟩,
   ⟨withReq (on gp 3) ({ id := 5, key := 0, blk := 0, region := 1, pc := 0, kind := .ldwe, st := .done, accs := [{ lane := 0, ga := 0x8000000000000000, loc := sramLoc 0 0, n := 4, st := .sleep }] }), ⟨0, ⟨5, ⟨{ id := 5, key := 0, blk := 0, region := 1, pc := 0, kind := .ldwe, st := .done, accs := [{ lane := 0, ga := 0x8000000000000000, loc := sramLoc 0 0, n := 4, st := .sleep }] }, ⟨{ lane := 0, ga := 0x8000000000000000, loc := sramLoc 0 0, n := 4, st := .sleep }, ⟨(by first | decide +kernel | exact rfl), ⟨(by first | decide +kernel | exact rfl), ⟨(by first | decide +kernel | exact rfl), ⟨(by first | decide +kernel | exact rfl), ⟨(by first | decide +kernel | exact rfl), ⟨(by first | decide +kernel | exact rfl), ⟨(by first | decide +kernel | exact rfl), ⟨(by first | decide +kernel | exact rfl), ⟨(by first | decide +kernel | exact rfl), ⟨(by first | decide +kernel | exact rfl), ⟨(by first | decide +kernel | exact rfl), ⟨(by first | decide +kernel | exact rfl), ⟨(by first | decide +kernel | exact rfl), (by first | decide +kernel | exact rfl)⟩⟩⟩⟩⟩⟩⟩⟩⟩⟩⟩⟩⟩⟩⟩⟩⟩⟩,
   ⟨withReq (onEmpty gp) ({ id := 5, key := 0, blk := 0, region := 1, pc := 0, kind := .ldwe, st := .queued, accs := [{ lane := 0, ga := 0x8000000000000000, loc := sramLoc 0 0, n := 4 }] }), ⟨0, ⟨5, ⟨{ id := 5, key := 0, blk := 0, region := 1, pc := 0, kind := .ldwe, st := .queued, accs := [{ lane := 0, ga := 0x8000000000000000, loc := sramLoc 0 0, n := 4 }] }, ⟨{ lane := 0, ga := 0x8000000000000000, loc := sramLoc 0 0, n := 4 }, ⟨(by first | decide +kernel | exact rfl), ⟨(Or.inl rfl), ⟨(by first | decide +kernel | exact rfl), ⟨(by first | decide +kernel | exact rfl), ⟨(by first | decide +kernel | exact rfl), ⟨(by first | decide +kernel | exact rfl), ⟨(by first | decide +kernel | exact rfl), ⟨(by first | decide +kernel | exact rfl), ⟨(by first | decide +kernel | exact rfl), ⟨(by first | decide +kernel | exact rfl), ⟨(by first | decide +kernel | exact rfl), ⟨(by first | decide +kernel | exact rfl), ⟨(by first | decide +kernel | exact rfl), ⟨(by first | decide +kernel | exact rfl), (by first | decide +kernel | exact rfl)⟩⟩⟩⟩⟩⟩⟩⟩⟩⟩⟩⟩⟩⟩⟩⟩⟩⟩⟩,
   ⟨withReq (onEmpty gp) ({ id := 5, key := 0, blk := 0, region := 1, pc := 0, kind := .tretw, st := .queued, accs := [{ lane := 0, ga := 0x8000000000000000, loc := sramLoc 0 0, n := 4 }] }), ⟨0, ⟨5, ⟨{ id := 5, key := 0, blk := 0, region := 1, pc := 0, kind := .tretw, st := .queued, accs := [{ lane := 0, ga := 0x8000000000000000, loc := sramLoc 0 0, n := 4 }] }, ⟨{ lane := 0, ga := 0x8000000000000000, loc := sramLoc 0 0, n := 4 }, ⟨(by first | decide +kernel | exact rfl), ⟨(Or.inr rfl), ⟨(by first | decide +kernel | exact rfl), ⟨(by first | decide +kernel | exact rfl), ⟨(by first | decide +kernel | exact rfl), ⟨(by first | decide +kernel | exact rfl), ⟨(by first | decide +kernel | exact rfl), ⟨(by first | decide +kernel | exact rfl), ⟨(by first | decide +kernel | exact rfl), ⟨(by first | decide +kernel | exact rfl), ⟨(by first | decide +kernel | exact rfl), ⟨(by first | decide +kernel | exact rfl), ⟨(by first | decide +kernel | exact rfl), ⟨(by first | decide +kernel | exact rfl), (by first | decide +kernel | exact rfl)⟩⟩⟩⟩⟩⟩⟩⟩⟩⟩⟩⟩⟩⟩⟩⟩⟩⟩⟩,
   ⟨onSleep ({ id := 5, key := 0, blk := 0, region := 1, pc := 0, kind := .ldwe, st := .queued, accs := [{ lane := 0, ga := 0x8000000000000000, loc := sramLoc 0 0, n := 4 }] }), ⟨0, ⟨5, ⟨{ id := 5, key := 0, blk := 0, region := 1, pc := 0, kind := .ldwe, st := .queued, accs := [{ lane := 0, ga := 0x8000000000000000, loc := sramLoc 0 0, n := 4 }] }, ⟨{ lane := 0, ga := 0x8000000000000000, loc := sramLoc 0 0, n := 4 }, ⟨(by first | decide +kernel | exact rfl), ⟨(Or.inl rfl), ⟨(by first | decide +kernel | exact rfl), ⟨(by first | decide +kernel | exact rfl), ⟨(by first | decide +kernel | exact rfl), ⟨(by first | decide +kernel | exact rfl), ⟨(by first | decide +kernel | exact rfl), ⟨(by first | decide +kernel | exact rfl), ⟨(by first | decide +kernel | exact rfl), ⟨(by first | decide +kernel | exact rfl), ⟨(by first | decide +kernel | exact rfl), ⟨(by first | decide +kernel | exact rfl), ⟨(by first | decide +kernel | exact rfl), ⟨(by first | decide +kernel | exact rfl), (by first | decide +kernel | exact rfl)⟩⟩⟩⟩⟩⟩⟩⟩⟩⟩⟩⟩⟩⟩⟩⟩⟩⟩⟩,
   ⟨withReq (on gp 3) ({ id := 5, key := 0, blk := 0, region := 1, pc := 0, kind := .ldwe, st := .queued, accs := [{ lane := 0, ga := 0x8000000000000000, loc := sramLoc 0 0, n := 4 }] }), ⟨0, ⟨5, ⟨{ id := 5, key := 0, blk := 0, region := 1, pc := 0, kind := .ldwe, st := .queued, accs := [{ lane := 0, ga := 0x8000000000000000, loc := sramLoc 0 0, n := 4 }] }, ⟨{ lane := 0, ga := 0x8000000000000000, loc := sramLoc 0 0, n := 4 }, ⟨(by first | decide +kernel | exact rfl), ⟨(Or.inl rfl), ⟨(by first | decide +kernel | exact rfl), ⟨(by first | decide +kernel | exact rfl), ⟨(by first | decide +kernel | exact rfl), ⟨(by first | decide +kernel | exact rfl), ⟨(by first | decide +kernel | exact rfl), ⟨(by first | decide +kernel | exact rfl), ⟨(by first | decide +kernel | exact rfl), ⟨(by first | decide +kernel | exact rfl), ⟨(by first | decide +kernel | exact rfl), ⟨(by first | decide +kernel | exact rfl), ⟨(by first | decide +kernel | exact rfl), ⟨(by first | decide +kernel | exact rfl), (by first | decide +kernel | exact rfl)⟩⟩⟩⟩⟩⟩⟩⟩⟩⟩⟩⟩⟩⟩⟩⟩⟩⟩⟩,
   ⟨withReq (on gp 3) ({ id := 5, key := 0, blk := 0, region := 1, pc := 0, kind := .empty, st := .queued, accs := [{ lane := 0, ga := 0x8000000000000000, loc := sramLoc 0 0, n := 4 }] }), ⟨0, ⟨5, ⟨{ id := 5, key := 0, blk := 0, region := 1, pc := 0, kind := .empty, st := .queued, accs := [{ lane := 0, ga := 0x8000000000000000, loc := sramLoc 0 0, n := 4 }] }, ⟨{ lane := 0, ga := 0x8000000000000000, loc := sramLoc 0 0, n := 4 }, ⟨(by first | decide +kernel | exact rfl), ⟨(by first | decide +kernel | exact rfl), ⟨(by first | decide +kernel | exact rfl), ⟨(by first | decide +kernel | exact rfl), ⟨(by first | decide +kernel | exact rfl), ⟨(by first | decide +kernel | exact rfl), ⟨(by first | decide +kernel | exact rfl), ⟨(by first | decide +kernel | exact rfl), (by first | decide +kernel | exact rfl)⟩⟩⟩⟩⟩⟩⟩⟩⟩⟩⟩⟩⟩,
   ⟨withReq (on gp 3) ({ id := 5, key := 0, blk := 0, region := 1, pc := 0, kind := .feget, st := .queued, accs := [{ lane := 0, ga := 0x8000000000000000, loc := sramLoc 0 0, n := 4 }] }), ⟨0, ⟨5, ⟨{ id := 5, key := 0, blk := 0, region := 1, pc := 0, kind := .feget, st := .queued, accs := [{ lane := 0, ga := 0x8000000000000000, loc := sramLoc 0 0, n := 4 }] }, ⟨{ lane := 0, ga := 0x8000000000000000, loc := sramLoc 0 0, n := 4 }, ⟨(by first | decide +kernel | exact rfl), ⟨(by first | decide +kernel | exact rfl), ⟨(by first | decide +kernel | exact rfl), ⟨(by first | decide +kernel | exact rfl), ⟨(by first | decide +kernel | exact rfl), ⟨(by first | decide +kernel | exact rfl), ⟨(by first | decide +kernel | exact rfl), ⟨(by first | decide +kernel | exact rfl), ⟨(by first | decide +kernel | exact rfl), ⟨(by first | decide +kernel | exact rfl), ⟨(by first | decide +kernel | exact rfl), (by first | decide +kernel | exact rfl)⟩⟩⟩⟩⟩⟩⟩⟩⟩⟩⟩⟩⟩⟩⟩⟩,
   ⟨withReq (on gp 3) ({ id := 5, key := 0, blk := 0, region := 1, pc := 0, kind := .fill, st := .queued, accs := [{ lane := 0, ga := 0x8000000000000000, loc := sramLoc 0 0, n := 4, data := [1, 2, 3, 4] }] }), ⟨0, ⟨5, ⟨{ id := 5, key := 0, blk := 0, region := 1, pc := 0, kind := .fill, st := .queued, accs := [{ lane := 0, ga := 0x8000000000000000, loc := sramLoc 0 0, n := 4, data := [1, 2, 3, 4] }] }, ⟨{ lane := 0, ga := 0x8000000000000000, loc := sramLoc 0 0, n := 4, data := [1, 2, 3, 4] }, ⟨(by first | decide +kernel | exact rfl), ⟨(by first | decide +kernel | exact rfl), ⟨(by first | decide +kernel | exact rfl), ⟨(by first | decide +kernel | exact rfl), ⟨(by first | decide +kernel | exact rfl), ⟨(by first | decide +kernel | exact rfl), ⟨(by first | decide +kernel | exact rfl), ⟨(by first | decide +kernel | exact rfl), ⟨(by first | decide +kernel | exact rfl), ⟨(by first | decide +kernel | exact rfl), ⟨(by first | decide +kernel | exact rfl), ⟨(by first | decide +kernel | exact rfl), (by first | decide +kernel | exact rfl)⟩⟩⟩⟩⟩⟩⟩⟩⟩⟩⟩⟩⟩⟩⟩⟩⟩⟩

/-- The hypotheses of Promotion are met. -/
theorem witness_promotion :
    (∃ s : State, ∃ id : Nat, ∃ core : Nat, ∃ c : Nat, ∃ r : Req, (s.reqAnywhere id = some (core, r)) ∧ ((r.promo.find? (fun p => p.2 == .sent && s.demandReady p.1) = some (c, .sent)))) ∧
    (∃ s : State, ∃ id : Nat, ∃ core : Nat, ∃ c : Nat, ∃ r : Req, (s.reqAnywhere id = some (core, r)) ∧ ((r.promo.find? (fun p => p.2 == .met) = some (c, .met)) ∧ ((s.req? core id = some r) ∧ (((r.asks && !((s.group? r.key).any (fun g => g.blk = r.blk))) = false))))) ∧
    (∃ r : Req, (∃ p ∈ r.promo, p.2 ≠ .back)) :=
  ⟨⟨withReq (on gp 3) ({ id := 5, key := 0, blk := 0, region := 1, pc := 0, kind := .load, st := .queued, accs := [{ lane := 0, ga := 0x8000000000000000, loc := sramLoc 0 0, n := 4 }], promo := [(3, .sent)] }), ⟨5, ⟨0, ⟨3, ⟨{ id := 5, key := 0, blk := 0, region := 1, pc := 0, kind := .load, st := .queued, accs := [{ lane := 0, ga := 0x8000000000000000, loc := sramLoc 0 0, n := 4 }], promo := [(3, .sent)] }, ⟨(by first | decide +kernel | exact rfl), (by first | decide +kernel | exact rfl)⟩⟩⟩⟩⟩⟩,
   ⟨withReq (on gp 3) ({ id := 5, key := 0, blk := 0, region := 1, pc := 0, kind := .load, st := .queued, accs := [{ lane := 0, ga := 0x8000000000000000, loc := sramLoc 0 0, n := 4 }], promo := [(3, .met)] }), ⟨5, ⟨0, ⟨3, ⟨{ id := 5, key := 0, blk := 0, region := 1, pc := 0, kind := .load, st := .queued, accs := [{ lane := 0, ga := 0x8000000000000000, loc := sramLoc 0 0, n := 4 }], promo := [(3, .met)] }, ⟨(by first | decide +kernel | exact rfl), ⟨(by first | decide +kernel | exact rfl), ⟨(by first | decide +kernel | exact rfl), (by first | decide +kernel | exact rfl)⟩⟩⟩⟩⟩⟩⟩⟩,
   ⟨{ id := 5, key := 0, blk := 0, region := 1, pc := 0, kind := .load, st := .queued, accs := [{ lane := 0, ga := 0x8000000000000000, loc := sramLoc 0 0, n := 4 }], promo := [(3, .sent)] }, ⟨(3, .sent), by decide, by decide⟩⟩⟩

/-- The hypotheses of AtomicsPerform are met. -/
theorem witness_atomics_perform :
    (∃ s : State, ∃ c : Nat, ∃ id : Nat, ∃ r : Req, ∃ a : Acc, ∃ op : AOp, (s.req? c id = some r) ∧ ((r.kind = .atom op) ∧ ((r.ty = .u32) ∧ ((r.st = .queued) ∧ ((r.accs = [a]) ∧ ((a.st = .todo) ∧ ((a.n = 4) ∧ ((isSram a.loc = true) ∧ ((r.acq = false) ∧ ((r.relaxed = false) ∧ ((s.mayPerform c r = true) ∧ ((s.eccIn a.loc 4 = false) ∧ ((a.data.length = 4)))))))))))))) ∧
    (∃ s : State, ∃ c : Nat, ∃ id : Nat, ∃ r : Req, (s.req? c id = some r) ∧ ((r.st = .lost) ∧ ((r.sentAt + 280000 ≤ s.now)))) ∧
    (∃ s : State, ∃ c : Nat, ∃ id : Nat, ∃ r : Req, (s.req? c id = some r) ∧ ((r.st ≠ .lost ∨ s.now < r.sentAt + 280000))) ∧
    (∃ s : State, ∃ c : Nat, ∃ id : Nat, ∃ r : Req, (s.req? c id = some r) ∧ ((r.st ≠ .lost ∨ s.now < r.sentAt + 280000))) ∧
    (∃ s : State, ∃ c : Nat, ∃ id : Nat, ∃ r : Req, ∃ a : Acc, ∃ x : AtomRes, ∃ op : AOp, (s.req? c id = some r) ∧ ((r.kind = .atom op) ∧ ((r.st = .lost) ∧ ((r.accs = [a]) ∧ ((r.acq = false) ∧ (((s.results a).find? (fun x => x.src = c && some x.seq = r.seq) = some x) ∧ ((x.res.length = 1)))))))) ∧
    (∃ s : State, ∃ die : Nat, ∃ line : Nat, (line / 2 ^ 27 = die) ∧ ((∀ c ∈ (s.die die).cache, c.1 ≠ line))) ∧
    (∃ s : State, ∃ die : Nat, ∃ line : Nat, ∃ pre : Bool, (line / 2 ^ 27 = die) ∧ (((s.die die).cache.find? (fun c => c.1 = line) = some (line, pre, true)))) :=
  ⟨⟨withReq (on gp 3) ({ id := 5, key := 0, blk := 0, region := 1, pc := 0, kind := .atom .add, st := .queued, accs := [{ lane := 0, ga := 0x8000000000000000, loc := sramLoc 0 0, n := 4, data := [1, 0, 0, 0] }], ty := .u32, seq := some 9 }), ⟨0, ⟨5, ⟨{ id := 5, key := 0, blk := 0, region := 1, pc := 0, kind := .atom .add, st := .queued, accs := [{ lane := 0, ga := 0x8000000000000000, loc := sramLoc 0 0, n := 4, data := [1, 0, 0, 0] }], ty := .u32, seq := some 9 }, ⟨{ lane := 0, ga := 0x8000000000000000, loc := sramLoc 0 0, n := 4, data := [1, 0, 0, 0] }, ⟨.add, ⟨(by first | decide +kernel | exact rfl), ⟨(by first | decide +kernel | exact rfl), ⟨(by first | decide +kernel | exact rfl), ⟨(by first | decide +kernel | exact rfl), ⟨(by first | decide +kernel | exact rfl), ⟨(by first | decide +kernel | exact rfl), ⟨(by first | decide +kernel | exact rfl), ⟨(by first | decide +kernel | exact rfl), ⟨(by first | decide +kernel | exact rfl), ⟨(by first | decide +kernel | exact rfl), ⟨(by first | decide +kernel | exact rfl), ⟨(by first | decide +kernel | exact rfl), (by first | decide +kernel | exact rfl)⟩⟩⟩⟩⟩⟩⟩⟩⟩⟩⟩⟩⟩⟩⟩⟩⟩⟩,
   ⟨{ withReq (on gp 3) ({ id := 5, key := 0, blk := 0, region := 1, pc := 0, kind := .atom .add, st := .lost, accs := [{ lane := 0, ga := 0x8000000000000000, loc := sramLoc 0 0, n := 4, data := [1, 0, 0, 0] }], ty := .u32, seq := some 9 }) with now := 280000 }, ⟨0, ⟨5, ⟨{ id := 5, key := 0, blk := 0, region := 1, pc := 0, kind := .atom .add, st := .lost, accs := [{ lane := 0, ga := 0x8000000000000000, loc := sramLoc 0 0, n := 4, data := [1, 0, 0, 0] }], ty := .u32, seq := some 9 }, ⟨(by first | decide +kernel | exact rfl), ⟨(by first | decide +kernel | exact rfl), (by first | decide +kernel | exact rfl)⟩⟩⟩⟩⟩⟩,
   ⟨withReq (on gp 3) ({ id := 5, key := 0, blk := 0, region := 1, pc := 0, kind := .atom .add, st := .lost, accs := [{ lane := 0, ga := 0x8000000000000000, loc := sramLoc 0 0, n := 4, data := [1, 0, 0, 0] }], ty := .u32, seq := some 9 }), ⟨0, ⟨5, ⟨{ id := 5, key := 0, blk := 0, region := 1, pc := 0, kind := .atom .add, st := .lost, accs := [{ lane := 0, ga := 0x8000000000000000, loc := sramLoc 0 0, n := 4, data := [1, 0, 0, 0] }], ty := .u32, seq := some 9 }, ⟨(by first | decide +kernel | exact rfl), (by first | decide +kernel | exact rfl)⟩⟩⟩⟩⟩,
   ⟨withReq (on gp 3) ({ id := 5, key := 0, blk := 0, region := 1, pc := 0, kind := .load, st := .queued, accs := [{ lane := 0, ga := 0x8000000000000000, loc := sramLoc 0 0, n := 4 }] }), ⟨0, ⟨5, ⟨{ id := 5, key := 0, blk := 0, region := 1, pc := 0, kind := .load, st := .queued, accs := [{ lane := 0, ga := 0x8000000000000000, loc := sramLoc 0 0, n := 4 }] }, ⟨(by first | decide +kernel | exact rfl), (by first | decide +kernel | exact rfl)⟩⟩⟩⟩⟩,
   ⟨withRes (withReq (on gp 3) ({ id := 5, key := 0, blk := 0, region := 1, pc := 0, kind := .atom .add, st := .lost, accs := [{ lane := 0, ga := 0x8000000000000000, loc := sramLoc 0 0, n := 4, data := [1, 0, 0, 0] }], ty := .u32, seq := some 9 })), ⟨0, ⟨5, ⟨{ id := 5, key := 0, blk := 0, region := 1, pc := 0, kind := .atom .add, st := .lost, accs := [{ lane := 0, ga := 0x8000000000000000, loc := sramLoc 0 0, n := 4, data := [1, 0, 0, 0] }], ty := .u32, seq := some 9 }, ⟨{ lane := 0, ga := 0x8000000000000000, loc := sramLoc 0 0, n := 4, data := [1, 0, 0, 0] }, ⟨{ src := 0, seq := 9, res := [[7, 0, 0, 0]] }, ⟨.add, ⟨(by first | decide +kernel | exact rfl), ⟨(by first | decide +kernel | exact rfl), ⟨(by first | decide +kernel | exact rfl), ⟨(by first | decide +kernel | exact rfl), ⟨(by first | decide +kernel | exact rfl), ⟨(by first | decide +kernel | exact rfl), (by first | decide +kernel | exact rfl)⟩⟩⟩⟩⟩⟩⟩⟩⟩⟩⟩⟩⟩,
   ⟨on gp 3, ⟨0, ⟨5, ⟨(by first | decide +kernel | exact rfl), (by first | decide +kernel | exact rfl)⟩⟩⟩⟩,
   ⟨on gp 3 |>.putDie 0 { (on gp 3).die 0 with cache := [(5, true, true)] }, ⟨0, ⟨5, ⟨true, ⟨(by first | decide +kernel | exact rfl), (by first | decide +kernel | exact rfl)⟩⟩⟩⟩⟩⟩

/-- The hypotheses of CompactMemory are met. -/
theorem witness_compact_memory :
    (∃ s : State, ∃ g : Group, (s.group? s.cur.key = some g)) :=
  ⟨on gp 3, ⟨gp, (by first | decide +kernel | exact rfl)⟩⟩

/-- The hypotheses of CopyInstructions are met. -/
theorem witness_copy_instructions :
    (∃ o : OpX, ∃ s : State, ∃ g : Group, ∃ g0 : Group, (s.group? s.cur.key = some g) ∧ ((s.cur.lanes ≠ 0) ∧ (((s.low g Forms.cpyb 0 (.x o) 4).psn = none) ∧ (((Brec.of (g.bAt o.sa.num)).res = 0) ∧ (((Brec.of (g.bAt o.sb.num)).res = 0) ∧ (((Brec.of (g.bAt o.sa.num)).esz = (Brec.of (g.bAt o.sb.num)).esz) ∧ ((((Brec.of (g.bAt o.sa.num)).swz = 0 ∧ (Brec.of (g.bAt o.sb.num)).swz = 0) ∨ (Brec.of (g.bAt o.sa.num)).esz ≠ 3) ∧ ((s.viewsFor (g.advance s.cur) o.dst = .ok g0) ∧ ((Sel.within o.dst 1 = true)))))))))) ∧
    (∃ o : OpX, ∃ s : State, ∃ g : Group, ∃ n : Nat, ∃ c : Copy, (s.group? s.cur.key = some g) ∧ ((s.cur.lanes ≠ 0) ∧ ((s.low g Forms.cpyw 0 (.x o) 2 = ⟨BitVec.ofNat 32 n, none⟩) ∧ ((n < 64) ∧ (((s.core s.cur.core).tag? n = some c) ∧ ((c.blk = g.blk) ∧ ((c.st = .done)))))))) ∧
    (∃ o : OpX, ∃ s : State, ∃ g : Group, ∃ n : Nat, ∃ c : Copy, (s.group? s.cur.key = some g) ∧ ((s.cur.lanes ≠ 0) ∧ ((s.low g Forms.cpyw 0 (.x o) 2 = ⟨BitVec.ofNat 32 n, none⟩) ∧ ((n < 64) ∧ (((s.core s.cur.core).tag? n = some c) ∧ ((c.blk = g.blk) ∧ ((c.st = .flight)))))))) ∧
    (∃ o : OpX, ∃ s : State, ∃ g : Group, ∃ n : Nat, ∃ c : Copy, (s.group? s.cur.key = some g) ∧ ((s.cur.lanes ≠ 0) ∧ ((s.low g Forms.cpyw 0 (.x o) 2 = ⟨BitVec.ofNat 32 n, none⟩) ∧ ((n < 64) ∧ (((s.core s.cur.core).tag? n = some c) ∧ ((c.blk = g.blk) ∧ (∃ f : Nat × DWord, (c.st = .fault) ∧ ((c.flt = some f))))))))) ∧
    (∃ o : OpX, ∃ s : State, ∃ g : Group, ∃ n : Nat, ∃ c : Copy, (s.group? s.cur.key = some g) ∧ ((s.cur.lanes ≠ 0) ∧ ((s.low g Forms.cpyw 0 (.x o) 2 = ⟨BitVec.ofNat 32 n, none⟩) ∧ ((n < 64) ∧ (((s.core s.cur.core).tag? n = some c) ∧ ((c.blk = g.blk) ∧ ((c.st = .built)))))))) ∧
    (∃ o : OpX, ∃ s : State, ∃ g : Group, ∃ g0 : Group, ∃ n : Nat, (s.group? s.cur.key = some g) ∧ ((s.cur.lanes ≠ 0) ∧ ((s.low g Forms.cpyq 0 (.x o) 2 = ⟨BitVec.ofNat 32 n, none⟩) ∧ ((n < 64) ∧ ((s.viewsFor (g.advance s.cur) o.dst = .ok g0) ∧ ((Sel.within o.dst 1 = true))))))) :=
  ⟨⟨ox (.s 63) (.b 0) (.b 0) .imm 8, ⟨on gp 3, ⟨gp, ⟨vf (on gp 3) gp (.s 63), ⟨(by first | decide +kernel | exact rfl), ⟨(by first | decide +kernel | exact rfl), ⟨(by first | decide +kernel | exact rfl), ⟨(by first | decide +kernel | exact rfl), ⟨(by first | decide +kernel | exact rfl), ⟨(by first | decide +kernel | exact rfl), ⟨(by first | decide +kernel | exact rfl), ⟨(by first | decide +kernel | exact rfl), (by first | decide +kernel | exact rfl)⟩⟩⟩⟩⟩⟩⟩⟩⟩⟩⟩⟩,
   ⟨ox .none .imm .none .none 3, ⟨withTag (on gp 3) { cp with st := .done }, ⟨gp, ⟨3, ⟨{ cp with st := .done }, ⟨(by first | decide +kernel | exact rfl), ⟨(by first | decide +kernel | exact rfl), ⟨(by first | decide +kernel | exact rfl), ⟨(by first | decide +kernel | exact rfl), ⟨(by first | decide +kernel | exact rfl), ⟨(by first | decide +kernel | exact rfl), (by first | decide +kernel | exact rfl)⟩⟩⟩⟩⟩⟩⟩⟩⟩⟩⟩,
   ⟨ox .none .imm .none .none 3, ⟨withTag (on gp 3) { cp with st := .flight }, ⟨gp, ⟨3, ⟨{ cp with st := .flight }, ⟨(by first | decide +kernel | exact rfl), ⟨(by first | decide +kernel | exact rfl), ⟨(by first | decide +kernel | exact rfl), ⟨(by first | decide +kernel | exact rfl), ⟨(by first | decide +kernel | exact rfl), ⟨(by first | decide +kernel | exact rfl), (by first | decide +kernel | exact rfl)⟩⟩⟩⟩⟩⟩⟩⟩⟩⟩⟩,
   ⟨ox .none .imm .none .none 3, ⟨withTag (on gp 3) { cp with st := .fault, flt := some (0x80, 8) }, ⟨gp, ⟨3, ⟨{ cp with st := .fault, flt := some (0x80, 8) }, ⟨(by first | decide +kernel | exact rfl), ⟨(by first | decide +kernel | exact rfl), ⟨(by first | decide +kernel | exact rfl), ⟨(by first | decide +kernel | exact rfl), ⟨(by first | decide +kernel | exact rfl), ⟨(by first | decide +kernel | exact rfl), ⟨(0x80, 8), ⟨(by first | decide +kernel | exact rfl), (by first | decide +kernel | exact rfl)⟩⟩⟩⟩⟩⟩⟩⟩⟩⟩⟩⟩⟩,
   ⟨ox .none .imm .none .none 3, ⟨withTag (on gp 3) cp, ⟨gp, ⟨3, ⟨cp, ⟨(by first | decide +kernel | exact rfl), ⟨(by first | decide +kernel | exact rfl), ⟨(by first | decide +kernel | exact rfl), ⟨(by first | decide +kernel | exact rfl), ⟨(by first | decide +kernel | exact rfl), ⟨(by first | decide +kernel | exact rfl), (by first | decide +kernel | exact rfl)⟩⟩⟩⟩⟩⟩⟩⟩⟩⟩⟩,
   ⟨ox (.s 63) .imm .none .none 63, ⟨on gp 3, ⟨gp, ⟨vf (on gp 3) gp (.s 63), ⟨63, ⟨(by first | decide +kernel | exact rfl), ⟨(by first | decide +kernel | exact rfl), ⟨(by first | decide +kernel | exact rfl), ⟨(by first | decide +kernel | exact rfl), ⟨(by first | decide +kernel | exact rfl), (by first | decide +kernel | exact rfl)⟩⟩⟩⟩⟩⟩⟩⟩⟩⟩⟩

/-- The hypotheses of CopyKick are met. -/
theorem witness_copy_kick :
    (∃ o : OpM, ∃ s : State, ∃ g : Group, ∃ b : Block, ∃ l : Nat, ∃ n : Nat, (Issues s g b) ∧ ((lowest s.cur.lanes = some l) ∧ ((s.readSel g o.data 0 l = ⟨BitVec.ofNat 32 n, none⟩) ∧ ((n < 64) ∧ (∃ c : Copy, ((s.core s.cur.core).tag? n = some c) ∧ ((c.blk = g.blk) ∧ ((c.st = .built) ∧ ((s.isStage g = false) ∧ ((o.imm.toNat % 4 = 1 → (Brec.of c.dst).base.extractLsb' 60 4 = 8 ∨ (Brec.of c.dst).base.extractLsb' 60 4 = 9) ∧ ((∀ k < c.count, ∃ x, s.copyCheck b c k = .ok x))))))))))) ∧
    (∃ o : OpM, ∃ s : State, ∃ g : Group, ∃ b : Block, ∃ l : Nat, ∃ n : Nat, (Issues s g b) ∧ ((lowest s.cur.lanes = some l) ∧ ((s.readSel g o.data 0 l = ⟨BitVec.ofNat 32 n, none⟩) ∧ ((n < 64) ∧ (((s.core s.cur.core).tag? n = none ∨ ∃ c, (s.core s.cur.core).tag? n = some c ∧ (c.blk ≠ g.blk ∨ c.st ≠ .built))))))) ∧
    (∃ o : OpM, ∃ s : State, ∃ g : Group, ∃ b : Block, ∃ l : Nat, ∃ n : Nat, (Issues s g b) ∧ ((lowest s.cur.lanes = some l) ∧ ((s.readSel g o.data 0 l = ⟨BitVec.ofNat 32 n, none⟩) ∧ ((n < 64) ∧ (((s.core s.cur.core).tag? n = none ∨ ∃ c, (s.core s.cur.core).tag? n = some c ∧ (c.blk ≠ g.blk ∨ c.st ≠ .built))))))) :=
  ⟨⟨om (.s 0) 0 .none .none, ⟨withTag (on gpT 3) cp, ⟨gpT, ⟨bk, ⟨0, ⟨3, ⟨⟨rfl, rfl, rfl⟩, ⟨(by first | decide +kernel | exact rfl), ⟨(by first | decide +kernel | exact rfl), ⟨(by first | decide +kernel | exact rfl), ⟨cp, ⟨(by first | decide +kernel | exact rfl), ⟨(by first | decide +kernel | exact rfl), ⟨(by first | decide +kernel | exact rfl), ⟨(by first | decide +kernel | exact rfl), ⟨(by first | decide +kernel | exact rfl), (by intro k hk; have h1 : cp.count = 1 := rfl; rw [h1] at hk; obtain rfl : k = 0 := (by omega); exact ⟨some (0x8000000000000000, 0x8000000000000100), rfl⟩)⟩⟩⟩⟩⟩⟩⟩⟩⟩⟩⟩⟩⟩⟩⟩⟩,
   ⟨om (.s 0) 0 .none .none, ⟨on gpT 3, ⟨gpT, ⟨bk, ⟨0, ⟨3, ⟨⟨rfl, rfl, rfl⟩, ⟨(by first | decide +kernel | exact rfl), ⟨(by first | decide +kernel | exact rfl), ⟨(by first | decide +kernel | exact rfl), (Or.inl (by decide +kernel))⟩⟩⟩⟩⟩⟩⟩⟩⟩⟩,
   ⟨om (.s 0) 0 .none .none, ⟨withTag (on gpT 3) { cp with st := .done }, ⟨gpT, ⟨bk, ⟨0, ⟨3, ⟨⟨rfl, rfl, rfl⟩, ⟨(by first | decide +kernel | exact rfl), ⟨(by first | decide +kernel | exact rfl), ⟨(by first | decide +kernel | exact rfl), (Or.inr ⟨{ cp with st := .done }, by decide +kernel, Or.inr (by decide)⟩)⟩⟩⟩⟩⟩⟩⟩⟩⟩⟩⟩

/-- The hypotheses of CopyEngine are met. -/
theorem witness_copy_engine :
    (∃ s : State, ∃ s1 : State, ∃ s2 : State, ∃ core : Nat, ∃ tag : Nat, ∃ k : Nat, ∃ c : Copy, ∃ b : Block, ∃ sa : DWord, ∃ da : DWord, ∃ sl : Nat, ∃ dl : Nat, ((s.core core).tag? tag = some c) ∧ ((s.block? c.blk = some b) ∧ ((c.st = .flight) ∧ ((c.flt = none) ∧ ((k < c.count) ∧ ((k ∉ c.did) ∧ ((k ∉ c.flying) ∧ ((s.copyCheck b c k = .ok (some (sa, da))) ∧ ((s.copyHeld core c sa da = false) ∧ ((s.copyPlace core b .read sa = (.ok sl, s1)) ∧ ((s1.eccIn sl (2 ^ (Brec.of c.src).esz.toNat) = false) ∧ ((s1.copyPlace core b .write da = (.ok dl, s2)) ∧ ((s2.frozen dl = false) ∧ ((∀ d, (s.die d).remap = []) ∧ (let n := 2 ^ (Brec.of c.src).esz.toNat
      (s2.storesBefore core sl n = false) ∧ ((s2.storesBefore core dl n = false) ∧ ((isSram dl = true → sramCore dl = core)))))))))))))))))) ∧
    (∃ s : State, ∃ s1 : State, ∃ s2 : State, ∃ core : Nat, ∃ tag : Nat, ∃ k : Nat, ∃ c : Copy, ∃ b : Block, ∃ sa : DWord, ∃ da : DWord, ∃ sl : Nat, ∃ dl : Nat, ((s.core core).tag? tag = some c) ∧ ((s.block? c.blk = some b) ∧ ((c.st = .flight) ∧ ((c.flt = none) ∧ ((k < c.count) ∧ ((k ∉ c.did) ∧ ((k ∉ c.flying) ∧ ((s.copyCheck b c k = .ok (some (sa, da))) ∧ ((s.copyHeld core c sa da = false) ∧ ((s.copyPlace core b .read sa = (.ok sl, s1)) ∧ ((s1.eccIn sl (2 ^ (Brec.of c.src).esz.toNat) = false) ∧ ((s1.copyPlace core b .write da = (.ok dl, s2)) ∧ ((s2.frozen dl = false) ∧ ((∀ d, (s.die d).remap = []) ∧ (let n := 2 ^ (Brec.of c.src).esz.toNat
      (s2.storesBefore core sl n = false) ∧ ((s2.storesBefore core dl n = false) ∧ ((isSram dl = true) ∧ ((sramCore dl ≠ core) ∧ (((s.core core).credits (sramCore dl) ≠ 0)))))))))))))))))))) ∧
    (∃ c : Copy, ∃ lo : Nat, ∃ hi : Nat, ∃ lo' : Nat, ∃ hi' : Nat, (c.sspan = some (lo, hi)) ∧ ((c.dspan = some (lo', hi')) ∧ ((hi ≤ lo' ∨ hi' ≤ lo)))) ∧
    (∃ s : State, ∃ core : Nat, ∃ tag : Nat, ∃ c : Copy, ((s.core core).tag? tag = some c) ∧ ((c.st = .flight) ∧ ((c.flt = none) ∧ ((∀ k < c.count, k ∈ c.did) ∧ ((c.fe = false) ∧ ((c.pair = none) ∧ ((c.orphan = false) ∧ ((∀ key g, (key, g) ∈ s.groups → coreOf key = core → g.cpyw.map (·.1) ≠ some tag))))))))) ∧
    (∃ s : State, ∃ core : Nat, ∃ tag : Nat, ∃ c : Copy, ((s.core core).tag? tag = some c) ∧ ((c.st = .flight) ∧ ((c.flt = none) ∧ ((∀ k < c.count, k ∈ c.did) ∧ ((c.fe = false) ∧ ((c.pair = none) ∧ ((c.orphan = false) ∧ (∃ key : Nat, ∃ g : Group, ∃ w : DWord × BitVec 32, (s.group? key = some g) ∧ ((coreOf key = core) ∧ ((g.cpyw = some (tag, w)))))))))))) ∧
    (∃ s : State, ∃ core : Nat, ∃ tag : Nat, ∃ c : Copy, ∃ f : Nat × DWord, ((s.core core).tag? tag = some c) ∧ ((c.st = .flight) ∧ ((c.flt = some f) ∧ ((c.flying = []) ∧ ((c.pair = none) ∧ ((c.orphan = false) ∧ ((s.groups.sorted = true)))))))) :=
  ⟨⟨onCopy { cp with st := .flight }, ⟨onCopy { cp with st := .flight }, ⟨onCopy { cp with st := .flight }, ⟨0, ⟨3, ⟨0, ⟨{ cp with st := .flight }, ⟨bk, ⟨0x8000000000000000, ⟨0x8000000000000100, ⟨sramLoc 0 0, ⟨sramLoc 0 256, ⟨(by first | decide +kernel | exact rfl), ⟨(by first | decide +kernel | exact rfl), ⟨(by first | decide +kernel | exact rfl), ⟨(by first | decide +kernel | exact rfl), ⟨(by first | decide +kernel | exact rfl), ⟨(by first | decide +kernel | exact rfl), ⟨(by first | decide +kernel | exact rfl), ⟨(by first | decide +kernel | exact rfl), ⟨(by first | decide +kernel | exact rfl), ⟨(copyPlace_window (by decide +kernel) (by decide +kernel) (by decide +kernel)), ⟨(by first | decide +kernel | exact rfl), ⟨(copyPlace_window (by decide +kernel) (by decide +kernel) (by decide +kernel)), ⟨(by first | decide +kernel | exact rfl), ⟨(remap_of _ rfl), ⟨(by first | decide +kernel | exact rfl), ⟨(by first | decide +kernel | exact rfl), (by first | decide +kernel | exact rfl)⟩⟩⟩⟩⟩⟩⟩⟩⟩⟩⟩⟩⟩⟩⟩⟩⟩⟩⟩⟩⟩⟩⟩⟩⟩⟩⟩⟩,
   ⟨onCopy cpFar, ⟨onCopy cpFar, ⟨onCopy cpFar, ⟨0, ⟨3, ⟨0, ⟨cpFar, ⟨bk, ⟨0x8000000000000000, ⟨0x9000000002000000, ⟨sramLoc 0 0, ⟨sramLoc 1 0, ⟨(by first | decide +kernel | exact rfl), ⟨(by first | decide +kernel | exact rfl), ⟨(by first | decide +kernel | exact rfl), ⟨(by first | decide +kernel | exact rfl), ⟨(by first | decide +kernel | exact rfl), ⟨(by first | decide +kernel | exact rfl), ⟨(by first | decide +kernel | exact rfl), ⟨(by first | decide +kernel | exact rfl), ⟨(by first | decide +kernel | exact rfl), ⟨(copyPlace_window (by decide +kernel) (by decide +kernel) (by decide +kernel)), ⟨(by first | decide +kernel | exact rfl), ⟨(copyPlace_window (by decide +kernel) (by decide +kernel) (by decide +kernel)), ⟨(by first | decide +kernel | exact rfl), ⟨(remap_of _ rfl), ⟨(by first | decide +kernel | exact rfl), ⟨(by first | decide +kernel | exact rfl), ⟨(by first | decide +kernel | exact rfl), ⟨(by first | decide +kernel | exact rfl), (by first | decide +kernel | exact rfl)⟩⟩⟩⟩⟩⟩⟩⟩⟩⟩⟩⟩⟩⟩⟩⟩⟩⟩⟩⟩⟩⟩⟩⟩⟩⟩⟩⟩⟩⟩,
   ⟨{ cp with sspan := some (0, 4), dspan := some (4, 8) }, ⟨0, ⟨4, ⟨4, ⟨8, ⟨(by first | decide +kernel | exact rfl), ⟨(by first | decide +kernel | exact rfl), (by first | decide +kernel | exact rfl)⟩⟩⟩⟩⟩⟩⟩,
   ⟨onCopy { cp with st := .flight, did := [0] }, ⟨0, ⟨3, ⟨{ cp with st := .flight, did := [0] }, ⟨(by first | decide +kernel | exact rfl), ⟨(by first | decide +kernel | exact rfl), ⟨(by first | decide +kernel | exact rfl), ⟨(by first | decide +kernel | exact rfl), ⟨(by first | decide +kernel | exact rfl), ⟨(by first | decide +kernel | exact rfl), ⟨(by first | decide +kernel | exact rfl), (by intro key g h; have h2 : (key, g) ∈ [((0 : Nat), gp)] := h; simp only [List.mem_singleton, Prod.mk.injEq] at h2; obtain ⟨rfl, rfl⟩ := h2; decide)⟩⟩⟩⟩⟩⟩⟩⟩⟩⟩⟩,
   ⟨{ onCopy { cp with st := .flight, did := [0] } with groups := [(0, gpTags)] }, ⟨0, ⟨3, ⟨{ cp with st := .flight, did := [0] }, ⟨(by first | decide +kernel | exact rfl), ⟨(by first | decide +kernel | exact rfl), ⟨(by first | decide +kernel | exact rfl), ⟨(by first | decide +kernel | exact rfl), ⟨(by first | decide +kernel | exact rfl), ⟨(by first | decide +kernel | exact rfl), ⟨(by first | decide +kernel | exact rfl), ⟨0, ⟨gpTags, ⟨(12, 3), ⟨(by first | decide +kernel | exact rfl), ⟨(by first | decide +kernel | exact rfl), (by first | decide +kernel | exact rfl)⟩⟩⟩⟩⟩⟩⟩⟩⟩⟩⟩⟩⟩⟩⟩⟩,
   ⟨onCopy { cp with st := .flight, flt := some (0x80, 8) }, ⟨0, ⟨3, ⟨{ cp with st := .flight, flt := some (0x80, 8) }, ⟨(0x80, 8), ⟨(by first | decide +kernel | exact rfl), ⟨(by first | decide +kernel | exact rfl), ⟨(by first | decide +kernel | exact rfl), ⟨(by first | decide +kernel | exact rfl), ⟨(by first | decide +kernel | exact rfl), ⟨(by first | decide +kernel | exact rfl), (by first | decide +kernel | exact rfl)⟩⟩⟩⟩⟩⟩⟩⟩⟩⟩⟩⟩

/-- The hypotheses of DescriptorsAndTiles are met. -/
theorem witness_descriptors_and_tiles :
    (∃ wd : BitVec 3, ∃ o : OpX, ∃ s : State, ∃ g : Group, (s.group? s.cur.key = some g) ∧ ((s.cur.lanes ≠ 0) ∧ (((s.low g Forms.tdset wd.toNat (.x o) 2).psn = none) ∧ (((s.core s.cur.core).tdBusy s.cur.key g.blk o.dst.num = false))))) ∧
    (∃ o : OpX, ∃ s : State, ∃ g : Group, ∃ g0 : Group, (s.group? s.cur.key = some g) ∧ (((s.core s.cur.core).tdBusy s.cur.key g.blk o.sa.num = false) ∧ ((s.viewsFor (g.advance s.cur) o.dst = .ok g0) ∧ ((Sel.within o.dst 1 = true))))) ∧
    (∃ o : OpX, ∃ s : State, ∃ g : Group, ∃ g0 : Group, ∃ l : Nat, ∃ k : Nat, (s.group? s.cur.key = some g) ∧ ((lowest s.cur.lanes = some l) ∧ ((FreeTile s g o.sa k) ∧ (((s.posOf g Forms.accrd o l).psn = none) ∧ ((s.viewsFor (g.advance s.cur) o.dst = .ok g0) ∧ ((Sel.within o.dst 1 = true))))))) ∧
    (∃ o : OpX, ∃ s : State, ∃ g : Group, ∃ l : Nat, ∃ k : Nat, (s.group? s.cur.key = some g) ∧ ((lowest s.cur.lanes = some l) ∧ ((FreeTile s g o.dst k) ∧ (((s.posOf g Forms.accwr o l).psn = none) ∧ ((∀ i ∈ lanesOf s.cur.lanes, (s.readSel g o.sa 0 i).psn = none)))))) ∧
    (∃ o : OpX, ∃ s : State, ∃ g : Group, ∃ k : Nat, (s.group? s.cur.key = some g) ∧ ((s.cur.lanes ≠ 0) ∧ ((FreeTile s g o.dst k)))) :=
  ⟨⟨7, ⟨ox (.t 7) .imm .none .none 5, ⟨on gp 3, ⟨gp, ⟨(by first | decide +kernel | exact rfl), ⟨(by first | decide +kernel | exact rfl), ⟨(by first | decide +kernel | exact rfl), (by first | decide +kernel | exact rfl)⟩⟩⟩⟩⟩⟩⟩,
   ⟨ox (.s 63) (.t 0) .none .none 0, ⟨on gp 3, ⟨gp, ⟨vf (on gp 3) gp (.s 63), ⟨(by first | decide +kernel | exact rfl), ⟨(by first | decide +kernel | exact rfl), ⟨(by first | decide +kernel | exact rfl), (by first | decide +kernel | exact rfl)⟩⟩⟩⟩⟩⟩⟩,
   ⟨ox (.v 255) (.a 7) .imm .none 0x1FF, ⟨on gp 3, ⟨gp, ⟨gp.advance (on gp 3).cur, ⟨0, ⟨7, ⟨(by first | decide +kernel | exact rfl), ⟨(by first | decide +kernel | exact rfl), ⟨⟨rfl, rfl⟩, ⟨(by first | decide +kernel | exact rfl), ⟨(by first | decide +kernel | exact rfl), (by first | decide +kernel | exact rfl)⟩⟩⟩⟩⟩⟩⟩⟩⟩⟩⟩,
   ⟨ox (.a 0) (.v 0) .imm .none 0x1FF, ⟨on gp 3, ⟨gp, ⟨0, ⟨0, ⟨(by first | decide +kernel | exact rfl), ⟨(by first | decide +kernel | exact rfl), ⟨⟨rfl, rfl⟩, ⟨(by first | decide +kernel | exact rfl), (by first | decide +kernel | exact rfl)⟩⟩⟩⟩⟩⟩⟩⟩⟩,
   ⟨ox (.a 7) .none .none .none 0, ⟨on gp 3, ⟨gp, ⟨7, ⟨(by first | decide +kernel | exact rfl), ⟨(by first | decide +kernel | exact rfl), ⟨rfl, rfl⟩⟩⟩⟩⟩⟩⟩⟩

/-- The hypotheses of JobsAwaited are met. -/
theorem witness_jobs_awaited :
    (∃ o : OpX, ∃ s : State, ∃ g : Group, (s.group? s.cur.key = some g) ∧ ((s.cur.lanes ≠ 0) ∧ (((s.low g Forms.jwait 0 (.x o) 2).psn = none) ∧ (let n := (s.low g Forms.jwait 0 (.x o) 2).bits.toNat
      ∃ j : Job, ((s.core s.cur.core).job? n g.blk = some j) ∧ ((j.st = .done)))))) ∧
    (∃ o : OpX, ∃ s : State, ∃ g : Group, (s.group? s.cur.key = some g) ∧ ((s.cur.lanes ≠ 0) ∧ (((s.low g Forms.jwait 0 (.x o) 2).psn = none) ∧ (let n := (s.low g Forms.jwait 0 (.x o) 2).bits.toNat
      ∃ j : Job, ((s.core s.cur.core).job? n g.blk = some j) ∧ ((j.st = .queued ∨ j.st = .run)))))) ∧
    (∃ o : OpX, ∃ s : State, ∃ g : Group, (s.group? s.cur.key = some g) ∧ ((s.cur.lanes ≠ 0) ∧ (((s.low g Forms.jwait 0 (.x o) 2).psn = none) ∧ (let n := (s.low g Forms.jwait 0 (.x o) 2).bits.toNat
      ∃ j : Job, ((s.core s.cur.core).job? n g.blk = some j) ∧ ((j.st = .queued ∨ j.st = .run)))))) ∧
    (∃ o : OpX, ∃ s : State, ∃ g : Group, (s.group? s.cur.key = some g) ∧ ((s.cur.lanes ≠ 0) ∧ (((s.low g Forms.jwait 0 (.x o) 2).psn = none) ∧ (let n := (s.low g Forms.jwait 0 (.x o) 2).bits.toNat
      ∃ j : Job, ((s.core s.cur.core).job? n g.blk = some j) ∧ (∃ f : Nat × DWord, (j.st = .fault) ∧ ((j.flt = some f))))))) ∧
    (∃ o : OpX, ∃ s : State, ∃ g : Group, (s.group? s.cur.key = some g) ∧ ((s.cur.lanes ≠ 0) ∧ (((s.low g Forms.jwait 0 (.x o) 2).psn = none) ∧ (let n := (s.low g Forms.jwait 0 (.x o) 2).bits.toNat
      ∃ j : Job, ((s.core s.cur.core).job? n g.blk = some j) ∧ ((j.st = .uncorr)))))) ∧
    (∃ o : OpX, ∃ s : State, ∃ g : Group, (s.group? s.cur.key = some g) ∧ ((s.cur.lanes ≠ 0) ∧ (((s.low g Forms.jwait 0 (.x o) 2).psn = none) ∧ (let n := (s.low g Forms.jwait 0 (.x o) 2).bits.toNat
      ((s.core s.cur.core).job? n g.blk = none))))) ∧
    (∃ o : OpX, ∃ s : State, ∃ g : Group, ∃ g0 : Group, (s.group? s.cur.key = some g) ∧ ((s.cur.lanes ≠ 0) ∧ (((s.low g Forms.jstat 0 (.x o) 2).psn = none) ∧ ((s.viewsFor (g.advance s.cur) o.dst = .ok g0) ∧ ((Sel.within o.dst 1 = true)))))) ∧
    (∃ o : OpX, ∃ s : State, ∃ g : Group, (s.group? s.cur.key = some g) ∧ ((s.cur.lanes ≠ 0) ∧ (((s.low g Forms.jchk 0 (.x o) 2).psn = none) ∧ (let w := (s.low g Forms.jchk 0 (.x o) 2).bits
      ((s.effOf g.blk).any (·.inject) = true) ∧ ((w.toNat % 256 ≤ 128) ∧ ((w.toNat / 256 % 256 ≤ 128) ∧ ((¬ (w.toNat % 256 = 128 ∧ w.toNat / 256 % 256 = 128))))))))) ∧
    (∃ o : OpX, ∃ s : State, ∃ g : Group, (s.group? s.cur.key = some g) ∧ ((s.cur.lanes ≠ 0) ∧ (((s.low g Forms.jchk 0 (.x o) 2).psn = none) ∧ (((s.effOf g.blk).any (·.inject) = false))))) :=
  ⟨⟨ox .none .imm .none .none 0, ⟨withJob (on gp 3) { jb with st := .done }, ⟨gp, ⟨(by first | decide +kernel | exact rfl), ⟨(by first | decide +kernel | exact rfl), ⟨(by first | decide +kernel | exact rfl), ⟨{ jb with st := .done }, ⟨(by first | decide +kernel | exact rfl), (by first | decide +kernel | exact rfl)⟩⟩⟩⟩⟩⟩⟩⟩,
   ⟨ox .none .imm .none .none 0, ⟨withJob (on gp 3) { jb with st := .queued }, ⟨gp, ⟨(by first | decide +kernel | exact rfl), ⟨(by first | decide +kernel | exact rfl), ⟨(by first | decide +kernel | exact rfl), ⟨{ jb with st := .queued }, ⟨(by first | decide +kernel | exact rfl), (by first | decide +kernel | exact rfl)⟩⟩⟩⟩⟩⟩⟩⟩,
   ⟨ox .none .imm .none .none 0, ⟨withJob (on gp 3) { jb with st := .run }, ⟨gp, ⟨(by first | decide +kernel | exact rfl), ⟨(by first | decide +kernel | exact rfl), ⟨(by first | decide +kernel | exact rfl), ⟨{ jb with st := .run }, ⟨(by first | decide +kernel | exact rfl), (by first | decide +kernel | exact rfl)⟩⟩⟩⟩⟩⟩⟩⟩,
   ⟨ox .none .imm .none .none 0, ⟨withJob (on gp 3) { jb with st := .fault, flt := some (0x80, 8) }, ⟨gp, ⟨(by first | decide +kernel | exact rfl), ⟨(by first | decide +kernel | exact rfl), ⟨(by first | decide +kernel | exact rfl), ⟨{ jb with st := .fault, flt := some (0x80, 8) }, ⟨(by first | decide +kernel | exact rfl), ⟨(0x80, 8), ⟨(by first | decide +kernel | exact rfl), (by first | decide +kernel | exact rfl)⟩⟩⟩⟩⟩⟩⟩⟩⟩⟩,
   ⟨ox .none .imm .none .none 0, ⟨withJob (on gp 3) { jb with st := .uncorr }, ⟨gp, ⟨(by first | decide +kernel | exact rfl), ⟨(by first | decide +kernel | exact rfl), ⟨(by first | decide +kernel | exact rfl), ⟨{ jb with st := .uncorr }, ⟨(by first | decide +kernel | exact rfl), (by first | decide +kernel | exact rfl)⟩⟩⟩⟩⟩⟩⟩⟩,
   ⟨ox .none .imm .none .none 0, ⟨on gp 3, ⟨gp, ⟨(by first | decide +kernel | exact rfl), ⟨(by first | decide +kernel | exact rfl), ⟨(by first | decide +kernel | exact rfl), (by first | decide +kernel | exact rfl)⟩⟩⟩⟩⟩⟩,
   ⟨ox (.s 63) .imm .none .none 0, ⟨withJob (on gp 3) jb, ⟨gp, ⟨vf (withJob (on gp 3) jb) gp (.s 63), ⟨(by first | decide +kernel | exact rfl), ⟨(by first | decide +kernel | exact rfl), ⟨(by first | decide +kernel | exact rfl), ⟨(by first | decide +kernel | exact rfl), (by first | decide +kernel | exact rfl)⟩⟩⟩⟩⟩⟩⟩⟩,
   ⟨ox .none .imm .none .none 0x7F80, ⟨withEff (on gp 3) ef, ⟨gp, ⟨(by first | decide +kernel | exact rfl), ⟨(by first | decide +kernel | exact rfl), ⟨(by first | decide +kernel | exact rfl), ⟨(by first | decide +kernel | exact rfl), ⟨(by first | decide +kernel | exact rfl), ⟨(by first | decide +kernel | exact rfl), (by first | decide +kernel | exact rfl)⟩⟩⟩⟩⟩⟩⟩⟩⟩,
   ⟨ox .none .imm .none .none 0, ⟨withEff (on gp 3) { ef with inject := false }, ⟨gp, ⟨(by first | decide +kernel | exact rfl), ⟨(by first | decide +kernel | exact rfl), ⟨(by first | decide +kernel | exact rfl), (by first | decide +kernel | exact rfl)⟩⟩⟩⟩⟩⟩⟩

/-- The hypotheses of BStoreLoads are met. -/
theorem witness_b_store_loads :
    (∃ o : OpX, ∃ s : State, ∃ g : Group, ∃ b : Block, ∃ pages : List Nat, ∃ t1 : State, (Issues s g b) ∧ ((s.cur.lanes ≠ 0) ∧ (((s.low g Forms.bsld 0 (.x o) 3).psn = none) ∧ (let td := g.tAt o.dst.num
      let r := Brec.of (g.bAt o.sa.num)
      let n := (s.low g Forms.bsld 0 (.x o) 3).bits.toNat
      (tdReserved td = false) ∧ ((r.res = 0) ∧ ((tdKind td = 2) ∧ ((tdFits td = true) ∧ ((tdBase td % 256 = 0) ∧ ((n < tdNslot td) ∧ ((tdBase td + 256 * tdSlotsz td * (n + 1) ≤ b.bBytes) ∧ (((issuing s g).bsldRecord b r (tdFmt td) = none) ∧ ((16384 ≤ r.extent.toNat) ∧ (((s.core s.cur.core).tdBusy s.cur.key g.blk o.dst.num = false) ∧ (((s.core s.cur.core).bslds.length < 8) ∧ (((issuing s g).bsldPages s.cur.core (s.rootOf b.launch) r.base (tileBytes (tdFmt td)) (tdFmt td) = (.ok pages, t1))))))))))))))))) ∧
    (∃ s : State, ∃ core : Nat, ∃ x : Bsld, ((s.core core).bslds = [x]) ∧ ((s.ecc = []) ∧ ((x.pages.any (fun p => unwritten (s.core core).reqs (fun _ => false) (p / 4096 * 4096) 4096) = false)))) ∧
    (∃ x : Bsld, ∃ i : Nat, ∃ p : Nat, (fmtLine x.code = none) ∧ ((16384 ≤ x.extent) ∧ ((i < tileBytes x.code) ∧ ((x.pages[(x.base.toNat % 4096 + i) / 4096]? = some p))))) :=
  ⟨⟨ox (.t 0) (.b 0) .imm .none 0, ⟨tabled (withEff (on gpTd 3) ef) 0x80 2, ⟨gpTd, ⟨bk, ⟨[dramLoc 0 0, dramLoc 0 4096, dramLoc 0 8192, dramLoc 0 12288], ⟨bsPages.2, ⟨⟨rfl, rfl, rfl⟩, ⟨(by first | decide +kernel | exact rfl), ⟨(by first | decide +kernel | exact rfl), ⟨(by first | decide +kernel | exact rfl), ⟨(by first | decide +kernel | exact rfl), ⟨(by first | decide +kernel | exact rfl), ⟨(by first | decide +kernel | exact rfl), ⟨(by first | decide +kernel | exact rfl), ⟨(by first | decide +kernel | exact rfl), ⟨(by first | decide +kernel | exact rfl), ⟨(by exact record_ok _ _), ⟨(by first | decide +kernel | exact rfl), ⟨(by first | decide +kernel | exact rfl), ⟨(by first | decide +kernel | exact rfl), (Prod.ext (ok_of (by decide +kernel)) rfl)⟩⟩⟩⟩⟩⟩⟩⟩⟩⟩⟩⟩⟩⟩⟩⟩⟩⟩⟩⟩,
   ⟨(on gp 3).putCore 0 { (on gp 3).core 0 with bslds := [bsl] }, ⟨0, ⟨bsl, ⟨(by first | decide +kernel | exact rfl), ⟨(by first | decide +kernel | exact rfl), (by first | decide +kernel | exact rfl)⟩⟩⟩⟩⟩,
   ⟨bsl, ⟨16383, ⟨12288, ⟨(by first | decide +kernel | exact rfl), ⟨(by first | decide +kernel | exact rfl), ⟨(by first | decide +kernel | exact rfl), (by first | decide +kernel | exact rfl)⟩⟩⟩⟩⟩⟩⟩

/-- The hypotheses of AnvilIterates are met. -/
theorem witness_anvil_iterates :
    (∃ s : State, ∃ core : Nat, ∃ j : Job, ((s.core core).running = none) ∧ (((s.core core).lent = none) ∧ (((s.core core).jobs.find? (fun j => j.st == .queued) = some j) ∧ ((s.jobHeld j = false) ∧ ((j.follower = none)))))) ∧
    (∃ s : State, ∃ core : Nat, ∃ b : Block, ∃ j : Job, ∃ tile : Nat, ∃ loc : Nat, ((s.core core).running = some j) ∧ ((s.block? j.blk = some b) ∧ ((j.st = .run) ∧ ((j.flt = none) ∧ ((j.iter < j.total) ∧ ((s.jobHeld j = false) ∧ ((j.turned = true ∨ j.iter = 0) ∧ ((s.slotFull j j.head = true) ∧ ((scaleCode (tdFmt j.atd) = 0) ∧ ((scaleCode (tdFmt j.btd) = 0) ∧ ((j.follower = none) ∧ ((j.wild = false) ∧ ((j.wrote = []) ∧ ((j.next ≤ s.now) ∧ (((s.core core).injector = none) ∧ ((s.ringSlot j j.head = some loc) ∧ (let mi := (j.at j.iter).1
      let ni := (j.at j.iter).2.1
      let kc := (j.at j.iter).2.2
      (b.tiles[j.fld 680 678 + mi * j.nt + ni]? = some tile) ∧ (let bb := core * Config.bstBytes + b.b0 * 4096 + tdBase j.btd + 256 * tdSlotsz j.btd * (kc * j.nt + ni)
      let x := tileElem (tdFmt j.atd) (fun i => s.byteAt (loc + i))
      let y := tileElem (tdFmt j.btd) (fun i => s.bst.byte (bb + i))
      (∀ e < 16384, (x e).special = false ∧ (y e).special = false) ∧ ((((chunkOf x y (s.bsumAt bb y)).decide).1 = .good)))))))))))))))))))) :=
  ⟨⟨withJob (on gp 3) { jr with st := .queued }, ⟨0, ⟨{ jr with st := .queued }, ⟨(by first | decide +kernel | exact rfl), ⟨(by first | decide +kernel | exact rfl), ⟨(by first | decide +kernel | exact rfl), ⟨(by first | decide +kernel | exact rfl), (by first | decide +kernel | exact rfl)⟩⟩⟩⟩⟩⟩⟩,
   ⟨withJob (on gp 3) jr, ⟨0, ⟨bk, ⟨jr, ⟨0, ⟨sramLoc 0 0, ⟨(by first | decide +kernel | exact rfl), ⟨(by first | decide +kernel | exact rfl), ⟨(by first | decide +kernel | exact rfl), ⟨(by first | decide +kernel | exact rfl), ⟨(by first | decide +kernel | exact rfl), ⟨(by first | decide +kernel | exact rfl), ⟨(by first | decide +kernel | exact rfl), ⟨(by first | decide +kernel | exact rfl), ⟨(by first | decide +kernel | exact rfl), ⟨(by first | decide +kernel | exact rfl), ⟨(by first | decide +kernel | exact rfl), ⟨(by first | decide +kernel | exact rfl), ⟨(by first | decide +kernel | exact rfl), ⟨(by first | decide +kernel | exact rfl), ⟨(by first | decide +kernel | exact rfl), ⟨(by first | decide +kernel | exact rfl), ⟨(by first | decide +kernel | exact rfl), ⟨(fun e _ => ⟨uint8_finite _ e, uint8_finite _ e⟩), (chunk_zero (uint8_zero (fun i => by exact jr_ring _)) (uint8_zero (fun i => by exact jr_bst _)) (jr_bsum (uint8_zero (fun i => by exact jr_bst _)) _))⟩⟩⟩⟩⟩⟩⟩⟩⟩⟩⟩⟩⟩⟩⟩⟩⟩⟩⟩⟩⟩⟩⟩⟩⟩

/-- The hypotheses of ChunkSumIsExact are met. -/
theorem witness_chunk_sum_is_exact :
    (∃ a : Nat → FV, ∃ b : Nat → FV, ∃ bs : Nat → FV, (∀ e < 16384, (a e).special = false ∧ (b e).special = false) ∧ ((∀ k < 128, (bs k).special = false ∧ FV.cmp (bs k) (bsumOf b k) = 0))) :=
  ⟨fun _ => .fin false 0 0, ⟨fun _ => .fin false 0 0, ⟨fun _ => .fin false 0 0, ⟨(fun _ _ => ⟨rfl, rfl⟩), (fun k _ => ⟨rfl, eq_of_beq (FVZero.same (x := .fin false 0 0) ⟨_, _, rfl⟩ (FVZero.exactSum 128 (fun _ => ⟨_, _, rfl⟩)))⟩)⟩⟩⟩⟩

/-- The hypotheses of AnvilDrainsAndEnds are met. -/
theorem witness_anvil_drains_and_ends :
    (∃ s : State, ∃ t1 : State, ∃ core : Nat, ∃ fmt : Nat, ∃ b : Block, ∃ j : Job, ∃ tile : Nat, ∃ loc : Nat, ∃ ga : DWord, ((s.core core).running = some j) ∧ ((s.block? j.blk = some b) ∧ ((j.st = .run) ∧ ((j.flt = none) ∧ ((j.iter = j.total) ∧ ((j.fld 681 681 = 1) ∧ ((j.follower = none) ∧ ((j.drainAt < j.mt * j.nt * 16384) ∧ ((j.next ≤ s.now) ∧ ((s.jobHeld j = false) ∧ (let mi := j.drainAt / 16384 / j.nt
      let ni := j.drainAt / 16384 % j.nt
      let e := j.drainAt % 16384
      (b.tiles[j.fld 680 678 + mi * j.nt + ni]? = some tile) ∧ (((s.crecCheck core (s.rootOf b.launch) (j.record 384)).1 = .ok fmt) ∧ (let n := if fmt ≥ 2 then 2 else 4
      (s.engineAcc b (j.record 384) .write n ((128 * mi + e / 128) * j.fld 735 704 + 128 * ni + e % 128) = (.ok (some (loc, ga)), t1)) ∧ ((s.frozen loc = false) ∧ ((∀ d, (s.die d).remap = [])))))))))))))))) ∧
    (∃ s : State, ∃ core : Nat, ∃ j : Job, ∃ g : Group, ((s.core core).running = some j) ∧ ((j.st = .run) ∧ ((j.flt = none) ∧ ((j.iter = j.total) ∧ ((j.next ≤ s.now) ∧ ((j.drainAt = j.drains) ∧ ((j.follower = none) ∧ ((j.orphan = false) ∧ ((j.head < 1024) ∧ ((s.groups = [(j.key, g)]) ∧ ((g.blk = j.blk) ∧ ((g.exited = false) ∧ ((coreOf j.key = core) ∧ ((g.jwait = none))))))))))))))) ∧
    (∃ s : State, ∃ core : Nat, ∃ j : Job, ∃ g : Group, ((s.core core).running = some j) ∧ ((j.st = .run) ∧ ((j.flt = none) ∧ ((j.iter = j.total) ∧ ((j.next ≤ s.now) ∧ ((j.drainAt = j.drains) ∧ ((j.follower = none) ∧ ((j.orphan = false) ∧ ((j.head < 1024) ∧ ((s.groups = [(j.key, g)]) ∧ ((g.blk = j.blk) ∧ ((g.exited = false) ∧ ((coreOf j.key = core) ∧ (∃ w : DWord × BitVec 32, (g.jwait = some (j.id, w)))))))))))))))) ∧
    (∃ s : State, ∃ core : Nat, ∃ j : Job, ((s.core core).jobs.find? (fun j => (j.st == .run && j.flt.isSome) || s.uncorrWork core j) = some j) ∧ ((j.st = .run) ∧ ((j.orphan = false)))) :=
  ⟨⟨withJob (on gp 3) jrC, ⟨withJob (on gp 3) jrC, ⟨0, ⟨0, ⟨bk, ⟨jrC, ⟨0, ⟨sramLoc 0 0, ⟨0x8000000000000000, ⟨(by first | decide +kernel | exact rfl), ⟨(by first | decide +kernel | exact rfl), ⟨(by first | decide +kernel | exact rfl), ⟨(by first | decide +kernel | exact rfl), ⟨(by first | decide +kernel | exact rfl), ⟨(by first | decide +kernel | exact rfl), ⟨(by first | decide +kernel | exact rfl), ⟨(by first | decide +kernel | exact rfl), ⟨(by first | decide +kernel | exact rfl), ⟨(by first | decide +kernel | exact rfl), ⟨(by first | decide +kernel | exact rfl), ⟨(by first | decide +kernel | exact rfl), ⟨(engineAcc_window (by exact rfl) (by decide +kernel) (by decide +kernel) (by decide +kernel)), ⟨(by first | decide +kernel | exact rfl), (remap_of _ rfl)⟩⟩⟩⟩⟩⟩⟩⟩⟩⟩⟩⟩⟩⟩⟩⟩⟩⟩⟩⟩⟩⟩⟩,
   ⟨withJob (on gp 3) { jr with iter := 1 }, ⟨0, ⟨{ jr with iter := 1 }, ⟨gp, ⟨(by first | decide +kernel | exact rfl), ⟨(by first | decide +kernel | exact rfl), ⟨(by first | decide +kernel | exact rfl), ⟨(by first | decide +kernel | exact rfl), ⟨(by first | decide +kernel | exact rfl), ⟨(by first | decide +kernel | exact rfl), ⟨(by first | decide +kernel | exact rfl), ⟨(by first | decide +kernel | exact rfl), ⟨(by first | decide +kernel | exact rfl), ⟨(by first | decide +kernel | exact rfl), ⟨(by first | decide +kernel | exact rfl), ⟨(by first | decide +kernel | exact rfl), ⟨(by first | decide +kernel | exact rfl), (by first | decide +kernel | exact rfl)⟩⟩⟩⟩⟩⟩⟩⟩⟩⟩⟩⟩⟩⟩⟩⟩⟩,
   ⟨{ withJob (on gp 3) { jr with iter := 1 } with groups := [(0, gpJw)] }, ⟨0, ⟨{ jr with iter := 1 }, ⟨gpJw, ⟨(by first | decide +kernel | exact rfl), ⟨(by first | decide +kernel | exact rfl), ⟨(by first | decide +kernel | exact rfl), ⟨(by first | decide +kernel | exact rfl), ⟨(by first | decide +kernel | exact rfl), ⟨(by first | decide +kernel | exact rfl), ⟨(by first | decide +kernel | exact rfl), ⟨(by first | decide +kernel | exact rfl), ⟨(by first | decide +kernel | exact rfl), ⟨(by first | decide +kernel | exact rfl), ⟨(by first | decide +kernel | exact rfl), ⟨(by first | decide +kernel | exact rfl), ⟨(by first | decide +kernel | exact rfl), ⟨(12, 1), (by first | decide +kernel | exact rfl)⟩⟩⟩⟩⟩⟩⟩⟩⟩⟩⟩⟩⟩⟩⟩⟩⟩⟩,
   ⟨withJob (on gp 3) { jr with flt := some (0x80, 8) }, ⟨0, ⟨{ jr with flt := some (0x80, 8) }, ⟨(by first | decide +kernel | exact rfl), ⟨(by first | decide +kernel | exact rfl), (by first | decide +kernel | exact rfl)⟩⟩⟩⟩⟩⟩

/-- The hypotheses of RecordInstructions are met. -/
theorem witness_record_instructions :
    (∃ o : OpX, ∃ s : State, ∃ g : Group, ∃ b : Block, ∃ gr : Nat, (Issues s g b) ∧ ((s.cur.lanes ≠ 0) ∧ (((s.emitNode g o).psn = none) ∧ ((s.emitCheck g o = none) ∧ ((g.graph = some gr) ∧ ((s.isStage g = false ∨ g.node ≠ some (s.emitNode g o).bits.toNat))))))) ∧
    (∃ s : State, ∃ g : Group, (s.group? s.cur.key = some g) ∧ ((s.cur.lanes ≠ 0) ∧ ((g.node.isSome)))) ∧
    (∃ o : OpX, ∃ s : State, ∃ g : Group, (s.group? s.cur.key = some g) ∧ ((s.cur.lanes ≠ 0) ∧ ((g.node.isSome) ∧ ((∀ l ∈ lanesOf s.cur.lanes, (s.sourceP g o.sa l).psn = none) ∧ ((∀ l ∈ lanesOf s.cur.lanes, (g.lane l).held.isSome)))))) ∧
    (∃ s : State, ∃ g : Group, (s.group? s.cur.key = some g) ∧ ((s.cur.lanes ≠ 0) ∧ ((g.node = none)))) :=
  ⟨⟨ox .none .imm (.v 0) (.v 1) 0, ⟨onVane nd { gp with graph := some 0 }, ⟨{ gp with graph := some 0 }, ⟨bk, ⟨0, ⟨⟨rfl, rfl, rfl⟩, ⟨(by first | decide +kernel | exact rfl), ⟨(by first | decide +kernel | exact rfl), ⟨(by first | decide +kernel | exact rfl), ⟨(by first | decide +kernel | exact rfl), (Or.inl (by decide +kernel))⟩⟩⟩⟩⟩⟩⟩⟩⟩⟩,
   ⟨onVane nd gpNode, ⟨gpNode, ⟨(by first | decide +kernel | exact rfl), ⟨(by first | decide +kernel | exact rfl), (by first | decide +kernel | exact rfl)⟩⟩⟩⟩,
   ⟨ox .none (.p 7) .none .none 0, ⟨onVane nd gpHeld, ⟨gpHeld, ⟨(by first | decide +kernel | exact rfl), ⟨(by first | decide +kernel | exact rfl), ⟨(by first | decide +kernel | exact rfl), ⟨(by first | decide +kernel | exact rfl), (by first | decide +kernel | exact rfl)⟩⟩⟩⟩⟩⟩⟩,
   ⟨on gp 3, ⟨gp, ⟨(by first | decide +kernel | exact rfl), ⟨(by first | decide +kernel | exact rfl), (by first | decide +kernel | exact rfl)⟩⟩⟩⟩⟩

/-- The hypotheses of SystemCalls are met. -/
theorem witness_system_calls :
    (∃ o : OpX, ∃ s : State, ∃ g : Group, ∃ g0 : Group, ∃ b : Block, ∃ e : Eff, ∃ r : RingHdr, ∃ num : Word, ∃ args : List Word, (Issues s g b) ∧ ((s.cur.lanes ≠ 0) ∧ ((s.effOf g.blk = some e) ∧ ((s.ringOf e = some r) ∧ ((ringTrap (some r) = none) ∧ ((s.callArgs g o = .ok (num, args)) ∧ ((s.viewsFor (g.advance s.cur) o.dst = .ok g0) ∧ ((s.cur.slice < 6) ∧ ((s.cur.slot < 16) ∧ ((∀ d, (s.die d).remap = []))))))))))) ∧
    (∃ o : OpX, ∃ s : State, ∃ g : Group, ∃ g0 : Group, ∃ b : Block, ∃ e : Eff, ∃ r : RingHdr, ∃ num : Word, ∃ args : List Word, (Issues s g b) ∧ ((s.cur.lanes ≠ 0) ∧ ((s.effOf g.blk = some e) ∧ ((s.ringOf e = some r) ∧ ((ringTrap (some r) = none) ∧ ((s.callArgs g o = .ok (num, args)) ∧ ((s.viewsFor (g.advance s.cur) o.dst = .ok g0) ∧ ((s.cur.slice < 6) ∧ ((s.cur.slot < 16) ∧ ((∀ d, (s.die d).remap = []) ∧ (∃ k : Nat, (g.ticket = some k)))))))))))) ∧
    (∃ o : OpX, ∃ s : State, ∃ g : Group, ∃ g0 : Group, ∃ b : Block, ∃ e : Eff, ∃ r : RingHdr, ∃ num : Word, ∃ args : List Word, (Issues s g b) ∧ ((s.cur.lanes ≠ 0) ∧ ((s.effOf g.blk = some e) ∧ ((s.ringOf e = some r) ∧ ((ringTrap (some r) = none) ∧ ((s.callArgs g o = .ok (num, args)) ∧ ((s.viewsFor (g.advance s.cur) o.dst = .ok g0) ∧ ((s.cur.slice < 6) ∧ ((s.cur.slot < 16) ∧ ((∀ d, (s.die d).remap = []) ∧ ((g.ticket = none) ∧ ((r.room = false))))))))))))) ∧
    (∃ s : State, ∃ g : Group, ∃ e : Eff, (s.group? s.cur.key = some g) ∧ ((s.cur.lanes ≠ 0) ∧ ((s.effOf g.blk = some e) ∧ (∃ c : Nat, (ringTrap (s.ringOf e) = some c))))) ∧
    (∃ o : OpX, ∃ s : State, ∃ g : Group, ∃ e : Eff, (s.group? s.cur.key = some g) ∧ ((s.cur.lanes ≠ 0) ∧ ((s.effOf g.blk = some e) ∧ (∃ p : Nat, (ringTrap (s.ringOf e) = none) ∧ ((s.callArgs g o = .error p)))))) ∧
    (∃ s : State, ∃ key : Nat, ∃ g : Group, ∃ pc : DWord, ∃ r : RingHdr, (s.group? key = some g) ∧ ((g.draw = some pc) ∧ (((s.effOf g.blk).bind s.ringOf = some r) ∧ ((r.room = true) ∧ ((∀ d, (s.die d).remap = [])))))) ∧
    (∃ s : State, ∃ key : Nat, ∃ g : Group, ∃ pc : DWord, ∃ r : RingHdr, (s.group? key = some g) ∧ ((g.draw = some pc) ∧ (((s.effOf g.blk).bind s.ringOf = some r) ∧ ((r.room = false))))) :=
  ⟨⟨ox (.s 62) .imm .none .none 5, ⟨onRing false gp, ⟨gp, ⟨vf (onRing false gp) gp (.s 62), ⟨bk, ⟨{ ef with sysring := 0x2000 }, ⟨ringH false, ⟨5, ⟨List.replicate 8 0, ⟨⟨rfl, rfl, rfl⟩, ⟨(by first | decide +kernel | exact rfl), ⟨(by first | decide +kernel | exact rfl), ⟨(by first | decide +kernel | exact rfl), ⟨(by first | decide +kernel | exact rfl), ⟨(by first | decide +kernel | exact rfl), ⟨(by exact rfl), ⟨(by first | decide +kernel | exact rfl), ⟨(by first | decide +kernel | exact rfl), (remap_of _ rfl)⟩⟩⟩⟩⟩⟩⟩⟩⟩⟩⟩⟩⟩⟩⟩⟩⟩⟩,
   ⟨ox (.s 62) .imm .none .none 5, ⟨onRing true { gp with ticket := some 4 }, ⟨{ gp with ticket := some 4 }, ⟨vf (onRing true { gp with ticket := some 4 }) { gp with ticket := some 4 } (.s 62), ⟨bk, ⟨{ ef with sysring := 0x2000 }, ⟨ringH true, ⟨5, ⟨List.replicate 8 0, ⟨⟨rfl, rfl, rfl⟩, ⟨(by first | decide +kernel | exact rfl), ⟨(by first | decide +kernel | exact rfl), ⟨(by first | decide +kernel | exact rfl), ⟨(by first | decide +kernel | exact rfl), ⟨(by first | decide +kernel | exact rfl), ⟨(by exact rfl), ⟨(by first | decide +kernel | exact rfl), ⟨(by first | decide +kernel | exact rfl), ⟨(remap_of _ rfl), ⟨4, (by first | decide +kernel | exact rfl)⟩⟩⟩⟩⟩⟩⟩⟩⟩⟩⟩⟩⟩⟩⟩⟩⟩⟩⟩⟩,
   ⟨ox (.s 62) .imm .none .none 5, ⟨onRing true gp, ⟨gp, ⟨vf (onRing true gp) gp (.s 62), ⟨bk, ⟨{ ef with sysring := 0x2000 }, ⟨ringH true, ⟨5, ⟨List.replicate 8 0, ⟨⟨rfl, rfl, rfl⟩, ⟨(by first | decide +kernel | exact rfl), ⟨(by first | decide +kernel | exact rfl), ⟨(by first | decide +kernel | exact rfl), ⟨(by first | decide +kernel | exact rfl), ⟨(by first | decide +kernel | exact rfl), ⟨(by exact rfl), ⟨(by first | decide +kernel | exact rfl), ⟨(by first | decide +kernel | exact rfl), ⟨(remap_of _ rfl), ⟨(by first | decide +kernel | exact rfl), (by first | decide +kernel | exact rfl)⟩⟩⟩⟩⟩⟩⟩⟩⟩⟩⟩⟩⟩⟩⟩⟩⟩⟩⟩⟩,
   ⟨withEff (on gp 3) ef, ⟨gp, ⟨ef, ⟨(by first | decide +kernel | exact rfl), ⟨(by first | decide +kernel | exact rfl), ⟨(by first | decide +kernel | exact rfl), ⟨Cause.nosysring, (by first | decide +kernel | exact rfl)⟩⟩⟩⟩⟩⟩⟩,
   ⟨ox (.s 62) (.s 62) .none .none 5, ⟨onRing false gpPs, ⟨gpPs, ⟨{ ef with sysring := 0x2000 }, ⟨(by first | decide +kernel | exact rfl), ⟨(by first | decide +kernel | exact rfl), ⟨(by first | decide +kernel | exact rfl), ⟨3, ⟨(by first | decide +kernel | exact rfl), (error_of (by decide +kernel))⟩⟩⟩⟩⟩⟩⟩⟩⟩,
   ⟨onRing false { gp with draw := some 0 }, ⟨0, ⟨{ gp with draw := some 0 }, ⟨0, ⟨ringH false, ⟨(by first | decide +kernel | exact rfl), ⟨(by first | decide +kernel | exact rfl), ⟨(by first | decide +kernel | exact rfl), ⟨(by first | decide +kernel | exact rfl), (remap_of _ rfl)⟩⟩⟩⟩⟩⟩⟩⟩⟩,
   ⟨onRing true { gp with draw := some 0 }, ⟨0, ⟨{ gp with draw := some 0 }, ⟨0, ⟨ringH true, ⟨(by first | decide +kernel | exact rfl), ⟨(by first | decide +kernel | exact rfl), ⟨(by first | decide +kernel | exact rfl), (by first | decide +kernel | exact rfl)⟩⟩⟩⟩⟩⟩⟩⟩⟩

/-- The hypotheses of SystemCallCompletions are met. -/
theorem witness_system_call_completions :
    (∃ v : DWord, (v.extractLsb' 32 16 = 0)) ∧
    (∃ v : DWord, (v.extractLsb' 32 16 ≠ 0)) ∧
    (∃ s : State, ∃ c : Completion, ∃ key : Nat, ∃ g : Group, ∃ k : Call, ∃ n : BitVec 6, (s.completions = [c]) ∧ ((s.caller c.region c.ticket = some (key, g)) ∧ ((g.calls = [k]) ∧ ((k.ticket = c.ticket) ∧ ((k.dst = .s n) ∧ ((n.toNat + 1 < 64) ∧ ((g.twin = none)))))))) ∧
    (∃ s : State, ∃ c : Completion, (s.completions = [c]) ∧ ((s.caller c.region c.ticket = none) ∧ (let saved := ∃ x ∈ s.blocks, x.2.region = c.region ∧ ∃ g ∈ x.2.sgroups, ∃ k ∈ g.calls, k.ticket = c.ticket
      (saved)))) ∧
    (∃ s : State, ∃ c : Completion, (s.completions = [c]) ∧ ((s.caller c.region c.ticket = none) ∧ (let saved := ∃ x ∈ s.blocks, x.2.region = c.region ∧ ∃ g ∈ x.2.sgroups, ∃ k ∈ g.calls, k.ticket = c.ticket
      (¬ saved)))) :=
  ⟨⟨0, (by first | decide +kernel | exact rfl)⟩,
   ⟨0x100000000, (by first | decide +kernel | exact rfl)⟩,
   ⟨{ withEff (on gpCallS 3) ef with completions := [cmpl] }, ⟨cmpl, ⟨0, ⟨gpCallS, ⟨clS, ⟨62, ⟨(by first | decide +kernel | exact rfl), ⟨(by first | decide +kernel | exact rfl), ⟨(by first | decide +kernel | exact rfl), ⟨(by first | decide +kernel | exact rfl), ⟨(by first | decide +kernel | exact rfl), ⟨(by first | decide +kernel | exact rfl), (by first | decide +kernel | exact rfl)⟩⟩⟩⟩⟩⟩⟩⟩⟩⟩⟩⟩,
   ⟨{ State.reset with blocks := [(0, bkSaved)], completions := [cmpl] }, ⟨cmpl, ⟨(by first | decide +kernel | exact rfl), ⟨(by first | decide +kernel | exact rfl), ⟨(0, bkSaved), by decide +kernel, rfl, gpCallS, by decide +kernel, clS, by decide +kernel, rfl⟩⟩⟩⟩⟩,
   ⟨{ State.reset with completions := [cmpl] }, ⟨cmpl, ⟨(by first | decide +kernel | exact rfl), ⟨(by first | decide +kernel | exact rfl), (by intro sv h; obtain ⟨x, hx, _⟩ := h; cases hx)⟩⟩⟩⟩⟩

/-- The hypotheses of BreaksAndTimers are met. -/
theorem witness_breaks_and_timers :
    (∃ o : OpX, ∃ s : State, ∃ g : Group, (s.group? s.cur.key = some g) ∧ ((s.cur.lanes ≠ 0) ∧ (((s.low g Forms.brk 0 (.x o) 2).psn = none)))) ∧
    (∃ o : OpX, ∃ s : State, ∃ g : Group, ∃ e : Eff, (s.group? s.cur.key = some g) ∧ ((s.cur.lanes ≠ 0) ∧ (((s.lowPair g Forms.timerarm 0 (.x o) 2).2 = none) ∧ (((s.low g Forms.timerarm 0 (.x o) 3).psn = none) ∧ ((s.effOf g.blk = some e) ∧ ((g.twin = none) ∧ (let n := (s.low g Forms.timerarm 0 (.x o) 3).bits.toNat
      (n ≤ 3) ∧ ((e.tmrgrant.testBit n = true))))))))) ∧
    (∃ o : OpX, ∃ s : State, ∃ g : Group, ∃ e : Eff, (s.group? s.cur.key = some g) ∧ ((s.cur.lanes ≠ 0) ∧ (((s.lowPair g Forms.timerarm 0 (.x o) 2).2 = none) ∧ (((s.low g Forms.timerarm 0 (.x o) 3).psn = none) ∧ ((s.effOf g.blk = some e) ∧ ((g.twin = none) ∧ (let n := (s.low g Forms.timerarm 0 (.x o) 3).bits.toNat
      (3 < n ∨ e.tmrgrant.testBit n = false)))))))) ∧
    (∃ o : OpX, ∃ s : State, ∃ g : Group, ∃ e : Eff, (s.group? s.cur.key = some g) ∧ ((s.cur.lanes ≠ 0) ∧ (((s.lowPair g Forms.timerarm 0 (.x o) 2).2 = none) ∧ (((s.low g Forms.timerarm 0 (.x o) 3).psn = none) ∧ ((s.effOf g.blk = some e) ∧ ((g.twin = none) ∧ (let n := (s.low g Forms.timerarm 0 (.x o) 3).bits.toNat
      (3 < n ∨ e.tmrgrant.testBit n = false)))))))) ∧
    (∃ s : State, ∃ core : Nat, ∃ n : Nat, (SMap.get 0 (s.core core).tmrcmp n ≠ 0) ∧ ((SMap.get 0 (s.core core).tmrcmp n ≤ timeAt (dieOf core) (s.now / 10 * 10)) ∧ ((n < 4)))) ∧
    (∃ s : State, ∃ core : Nat, ∃ n : Nat, (SMap.get 0 (s.core core).tmrcmp n = 0 ∨ timeAt (dieOf core) (s.now / 10 * 10) < SMap.get 0 (s.core core).tmrcmp n)) ∧
    (∃ s : State, ∃ core : Nat, ∃ n : Nat, (SMap.get 0 (s.core core).tmrcmp n = 0 ∨ timeAt (dieOf core) (s.now / 10 * 10) < SMap.get 0 (s.core core).tmrcmp n)) :=
  ⟨⟨ox .none .imm .none .none 5, ⟨on gp 3, ⟨gp, ⟨(by first | decide +kernel | exact rfl), ⟨(by first | decide +kernel | exact rfl), (by first | decide +kernel | exact rfl)⟩⟩⟩⟩⟩,
   ⟨ox .none .imm .imm .none 1, ⟨withEff (on gp 3) ef, ⟨gp, ⟨ef, ⟨(by first | decide +kernel | exact rfl), ⟨(by first | decide +kernel | exact rfl), ⟨(by first | decide +kernel | exact rfl), ⟨(by first | decide +kernel | exact rfl), ⟨(by first | decide +kernel | exact rfl), ⟨(by first | decide +kernel | exact rfl), ⟨(by first | decide +kernel | exact rfl), (by first | decide +kernel | exact rfl)⟩⟩⟩⟩⟩⟩⟩⟩⟩⟩⟩,
   ⟨ox .none .imm .imm .none 1, ⟨withEff (on gp 3) { ef with tmrgrant := 0 }, ⟨gp, ⟨{ ef with tmrgrant := 0 }, ⟨(by first | decide +kernel | exact rfl), ⟨(by first | decide +kernel | exact rfl), ⟨(by first | decide +kernel | exact rfl), ⟨(by first | decide +kernel | exact rfl), ⟨(by first | decide +kernel | exact rfl), ⟨(by first | decide +kernel | exact rfl), (by first | decide +kernel | exact rfl)⟩⟩⟩⟩⟩⟩⟩⟩⟩⟩,
   ⟨ox .none .imm .imm .none 4, ⟨withEff (on gp 3) ef, ⟨gp, ⟨ef, ⟨(by first | decide +kernel | exact rfl), ⟨(by first | decide +kernel | exact rfl), ⟨(by first | decide +kernel | exact rfl), ⟨(by first | decide +kernel | exact rfl), ⟨(by first | decide +kernel | exact rfl), ⟨(by first | decide +kernel | exact rfl), (by first | decide +kernel | exact rfl)⟩⟩⟩⟩⟩⟩⟩⟩⟩⟩,
   ⟨{ (on gp 3).putCore 0 { (on gp 3).core 0 with tmrcmp := [(3, 1)] } with now := 10 }, ⟨0, ⟨3, ⟨(by first | decide +kernel | exact rfl), ⟨(by first | decide +kernel | exact rfl), (by first | decide +kernel | exact rfl)⟩⟩⟩⟩⟩,
   ⟨on gp 3, ⟨0, ⟨3, (by first | decide +kernel | exact rfl)⟩⟩⟩,
   ⟨{ (on gp 3).putCore 0 { (on gp 3).core 0 with tmrcmp := [(3, 1000)] } with now := 10 }, ⟨0, ⟨3, (by first | decide +kernel | exact rfl)⟩⟩⟩⟩

/-- The hypotheses of StatusRegisters are met. -/
theorem witness_status_registers :
    (∃ o : OpX, ∃ s : State, ∃ g : Group, ∃ g0 : Group, ∃ n : Nat, (s.group? s.cur.key = some g) ∧ (((s.srIndex g o).bind (·.psn) = none) ∧ ((srCheck o.imm ((s.srIndex g o).map (·.bits.toNat)) false = .ok n) ∧ ((s.viewsFor (g.advance s.cur) o.dst = .ok g0) ∧ ((Sel.within o.dst (if o.imm.getLsbD 12 then 2 else 1) = true)))))) ∧
    (∃ o : OpX, ∃ s : State, ∃ g : Group, ∃ g0 : Group, ∃ n : Nat, (s.group? s.cur.key = some g) ∧ (((s.srIndex g o).bind (·.psn) = none) ∧ ((srCheck o.imm ((s.srIndex g o).map (·.bits.toNat)) false = .ok n) ∧ ((s.viewsFor (g.advance s.cur) o.dst = .ok g0) ∧ ((Sel.within o.dst (if o.imm.getLsbD 12 then 2 else 1) = true)))))) ∧
    (∃ o : OpX, ∃ s : State, ∃ g : Group, ∃ n : Nat, (s.group? s.cur.key = some g) ∧ ((s.cur.lanes ≠ 0) ∧ (((s.srIndex g o).bind (·.psn) = none) ∧ ((if o.imm.getLsbD 12 then (s.lowPair g Forms.wrsr 0 (.x o) 2).2 = none else (s.low g Forms.wrsr 0 (.x o) 2).psn = none) ∧ ((srCheck o.imm ((s.srIndex g o).map (·.bits.toNat)) true = .ok n)))))) ∧
    (∃ o : OpX, ∃ s : State, ∃ g : Group, ∃ n : Nat, (s.group? s.cur.key = some g) ∧ ((s.cur.lanes ≠ 0) ∧ (((s.srIndex g o).bind (·.psn) = none) ∧ ((if o.imm.getLsbD 12 then (s.lowPair g Forms.wrsr 0 (.x o) 2).2 = none else (s.low g Forms.wrsr 0 (.x o) 2).psn = none) ∧ ((srCheck o.imm ((s.srIndex g o).map (·.bits.toNat)) true = .ok n)))))) ∧
    (∃ o : OpX, ∃ s : State, ∃ g : Group, ∃ c : Nat, (s.group? s.cur.key = some g) ∧ (((s.srIndex g o).bind (·.psn) = none) ∧ ((srCheck o.imm ((s.srIndex g o).map (·.bits.toNat)) false = .error c)))) ∧
    (∃ o : OpX, ∃ s : State, ∃ g : Group, ∃ g0 : Group, ∃ n : Nat, (s.group? s.cur.key = some g) ∧ ((s.counter s.cur.key (g.advance s.cur) (field o.imm.toNat 7 0) = some n) ∧ ((s.viewsFor (g.advance s.cur) o.dst = .ok g0) ∧ ((Sel.within o.dst 2 = true))))) ∧
    (∃ k : Nat, k < 4 ∧ (∃ j : Nat, (j ≠ k))) ∧
    (∃ imm : Word, (imm.toNat % 4096 = 5)) ∧
    (∃ imm : Word, (imm.toNat % 4096 = 8) ∧ ((imm.getLsbD 12 = true))) :=
  ⟨⟨ox (.v 0) .none .none .none 0x1009, ⟨on gp 3, ⟨gp, ⟨gp.advance (on gp 3).cur, ⟨9, ⟨(by first | decide +kernel | exact rfl), ⟨(by first | decide +kernel | exact rfl), ⟨(ok_of (by decide +kernel)), ⟨(by first | decide +kernel | exact rfl), (by first | decide +kernel | exact rfl)⟩⟩⟩⟩⟩⟩⟩⟩⟩,
   ⟨ox (.v 0) .none .none .none 0x7F, ⟨on gp 3, ⟨gp, ⟨gp.advance (on gp 3).cur, ⟨0x7F, ⟨(by first | decide +kernel | exact rfl), ⟨(by first | decide +kernel | exact rfl), ⟨(ok_of (by decide +kernel)), ⟨(by first | decide +kernel | exact rfl), (by first | decide +kernel | exact rfl)⟩⟩⟩⟩⟩⟩⟩⟩⟩,
   ⟨ox .none .imm .none .none 0x1, ⟨on gp 3, ⟨gp, ⟨1, ⟨(by first | decide +kernel | exact rfl), ⟨(by first | decide +kernel | exact rfl), ⟨(by first | decide +kernel | exact rfl), ⟨(by first | decide +kernel | exact rfl), (ok_of (by decide +kernel))⟩⟩⟩⟩⟩⟩⟩⟩,
   ⟨ox .none (.v 0) .none .none 0x1002, ⟨on gp 3, ⟨gp, ⟨2, ⟨(by first | decide +kernel | exact rfl), ⟨(by first | decide +kernel | exact rfl), ⟨(by first | decide +kernel | exact rfl), ⟨(by first | decide +kernel | exact rfl), (ok_of (by decide +kernel))⟩⟩⟩⟩⟩⟩⟩⟩,
   ⟨ox (.v 0) .none .none .none 5, ⟨on gp 3, ⟨gp, ⟨0x042, ⟨(by first | decide +kernel | exact rfl), ⟨(by first | decide +kernel | exact rfl), (by exact rfl)⟩⟩⟩⟩⟩⟩,
   ⟨ox (.v 0) .none .none .none 0x13, ⟨on gp 3, ⟨gp, ⟨gp.advance (on gp 3).cur, ⟨0, ⟨(by first | decide +kernel | exact rfl), ⟨(by first | decide +kernel | exact rfl), ⟨(by first | decide +kernel | exact rfl), (by first | decide +kernel | exact rfl)⟩⟩⟩⟩⟩⟩⟩⟩,
   ⟨3, ⟨(by first | decide +kernel | exact rfl), ⟨0, (by first | decide +kernel | exact rfl)⟩⟩⟩,
   ⟨5, (by first | decide +kernel | exact rfl)⟩,
   ⟨0x1008, ⟨(by first | decide +kernel | exact rfl), (by first | decide +kernel | exact rfl)⟩⟩⟩

/-- The hypotheses of CheckpointsAndHints are met. -/
theorem witness_checkpoints_and_hints :
    (∃ s : State, ∃ g : Group, (s.group? s.cur.key = some g) ∧ ((g.twin = none))) ∧
    (∃ s : State, ∃ g : Group, (s.group? s.cur.key = some g) ∧ (∃ tw : Nat, ∃ lead : Bool, (g.twin = some (tw, lead)) ∧ ((s.cur.lanes ≠ 0)))) ∧
    (∃ s : State, ∃ g : Group, (s.group? s.cur.key = some g) ∧ ((s.cur.lanes ≠ 0))) ∧
    (∃ o : OpX, ∃ s : State, ∃ g : Group, (s.group? s.cur.key = some g) ∧ ((s.cur.lanes ≠ 0) ∧ (((s.low g Forms.hintIdle 0 (.x o) 2).psn = none)))) ∧
    (∃ s : State, (s.groups.sorted = true)) :=
  ⟨⟨on gp 3, ⟨gp, ⟨(by first | decide +kernel | exact rfl), (by first | decide +kernel | exact rfl)⟩⟩⟩,
   ⟨on gpTwin 3, ⟨gpTwin, ⟨(by first | decide +kernel | exact rfl), ⟨4, ⟨true, ⟨(by first | decide +kernel | exact rfl), (by first | decide +kernel | exact rfl)⟩⟩⟩⟩⟩⟩,
   ⟨on gp 3, ⟨gp, ⟨(by first | decide +kernel | exact rfl), (by first | decide +kernel | exact rfl)⟩⟩⟩,
   ⟨ox .none .imm .none .none 5, ⟨on gp 3, ⟨gp, ⟨(by first | decide +kernel | exact rfl), ⟨(by first | decide +kernel | exact rfl), (by first | decide +kernel | exact rfl)⟩⟩⟩⟩⟩,
   ⟨on gp 3, (by first | decide +kernel | exact rfl)⟩⟩

/-- The hypotheses of RecordsMove are met. -/
theorem witness_records_move :
    (∃ s : State, ∃ die : Nat, ∃ e : Emitted, ∃ g : Graph, ∃ x : Node, (s.emitted = [e]) ∧ ((s.vops = []) ∧ ((s.graphDie e.graph = die) ∧ ((s.graphs.find? e.graph = some g) ∧ ((g.nodes[e.record.node]? = some x) ∧ ((g.waiting = []) ∧ ((x.fld 223 222 = 0) ∧ ((x.nstage = 0) ∧ ((x.queues ≠ []) ∧ ((s.cycleOver e.cyc = true) ∧ (((x.queue 0).recs.length < x.cap) ∧ ((∀ y ∈ x.ovf, y.1 ≠ 0))))))))))))) ∧
    (∃ s : State, ∃ die : Nat, ∃ e : Emitted, ∃ g : Graph, ∃ x : Node, (s.emitted = [e]) ∧ ((s.vops = []) ∧ ((s.graphDie e.graph = die) ∧ ((s.graphs.find? e.graph = some g) ∧ ((g.nodes[e.record.node]? = some x) ∧ ((g.waiting = []) ∧ ((x.fld 223 222 = 0) ∧ ((x.nstage = 0) ∧ ((x.queues ≠ []) ∧ ((s.cycleOver e.cyc = true) ∧ ((x.cap ≤ (x.queue 0).recs.length) ∧ ((x.ovf.length < 32 * x.fld 287 272))))))))))))) ∧
    (∃ s : State, ∃ die : Nat, ∃ e : Emitted, ∃ g : Graph, ∃ x : Node, (s.emitted = [e]) ∧ ((s.vops = []) ∧ ((s.graphDie e.graph = die) ∧ ((s.graphs.find? e.graph = some g) ∧ ((g.nodes[e.record.node]? = some x) ∧ ((g.waiting = []) ∧ ((x.fld 223 222 = 0) ∧ ((x.nstage = 0) ∧ ((x.queues ≠ []) ∧ ((s.cycleOver e.cyc = true) ∧ ((x.cap ≤ (x.queue 0).recs.length) ∧ ((32 * x.fld 287 272 ≤ x.ovf.length))))))))))))) ∧
    (∃ s : State, ∃ die : Nat, ∃ o : VOp, ∃ x : Node, ∃ r : Rec, (s.emitted = []) ∧ ((s.vops = [o]) ∧ ((s.graphDie o.graph = die) ∧ ((o.take = false) ∧ ((o.record = some r) ∧ ((o.stage = none) ∧ ((NodeIs s o.graph o.node x) ∧ ((s.cycleOver o.cyc = true))))))))) ∧
    (∃ s : State, ∃ die : Nat, ∃ o : VOp, ∃ g : Group, ∃ x : Node, (s.emitted = []) ∧ ((s.vops = [o]) ∧ ((s.graphDie o.graph = die) ∧ ((o.take = true) ∧ ((s.group? o.key = some g) ∧ ((g.graph = some o.graph) ∧ ((g.node = some o.node) ∧ ((o.lane < 32) ∧ (((g.lane o.lane).exited = false) ∧ (((g.lane o.lane).held = none) ∧ ((NodeIs s o.graph o.node x) ∧ ((o.stage = none) ∧ ((o.dst < 7) ∧ ((x.queues ≠ []) ∧ ((s.cycleOver o.cyc = true) ∧ (∃ r : Rec, ∃ l : List Rec, ((x.queue 0).recs = r :: l) ∧ ((r.psn = none)))))))))))))))))) ∧
    (∃ s : State, ∃ die : Nat, ∃ o : VOp, ∃ g : Group, ∃ x : Node, (s.emitted = []) ∧ ((s.vops = [o]) ∧ ((s.graphDie o.graph = die) ∧ ((o.take = true) ∧ ((s.group? o.key = some g) ∧ ((g.graph = some o.graph) ∧ ((g.node = some o.node) ∧ ((o.lane < 32) ∧ (((g.lane o.lane).exited = false) ∧ (((g.lane o.lane).held = none) ∧ ((NodeIs s o.graph o.node x) ∧ ((o.stage = none) ∧ ((o.dst < 7) ∧ ((x.queues ≠ []) ∧ ((s.cycleOver o.cyc = true) ∧ (((x.queue 0).recs = []))))))))))))))))) ∧
    (∃ s : State, ∃ gr : Nat, ∃ n : Nat, ∃ q : Nat, ∃ g : Graph, ∃ x : Node, ∃ r : Rec, (s.graphs.find? gr = some g) ∧ ((g.nodes[n]? = some x) ∧ ((g.waiting = []) ∧ ((x.ovf = [(q, r)]) ∧ ((q < x.queues.length) ∧ (((x.queue q).recs.length < x.cap))))))) ∧
    (∃ s : State, ∃ key : Nat, ∃ g : Group, ∃ pc : DWord, ∃ c : Nat, (s.group? key = some g) ∧ ((g.emitWait = some (pc, c)) ∧ ((g.trap = none) ∧ ((g.fault = none) ∧ ((1048576 ≤ (s.slice (sliceOf key)).tick / 10 - c)))))) ∧
    (∃ s : State, ∃ key : Nat, ∃ g : Group, ∃ pc : DWord, ∃ c : Nat, (s.group? key = some g) ∧ ((g.emitWait = some (pc, c)) ∧ ((g.trap = none) ∧ ((g.fault = none) ∧ (((s.slice (sliceOf key)).tick / 10 - c < 1048576)))))) :=
  ⟨⟨{ onVane nd gp with emitted := [em] }, ⟨0, ⟨em, ⟨{ launch := 0, array := 0, nodes := [nd] }, ⟨nd, ⟨(by first | decide +kernel | exact rfl), ⟨(by first | decide +kernel | exact rfl), ⟨(by first | decide +kernel | exact rfl), ⟨(by first | decide +kernel | exact rfl), ⟨(by first | decide +kernel | exact rfl), ⟨(by first | decide +kernel | exact rfl), ⟨(by first | decide +kernel | exact rfl), ⟨(by first | decide +kernel | exact rfl), ⟨(by first | decide +kernel | exact rfl), ⟨(by first | decide +kernel | exact rfl), ⟨(by first | decide +kernel | exact rfl), (by first | decide +kernel | exact rfl)⟩⟩⟩⟩⟩⟩⟩⟩⟩⟩⟩⟩⟩⟩⟩⟩,
   ⟨{ onVane { nd with desc := BitVec.ofNat 512 (2 ^ 272) } gp with emitted := [em] }, ⟨0, ⟨em, ⟨{ launch := 0, array := 0, nodes := [{ nd with desc := BitVec.ofNat 512 (2 ^ 272) }] }, ⟨{ nd with desc := BitVec.ofNat 512 (2 ^ 272) }, ⟨(by first | decide +kernel | exact rfl), ⟨(by first | decide +kernel | exact rfl), ⟨(by first | decide +kernel | exact rfl), ⟨(by first | decide +kernel | exact rfl), ⟨(by first | decide +kernel | exact rfl), ⟨(by first | decide +kernel | exact rfl), ⟨(by first | decide +kernel | exact rfl), ⟨(by first | decide +kernel | exact rfl), ⟨(by first | decide +kernel | exact rfl), ⟨(by first | decide +kernel | exact rfl), ⟨(by first | decide +kernel | exact rfl), (by first | decide +kernel | exact rfl)⟩⟩⟩⟩⟩⟩⟩⟩⟩⟩⟩⟩⟩⟩⟩⟩,
   ⟨{ onVane { nd with desc := 0 } gp with emitted := [em] }, ⟨0, ⟨em, ⟨{ launch := 0, array := 0, nodes := [{ nd with desc := 0 }] }, ⟨{ nd with desc := 0 }, ⟨(by first | decide +kernel | exact rfl), ⟨(by first | decide +kernel | exact rfl), ⟨(by first | decide +kernel | exact rfl), ⟨(by first | decide +kernel | exact rfl), ⟨(by first | decide +kernel | exact rfl), ⟨(by first | decide +kernel | exact rfl), ⟨(by first | decide +kernel | exact rfl), ⟨(by first | decide +kernel | exact rfl), ⟨(by first | decide +kernel | exact rfl), ⟨(by first | decide +kernel | exact rfl), ⟨(by first | decide +kernel | exact rfl), (by first | decide +kernel | exact rfl)⟩⟩⟩⟩⟩⟩⟩⟩⟩⟩⟩⟩⟩⟩⟩⟩,
   ⟨{ onVane nd gp with vops := [vdone] }, ⟨0, ⟨vdone, ⟨nd, ⟨rc0, ⟨(by first | decide +kernel | exact rfl), ⟨(by first | decide +kernel | exact rfl), ⟨(by first | decide +kernel | exact rfl), ⟨(by first | decide +kernel | exact rfl), ⟨(by first | decide +kernel | exact rfl), ⟨(by first | decide +kernel | exact rfl), ⟨⟨{ launch := 0, array := 0, nodes := [nd] }, by decide +kernel, by decide +kernel⟩, (by first | decide +kernel | exact rfl)⟩⟩⟩⟩⟩⟩⟩⟩⟩⟩⟩⟩,
   ⟨{ onVane { nd with queues := [{ recs := [rc0] }] } gpNode with vops := [vtake] }, ⟨0, ⟨vtake, ⟨gpNode, ⟨{ nd with queues := [{ recs := [rc0] }] }, ⟨(by first | decide +kernel | exact rfl), ⟨(by first | decide +kernel | exact rfl), ⟨(by first | decide +kernel | exact rfl), ⟨(by first | decide +kernel | exact rfl), ⟨(by first | decide +kernel | exact rfl), ⟨(by first | decide +kernel | exact rfl), ⟨(by first | decide +kernel | exact rfl), ⟨(by first | decide +kernel | exact rfl), ⟨(by first | decide +kernel | exact rfl), ⟨(by first | decide +kernel | exact rfl), ⟨⟨{ launch := 0, array := 0, nodes := [{ nd with queues := [{ recs := [rc0] }] }] }, by decide +kernel, by decide +kernel⟩, ⟨(by first | decide +kernel | exact rfl), ⟨(by first | decide +kernel | exact rfl), ⟨(by first | decide +kernel | exact rfl), ⟨(by first | decide +kernel | exact rfl), ⟨rc0, ⟨[], ⟨(by first | decide +kernel | exact rfl), (by first | decide +kernel | exact rfl)⟩⟩⟩⟩⟩⟩⟩⟩⟩⟩⟩⟩⟩⟩⟩⟩⟩⟩⟩⟩⟩⟩⟩,
   ⟨{ onVane nd gpNode with vops := [vtake] }, ⟨0, ⟨vtake, ⟨gpNode, ⟨nd, ⟨(by first | decide +kernel | exact rfl), ⟨(by first | decide +kernel | exact rfl), ⟨(by first | decide +kernel | exact rfl), ⟨(by first | decide +kernel | exact rfl), ⟨(by first | decide +kernel | exact rfl), ⟨(by first | decide +kernel | exact rfl), ⟨(by first | decide +kernel | exact rfl), ⟨(by first | decide +kernel | exact rfl), ⟨(by first | decide +kernel | exact rfl), ⟨(by first | decide +kernel | exact rfl), ⟨⟨{ launch := 0, array := 0, nodes := [nd] }, by decide +kernel, by decide +kernel⟩, ⟨(by first | decide +kernel | exact rfl), ⟨(by first | decide +kernel | exact rfl), ⟨(by first | decide +kernel | exact rfl), ⟨(by first | decide +kernel | exact rfl), (by first | decide +kernel | exact rfl)⟩⟩⟩⟩⟩⟩⟩⟩⟩⟩⟩⟩⟩⟩⟩⟩⟩⟩⟩⟩,
   ⟨onVane { nd with ovf := [(0, rc0)] } gp, ⟨0, ⟨0, ⟨0, ⟨{ launch := 0, array := 0, nodes := [{ nd with ovf := [(0, rc0)] }] }, ⟨{ nd with ovf := [(0, rc0)] }, ⟨rc0, ⟨(by first | decide +kernel | exact rfl), ⟨(by first | decide +kernel | exact rfl), ⟨(by first | decide +kernel | exact rfl), ⟨(by first | decide +kernel | exact rfl), ⟨(by first | decide +kernel | exact rfl), (by first | decide +kernel | exact rfl)⟩⟩⟩⟩⟩⟩⟩⟩⟩⟩⟩⟩,
   ⟨tickAt 10485760 gpEw, ⟨0, ⟨gpEw, ⟨12, ⟨0, ⟨(by first | decide +kernel | exact rfl), ⟨(by first | decide +kernel | exact rfl), ⟨(by first | decide +kernel | exact rfl), ⟨(by first | decide +kernel | exact rfl), (by first | decide +kernel | exact rfl)⟩⟩⟩⟩⟩⟩⟩⟩⟩,
   ⟨tickAt 10485759 gpEw, ⟨0, ⟨gpEw, ⟨12, ⟨0, ⟨(by first | decide +kernel | exact rfl), ⟨(by first | decide +kernel | exact rfl), ⟨(by first | decide +kernel | exact rfl), ⟨(by first | decide +kernel | exact rfl), (by first | decide +kernel | exact rfl)⟩⟩⟩⟩⟩⟩⟩⟩⟩⟩

/-- The hypotheses of BinsLaunch are met. -/
theorem witness_bins_launch :
    (∃ s : State, ∃ die : Nat, ∃ gr : Nat, ∃ n : Nat, ∃ q : Nat, ∃ x : Node, (s.queuesOf die = [(gr, n, q)]) ∧ ((NodeIs s gr n x) ∧ ((s.graphQuiet gr = false) ∧ (((x.queue q).expired = false) ∧ ((q < x.queues.length) ∧ (((x.queue q).recs ≠ []) ∧ (((x.queue q).recs.length < x.fld 208 203) ∧ (((x.queue q).timer = none))))))))) ∧
    (∃ s : State, ∃ die : Nat, ∃ gr : Nat, ∃ n : Nat, ∃ q : Nat, ∃ x : Node, (s.queuesOf die = [(gr, n, q)]) ∧ ((NodeIs s gr n x) ∧ ((s.graphQuiet gr = false) ∧ (((x.queue q).expired = false) ∧ ((q < x.queues.length) ∧ (∃ u : State, ∃ y : Node, ((x.queue q).timer.isSome) ∧ ((0 < x.fld 208 203) ∧ ((x.fld 208 203 ≤ (x.queue q).recs.length) ∧ ((s.launchNode gr n q (x.fld 208 203) = some u) ∧ ((s.timedOut gr n q = false) ∧ ((u.graphQuiet gr = false) ∧ ((NodeIs u gr n y) ∧ (((y.queue q).recs.length < y.fld 208 203) ∧ (((y.queue q).expired = false))))))))))))))) ∧
    (∃ s : State, ∃ die : Nat, ∃ gr : Nat, ∃ n : Nat, ∃ q : Nat, ∃ x : Node, (s.queuesOf die = [(gr, n, q)]) ∧ ((NodeIs s gr n x) ∧ ((s.graphQuiet gr = false) ∧ (((x.queue q).expired = false) ∧ ((q < x.queues.length) ∧ (∃ t0 : Nat, ((x.queue q).timer = some t0) ∧ (((x.queue q).recs ≠ []) ∧ (((x.queue q).recs.length < x.fld 208 203) ∧ ((s.timedOut gr n q = true) ∧ (let s1 := s.setTimer gr n q (some t0) true
      (s1.launchNode gr n q (x.fld 208 203) = none))))))))))) ∧
    (∃ s : State, ∃ die : Nat, ∃ gr : Nat, ∃ n : Nat, ∃ q : Nat, ∃ x : Node, (s.queuesOf die = [(gr, n, q)]) ∧ ((NodeIs s gr n x) ∧ ((s.graphQuiet gr = false) ∧ (((x.queue q).expired = false) ∧ ((q < x.queues.length) ∧ (∃ t0 : Nat, ((x.queue q).timer = some t0) ∧ (((x.queue q).recs ≠ []) ∧ (((x.queue q).recs.length < x.fld 208 203) ∧ ((s.timedOut gr n q = true) ∧ (let s1 := s.setTimer gr n q (some t0) true
      ∃ u : State, ∃ m : Node, (s1.launchNode gr n q (x.fld 208 203) = some u) ∧ ((u.graphQuiet gr = false) ∧ ((NodeIs u gr n m))))))))))))) ∧
    (∃ s : State, ∃ u : State, ∃ gr : Nat, ∃ n : Nat, ∃ q : Nat, ∃ count : Nat, ∃ x : Node, (NodeIs s gr n x) ∧ ((q < x.queues.length) ∧ ((s.launchNode gr n q count = some u)))) ∧
    (∃ s : State, ∃ gr : Nat, ∃ n : Nat, ∃ q : Nat, ∃ t0 : Nat, ∃ x : Node, (NodeIs s gr n x) ∧ (((x.queue q).timer = some t0) ∧ ((x.fld 255 240 ≠ 0) ∧ ((x.fld 255 240 * 1024 ≤ s.now - t0) ∧ (((x.queue q).recs ≠ []) ∧ (let s1 := s.setTimer gr n q (some t0) true
      (s1.launchNode gr n q (x.fld 208 203) = none))))))) ∧
    (∃ s : State, ∃ gr : Nat, ∃ n : Nat, ∃ q : Nat, ∃ t0 : Nat, ∃ x : Node, (NodeIs s gr n x) ∧ (((x.queue q).timer = some t0) ∧ ((x.fld 255 240 ≠ 0) ∧ ((x.fld 255 240 * 1024 ≤ s.now - t0) ∧ (((x.queue q).recs ≠ []) ∧ (let s1 := s.setTimer gr n q (some t0) true
      ∃ u : State, ∃ m : Node, (s1.launchNode gr n q (x.fld 208 203) = some u) ∧ ((NodeIs u gr n m)))))))) :=
  ⟨⟨quiet (onGraph3 (ndC 2 { recs := [rc0] })), ⟨0, ⟨3, ⟨0, ⟨0, ⟨ndC 2 { recs := [rc0] }, ⟨(by first | decide +kernel | exact rfl), ⟨⟨grX (ndC 2 { recs := [rc0] }), by decide +kernel, by decide +kernel⟩, ⟨(by first | decide +kernel | exact rfl), ⟨(by first | decide +kernel | exact rfl), ⟨(by first | decide +kernel | exact rfl), ⟨(by first | decide +kernel | exact rfl), ⟨(by first | decide +kernel | exact rfl), (by first | decide +kernel | exact rfl)⟩⟩⟩⟩⟩⟩⟩⟩⟩⟩⟩⟩⟩,
   ⟨quiet (onGraph3 (ndC 1 { recs := [rc0], timer := some 0 })), ⟨0, ⟨3, ⟨0, ⟨0, ⟨ndC 1 { recs := [rc0], timer := some 0 }, ⟨(by first | decide +kernel | exact rfl), ⟨⟨grX (ndC 1 { recs := [rc0], timer := some 0 }), by decide +kernel, by decide +kernel⟩, ⟨(by first | decide +kernel | exact rfl), ⟨(by first | decide +kernel | exact rfl), ⟨(by first | decide +kernel | exact rfl), ⟨lnd (quiet (onGraph3 (ndC 1 { recs := [rc0], timer := some 0 }))), ⟨ndA (lnd (quiet (onGraph3 (ndC 1 { recs := [rc0], timer := some 0 })))), ⟨(by first | decide +kernel | exact rfl), ⟨(by first | decide +kernel | exact rfl), ⟨(by first | decide +kernel | exact rfl), ⟨(by first | decide +kernel | exact rfl), ⟨(by first | decide +kernel | exact rfl), ⟨(by first | decide +kernel | exact rfl), ⟨⟨grX (ndA (lnd (quiet (onGraph3 (ndC 1 { recs := [rc0], timer := some 0 }))))), by decide +kernel, by decide +kernel⟩, ⟨(by first | decide +kernel | exact rfl), (by first | decide +kernel | exact rfl)⟩⟩⟩⟩⟩⟩⟩⟩⟩⟩⟩⟩⟩⟩⟩⟩⟩⟩⟩⟩⟩,
   ⟨{ quiet { onGraph3 (ndC 2 { recs := [rc0], timer := some 0 }) with now := 1024 } with susp := [(1, { base := 0, die := 0 })] }, ⟨0, ⟨3, ⟨0, ⟨0, ⟨ndC 2 { recs := [rc0], timer := some 0 }, ⟨(by first | decide +kernel | exact rfl), ⟨⟨grX (ndC 2 { recs := [rc0], timer := some 0 }), by decide +kernel, by decide +kernel⟩, ⟨(by first | decide +kernel | exact rfl), ⟨(by first | decide +kernel | exact rfl), ⟨(by first | decide +kernel | exact rfl), ⟨0, ⟨(by first | decide +kernel | exact rfl), ⟨(by first | decide +kernel | exact rfl), ⟨(by first | decide +kernel | exact rfl), ⟨(by first | decide +kernel | exact rfl), (by first | decide +kernel | exact rfl)⟩⟩⟩⟩⟩⟩⟩⟩⟩⟩⟩⟩⟩⟩⟩⟩,
   ⟨quiet { onGraph3 (ndC 2 { recs := [rc0], timer := some 0 }) with now := 1024 }, ⟨0, ⟨3, ⟨0, ⟨0, ⟨ndC 2 { recs := [rc0], timer := some 0 }, ⟨(by first | decide +kernel | exact rfl), ⟨⟨grX (ndC 2 { recs := [rc0], timer := some 0 }), by decide +kernel, by decide +kernel⟩, ⟨(by first | decide +kernel | exact rfl), ⟨(by first | decide +kernel | exact rfl), ⟨(by first | decide +kernel | exact rfl), ⟨0, ⟨(by first | decide +kernel | exact rfl), ⟨(by first | decide +kernel | exact rfl), ⟨(by first | decide +kernel | exact rfl), ⟨(by first | decide +kernel | exact rfl), ⟨(((quiet { onGraph3 (ndC 2 { recs := [rc0], timer := some 0 }) with now := 1024 }).setTimer 3 0 0 (some 0) true).launchNode 3 0 0 2).getD (quiet { onGraph3 (ndC 2 { recs := [rc0], timer := some 0 }) with now := 1024 }), ⟨ndA ((((quiet { onGraph3 (ndC 2 { recs := [rc0], timer := some 0 }) with now := 1024 }).setTimer 3 0 0 (some 0) true).launchNode 3 0 0 2).getD (quiet { onGraph3 (ndC 2 { recs := [rc0], timer := some 0 }) with now := 1024 })), ⟨(by first | decide +kernel | exact rfl), ⟨(by first | decide +kernel | exact rfl), ⟨grX (ndA ((((quiet { onGraph3 (ndC 2 { recs := [rc0], timer := some 0 }) with now := 1024 }).setTimer 3 0 0 (some 0) true).launchNode 3 0 0 2).getD (quiet { onGraph3 (ndC 2 { recs := [rc0], timer := some 0 }) with now := 1024 }))), by decide +kernel, by decide +kernel⟩⟩⟩⟩⟩⟩⟩⟩⟩⟩⟩⟩⟩⟩⟩⟩⟩⟩⟩⟩⟩,
   ⟨quiet (onGraph3 (ndC 1 { recs := [rc0], timer := some 0 })), ⟨lnd (quiet (onGraph3 (ndC 1 { recs := [rc0], timer := some 0 }))), ⟨3, ⟨0, ⟨0, ⟨1, ⟨ndC 1 { recs := [rc0], timer := some 0 }, ⟨⟨grX (ndC 1 { recs := [rc0], timer := some 0 }), by decide +kernel, by decide +kernel⟩, ⟨(by first | decide +kernel | exact rfl), (by first | decide +kernel | exact rfl)⟩⟩⟩⟩⟩⟩⟩⟩⟩,
   ⟨{ onGraph3 (ndC 1 { recs := [rc0], timer := some 0 }) with now := 1024, susp := [(1, { base := 0, die := 0 })] }, ⟨3, ⟨0, ⟨0, ⟨0, ⟨ndC 1 { recs := [rc0], timer := some 0 }, ⟨⟨grX (ndC 1 { recs := [rc0], timer := some 0 }), by decide +kernel, by decide +kernel⟩, ⟨(by first | decide +kernel | exact rfl), ⟨(by first | decide +kernel | exact rfl), ⟨(by first | decide +kernel | exact rfl), ⟨(by first | decide +kernel | exact rfl), (by first | decide +kernel | exact rfl)⟩⟩⟩⟩⟩⟩⟩⟩⟩⟩⟩,
   ⟨{ onGraph3 (ndC 1 { recs := [rc0], timer := some 0 }) with now := 1024 }, ⟨3, ⟨0, ⟨0, ⟨0, ⟨ndC 1 { recs := [rc0], timer := some 0 }, ⟨⟨grX (ndC 1 { recs := [rc0], timer := some 0 }), by decide +kernel, by decide +kernel⟩, ⟨(by first | decide +kernel | exact rfl), ⟨(by first | decide +kernel | exact rfl), ⟨(by first | decide +kernel | exact rfl), ⟨(by first | decide +kernel | exact rfl), ⟨lnd (({ onGraph3 (ndC 1 { recs := [rc0], timer := some 0 }) with now := 1024 }).setTimer 3 0 0 (some 0) true), ⟨ndA (lnd (({ onGraph3 (ndC 1 { recs := [rc0], timer := some 0 }) with now := 1024 }).setTimer 3 0 0 (some 0) true)), ⟨(by first | decide +kernel | exact rfl), ⟨grX (ndA (lnd (({ onGraph3 (ndC 1 { recs := [rc0], timer := some 0 }) with now := 1024 }).setTimer 3 0 0 (some 0) true))), by decide +kernel, by decide +kernel⟩⟩⟩⟩⟩⟩⟩⟩⟩⟩⟩⟩⟩⟩⟩⟩

/-- The hypotheses of GraphStatusAndEnd are met. -/
theorem witness_graph_status_and_end :
    (∃ s : State, ∃ u : State, ∃ gr : Nat, ∃ g : Graph, ∃ l : Launch, ∃ x : Node, (s.graphs.find? gr = some g) ∧ ((s.launch? gr = some l) ∧ ((g.nodes = [x]) ∧ ((s.virtWrite l.die l.root (g.array + 64) (leBytes 64 x.status.toNat) none = some u))))) ∧
    (∃ x : Node, (∀ k < 8, (x.queue k).prate < 2 ^ 16) ∧ ((x.arrived < 2 ^ 64) ∧ ((x.retired < 2 ^ 64) ∧ ((x.launched < 2 ^ 32) ∧ ((x.dropped < 2 ^ 32) ∧ ((x.discpois < 2 ^ 32) ∧ ((x.lost < 2 ^ 32) ∧ ((x.windows < 2 ^ 32))))))))) ∧
    (∃ s : State, ∃ gr : Nat, ∃ g : Graph, ∃ l : Launch, (s.graphs.find? gr = some g) ∧ ((s.launch? gr = some l) ∧ ((∃ x ∈ g.nodes, x.arrived ≠ 0) ∧ ((l.rolling = false) ∧ ((s.graphQuiet gr = true) ∧ ((s.graphEmpty gr = true) ∧ ((∀ k b, (k, b) ∈ s.blocks → b.graph ≠ some gr)))))))) :=
  ⟨⟨onGraph3 (ndC 1 {}), ⟨vw (onGraph3 (ndC 1 {})) 0x3040 (leBytes 64 (ndC 1 {}).status.toNat) none, ⟨3, ⟨grX (ndC 1 {}), ⟨lnG, ⟨ndC 1 {}, ⟨(by first | decide +kernel | exact rfl), ⟨(by first | decide +kernel | exact rfl), ⟨(by first | decide +kernel | exact rfl), (by first | decide +kernel | exact rfl)⟩⟩⟩⟩⟩⟩⟩⟩⟩,
   ⟨nd, ⟨(by first | decide +kernel | exact rfl), ⟨(by first | decide +kernel | exact rfl), ⟨(by first | decide +kernel | exact rfl), ⟨(by first | decide +kernel | exact rfl), ⟨(by first | decide +kernel | exact rfl), ⟨(by first | decide +kernel | exact rfl), ⟨(by first | decide +kernel | exact rfl), (by first | decide +kernel | exact rfl)⟩⟩⟩⟩⟩⟩⟩⟩,
   ⟨onGraph3 ({ ndC 1 {} with arrived := 1 }), ⟨3, ⟨grX ({ ndC 1 {} with arrived := 1 }), ⟨lnG, ⟨(by first | decide +kernel | exact rfl), ⟨(by first | decide +kernel | exact rfl), ⟨(by first | decide +kernel | exact rfl), ⟨(by first | decide +kernel | exact rfl), ⟨(by first | decide +kernel | exact rfl), ⟨(by first | decide +kernel | exact rfl), (pairs_of (by decide +kernel))⟩⟩⟩⟩⟩⟩⟩⟩⟩⟩⟩

/-- The hypotheses of QueueRegisters are met. -/
theorem witness_queue_registers :
    (∃ s : State, ∃ d : Nat, ∃ q : Nat, let x := s.queue d q
      (x.en = true) ∧ (((x.tail + 2 ^ 31 - x.head) % 2 ^ 31 ≠ 2 ^ x.log2))) ∧
    (∃ s : State, ∃ d : Nat, ∃ q : Nat, let x := s.queue d q
      (x.en = false ∨ (x.tail + 2 ^ 31 - x.head) % 2 ^ 31 = 2 ^ x.log2)) ∧
    (∃ s : State, ∃ d : Nat, ∃ q : Nat, let x := s.queue d q
      (x.en = false ∨ (x.tail + 2 ^ 31 - x.head) % 2 ^ 31 = 2 ^ x.log2)) ∧
    (∃ s : State, ∃ d : Nat, ∃ q : Nat, ∃ v : Word, let x := s.queue d q
      (v.toNat < 2 ^ 31) ∧ (((v.toNat + 2 ^ 31 - x.cons) % 2 ^ 31 < (x.tail + 2 ^ 31 - x.cons) % 2 ^ 31) ∧ ((v.toNat % 2 ^ x.log2 ∉ x.commits)))) ∧
    (∃ s : State, ∃ d : Nat, ∃ q : Nat, ∃ v : Word, let x := s.queue d q
      (2 ^ 31 ≤ v.toNat ∨ v.toNat % 2 ^ x.log2 ∈ x.commits)) ∧
    (∃ s : State, ∃ d : Nat, ∃ q : Nat, ∃ v : Word, let x := s.queue d q
      (2 ^ 31 ≤ v.toNat ∨ v.toNat % 2 ^ x.log2 ∈ x.commits)) :=
  ⟨⟨onCmd 0, ⟨0, ⟨0, ⟨(by first | decide +kernel | exact rfl), (by first | decide +kernel | exact rfl)⟩⟩⟩⟩,
   ⟨onReg, ⟨0, ⟨0, (by first | decide +kernel | exact rfl)⟩⟩⟩,
   ⟨onReg.putQueue 0 0 { en := true, tail := 16 }, ⟨0, ⟨0, (by first | decide +kernel | exact rfl)⟩⟩⟩,
   ⟨onReg.putQueue 0 0 { en := true, tail := 1 }, ⟨0, ⟨0, ⟨0, ⟨(by first | decide +kernel | exact rfl), ⟨(by first | decide +kernel | exact rfl), (by first | decide +kernel | exact rfl)⟩⟩⟩⟩⟩⟩,
   ⟨onReg, ⟨0, ⟨0, ⟨0x80000000, (by first | decide +kernel | exact rfl)⟩⟩⟩⟩,
   ⟨onReg.putQueue 0 0 { en := true, tail := 1, commits := [0] }, ⟨0, ⟨0, ⟨0, (by first | decide +kernel | exact rfl)⟩⟩⟩⟩⟩

/-- The hypotheses of Commands are met. -/
theorem witness_commands :
    (∃ s : State, ∃ d : Nat, ∃ q : Nat, ∃ bs : List Byte, let x := s.queue d q
      let e := x.cons % 2 ^ x.log2
      (x.en = true) ∧ ((x.cur = none) ∧ ((x.wait = none) ∧ ((e ∈ x.commits) ∧ ((s.virtRead d x.root (x.base + BitVec.ofNat 64 (128 * e)) 128 = some bs) ∧ ((leNat bs % 256 ≤ 5))))))) ∧
    (∃ s : State, ∃ d : Nat, ∃ q : Nat, ∃ c : Cmd, (s.command? d q 0 = some c) ∧ ((c.reserved 0 = false))) ∧
    (∃ s : State, ∃ d : Nat, ∃ q : Nat, ∃ c : Cmd, (s.command? d q 0 = some c) ∧ ((c.reserved 0 = true))) ∧
    (∃ s : State, ∃ d : Nat, ∃ q : Nat, ∃ c : Cmd, (s.command? d q 3 = some c) ∧ ((c.reserved 2 = false) ∧ (((c.word 1).toNat % 8 = 0)))) ∧
    (∃ s : State, ∃ d : Nat, ∃ q : Nat, ∃ c : Cmd, (s.command? d q 3 = some c) ∧ ((c.reserved 2 = true ∨ (c.word 1).toNat % 8 ≠ 0))) ∧
    (∃ s : State, ∃ d : Nat, ∃ q : Nat, ∃ c : Cmd, (s.command? d q 3 = some c) ∧ ((c.reserved 2 = true ∨ (c.word 1).toNat % 8 ≠ 0))) ∧
    (∃ s : State, ∃ d : Nat, ∃ q : Nat, ∃ c : Cmd, ∃ bs : List Byte, ((s.queue d q).wait.bind (fun i => (s.queue d q).live.find? (fun c => c.id = i)) = some c) ∧ ((s.virtRead d c.root (c.word 1) 8 = some bs) ∧ (((c.word 2).toNat ≤ leNat bs)))) ∧
    (∃ s : State, ∃ d : Nat, ∃ q : Nat, ∃ c : Cmd, ∃ bs : List Byte, ((s.queue d q).wait.bind (fun i => (s.queue d q).live.find? (fun c => c.id = i)) = some c) ∧ ((s.virtRead d c.root (c.word 1) 8 = some bs) ∧ ((leNat bs < (c.word 2).toNat)))) ∧
    (∃ s : State, ∃ u : State, ∃ d : Nat, ∃ q : Nat, ∃ c : Cmd, (s.command? d q 4 = some c) ∧ (((s.queue d q).live = [c]) ∧ ((c.reserved 2 = false) ∧ ((s.virtWrite d c.root (c.word 1) (leBytes 8 (c.word 2).toNat) (some (frontRel d)) = some u))))) ∧
    (∃ s : State, ∃ d : Nat, ∃ q : Nat, ∃ c : Cmd, ∃ gr : Nat, (s.command? d q 5 = some c) ∧ ((c.reserved 1 = false) ∧ ((s.graphAt d c.root (c.word 1) = some gr)))) :=
  ⟨⟨onReg.putQueue 0 0 { en := true, tail := 1, commits := [0], base := 0x5000, root := 0x9000000000000001 }, ⟨0, ⟨0, ⟨List.replicate 128 0, ⟨(by first | decide +kernel | exact rfl), ⟨(by first | decide +kernel | exact rfl), ⟨(by first | decide +kernel | exact rfl), ⟨(by first | decide +kernel | exact rfl), ⟨(by first | decide +kernel | exact rfl), (by first | decide +kernel | exact rfl)⟩⟩⟩⟩⟩⟩⟩⟩⟩,
   ⟨onCmd 0, ⟨0, ⟨0, ⟨cm 0, ⟨(by first | decide +kernel | exact rfl), (by first | decide +kernel | exact rfl)⟩⟩⟩⟩⟩,
   ⟨onCmd 256, ⟨0, ⟨0, ⟨cm 256, ⟨(by first | decide +kernel | exact rfl), (by first | decide +kernel | exact rfl)⟩⟩⟩⟩⟩,
   ⟨onCmd (3 + 0x4000 * 2 ^ 64 + 0 * 2 ^ 128), ⟨0, ⟨0, ⟨cm (3 + 0x4000 * 2 ^ 64 + 0 * 2 ^ 128), ⟨(by first | decide +kernel | exact rfl), ⟨(by first | decide +kernel | exact rfl), (by first | decide +kernel | exact rfl)⟩⟩⟩⟩⟩⟩,
   ⟨onCmd 259, ⟨0, ⟨0, ⟨cm 259, ⟨(by first | decide +kernel | exact rfl), (Or.inl (by decide +kernel))⟩⟩⟩⟩⟩,
   ⟨onCmd (3 + 4 * 2 ^ 64), ⟨0, ⟨0, ⟨cm (3 + 4 * 2 ^ 64), ⟨(by first | decide +kernel | exact rfl), (Or.inr (by decide +kernel))⟩⟩⟩⟩⟩,
   ⟨onWait (3 + 0x4000 * 2 ^ 64 + 0 * 2 ^ 128), ⟨0, ⟨0, ⟨cm (3 + 0x4000 * 2 ^ 64 + 0 * 2 ^ 128), ⟨List.replicate 8 0, ⟨(by first | decide +kernel | exact rfl), ⟨(by first | decide +kernel | exact rfl), (by first | decide +kernel | exact rfl)⟩⟩⟩⟩⟩⟩⟩,
   ⟨onWait (3 + 0x4000 * 2 ^ 64 + 1 * 2 ^ 128), ⟨0, ⟨0, ⟨cm (3 + 0x4000 * 2 ^ 64 + 1 * 2 ^ 128), ⟨List.replicate 8 0, ⟨(by first | decide +kernel | exact rfl), ⟨(by first | decide +kernel | exact rfl), (by first | decide +kernel | exact rfl)⟩⟩⟩⟩⟩⟩⟩,
   ⟨onCmd (4 + 0x4000 * 2 ^ 64 + 9 * 2 ^ 128), ⟨vw (onCmd (4 + 0x4000 * 2 ^ 64 + 9 * 2 ^ 128)) 0x4000 (leBytes 8 9) (some (frontRel 0)), ⟨0, ⟨0, ⟨cm (4 + 0x4000 * 2 ^ 64 + 9 * 2 ^ 128), ⟨(by first | decide +kernel | exact rfl), ⟨(by first | decide +kernel | exact rfl), ⟨(by first | decide +kernel | exact rfl), (by first | decide +kernel | exact rfl)⟩⟩⟩⟩⟩⟩⟩⟩,
   ⟨(onGraph3 (ndC 1 {})).putQueue 0 0 (qu (5 + 0x3000 * 2 ^ 64)), ⟨0, ⟨0, ⟨cm (5 + 0x3000 * 2 ^ 64), ⟨3, ⟨(by first | decide +kernel | exact rfl), ⟨(by first | decide +kernel | exact rfl), (by first | decide +kernel | exact rfl)⟩⟩⟩⟩⟩⟩⟩⟩

/-- The hypotheses of LaunchesAccepted are met. -/
theorem witness_launches_accepted :
    (∃ s : State, ∃ d : Nat, ∃ q : Nat, ∃ c : Cmd, ∃ ws : List (Nat × Nat), ∃ e : Eff, (s.command? d q 1 = some c) ∧ ((descOk false c.entry.toNat = true) ∧ ((s.writeSet d c.root (c.entry.extractLsb' 576 64) = some ws) ∧ ((c.entry.extractLsb' 512 64 = 0 ∨ (s.graphAt d c.root (c.entry.extractLsb' 512 64)).isSome) ∧ ((s.resolve d (c.entry.extractLsb' 16 16).toNat = some e) ∧ (let l := { s.launchOf d q c e false with wset := ws }
      (l.dies.any (fun k => (s.search e l.need k l.shape.1 l.shape.2.1 (if l.isNbh then l.shape.1 * l.shape.2.1 else l.shape.2.2) l.isTwin true).isSome) = true) ∧ ((c.entry.extractLsb' 479 2 = 0 ∨ e.within (fun _ => (0, 0, 0, 0)) (if l.isTwin then 2 * l.total else l.total) l.need.grans l.need.tiles l.need.bgrans = true)))))))) ∧
    (∃ s : State, ∃ d : Nat, ∃ q : Nat, ∃ c : Cmd, (s.command? d q 1 = some c) ∧ ((descOk false c.entry.toNat = false))) ∧
    (∃ s : State, ∃ d : Nat, ∃ q : Nat, ∃ c : Cmd, ∃ ws : List (Nat × Nat), ∃ e : Eff, ∃ nodes : List Node, (s.command? d q 2 = some c) ∧ ((descOk true c.entry.toNat = true) ∧ ((s.writeSet d c.root (c.entry.extractLsb' 576 64) = some ws) ∧ ((s.resolve d (c.entry.extractLsb' 16 16).toNat = some e) ∧ ((let l := s.launchOf d q c e true;      l.dies.any (fun k => (s.search e l.nodeNeed k 1 1 1 false true).isSome) = true) ∧ ((s.readNodes d c.root (c.entry.extractLsb' 512 64) (c.entry.extractLsb' 320 16).toNat = .ok nodes) ∧ ((s.slotsUsed d + (nodes.map Node.slots).foldl (· + ·) 0 ≤ 32768)))))))) ∧
    (∃ s : State, ∃ d : Nat, ∃ q : Nat, ∃ c : Cmd, (s.command? d q 2 = some c) ∧ ((descOk true c.entry.toNat = false))) ∧
    (∃ s : State, ∃ d : Nat, ∃ q : Nat, ∃ c : Cmd, ∃ ws : List (Nat × Nat), ∃ e : Eff, (s.command? d q 1 = some c) ∧ ((descOk false c.entry.toNat = true) ∧ ((s.writeSet d c.root (c.entry.extractLsb' 576 64) = some ws) ∧ ((c.entry.extractLsb' 512 64 = 0 ∨ (s.graphAt d c.root (c.entry.extractLsb' 512 64)).isSome) ∧ ((s.resolve d (c.entry.extractLsb' 16 16).toNat = some e) ∧ ((let l := s.launchOf d q c e false;      l.dies.all (fun k => (s.search e l.need k l.shape.1 l.shape.2.1 (if l.isNbh then l.shape.1 * l.shape.2.1 else l.shape.2.2) l.isTwin true).isNone) = true))))))) ∧
    (∃ s : State, ∃ d : Nat, ∃ q : Nat, ∃ c : Cmd, ∃ ws : List (Nat × Nat), ∃ e : Eff, (s.command? d q 2 = some c) ∧ ((descOk true c.entry.toNat = true) ∧ ((s.writeSet d c.root (c.entry.extractLsb' 576 64) = some ws) ∧ ((s.resolve d (c.entry.extractLsb' 16 16).toNat = some e) ∧ ((let l := s.launchOf d q c e true;      l.dies.all (fun k => (s.search e l.nodeNeed k 1 1 1 false true).isNone) = true)))))) :=
  ⟨⟨onCmd launchX, ⟨0, ⟨0, ⟨cm launchX, ⟨[], ⟨eR, ⟨(by first | decide +kernel | exact rfl), ⟨(by first | decide +kernel | exact rfl), ⟨(by first | decide +kernel | exact rfl), ⟨(by first | decide +kernel | exact rfl), ⟨(by first | decide +kernel | exact rfl), ⟨(by first | decide +kernel | exact rfl), (by first | decide +kernel | exact rfl)⟩⟩⟩⟩⟩⟩⟩⟩⟩⟩⟩⟩,
   ⟨onCmd 1, ⟨0, ⟨0, ⟨cm 1, ⟨(by first | decide +kernel | exact rfl), (by first | decide +kernel | exact rfl)⟩⟩⟩⟩⟩,
   ⟨onCmd graphX, ⟨0, ⟨0, ⟨cm graphX, ⟨[], ⟨eR, ⟨[{ ndC 1 {} with desc := BitVec.ofNat 512 (2 ^ 198 + 2 ^ 203 + 2 ^ 210 + 2 ^ 261), gen := 0x9E3779B9 }], ⟨(by first | decide +kernel | exact rfl), ⟨(by first | decide +kernel | exact rfl), ⟨(by first | decide +kernel | exact rfl), ⟨(by first | decide +kernel | exact rfl), ⟨(by first | decide +kernel | exact rfl), ⟨(ok_of (by decide +kernel)), (by first | decide +kernel | exact rfl)⟩⟩⟩⟩⟩⟩⟩⟩⟩⟩⟩⟩⟩,
   ⟨onCmd 2, ⟨0, ⟨0, ⟨cm 2, ⟨(by first | decide +kernel | exact rfl), (by first | decide +kernel | exact rfl)⟩⟩⟩⟩⟩,
   ⟨{ onCmd launchX with slices := [] }, ⟨0, ⟨0, ⟨cm launchX, ⟨[], ⟨eR, ⟨(by first | decide +kernel | exact rfl), ⟨(by first | decide +kernel | exact rfl), ⟨(by first | decide +kernel | exact rfl), ⟨(by first | decide +kernel | exact rfl), ⟨(by first | decide +kernel | exact rfl), (by first | decide +kernel | exact rfl)⟩⟩⟩⟩⟩⟩⟩⟩⟩⟩⟩,
   ⟨{ onCmd graphX with slices := [] }, ⟨0, ⟨0, ⟨cm graphX, ⟨[], ⟨eR, ⟨(by first | decide +kernel | exact rfl), ⟨(by first | decide +kernel | exact rfl), ⟨(by first | decide +kernel | exact rfl), ⟨(by first | decide +kernel | exact rfl), (by first | decide +kernel | exact rfl)⟩⟩⟩⟩⟩⟩⟩⟩⟩⟩⟩

/-- The hypotheses of BlocksStartAndEnd are met. -/
theorem witness_blocks_start_and_end :
    (∃ s : State, ∃ id : Nat, ∃ d : Nat, ∃ corner : Nat, ∃ l : Launch, ∃ p : Plan, (s.launch? id = some l) ∧ ((s.startable id l = true) ∧ ((s.outranked id l = false) ∧ ((s.placement l = some (d, corner, [p])) ∧ ((l.isNbh = false) ∧ ((l.isTwin = false) ∧ ((p.place.Nodup) ∧ ((∀ k ∈ p.place, k.1 < 6 ∧ k.2 < 16))))))))) ∧
    (∃ s : State, ∃ blk : Nat, ∃ b : Block, (s.block? blk = some b) ∧ ((b.ended = true) ∧ ((s.retired blk b = true)))) ∧
    (∃ s : State, ∃ id : Nat, ∃ l : Launch, (s.launch? id = some l) ∧ ((l.isGraph = false) ∧ ((l.rolling = false) ∧ ((l.started = l.total) ∧ ((∀ k b, (k, b) ∈ s.blocks → b.launch ≠ id) ∧ ((l.replays = 0))))))) :=
  ⟨⟨onLaunch, ⟨3, ⟨0, ⟨0, ⟨lnX, ⟨plB, ⟨(by first | decide +kernel | exact rfl), ⟨(by first | decide +kernel | exact rfl), ⟨(by first | decide +kernel | exact rfl), ⟨(by first | decide +kernel | exact rfl), ⟨(by first | decide +kernel | exact rfl), ⟨(by first | decide +kernel | exact rfl), ⟨(by first | decide +kernel | exact rfl), (by first | decide +kernel | exact rfl)⟩⟩⟩⟩⟩⟩⟩⟩⟩⟩⟩⟩⟩,
   ⟨{ onReg with blocks := [(0, bkEnd)] }, ⟨0, ⟨bkEnd, ⟨(by first | decide +kernel | exact rfl), ⟨(by first | decide +kernel | exact rfl), (by first | decide +kernel | exact rfl)⟩⟩⟩⟩⟩,
   ⟨{ onReg with launches := [(3, { lnX with started := 1 })] }, ⟨3, ⟨{ lnX with started := 1 }, ⟨(by first | decide +kernel | exact rfl), ⟨(by first | decide +kernel | exact rfl), ⟨(by first | decide +kernel | exact rfl), ⟨(by first | decide +kernel | exact rfl), ⟨(pairs_of (by decide +kernel)), (by first | decide +kernel | exact rfl)⟩⟩⟩⟩⟩⟩⟩⟩⟩

/-- The hypotheses of RegionRequests are met. -/
theorem witness_region_requests :
    (∃ s : State, ∃ d : Nat, let x := s.die d
      (x.fwbusy = true) ∧ ((x.fwstop = false) ∧ ((x.code = 1) ∧ ((x.badWords 1 true = false) ∧ ((s.leader?.isSome) ∧ (∃ e : Eff, ∃ u : State, (s.rspace.isSome) ∧ ((({ s with regtab := s.regtab.put x.rid (x.req 1) } : State).resolve d x.rid = some e) ∧ (((({ s with regtab := s.regtab.put x.rid (x.req 1) } : State).withdraw x.rid).letIn e = some u))))))))) ∧
    (∃ s : State, ∃ d : Nat, let x := s.die d
      (x.fwbusy = true) ∧ ((x.fwstop = false) ∧ ((x.code = 1) ∧ ((x.badWords 1 true = false) ∧ ((s.leader?.isSome) ∧ ((s.rspace = none))))))) ∧
    (∃ s : State, ∃ d : Nat, let x := s.die d
      (x.fwbusy = true) ∧ ((x.fwstop = false) ∧ ((x.code = 2) ∧ ((x.badWords 0 true = false) ∧ ((s.leader?.isSome) ∧ ((∀ k l, (k, l) ∈ s.launches → l.eff.rid ≠ x.rid))))))) ∧
    (∃ s : State, ∃ d : Nat, let x := s.die d
      (x.fwbusy = true) ∧ ((x.fwstop = false) ∧ ((x.code = 2) ∧ ((x.badWords 0 true = false) ∧ ((s.leader?.isSome) ∧ (∃ k : Nat, ∃ l : Launch, ((k, l) ∈ s.launches) ∧ ((l.eff.rid = x.rid)))))))) ∧
    (∃ s : State, ∃ d : Nat, let x := s.die d
      (x.fwbusy = true) ∧ ((x.fwstop = false) ∧ ((x.code = 5) ∧ ((x.badWords 1 false = false) ∧ ((s.leader?.isSome) ∧ ((s.launches = []))))))) ∧
    (∃ s : State, ∃ d : Nat, let x := s.die d
      (x.fwbusy = true) ∧ ((x.fwstop = false) ∧ ((x.code = 0 ∨ 5 < x.code)))) ∧
    (∃ s : State, ∃ d : Nat, let x := s.die d
      (x.fwbusy = true) ∧ ((x.fwstop = false) ∧ ((x.code = 0 ∨ 5 < x.code)))) :=
  ⟨⟨onMail 0x10001 0x2000, ⟨0, ⟨(by first | decide +kernel | exact rfl), ⟨(by first | decide +kernel | exact rfl), ⟨(by first | decide +kernel | exact rfl), ⟨(by first | decide +kernel | exact rfl), ⟨(by first | decide +kernel | exact rfl), ⟨eR, ⟨adm (onMail 0x10001 0x2000) 1 0x2000 eR, ⟨(by first | decide +kernel | exact rfl), ⟨(by first | decide +kernel | exact rfl), (by first | decide +kernel | exact rfl)⟩⟩⟩⟩⟩⟩⟩⟩⟩⟩⟩,
   ⟨noRoot (onMail 0x10001 0x2000), ⟨0, ⟨(by first | decide +kernel | exact rfl), ⟨(by first | decide +kernel | exact rfl), ⟨(by first | decide +kernel | exact rfl), ⟨(by first | decide +kernel | exact rfl), ⟨(by first | decide +kernel | exact rfl), (by first | decide +kernel | exact rfl)⟩⟩⟩⟩⟩⟩⟩,
   ⟨onMail 0x10002 0, ⟨0, ⟨(by first | decide +kernel | exact rfl), ⟨(by first | decide +kernel | exact rfl), ⟨(by first | decide +kernel | exact rfl), ⟨(by first | decide +kernel | exact rfl), ⟨(by first | decide +kernel | exact rfl), (pairs_of (by decide +kernel))⟩⟩⟩⟩⟩⟩⟩,
   ⟨{ onMail 0x10002 0 with launches := [(3, lnX)] }, ⟨0, ⟨(by first | decide +kernel | exact rfl), ⟨(by first | decide +kernel | exact rfl), ⟨(by first | decide +kernel | exact rfl), ⟨(by first | decide +kernel | exact rfl), ⟨(by first | decide +kernel | exact rfl), ⟨3, ⟨lnX, ⟨(by decide +kernel), (by first | decide +kernel | exact rfl)⟩⟩⟩⟩⟩⟩⟩⟩⟩⟩,
   ⟨onMail 5 0x9000000000000001, ⟨0, ⟨(by first | decide +kernel | exact rfl), ⟨(by first | decide +kernel | exact rfl), ⟨(by first | decide +kernel | exact rfl), ⟨(by first | decide +kernel | exact rfl), ⟨(by first | decide +kernel | exact rfl), (by first | decide +kernel | exact rfl)⟩⟩⟩⟩⟩⟩⟩,
   ⟨onMail 0 0, ⟨0, ⟨(by first | decide +kernel | exact rfl), ⟨(by first | decide +kernel | exact rfl), (by first | decide +kernel | exact rfl)⟩⟩⟩⟩,
   ⟨onMail 6 0, ⟨0, ⟨(by first | decide +kernel | exact rfl), ⟨(by first | decide +kernel | exact rfl), (by first | decide +kernel | exact rfl)⟩⟩⟩⟩⟩

/-- The hypotheses of Leases are met. -/
theorem witness_leases :
    (∃ s : State, ∃ d : Nat, ∃ w : DWord, (d < 4) ∧ (((s.die d).lead = some w) ∧ (((s.die d).yielding = false) ∧ (((s.die d).fwstop = false) ∧ ((s.lease = w)))))) ∧
    (∃ s : State, ∃ d : Nat, ∃ w : DWord, (d < 4) ∧ (((s.die d).lead = some w) ∧ (((s.die d).yielding = false) ∧ (((s.die d).fwstop = false) ∧ ((s.lease ≠ w)))))) ∧
    (∃ s : State, ∃ d : Nat, (d < 4) ∧ (((s.die d).lead = none) ∧ (((s.die d).fwstop = false) ∧ ((past (timeAt d s.now + 2 ^ 48 - 14) (expiry s.lease) = true))))) ∧
    (∃ s : State, ∃ d : Nat, (d < 4) ∧ (((s.die d).lead = none) ∧ (((s.die d).fwstop = false) ∧ ((past (timeAt d s.now + 2 ^ 48 - 14) (expiry s.lease) = false))))) ∧
    (∃ s : State, ∃ d : Nat, ∃ w : DWord, ((s.die d).lead = some w) ∧ ((past (timeAt d s.now) ((expiry w + 2 ^ 48 - 14) % 2 ^ 48) = true))) ∧
    (∃ s : State, ∃ d : Nat, ∃ succ : Nat, ∃ w : DWord, (succ < 4) ∧ (((s.die d).lead = some w) ∧ (((s.die d).fwstop = false)))) ∧
    (∃ s : State, ∃ d : Nat, ((s.die d).fwstop = true)) :=
  ⟨⟨leads 100 0 100, ⟨0, ⟨100, ⟨(by first | decide +kernel | exact rfl), ⟨(by first | decide +kernel | exact rfl), ⟨(by first | decide +kernel | exact rfl), ⟨(by first | decide +kernel | exact rfl), (by first | decide +kernel | exact rfl)⟩⟩⟩⟩⟩⟩⟩,
   ⟨leads 100 0 101, ⟨0, ⟨100, ⟨(by first | decide +kernel | exact rfl), ⟨(by first | decide +kernel | exact rfl), ⟨(by first | decide +kernel | exact rfl), ⟨(by first | decide +kernel | exact rfl), (by first | decide +kernel | exact rfl)⟩⟩⟩⟩⟩⟩⟩,
   ⟨{ State.reset with now := 14 }, ⟨0, ⟨(by first | decide +kernel | exact rfl), ⟨(by first | decide +kernel | exact rfl), ⟨(by first | decide +kernel | exact rfl), (by first | decide +kernel | exact rfl)⟩⟩⟩⟩⟩,
   ⟨State.reset, ⟨0, ⟨(by first | decide +kernel | exact rfl), ⟨(by first | decide +kernel | exact rfl), ⟨(by first | decide +kernel | exact rfl), (by first | decide +kernel | exact rfl)⟩⟩⟩⟩⟩,
   ⟨leads 14 0 14, ⟨0, ⟨14, ⟨(by first | decide +kernel | exact rfl), (by first | decide +kernel | exact rfl)⟩⟩⟩⟩,
   ⟨leads 100 0 100, ⟨0, ⟨3, ⟨100, ⟨(by first | decide +kernel | exact rfl), ⟨(by first | decide +kernel | exact rfl), (by first | decide +kernel | exact rfl)⟩⟩⟩⟩⟩⟩,
   ⟨State.reset.putDie 0 { State.reset.die 0 with fwstop := true }, ⟨0, (by first | decide +kernel | exact rfl)⟩⟩⟩

/-- The hypotheses of TrapsAreTaken are met. -/
theorem witness_traps_are_taken :
    (∃ g : Group, (g.trap = none) ∧ ((g.fault = none))) ∧
    (∃ g : Group, (g.trap.isSome ∨ g.fault.isSome)) ∧
    (∃ g : Group, (g.trap.isSome ∨ g.fault.isSome)) ∧
    (∃ s : State, ∃ key : Nat, ∃ g : Group, ∃ t : Trap, (s.group? key = some g) ∧ ((g.trap = some t))) ∧
    (∃ s : State, ∃ key : Nat, ∃ g : Group, ∃ f : Faulted, (s.group? key = some g) ∧ ((g.fault = some f))) :=
  ⟨⟨gp, ⟨(by first | decide +kernel | exact rfl), (by first | decide +kernel | exact rfl)⟩⟩,
   ⟨{ gp with trap := some tr }, (by first | decide +kernel | exact rfl)⟩,
   ⟨gpF, (by first | decide +kernel | exact rfl)⟩,
   ⟨on { gp with trap := some tr } 3, ⟨0, ⟨{ gp with trap := some tr }, ⟨tr, ⟨(by first | decide +kernel | exact rfl), (by first | decide +kernel | exact rfl)⟩⟩⟩⟩⟩,
   ⟨on gpF 3, ⟨0, ⟨gpF, ⟨{ trap := tr, written := true }, ⟨(by first | decide +kernel | exact rfl), (by first | decide +kernel | exact rfl)⟩⟩⟩⟩⟩⟩

/-- The hypotheses of TrapDelivery are met. -/
theorem witness_trap_delivery :
    (∃ s : State, ∃ d : Nat, ∃ r : TrapRec, let x := s.die d
      (x.traps = [r]) ∧ ((∀ k, (s.die k).remap = []) ∧ ((x.trEn = true) ∧ (((x.trtail - x.trhead).toNat < 2 ^ x.trLog2) ∧ ((s.deliverable r = true)))))) ∧
    (∃ s : State, ∃ d : Nat, ∃ r : TrapRec, let x := s.die d
      (x.traps = [r]) ∧ ((∀ k, (s.die k).remap = []) ∧ ((x.trEn = false ∨ 2 ^ x.trLog2 ≤ (x.trtail - x.trhead).toNat ∨ s.deliverable r = false)))) ∧
    (∃ s : State, ∃ d : Nat, ∃ r : TrapRec, let x := s.die d
      (x.traps = [r]) ∧ ((∀ k, (s.die k).remap = []) ∧ ((x.trEn = false ∨ 2 ^ x.trLog2 ≤ (x.trtail - x.trhead).toNat ∨ s.deliverable r = false)))) :=
  ⟨⟨onTr true 63 gpF, ⟨0, ⟨trr, ⟨(by first | decide +kernel | exact rfl), ⟨(remap_of _ rfl), ⟨(by first | decide +kernel | exact rfl), ⟨(by first | decide +kernel | exact rfl), (by first | decide +kernel | exact rfl)⟩⟩⟩⟩⟩⟩⟩,
   ⟨onTr false 0 gpF, ⟨0, ⟨trr, ⟨(by first | decide +kernel | exact rfl), ⟨(remap_of _ rfl), (by first | decide +kernel | exact rfl)⟩⟩⟩⟩⟩,
   ⟨onTr true 64 gpF, ⟨0, ⟨trr, ⟨(by first | decide +kernel | exact rfl), ⟨(remap_of _ rfl), (by first | decide +kernel | exact rfl)⟩⟩⟩⟩⟩⟩

/-- The hypotheses of TrapActions are met. -/
theorem witness_trap_actions :
    (∃ s : State, ∃ d : Nat, ∃ v : Word, ∃ key : Nat, ∃ g : Group, ∃ t : Trap, (s.tractGroup v 0 = some (key, g, t)) ∧ ((s.groups.sorted = true) ∧ ((g.land = none) ∧ (let seen := genSeen (s.core (coreOf key)).observed s.tgen
      (seen = true) ∧ ((s.targetOk (coreOf key) (s.fetchRoot g) false (s.die d).trpc = true)))))) ∧
    (∃ s : State, ∃ d : Nat, ∃ v : Word, ∃ key : Nat, ∃ g : Group, ∃ t : Trap, (s.tractGroup v 0 = some (key, g, t)) ∧ ((s.groups.sorted = true) ∧ ((g.land = none) ∧ (let seen := genSeen (s.core (coreOf key)).observed s.tgen
      (seen = true) ∧ ((s.targetOk (coreOf key) (s.fetchRoot g) false (s.die d).trpc = false) ∧ ((g.trap = none) ∧ ((g.baton = none) ∧ ((t.lanes ≠ 0))))))))) ∧
    (∃ s : State, ∃ v : Word, ∃ key : Nat, ∃ g : Group, ∃ t : Trap, (s.tractGroup v 0 = some (key, g, t)) ∧ ((s.groups.sorted = true) ∧ ((g.land = none) ∧ (let seen := genSeen (s.core (coreOf key)).observed s.tgen
      (seen = false))))) ∧
    (∃ s : State, ∃ v : Word, ∃ key : Nat, ∃ g : Group, ∃ t : Trap, (s.tractGroup v 1 = some (key, g, t)) ∧ ((t.tag = none) ∧ ((t.job = none) ∧ ((s.groups.sorted = true) ∧ ((g.land = none) ∧ (let seen := genSeen (s.core (coreOf key)).observed s.tgen
      (seen = true) ∧ ((s.targetOk (coreOf key) (s.fetchRoot g) false t.pc = true)))))))) ∧
    (∃ s : State, ∃ v : Word, ∃ key : Nat, ∃ g : Group, ∃ t : Trap, (s.tractGroup v 1 = some (key, g, t)) ∧ ((t.tag = none) ∧ ((t.job = none) ∧ ((s.groups.sorted = true) ∧ ((g.land = none) ∧ (let seen := genSeen (s.core (coreOf key)).observed s.tgen
      (seen = true) ∧ ((s.targetOk (coreOf key) (s.fetchRoot g) false t.pc = false) ∧ ((g.trap = none) ∧ ((g.baton = none) ∧ ((t.lanes ≠ 0))))))))))) ∧
    (∃ s : State, ∃ v : Word, ∃ key : Nat, ∃ g : Group, ∃ t : Trap, (s.tractGroup v 1 = some (key, g, t)) ∧ ((t.tag = none) ∧ ((t.job = none) ∧ ((s.groups.sorted = true) ∧ ((g.land = none) ∧ (let seen := genSeen (s.core (coreOf key)).observed s.tgen
      (seen = false))))))) ∧
    (∃ s : State, ∃ v : Word, ∃ key : Nat, ∃ g : Group, ∃ t : Trap, (s.tractGroup v 2 = some (key, g, t))) ∧
    (∃ s : State, ∃ v : Word, ∃ key : Nat, ∃ g : Group, ∃ t : Trap, ∃ b : Block, (s.tractGroup v 3 = some (key, g, t)) ∧ ((s.block? g.blk = some b))) ∧
    (∃ s : State, ∃ v : Word, (s.tractGroup v 0 = none)) ∧
    (∃ s : State, ∃ v : Word, (s.tractGroup v 1 = none)) ∧
    (∃ s : State, ∃ v : Word, (s.tractGroup v 2 = none)) ∧
    (∃ s : State, ∃ v : Word, (s.tractGroup v 3 = none)) :=
  ⟨⟨onPc 0 gpF, ⟨0, ⟨0, ⟨0, ⟨gpF, ⟨tr, ⟨(by first | decide +kernel | exact rfl), ⟨(by first | decide +kernel | exact rfl), ⟨(by first | decide +kernel | exact rfl), ⟨(by first | decide +kernel | exact rfl), (by first | decide +kernel | exact rfl)⟩⟩⟩⟩⟩⟩⟩⟩⟩⟩,
   ⟨onPc 3 gpFn, ⟨0, ⟨0, ⟨0, ⟨gpFn, ⟨tr, ⟨(by first | decide +kernel | exact rfl), ⟨(by first | decide +kernel | exact rfl), ⟨(by first | decide +kernel | exact rfl), ⟨(by first | decide +kernel | exact rfl), ⟨(by first | decide +kernel | exact rfl), ⟨(by first | decide +kernel | exact rfl), ⟨(by first | decide +kernel | exact rfl), (by first | decide +kernel | exact rfl)⟩⟩⟩⟩⟩⟩⟩⟩⟩⟩⟩⟩⟩,
   ⟨unseen (onPc 0 gpF), ⟨0, ⟨0, ⟨gpF, ⟨tr, ⟨(by first | decide +kernel | exact rfl), ⟨(by first | decide +kernel | exact rfl), ⟨(by first | decide +kernel | exact rfl), (by first | decide +kernel | exact rfl)⟩⟩⟩⟩⟩⟩⟩⟩,
   ⟨onPc 0 gpF, ⟨0x40000000, ⟨0, ⟨gpF, ⟨tr, ⟨(by first | decide +kernel | exact rfl), ⟨(by first | decide +kernel | exact rfl), ⟨(by first | decide +kernel | exact rfl), ⟨(by first | decide +kernel | exact rfl), ⟨(by first | decide +kernel | exact rfl), ⟨(by first | decide +kernel | exact rfl), (by first | decide +kernel | exact rfl)⟩⟩⟩⟩⟩⟩⟩⟩⟩⟩⟩,
   ⟨onPc 0 gpF3, ⟨0x40000000, ⟨0, ⟨gpF3, ⟨{ tr with pc := 3 }, ⟨(by first | decide +kernel | exact rfl), ⟨(by first | decide +kernel | exact rfl), ⟨(by first | decide +kernel | exact rfl), ⟨(by first | decide +kernel | exact rfl), ⟨(by first | decide +kernel | exact rfl), ⟨(by first | decide +kernel | exact rfl), ⟨(by first | decide +kernel | exact rfl), ⟨(by first | decide +kernel | exact rfl), ⟨(by first | decide +kernel | exact rfl), (by first | decide +kernel | exact rfl)⟩⟩⟩⟩⟩⟩⟩⟩⟩⟩⟩⟩⟩⟩,
   ⟨unseen (onPc 0 gpF), ⟨0x40000000, ⟨0, ⟨gpF, ⟨tr, ⟨(by first | decide +kernel | exact rfl), ⟨(by first | decide +kernel | exact rfl), ⟨(by first | decide +kernel | exact rfl), ⟨(by first | decide +kernel | exact rfl), ⟨(by first | decide +kernel | exact rfl), (by first | decide +kernel | exact rfl)⟩⟩⟩⟩⟩⟩⟩⟩⟩⟩,
   ⟨onPc 0 gpF, ⟨0x80000000, ⟨0, ⟨gpF, ⟨tr, (by first | decide +kernel | exact rfl)⟩⟩⟩⟩⟩,
   ⟨onPc 0 gpF, ⟨0xC0000000, ⟨0, ⟨gpF, ⟨tr, ⟨bk, ⟨(by first | decide +kernel | exact rfl), (by first | decide +kernel | exact rfl)⟩⟩⟩⟩⟩⟩⟩,
   ⟨on gp 3, ⟨0, (by first | decide +kernel | exact rfl)⟩⟩,
   ⟨on gp 3, ⟨0x40000000, (by first | decide +kernel | exact rfl)⟩⟩,
   ⟨on gp 3, ⟨0x80000000, (by first | decide +kernel | exact rfl)⟩⟩,
   ⟨on gp 3, ⟨0xC0000000, (by first | decide +kernel | exact rfl)⟩⟩⟩

/-- The hypotheses of TableGenerations are met. -/
theorem witness_table_generations :
    (∃ s : State, ∃ core : Nat, ∃ gen : Word, ∃ root : DWord, ∃ rest : List (Word × DWord), ((s.core core).invals = (gen, root) :: rest) ∧ ((∀ k g, (k, g) ∈ s.groups → coreOf k = core → g.land = none))) :=
  ⟨(on gp 3).putCore 0 { (on gp 3).core 0 with invals := [(1, 0), (2, rootD)] }, ⟨0, ⟨1, ⟨0, ⟨[(2, rootD)], ⟨(by first | decide +kernel | exact rfl), (pairs_of (P := fun k (g : Group) => coreOf k = 0 → g.land = none) (by decide +kernel))⟩⟩⟩⟩⟩⟩

/-- The hypotheses of Migration are met. -/
theorem witness_migration :
    (∃ s : State, ∃ d : Nat, let x := s.die d
      (x.migst ≠ .copy) ∧ ((x.migst ≠ .freeze) ∧ ((x.remap.length < 64) ∧ ((s.rangeOf (x.migsrc.toNat % 2 ^ 35) = s.rangeOf (x.migdst.toNat % 2 ^ 35)) ∧ ((s.homeOf x.migsrc = some d) ∧ ((s.homeOf x.migdst = some d))))))) ∧
    (∃ s : State, ∃ d : Nat, let x := s.die d
      (x.migst = .copy ∨ x.migst = .freeze ∨ 64 ≤ x.remap.length ∨ s.rangeOf (x.migsrc.toNat % 2 ^ 35) ≠ s.rangeOf (x.migdst.toNat % 2 ^ 35) ∨ s.homeOf x.migsrc ≠ some d ∨ s.homeOf x.migdst ≠ some d)) ∧
    (∃ s : State, ∃ d : Nat, let x := s.die d
      (x.migst = .copy ∨ x.migst = .freeze ∨ 64 ≤ x.remap.length ∨ s.rangeOf (x.migsrc.toNat % 2 ^ 35) ≠ s.rangeOf (x.migdst.toNat % 2 ^ 35) ∨ s.homeOf x.migsrc ≠ some d ∨ s.homeOf x.migdst ≠ some d)) ∧
    (∃ s : State, ∃ d : Nat, let x := s.die d
      (x.migst = .copy ∨ x.migst = .freeze ∨ 64 ≤ x.remap.length ∨ s.rangeOf (x.migsrc.toNat % 2 ^ 35) ≠ s.rangeOf (x.migdst.toNat % 2 ^ 35) ∨ s.homeOf x.migsrc ≠ some d ∨ s.homeOf x.migdst ≠ some d)) ∧
    (∃ s : State, ∃ d : Nat, let x := s.die d
      (x.migst = .copy ∨ x.migst = .freeze ∨ 64 ≤ x.remap.length ∨ s.rangeOf (x.migsrc.toNat % 2 ^ 35) ≠ s.rangeOf (x.migdst.toNat % 2 ^ 35) ∨ s.homeOf x.migsrc ≠ some d ∨ s.homeOf x.migdst ≠ some d)) ∧
    (∃ s : State, ∃ d : Nat, (d < 4) ∧ (((s.die d).migst = .copy) ∧ ((∀ e ∈ (s.die d).remap, e.2 % 4096 = 0)))) ∧
    (∃ s : State, ∃ d : Nat, (d < 4) ∧ (((s.die d).migst = .freeze) ∧ (((s.die d).remap = [])))) :=
  ⟨⟨State.reset, ⟨0, ⟨(by first | decide +kernel | exact rfl), ⟨(by first | decide +kernel | exact rfl), ⟨(by first | decide +kernel | exact rfl), ⟨(by first | decide +kernel | exact rfl), ⟨(by first | decide +kernel | exact rfl), (by first | decide +kernel | exact rfl)⟩⟩⟩⟩⟩⟩⟩,
   ⟨migBad, ⟨0, (by first | decide +kernel | exact rfl)⟩⟩,
   ⟨withMig .copy 0, ⟨0, (by first | decide +kernel | exact rfl)⟩⟩,
   ⟨withMig .freeze 0, ⟨0, (by first | decide +kernel | exact rfl)⟩⟩,
   ⟨withMig .done 64, ⟨0, (by first | decide +kernel | exact rfl)⟩⟩,
   ⟨withMig .copy 0, ⟨0, ⟨(by first | decide +kernel | exact rfl), ⟨(by first | decide +kernel | exact rfl), (by first | decide +kernel | exact rfl)⟩⟩⟩⟩,
   ⟨withMig .freeze 0, ⟨0, ⟨(by first | decide +kernel | exact rfl), ⟨(by first | decide +kernel | exact rfl), (by first | decide +kernel | exact rfl)⟩⟩⟩⟩⟩

/-- The hypotheses of KillAndRollback are met. -/
theorem witness_kill_and_rollback :
    (∃ s : State, ∃ id : Nat, ∃ l : Launch, (s.launch? id = some l) ∧ ((l.eff.fdom = 0) ∧ ((l.replays = 0)))) ∧
    (∃ s : State, ∃ id : Nat, ∃ l : Launch, ∃ c : Nat, (s.launch? id = some l) ∧ ((l.unc = some c) ∧ ((l.replayable = true) ∧ ((l.replays < 3) ∧ ((l.isGraph = false) ∧ ((∀ d, (s.die d).remap = []) ∧ (let s1 := if l.rolling then s else ((s.putLaunch id { l with rolling := true }).countR l.die 7).removeBlocks true id
      (s1.writesLeft id = true)))))))) ∧
    (∃ s : State, ∃ id : Nat, ∃ l : Launch, ∃ c : Nat, (s.launch? id = some l) ∧ ((l.unc = some c) ∧ ((l.replayable = true) ∧ ((l.replays < 3) ∧ ((l.isGraph = false) ∧ ((∀ d, (s.die d).remap = []) ∧ (let s1 := if l.rolling then s else ((s.putLaunch id { l with rolling := true }).countR l.die 7).removeBlocks true id
      (s1.writesLeft id = false) ∧ ((l.snaps = []))))))))) ∧
    (∃ s : State, ∃ id : Nat, ∃ l : Launch, ∃ c : Nat, (s.launch? id = some l) ∧ ((l.unc = some c) ∧ ((l.replayable = true) ∧ ((l.replays < 3) ∧ ((l.isGraph = false) ∧ ((∀ d, (s.die d).remap = []) ∧ (let s1 := if l.rolling then s else ((s.putLaunch id { l with rolling := true }).countR l.die 7).removeBlocks true id
      ∃ x : Snap, ∃ loc : Nat, (s1.writesLeft id = false) ∧ ((l.snaps = [x]) ∧ ((x.data.length = 4096) ∧ ((s.placeFor l.die l.root (BitVec.ofInt 64 ((BitVec.ofNat 48 (x.va * 4096)).toInt)) .read = .ok loc))))))))))) :=
  ⟨⟨onLaunch, ⟨3, ⟨lnX, ⟨(by first | decide +kernel | exact rfl), ⟨(by first | decide +kernel | exact rfl), (by first | decide +kernel | exact rfl)⟩⟩⟩⟩⟩,
   ⟨{ (onUnc []) with cores := [(0, { reqs := [{ id := 5, key := 0, blk := 0, region := 1, launch := 3, pc := 0, kind := .store, accs := [acS] }] })] }, ⟨3, ⟨lnU [], ⟨0x1C0, ⟨(by first | decide +kernel | exact rfl), ⟨(by first | decide +kernel | exact rfl), ⟨(by first | decide +kernel | exact rfl), ⟨(by first | decide +kernel | exact rfl), ⟨(by first | decide +kernel | exact rfl), ⟨(remap_of _ rfl), (by first | decide +kernel | exact rfl)⟩⟩⟩⟩⟩⟩⟩⟩⟩⟩,
   ⟨onUnc [], ⟨3, ⟨lnU [], ⟨0x1C0, ⟨(by first | decide +kernel | exact rfl), ⟨(by first | decide +kernel | exact rfl), ⟨(by first | decide +kernel | exact rfl), ⟨(by first | decide +kernel | exact rfl), ⟨(by first | decide +kernel | exact rfl), ⟨(remap_of _ rfl), ⟨(by first | decide +kernel | exact rfl), (by first | decide +kernel | exact rfl)⟩⟩⟩⟩⟩⟩⟩⟩⟩⟩⟩,
   ⟨onUnc [snap], ⟨3, ⟨lnU [snap], ⟨0x1C0, ⟨(by first | decide +kernel | exact rfl), ⟨(by first | decide +kernel | exact rfl), ⟨(by first | decide +kernel | exact rfl), ⟨(by first | decide +kernel | exact rfl), ⟨(by first | decide +kernel | exact rfl), ⟨(remap_of _ rfl), ⟨snap, ⟨0x4000, ⟨(by first | decide +kernel | exact rfl), ⟨(by first | decide +kernel | exact rfl), ⟨(by first | decide +kernel | exact rfl), (ok_of (by decide +kernel))⟩⟩⟩⟩⟩⟩⟩⟩⟩⟩⟩⟩⟩⟩⟩⟩

/-- The hypotheses of PreemptionAndRestore are met. -/
theorem witness_preemption_and_restore :
    (∃ s : State, ∃ d : Nat, let x := s.die d
      (x.fwbusy = true) ∧ ((x.fwstop = false) ∧ ((x.code = 3) ∧ ((x.badWords 2 true = false) ∧ ((s.susp.find? x.rid = none) ∧ (let bs := s.residents x.rid
      let need := bs.foldl (fun n b => n + b.2.saveBytes) 0
      (need ≤ (x.req 2).toNat) ∧ (((x.req 1).toNat + need ≤ 2 ^ 37) ∧ ((bs ≠ []))))))))) ∧
    (∃ s : State, ∃ d : Nat, let x := s.die d
      (x.fwbusy = true) ∧ ((x.fwstop = false) ∧ ((x.code = 3) ∧ ((x.badWords 2 true = false) ∧ ((s.susp.find? x.rid = none) ∧ (let bs := s.residents x.rid
      let need := bs.foldl (fun n b => n + b.2.saveBytes) 0
      ((x.req 2).toNat < need))))))) ∧
    (∃ s : State, ∃ blk : Nat, ∃ b : Block, ∃ y : Susp, (s.blocks = [(blk, b)]) ∧ ((s.susp.find? b.region = some y) ∧ ((b.stopped = true) ∧ ((b.saved = none) ∧ ((b.twin = none) ∧ ((s.graphs = []) ∧ ((s.drained blk b = true) ∧ ((∀ c, (s.core c).reqs = []) ∧ ((s.groups.sorted = true)))))))))) ∧
    (∃ s : State, ∃ d : Nat, let x := s.die d
      (x.fwbusy = true) ∧ ((x.fwstop = false) ∧ ((x.code = 4) ∧ ((x.badWords 1 true = false) ∧ ((s.susp.find? x.rid = none)))))) ∧
    (∃ s : State, ∃ d : Nat, let x := s.die d
      (x.fwbusy = true) ∧ ((x.fwstop = false) ∧ ((x.code = 4) ∧ ((x.badWords 1 true = false) ∧ (∃ y : Susp, ∃ blk : Nat, ∃ b : Block, (s.susp.find? x.rid = some y) ∧ ((y.busy = false) ∧ ((s.blocks = [(blk, b)]) ∧ ((b.region = x.rid) ∧ ((b.saved.isSome)))))))))) ∧
    (∃ s : State, ∃ blk : Nat, ∃ b : Block, ∃ y : Susp, ∃ l : Launch, ∃ p : Plan, ∃ ms : List (Nat × Nat), (s.blocks = [(blk, b)]) ∧ ((s.susp.find? b.region = some y) ∧ ((s.launch? b.launch = some l) ∧ ((b.saved.isSome) ∧ ((y.restore = true) ∧ ((y.busy = true) ∧ ((b.twin = none) ∧ ((b.mblocks = []) ∧ ((b.imageOk l (s.savedRecords b y.base).1 (s.savedRecords b y.base).2 = true) ∧ ((l.eff.within s.useOf 1 b.grans b.tiles.length b.bgrans = true) ∧ ((s.placeBack l b [(blk, b)] = some [(blk, b, p, ms)])))))))))))) :=
  ⟨⟨{ onMail3 0x10003 0x8000 0x100000 with blocks := [(0, bk)] }, ⟨0, ⟨(by first | decide +kernel | exact rfl), ⟨(by first | decide +kernel | exact rfl), ⟨(by first | decide +kernel | exact rfl), ⟨(by first | decide +kernel | exact rfl), ⟨(by first | decide +kernel | exact rfl), ⟨(by first | decide +kernel | exact rfl), ⟨(by first | decide +kernel | exact rfl), (by first | decide +kernel | exact rfl)⟩⟩⟩⟩⟩⟩⟩⟩⟩,
   ⟨{ onMail3 0x10003 0x8000 0 with blocks := [(0, bk)] }, ⟨0, ⟨(by first | decide +kernel | exact rfl), ⟨(by first | decide +kernel | exact rfl), ⟨(by first | decide +kernel | exact rfl), ⟨(by first | decide +kernel | exact rfl), ⟨(by first | decide +kernel | exact rfl), (by first | decide +kernel | exact rfl)⟩⟩⟩⟩⟩⟩⟩,
   ⟨onStop, ⟨0, ⟨blS, ⟨{ base := 0x8000, die := 0 }, ⟨(by first | decide +kernel | exact rfl), ⟨(by first | decide +kernel | exact rfl), ⟨(by first | decide +kernel | exact rfl), ⟨(by first | decide +kernel | exact rfl), ⟨(by first | decide +kernel | exact rfl), ⟨(by first | decide +kernel | exact rfl), ⟨(by first | decide +kernel | exact rfl), ⟨(reqs_of rfl), (by first | decide +kernel | exact rfl)⟩⟩⟩⟩⟩⟩⟩⟩⟩⟩⟩⟩,
   ⟨onMail 0x10004 0x8000, ⟨0, ⟨(by first | decide +kernel | exact rfl), ⟨(by first | decide +kernel | exact rfl), ⟨(by first | decide +kernel | exact rfl), ⟨(by first | decide +kernel | exact rfl), (by first | decide +kernel | exact rfl)⟩⟩⟩⟩⟩⟩,
   ⟨{ onMail 0x10004 0x8000 with blocks := [(0, { bk with saved := some 0 })], susp := [(1, { base := 0x8000, die := 0, busy := false })] }, ⟨0, ⟨(by first | decide +kernel | exact rfl), ⟨(by first | decide +kernel | exact rfl), ⟨(by first | decide +kernel | exact rfl), ⟨(by first | decide +kernel | exact rfl), ⟨{ base := 0x8000, die := 0, busy := false }, ⟨0, ⟨{ bk with saved := some 0 }, ⟨(by first | decide +kernel | exact rfl), ⟨(by first | decide +kernel | exact rfl), ⟨(by first | decide +kernel | exact rfl), ⟨(by first | decide +kernel | exact rfl), (by first | decide +kernel | exact rfl)⟩⟩⟩⟩⟩⟩⟩⟩⟩⟩⟩⟩⟩,
   ⟨onBack, ⟨0, ⟨blB, ⟨{ base := 0x8000, die := 0, restore := true }, ⟨lnX, ⟨plB, ⟨[(0, 0)], ⟨(by first | decide +kernel | exact rfl), ⟨(by first | decide +kernel | exact rfl), ⟨(by first | decide +kernel | exact rfl), ⟨(by first | decide +kernel | exact rfl), ⟨(by first | decide +kernel | exact rfl), ⟨(by first | decide +kernel | exact rfl), ⟨(by first | decide +kernel | exact rfl), ⟨(by first | decide +kernel | exact rfl), ⟨(by first | decide +kernel | exact rfl), ⟨(by first | decide +kernel | exact rfl), (by first | decide +kernel | exact rfl)⟩⟩⟩⟩⟩⟩⟩⟩⟩⟩⟩⟩⟩⟩⟩⟩⟩⟩

/-- The hypotheses of TrapRingCompletes are met. -/
theorem witness_trap_ring_completes :
    (∃ s : State, ∃ d : Nat, ∃ r : TrapRec, let x := s.die d
      (nextTrap (x.traps.filter s.deliverable) = some r) ∧ ((x.trEn = true) ∧ (((x.trtail - x.trhead).toNat < 2 ^ x.trLog2) ∧ ((∀ k, (s.die k).remap = []))))) :=
  ⟨onTr true 63 gpF, ⟨0, ⟨trr, ⟨(by first | decide +kernel | exact rfl), ⟨(by first | decide +kernel | exact rfl), ⟨(by first | decide +kernel | exact rfl), (remap_of _ rfl)⟩⟩⟩⟩⟩⟩

/-- The hypotheses of TwinExecution are met. -/
theorem witness_twin_execution :
    (∃ s : State, ∃ n : Nat, ∃ x : Twin, ∃ g : Group, ∃ h : Group, ∃ cl : Group, ∃ ct : Group, (s.twins.find? n = some x) ∧ ((∀ f ∈ x.flights, f.result = true) ∧ (((∃ l lq r tq, x.lq = l :: lq ∧ x.tq = r :: tq ∧ l.wait = false ∧ r.wait = false ∧ l.sig ≠ r.sig) ∨ (∃ r tq, x.lq = [] ∧ x.tq = r :: tq ∧ r.wait = false ∧ g.exited = true) ∨ (∃ l lq, x.lq = l :: lq ∧ x.tq = [] ∧ l.wait = false ∧ h.exited = true)) ∧ ((x.lead ≠ x.trail) ∧ ((s.group? x.lead = some g) ∧ ((s.group? x.trail = some h) ∧ ((x.ckptL = some cl) ∧ ((x.ckptT = some ct))))))))) ∧
    (∃ s : State, ∃ n : Nat, ∃ x : Twin, ∃ g : Group, ∃ h : Group, ∃ cl : Group, ∃ ct : Group, (s.twins.find? n = some x) ∧ ((∀ f ∈ x.flights, f.result = true) ∧ (((∃ l lq r tq, x.lq = l :: lq ∧ x.tq = r :: tq ∧ l.wait = false ∧ r.wait = false ∧ l.sig ≠ r.sig) ∨ (∃ r tq, x.lq = [] ∧ x.tq = r :: tq ∧ r.wait = false ∧ g.exited = true) ∨ (∃ l lq, x.lq = l :: lq ∧ x.tq = [] ∧ l.wait = false ∧ h.exited = true)) ∧ ((x.lead ≠ x.trail) ∧ ((s.group? x.lead = some g) ∧ ((s.group? x.trail = some h) ∧ ((x.ckptL = some cl) ∧ ((x.ckptT = some ct))))))))) ∧
    (∃ s : State, ∃ n : Nat, ∃ x : Twin, ∃ g : Group, ∃ h : Group, ∃ cl : Group, ∃ ct : Group, (s.twins.find? n = some x) ∧ ((∀ f ∈ x.flights, f.result = true) ∧ (((∃ l lq r tq, x.lq = l :: lq ∧ x.tq = r :: tq ∧ l.wait = false ∧ r.wait = false ∧ l.sig ≠ r.sig) ∨ (∃ r tq, x.lq = [] ∧ x.tq = r :: tq ∧ r.wait = false ∧ g.exited = true) ∨ (∃ l lq, x.lq = l :: lq ∧ x.tq = [] ∧ l.wait = false ∧ h.exited = true)) ∧ ((x.lead ≠ x.trail) ∧ ((s.group? x.lead = some g) ∧ ((s.group? x.trail = some h) ∧ ((x.ckptL = some cl) ∧ ((x.ckptT = some ct))))))))) ∧
    (∃ s : State, ∃ n : Nat, ∃ x : Twin, ∃ l : TwinEntry, ∃ r : TwinEntry, ∃ lq : List TwinEntry, ∃ tq : List TwinEntry, (s.twins.find? n = some x) ∧ ((∀ f ∈ x.flights, f.result = true) ∧ ((x.lq = l :: lq) ∧ ((x.tq = r :: tq) ∧ ((l.wait = true ∨ r.wait = true)))))) ∧
    (∃ s : State, ∃ n : Nat, ∃ a : Nat, ∃ b : List Nat, ∃ p : Bool, ∃ w : Bool, ∃ x : Twin, ∃ l : TwinEntry, ∃ r : TwinEntry, ∃ lq : List TwinEntry, ∃ tq : List TwinEntry, ∃ q : Req, ∃ g : Group, (s.twins.find? n = some x) ∧ ((∀ f ∈ x.flights, f.result = true) ∧ ((x.lq = l :: lq) ∧ ((x.tq = r :: tq) ∧ ((l.wait = false) ∧ ((r.wait = false) ∧ ((l.sig = r.sig) ∧ ((l.op = .req [a] p) ∧ ((r.op = .req b w) ∧ ((s.group? x.lead = some g) ∧ ((g.exited = false) ∧ ((s.req? (coreOf x.lead) a = some q))))))))))))) ∧
    (∃ s : State, ∃ n : Nat, ∃ x : Twin, ∃ l : TwinEntry, ∃ r : TwinEntry, ∃ lq : List TwinEntry, ∃ tq : List TwinEntry, ∃ es : List Emitted, ∃ fs : List Emitted, ∃ g : Group, (s.twins.find? n = some x) ∧ ((∀ f ∈ x.flights, f.result = true) ∧ ((x.lq = l :: lq) ∧ ((x.tq = r :: tq) ∧ ((l.wait = false) ∧ ((r.wait = false) ∧ ((l.sig = r.sig) ∧ ((l.op = .emit es) ∧ ((r.op = .emit fs) ∧ ((s.group? x.lead = some g) ∧ ((g.exited = false)))))))))))) ∧
    (∃ s : State, ∃ n : Nat, ∃ x : Twin, ∃ g : Group, ∃ h : Group, (s.twins.find? n = some x) ∧ ((s.group? x.lead = some g) ∧ ((s.group? x.trail = some h) ∧ ((x.lead ≠ x.trail) ∧ ((g.ckptWait = true) ∧ ((h.ckptWait = true) ∧ ((g.ckpts = h.ckpts) ∧ ((x.lq = []) ∧ ((x.tq = [])))))))))) ∧
    (∃ s : State, ∃ n : Nat, ∃ x : Twin, ∃ g : Group, ∃ h : Group, (s.twins.find? n = some x) ∧ ((s.group? x.lead = some g) ∧ ((s.group? x.trail = some h) ∧ ((g.ckptWait = false ∨ h.ckptWait = false ∨ g.ckpts ≠ h.ckpts ∨ x.lq ≠ [] ∨ x.tq ≠ []))))) ∧
    (∃ s : State, ∃ n : Nat, ∃ x : Twin, ∃ g : Group, ∃ h : Group, (s.twins.find? n = some x) ∧ ((s.group? x.lead = some g) ∧ ((s.group? x.trail = some h) ∧ ((g.ckptWait = false ∨ h.ckptWait = false ∨ g.ckpts ≠ h.ckpts ∨ x.lq ≠ [] ∨ x.tq ≠ []))))) ∧
    (∃ s : State, ∃ n : Nat, ∃ x : Twin, ∃ g : Group, ∃ h : Group, (s.twins.find? n = some x) ∧ ((s.group? x.lead = some g) ∧ ((s.group? x.trail = some h) ∧ ((g.ckptWait = false ∨ h.ckptWait = false ∨ g.ckpts ≠ h.ckpts ∨ x.lq ≠ [] ∨ x.tq ≠ []))))) ∧
    (∃ s : State, ∃ n : Nat, ∃ x : Twin, ∃ g : Group, ∃ h : Group, (s.twins.find? n = some x) ∧ ((s.group? x.lead = some g) ∧ ((s.group? x.trail = some h) ∧ ((g.ckptWait = false ∨ h.ckptWait = false ∨ g.ckpts ≠ h.ckpts ∨ x.lq ≠ [] ∨ x.tq ≠ []))))) :=
  ⟨⟨onTw (tw [te 1] [te 2]) gpTwin gpTwin [], ⟨4, ⟨tw [te 1] [te 2], ⟨gpTwin, ⟨gpTwin, ⟨gp, ⟨gp, ⟨(by first | decide +kernel | exact rfl), ⟨(by intro f hf; cases hf), ⟨(Or.inl ⟨te 1, [], te 2, [], rfl, rfl, rfl, rfl, by decide⟩), ⟨(by first | decide +kernel | exact rfl), ⟨(by first | decide +kernel | exact rfl), ⟨(by first | decide +kernel | exact rfl), ⟨(by first | decide +kernel | exact rfl), (by first | decide +kernel | exact rfl)⟩⟩⟩⟩⟩⟩⟩⟩⟩⟩⟩⟩⟩⟩,
   ⟨onTw (tw [] [te 2]) gpGone gpTwin [], ⟨4, ⟨tw [] [te 2], ⟨gpGone, ⟨gpTwin, ⟨gp, ⟨gp, ⟨(by first | decide +kernel | exact rfl), ⟨(by intro f hf; cases hf), ⟨(Or.inr (Or.inl ⟨te 2, [], rfl, rfl, rfl, by decide +kernel⟩)), ⟨(by first | decide +kernel | exact rfl), ⟨(by first | decide +kernel | exact rfl), ⟨(by first | decide +kernel | exact rfl), ⟨(by first | decide +kernel | exact rfl), (by first | decide +kernel | exact rfl)⟩⟩⟩⟩⟩⟩⟩⟩⟩⟩⟩⟩⟩⟩,
   ⟨onTw (tw [te 1] []) gpTwin gpGone [], ⟨4, ⟨tw [te 1] [], ⟨gpTwin, ⟨gpGone, ⟨gp, ⟨gp, ⟨(by first | decide +kernel | exact rfl), ⟨(by intro f hf; cases hf), ⟨(Or.inr (Or.inr ⟨te 1, [], rfl, rfl, rfl, by decide +kernel⟩)), ⟨(by first | decide +kernel | exact rfl), ⟨(by first | decide +kernel | exact rfl), ⟨(by first | decide +kernel | exact rfl), ⟨(by first | decide +kernel | exact rfl), (by first | decide +kernel | exact rfl)⟩⟩⟩⟩⟩⟩⟩⟩⟩⟩⟩⟩⟩⟩,
   ⟨onTw (tw [{ te 1 with wait := true }] [te 1]) gpTwin gpTwin [], ⟨4, ⟨tw [{ te 1 with wait := true }] [te 1], ⟨{ te 1 with wait := true }, ⟨te 1, ⟨[], ⟨[], ⟨(by first | decide +kernel | exact rfl), ⟨(by intro f hf; cases hf), ⟨(by first | decide +kernel | exact rfl), ⟨(by first | decide +kernel | exact rfl), (Or.inl rfl)⟩⟩⟩⟩⟩⟩⟩⟩⟩⟩⟩,
   ⟨onTw (tw [tq 5 true] [tq 6 true]) gpTwin gpTwin [{ id := 5, key := 0, blk := 0, region := 1, pc := 0, kind := .load, st := .queued, accs := [{ lane := 0, ga := 0x8000000000000000, loc := sramLoc 0 0, n := 4 }] }], ⟨4, ⟨5, ⟨[6], ⟨true, ⟨true, ⟨tw [tq 5 true] [tq 6 true], ⟨tq 5 true, ⟨tq 6 true, ⟨[], ⟨[], ⟨{ id := 5, key := 0, blk := 0, region := 1, pc := 0, kind := .load, st := .queued, accs := [{ lane := 0, ga := 0x8000000000000000, loc := sramLoc 0 0, n := 4 }] }, ⟨gpTwin, ⟨(by first | decide +kernel | exact rfl), ⟨(by intro f hf; cases hf), ⟨(by first | decide +kernel | exact rfl), ⟨(by first | decide +kernel | exact rfl), ⟨(by first | decide +kernel | exact rfl), ⟨(by first | decide +kernel | exact rfl), ⟨(by first | decide +kernel | exact rfl), ⟨(by first | decide +kernel | exact rfl), ⟨(by first | decide +kernel | exact rfl), ⟨(by first | decide +kernel | exact rfl), ⟨(by first | decide +kernel | exact rfl), (by first | decide +kernel | exact rfl)⟩⟩⟩⟩⟩⟩⟩⟩⟩⟩⟩⟩⟩⟩⟩⟩⟩⟩⟩⟩⟩⟩⟩⟩,
   ⟨onTw (tw [{ sig := [1], op := .emit [em] }] [{ sig := [1], op := .emit [em] }]) gpTwin gpTwin [], ⟨4, ⟨tw [{ sig := [1], op := .emit [em] }] [{ sig := [1], op := .emit [em] }], ⟨{ sig := [1], op := .emit [em] }, ⟨{ sig := [1], op := .emit [em] }, ⟨[], ⟨[], ⟨[em], ⟨[em], ⟨gpTwin, ⟨(by first | decide +kernel | exact rfl), ⟨(by intro f hf; cases hf), ⟨(by first | decide +kernel | exact rfl), ⟨(by first | decide +kernel | exact rfl), ⟨(by first | decide +kernel | exact rfl), ⟨(by first | decide +kernel | exact rfl), ⟨(by first | decide +kernel | exact rfl), ⟨(by first | decide +kernel | exact rfl), ⟨(by first | decide +kernel | exact rfl), ⟨(by first | decide +kernel | exact rfl), (by first | decide +kernel | exact rfl)⟩⟩⟩⟩⟩⟩⟩⟩⟩⟩⟩⟩⟩⟩⟩⟩⟩⟩⟩⟩,
   ⟨onTw (tw [] []) (gpCk 1) (gpCk 1) [], ⟨4, ⟨tw [] [], ⟨gpCk 1, ⟨gpCk 1, ⟨(by first | decide +kernel | exact rfl), ⟨(by first | decide +kernel | exact rfl), ⟨(by first | decide +kernel | exact rfl), ⟨(by first | decide +kernel | exact rfl), ⟨(by first | decide +kernel | exact rfl), ⟨(by first | decide +kernel | exact rfl), ⟨(by first | decide +kernel | exact rfl), ⟨(by first | decide +kernel | exact rfl), (by first | decide +kernel | exact rfl)⟩⟩⟩⟩⟩⟩⟩⟩⟩⟩⟩⟩⟩,
   ⟨onTw (tw [] []) gpTwin (gpCk 1) [], ⟨4, ⟨tw [] [], ⟨gpTwin, ⟨gpCk 1, ⟨(by first | decide +kernel | exact rfl), ⟨(by first | decide +kernel | exact rfl), ⟨(by first | decide +kernel | exact rfl), (Or.inl (by decide +kernel))⟩⟩⟩⟩⟩⟩⟩⟩,
   ⟨onTw (tw [] []) (gpCk 1) gpTwin [], ⟨4, ⟨tw [] [], ⟨gpCk 1, ⟨gpTwin, ⟨(by first | decide +kernel | exact rfl), ⟨(by first | decide +kernel | exact rfl), ⟨(by first | decide +kernel | exact rfl), (Or.inr (Or.inl (by decide +kernel)))⟩⟩⟩⟩⟩⟩⟩⟩,
   ⟨onTw (tw [] []) (gpCk 1) (gpCk 2) [], ⟨4, ⟨tw [] [], ⟨gpCk 1, ⟨gpCk 2, ⟨(by first | decide +kernel | exact rfl), ⟨(by first | decide +kernel | exact rfl), ⟨(by first | decide +kernel | exact rfl), (Or.inr (Or.inr (Or.inl (by decide +kernel))))⟩⟩⟩⟩⟩⟩⟩⟩,
   ⟨onTw (tw [te 1] []) (gpCk 1) (gpCk 1) [], ⟨4, ⟨tw [te 1] [], ⟨gpCk 1, ⟨gpCk 1, ⟨(by first | decide +kernel | exact rfl), ⟨(by first | decide +kernel | exact rfl), ⟨(by first | decide +kernel | exact rfl), (Or.inr (Or.inr (Or.inr (Or.inl (by decide +kernel)))))⟩⟩⟩⟩⟩⟩⟩⟩⟩

/-- The hypotheses of SliceCycles are met. -/
theorem witness_slice_cycles :
    (∃ s : State, ∃ key : Nat, ∃ g : Group, ∃ pc : DWord, ∃ start : Nat, ∃ b : Nat, ∃ c : Coding, ∃ i : Instr, ∃ cur : Cur, (s.group? key = some g) ∧ ((g.overCls = some (pc, start)) ∧ ((g.baton = some b) ∧ ((g.trap = none) ∧ ((g.fault = none) ∧ ((s.look key g { pc } = .ok c i cur) ∧ ((start + 64 ≤ (s.slice (sliceOf key)).cyc) ∧ (((s.slice (sliceOf key)).overAll b (timOf i) = true))))))))) ∧
    (∃ s : State, ∃ key : Nat, ∃ g : Group, ∃ pc : DWord, ∃ start : Nat, ∃ b : Nat, ∃ c : Coding, ∃ i : Instr, ∃ cur : Cur, (s.group? key = some g) ∧ ((g.overCls = some (pc, start)) ∧ ((g.baton = some b) ∧ ((g.trap = none) ∧ ((g.fault = none) ∧ ((s.look key g { pc } = .ok c i cur) ∧ (((s.slice (sliceOf key)).cyc < start + 64)))))))) :=
  ⟨⟨onOver 64, ⟨0, ⟨gpOver, ⟨0, ⟨0, ⟨0, ⟨lkOver.1, ⟨lkOver.2.1, ⟨lkOver.2.2, ⟨(by first | decide +kernel | exact rfl), ⟨(by first | decide +kernel | exact rfl), ⟨(by first | decide +kernel | exact rfl), ⟨(by first | decide +kernel | exact rfl), ⟨(by first | decide +kernel | exact rfl), ⟨(by first | decide +kernel | exact rfl), ⟨(by first | decide +kernel | exact rfl), (by first | decide +kernel | exact rfl)⟩⟩⟩⟩⟩⟩⟩⟩⟩⟩⟩⟩⟩⟩⟩⟩,
   ⟨onOver 63, ⟨0, ⟨gpOver, ⟨0, ⟨0, ⟨0, ⟨lkOver.1, ⟨lkOver.2.1, ⟨lkOver.2.2, ⟨(by first | decide +kernel | exact rfl), ⟨(by first | decide +kernel | exact rfl), ⟨(by first | decide +kernel | exact rfl), ⟨(by first | decide +kernel | exact rfl), ⟨(by first | decide +kernel | exact rfl), ⟨(by first | decide +kernel | exact rfl), (by first | decide +kernel | exact rfl)⟩⟩⟩⟩⟩⟩⟩⟩⟩⟩⟩⟩⟩⟩⟩⟩

/-- The hypotheses of SliceCycleEnds are met. -/
theorem witness_slice_cycle_ends :
    (∃ s : State, ∃ l : Latch, (s.latch = some l) ∧ ((l.todo = []))) :=
  ⟨onEnd, ⟨{ slice := 0 }, ⟨(by first | decide +kernel | exact rfl), (by first | decide +kernel | exact rfl)⟩⟩⟩

/-- The hypotheses of CollectorsAndBanks are met. -/
theorem witness_collectors_and_banks :
    (∃ s : State, ∃ sl : Nat, ∃ b : Nat, ∃ slot : Nat, ∃ pc : DWord, ∃ w : List Nat, ∃ q : List Bool, ∃ z : List (Option (SMap Word)), ((s.slice sl).coll = [(b, { slot, pcs := [pc], want := [w], since := [0], done := q, ws := z })])) ∧
    (∃ s : State, ∃ sl : Nat, ∃ r : Nat, ∃ v : Nat, ∃ p : DWord, ∃ q : DWord, ∃ h : Nat, ∃ k : Nat, ∃ d : List Bool, ∃ e : List Bool, ∃ z : List (Option (SMap Word)), ((s.slice sl).coll = [(0, { slot := h, pcs := [p], want := [[r]], since := [0], done := d, ws := z }), (1, { slot := k, pcs := [q], want := [[v]], since := [0], done := e, ws := z })])) ∧
    (∃ s : State, ∃ sl : Nat, ∃ b : Nat, ∃ j : Nat, ∃ second : Bool, ∃ c : Coll, ∃ g : Group, ∃ pc : DWord, ((s.slice sl).coll.find? b = some c) ∧ ((j = (if second then 1 else 0)) ∧ ((c.pcs[j]? = some pc) ∧ ((((s.slice sl).gathers (s.slice sl).cyc b c).any (fun y => y.1 == j) = true) ∧ ((s.group? (16 * sl + c.slot) = some g) ∧ ((g.trap = none) ∧ ((g.fault = none)))))))) ∧
    (∃ s : State, ∃ core : Nat, ∃ x : WWrite, ∃ y : WWrite, ∃ b : Block, ∃ e : Nat, ∃ f : Nat, ((s.core core).wq = [x, y]) ∧ ((x.blk = y.blk) ∧ ((x.reg = y.reg) ∧ ((s.block? x.blk = some b) ∧ ((x.slice < 6) ∧ ((y.slice < 6) ∧ ((x.baton < 4) ∧ ((y.baton < 4) ∧ ((x.prim < 2) ∧ ((y.prim < 2) ∧ ((x.ended = some e) ∧ ((y.ended = some f) ∧ (((e + 9) / 10 * 10 + 10 ≤ s.now) ∧ (((f + 9) / 10 * 10 + 10 ≤ s.now) ∧ (((x.slice, x.baton, x.prim) ≠ (y.slice, y.baton, y.prim))))))))))))))))) ∧
    (∃ s : State, ∃ core : Nat, (∀ w ∈ (s.core core).wq, (∃ e, w.ended = some e ∧ s.now < (e + 9) / 10 * 10 + 10) ∨ (w.ended = none ∧ ∃ k g, (k, g) ∈ s.groups ∧ sliceOf k = sliceKey core w.slice))) :=
  ⟨⟨onColl [(3, { slot := 15, pcs := [0], want := [[0, 8, 1]], since := [0], done := [false] })], ⟨0, ⟨3, ⟨15, ⟨0, ⟨[0, 8, 1], ⟨[false], ⟨[], (by first | decide +kernel | exact rfl)⟩⟩⟩⟩⟩⟩⟩⟩,
   ⟨onColl [(0, { slot := 0, pcs := [0], want := [[0]], since := [0], done := [false] }), (1, { slot := 1, pcs := [0], want := [[8]], since := [0], done := [false] })], ⟨0, ⟨0, ⟨8, ⟨0, ⟨0, ⟨0, ⟨1, ⟨[false], ⟨[false], ⟨[], (by first | decide +kernel | exact rfl)⟩⟩⟩⟩⟩⟩⟩⟩⟩⟩⟩,
   ⟨{ onColl [(3, { slot := 15, pcs := [0], want := [[8]], since := [0], done := [false] })] with groups := [(15, gp)] }, ⟨0, ⟨3, ⟨0, ⟨false, ⟨{ slot := 15, pcs := [0], want := [[8]], since := [0], done := [false] }, ⟨gp, ⟨0, ⟨(by first | decide +kernel | exact rfl), ⟨(by first | decide +kernel | exact rfl), ⟨(by first | decide +kernel | exact rfl), ⟨(by first | decide +kernel | exact rfl), ⟨(by first | decide +kernel | exact rfl), ⟨(by first | decide +kernel | exact rfl), (by first | decide +kernel | exact rfl)⟩⟩⟩⟩⟩⟩⟩⟩⟩⟩⟩⟩⟩⟩,
   ⟨onWq [ww 1 (some 0), ww 0 (some 0)] 10, ⟨0, ⟨ww 1 (some 0), ⟨ww 0 (some 0), ⟨bk, ⟨0, ⟨0, ⟨(by first | decide +kernel | exact rfl), ⟨(by first | decide +kernel | exact rfl), ⟨(by first | decide +kernel | exact rfl), ⟨(by first | decide +kernel | exact rfl), ⟨(by first | decide +kernel | exact rfl), ⟨(by first | decide +kernel | exact rfl), ⟨(by first | decide +kernel | exact rfl), ⟨(by first | decide +kernel | exact rfl), ⟨(by first | decide +kernel | exact rfl), ⟨(by first | decide +kernel | exact rfl), ⟨(by first | decide +kernel | exact rfl), ⟨(by first | decide +kernel | exact rfl), ⟨(by first | decide +kernel | exact rfl), ⟨(by first | decide +kernel | exact rfl), (by first | decide +kernel | exact rfl)⟩⟩⟩⟩⟩⟩⟩⟩⟩⟩⟩⟩⟩⟩⟩⟩⟩⟩⟩⟩⟩,
   ⟨onWq [ww 1 none, ww 1 (some 0)] 9, ⟨0, (by intro w hw; rcases List.mem_cons.mp (show w ∈ [ww 1 none, ww 1 (some 0)] from hw) with rfl | hw; exact .inr ⟨rfl, 0, gp, by decide +kernel, by decide +kernel⟩; obtain rfl := List.mem_singleton.mp hw; exact .inl ⟨0, rfl, by decide +kernel⟩)⟩⟩⟩

/-- The hypotheses of LineFillsAndWalks are met. -/
theorem witness_line_fills_and_walks :
    (∃ s : State, ∃ core : Nat, ∃ root : DWord, ∃ va : DWord, ∃ x : Xlate, ∃ u : State, (s.translate core root (lineBase va).toNat .fetch = (.ok x, u))) ∧
    (∃ s : State, ∃ core : Nat, ∃ root : DWord, ∃ va : DWord, ∃ e : Nat, ∃ u : State, (s.translate core root (lineBase va).toNat .fetch = (.error e, u))) :=
  ⟨⟨onTab, ⟨0, ⟨rootD, ⟨0, ⟨match (onTab.translate 0 rootD (lineBase 0).toNat .fetch).1 with | .ok x => x | _ => ⟨0, 0, 0⟩, ⟨(onTab.translate 0 rootD (lineBase 0).toNat .fetch).2, (Prod.ext (ok_of (by decide +kernel)) rfl)⟩⟩⟩⟩⟩⟩,
   ⟨on gp 3, ⟨0, ⟨0, ⟨0, ⟨175, ⟨((on gp 3).translate 0 0 (lineBase 0).toNat .fetch).2, (Prod.ext (error_of (by decide +kernel)) rfl)⟩⟩⟩⟩⟩⟩⟩

/-- The hypotheses of InterruptRoutes are met. -/
theorem witness_interrupt_routes :
    (∃ k : Nat, ∃ v : Word, (k < 8) ∧ ((v.extractLsb' 5 11 = 0))) ∧
    (∃ k : Nat, ∃ v : Word, (8 ≤ k ∨ v.extractLsb' 5 11 ≠ 0)) ∧
    (∃ k : Nat, ∃ v : Word, (8 ≤ k ∨ v.extractLsb' 5 11 ≠ 0)) ∧
    (∃ d : Nat, ∃ src : Nat, (1 ≤ src) ∧ ((src ≤ 17) ∧ ((d = 0 ∨ d = 3)))) ∧
    (∃ d : Nat, ∃ src : Nat, (1 ≤ src) ∧ ((src ≤ 17) ∧ ((d = 0 ∨ d = 3)))) ∧
    (∃ d : Nat, ∃ src : Nat, (d = 1 ∨ d = 2 ∨ src = 0 ∨ 17 < src)) ∧
    (∃ d : Nat, ∃ src : Nat, (d = 1 ∨ d = 2 ∨ src = 0 ∨ 17 < src)) ∧
    (∃ s : State, ∃ d : Nat, ∃ src : Nat, ∃ v : Word, (1 ≤ src) ∧ ((src ≤ 17) ∧ ((d = 0 ∨ d = 3) ∧ ((src ∉ (s.die d).aplic) ∧ (((s.die d).domS = {}) ∧ (((s.die d).domM = { ie := true, cfg := [(src, 4)], en := [src], target := [(src, v)] }) ∧ ((v.toNat / 2 ^ 18 < 32) ∧ ((1 ≤ v.toNat % 2 ^ 11))))))))) :=
  ⟨⟨7, ⟨0x8000001F, ⟨(by first | decide +kernel | exact rfl), (by first | decide +kernel | exact rfl)⟩⟩⟩,
   ⟨7, ⟨0x800, (Or.inr (by decide))⟩⟩,
   ⟨8, ⟨0, (Or.inl (by decide))⟩⟩,
   ⟨0, ⟨1, ⟨(by first | decide +kernel | exact rfl), ⟨(by first | decide +kernel | exact rfl), (by first | decide +kernel | exact rfl)⟩⟩⟩⟩,
   ⟨3, ⟨17, ⟨(by first | decide +kernel | exact rfl), ⟨(by first | decide +kernel | exact rfl), (by first | decide +kernel | exact rfl)⟩⟩⟩⟩,
   ⟨1, ⟨1, (by first | decide +kernel | exact rfl)⟩⟩,
   ⟨2, ⟨17, (by first | decide +kernel | exact rfl)⟩⟩,
   ⟨State.reset.putDie 3 { State.reset.die 3 with domM := { ie := true, cfg := [(17, 4)], en := [17], target := [(17, 0x7C0001)] } }, ⟨3, ⟨17, ⟨0x7C0001, ⟨(by first | decide +kernel | exact rfl), ⟨(by first | decide +kernel | exact rfl), ⟨(Or.inr rfl), ⟨(by first | decide +kernel | exact rfl), ⟨(by first | decide +kernel | exact rfl), ⟨(by first | decide +kernel | exact rfl), ⟨(by first | decide +kernel | exact rfl), (by first | decide +kernel | exact rfl)⟩⟩⟩⟩⟩⟩⟩⟩⟩⟩⟩⟩

/-- The hypotheses of RegisterWrites are met. -/
theorem witness_register_writes :
    (∃ s : State, ∃ d : Nat, ∃ m : Master, (d < 4) ∧ ((s.acts m = true) ∧ (((s.die d).trEn = false)))) ∧
    (∃ s : State, ∃ d : Nat, ∃ m : Master, (d < 4) ∧ ((s.acts m = true) ∧ (((s.die d).trEn = true)))) ∧
    (∃ s : State, ∃ d : Nat, ∃ m : Master, (d < 4) ∧ ((s.acts m = true))) ∧
    (∃ s : State, ∃ d : Nat, ∃ v : DWord, ∃ m : Master, (d < 4) ∧ ((s.acts m = true) ∧ ((isFirm m = true) ∧ ((d = 0 ∨ d = 3) ∧ ((v.extractLsb' 0 2 ≠ 3)))))) ∧
    (∃ s : State, ∃ d : Nat, ∃ v : DWord, ∃ m : Master, (d < 4) ∧ ((s.acts m = true) ∧ ((isFirm m = false ∨ d = 1 ∨ d = 2 ∨ v.extractLsb' 0 2 = 3)))) ∧
    (∃ s : State, ∃ d : Nat, ∃ v : DWord, ∃ m : Master, (d < 4) ∧ ((s.acts m = true) ∧ ((isFirm m = false ∨ d = 1 ∨ d = 2 ∨ v.extractLsb' 0 2 = 3)))) ∧
    (∃ s : State, ∃ d : Nat, ∃ v : DWord, ∃ m : Master, (d < 4) ∧ ((s.acts m = true) ∧ ((isFirm m = false ∨ d = 1 ∨ d = 2 ∨ v.extractLsb' 0 2 = 3)))) ∧
    (∃ s : State, ∃ d : Nat, ∃ i : Nat, ∃ m : Master, (d < 4) ∧ ((i < 8) ∧ ((s.acts m = true)))) ∧
    (∃ s : State, ∃ d : Nat, ∃ c : Nat, ∃ sl : Nat, ∃ i : Nat, ∃ m : Master, (d < 4) ∧ ((c < 96) ∧ ((sl < 6) ∧ ((i < 64) ∧ ((s.acts m = true) ∧ ((isFirm m = true))))))) ∧
    (∃ s : State, ∃ d : Nat, ∃ c : Nat, ∃ sl : Nat, ∃ i : Nat, ∃ m : Master, (d < 4) ∧ ((c < 96) ∧ ((sl < 6) ∧ ((i < 64) ∧ ((s.acts m = true) ∧ ((isFirm m = false))))))) ∧
    (∃ s : State, ∃ off : Nat, ∃ n : Nat, ∃ m : Master, (s.acts m = true) ∧ (((n ≠ 4 ∧ n ≠ 8) ∨ off % n ≠ 0))) ∧
    (∃ s : State, ∃ off : Nat, ∃ n : Nat, ∃ m : Master, (s.acts m = true) ∧ (((n ≠ 4 ∧ n ≠ 8) ∨ off % n ≠ 0))) ∧
    (∃ s : State, ∃ m : Master, (s.acts m = false)) ∧
    (∃ s : State, ∃ m : Master, (s.acts m = false)) ∧
    (∃ s : State, ∃ d : Nat, ∃ m : Master, (d < 4) ∧ ((s.acts m = true) ∧ ((s.parked = [])))) ∧
    (∃ s : State, ∃ d : Nat, ∃ m : Master, (d < 4) ∧ ((s.acts m = true) ∧ ((s.parked = [])))) ∧
    (∃ s : State, ∃ d : Nat, ∃ m : Master, (d < 4) ∧ ((s.acts m = true) ∧ ((s.parked = []) ∧ (∃ off : Nat, (off % 4 = 0) ∧ ((off < 0x10000000) ∧ ((regAt off = .none) ∧ (((regAt (off - 4)).wide = false)))))))) ∧
    (∃ s : State, ∃ d : Nat, ∃ m : Master, (d < 4) ∧ ((s.acts m = true) ∧ ((s.parked = [])))) :=
  ⟨⟨onHart, ⟨3, ⟨.hart 31, ⟨(by first | decide +kernel | exact rfl), ⟨(by first | decide +kernel | exact rfl), (by first | decide +kernel | exact rfl)⟩⟩⟩⟩⟩,
   ⟨(State.reset.putDie 3 { State.reset.die 3 with trEn := true }), ⟨3, ⟨.firm 3, ⟨(by first | decide +kernel | exact rfl), ⟨(by first | decide +kernel | exact rfl), (by first | decide +kernel | exact rfl)⟩⟩⟩⟩⟩,
   ⟨onHart, ⟨3, ⟨.hart 31, ⟨(by first | decide +kernel | exact rfl), (by first | decide +kernel | exact rfl)⟩⟩⟩⟩,
   ⟨State.reset, ⟨3, ⟨1, ⟨.firm 3, ⟨(by first | decide +kernel | exact rfl), ⟨(by first | decide +kernel | exact rfl), ⟨(by first | decide +kernel | exact rfl), ⟨(Or.inr rfl), (by first | decide +kernel | exact rfl)⟩⟩⟩⟩⟩⟩⟩⟩,
   ⟨onHart, ⟨3, ⟨1, ⟨.hart 31, ⟨(by first | decide +kernel | exact rfl), ⟨(by first | decide +kernel | exact rfl), (Or.inl rfl)⟩⟩⟩⟩⟩⟩,
   ⟨State.reset, ⟨1, ⟨1, ⟨.firm 3, ⟨(by first | decide +kernel | exact rfl), ⟨(by first | decide +kernel | exact rfl), (Or.inr (Or.inl rfl))⟩⟩⟩⟩⟩⟩,
   ⟨State.reset, ⟨0, ⟨3, ⟨.firm 3, ⟨(by first | decide +kernel | exact rfl), ⟨(by first | decide +kernel | exact rfl), (Or.inr (Or.inr (Or.inr (by decide))))⟩⟩⟩⟩⟩⟩,
   ⟨onHart, ⟨3, ⟨7, ⟨.hart 31, ⟨(by first | decide +kernel | exact rfl), ⟨(by first | decide +kernel | exact rfl), (by first | decide +kernel | exact rfl)⟩⟩⟩⟩⟩⟩,
   ⟨State.reset, ⟨3, ⟨95, ⟨5, ⟨63, ⟨.firm 3, ⟨(by first | decide +kernel | exact rfl), ⟨(by first | decide +kernel | exact rfl), ⟨(by first | decide +kernel | exact rfl), ⟨(by first | decide +kernel | exact rfl), ⟨(by first | decide +kernel | exact rfl), (by first | decide +kernel | exact rfl)⟩⟩⟩⟩⟩⟩⟩⟩⟩⟩⟩,
   ⟨onHart, ⟨3, ⟨95, ⟨5, ⟨63, ⟨.hart 31, ⟨(by first | decide +kernel | exact rfl), ⟨(by first | decide +kernel | exact rfl), ⟨(by first | decide +kernel | exact rfl), ⟨(by first | decide +kernel | exact rfl), ⟨(by first | decide +kernel | exact rfl), (by first | decide +kernel | exact rfl)⟩⟩⟩⟩⟩⟩⟩⟩⟩⟩⟩,
   ⟨onHart, ⟨0x10010, ⟨2, ⟨.hart 31, ⟨(by first | decide +kernel | exact rfl), (Or.inl (by decide))⟩⟩⟩⟩⟩,
   ⟨onHart, ⟨0x10014, ⟨8, ⟨.hart 31, ⟨(by first | decide +kernel | exact rfl), (Or.inr (by decide))⟩⟩⟩⟩⟩,
   ⟨State.reset, ⟨.hart 0, (by first | decide +kernel | exact rfl)⟩⟩,
   ⟨(State.reset.putDie 3 { State.reset.die 3 with fwstop := true }), ⟨.firm 3, (by first | decide +kernel | exact rfl)⟩⟩,
   ⟨onHart, ⟨3, ⟨.hart 31, ⟨(by first | decide +kernel | exact rfl), ⟨(by first | decide +kernel | exact rfl), (by first | decide +kernel | exact rfl)⟩⟩⟩⟩⟩,
   ⟨onHart, ⟨3, ⟨.hart 31, ⟨(by first | decide +kernel | exact rfl), ⟨(by first | decide +kernel | exact rfl), (by first | decide +kernel | exact rfl)⟩⟩⟩⟩⟩,
   ⟨onHart, ⟨3, ⟨.hart 31, ⟨(by first | decide +kernel | exact rfl), ⟨(by first | decide +kernel | exact rfl), ⟨(by first | decide +kernel | exact rfl), ⟨0x60040, ⟨(by first | decide +kernel | exact rfl), ⟨(by first | decide +kernel | exact rfl), ⟨(by first | decide +kernel | exact rfl), (by first | decide +kernel | exact rfl)⟩⟩⟩⟩⟩⟩⟩⟩⟩⟩,
   ⟨onHart, ⟨3, ⟨.hart 31, ⟨(by first | decide +kernel | exact rfl), ⟨(by first | decide +kernel | exact rfl), (by first | decide +kernel | exact rfl)⟩⟩⟩⟩⟩⟩

/-- The hypotheses of DeviceAttributes are met. -/
theorem witness_device_attributes :
    (∃ s : State, ∃ h : Nat, (s.acts (.hart h) = true) ∧ (∃ k : HartMode, ∃ v : DWord, (k = .m ∨ k = .s) ∧ ((v.toNat < 2)))) ∧
    (∃ s : State, ∃ h : Nat, (s.acts (.hart h) = true) ∧ (∃ k : HartMode, ∃ v : DWord, (k = .m ∨ k = .s) ∧ ((v.toNat < 2)))) ∧
    (∃ s : State, ∃ h : Nat, (s.acts (.hart h) = true) ∧ (∃ k : HartMode, ∃ v : DWord, (k = .m ∨ k = .s) ∧ ((2 ≤ v.toNat)))) ∧
    (∃ s : State, ∃ h : Nat, (s.acts (.hart h) = true) ∧ (∃ k : HartMode, (k = .m ∨ k = .s))) ∧
    (∃ s : State, ∃ h : Nat, (s.acts (.hart h) = true)) ∧
    (∃ s : State, ∃ h : Nat, (s.acts (.hart h) = true) ∧ (∃ k : HartMode, (k = .vs ∨ k = .vu))) ∧
    (∃ s : State, ∃ h : Nat, (s.acts (.hart h) = true) ∧ (∃ k : HartMode, (k = .vs ∨ k = .vu))) ∧
    (∃ s : State, ∃ h : Nat, (s.acts (.hart h) = true)) ∧
    (∃ s : State, ∃ h : Nat, (s.acts (.hart h) = false)) ∧
    (∃ s : State, ∃ h : Nat, ((s.hart h).ign = (s.hart h).ignOn)) :=
  ⟨⟨onHart, ⟨31, ⟨(by first | decide +kernel | exact rfl), ⟨.m, ⟨1, ⟨(Or.inl rfl), (by first | decide +kernel | exact rfl)⟩⟩⟩⟩⟩⟩,
   ⟨onHart, ⟨31, ⟨(by first | decide +kernel | exact rfl), ⟨.s, ⟨0, ⟨(Or.inr rfl), (by first | decide +kernel | exact rfl)⟩⟩⟩⟩⟩⟩,
   ⟨onHart, ⟨31, ⟨(by first | decide +kernel | exact rfl), ⟨.s, ⟨2, ⟨(Or.inr rfl), (by first | decide +kernel | exact rfl)⟩⟩⟩⟩⟩⟩,
   ⟨onHart, ⟨31, ⟨(by first | decide +kernel | exact rfl), ⟨.s, (Or.inr rfl)⟩⟩⟩⟩,
   ⟨onHart, ⟨31, (by first | decide +kernel | exact rfl)⟩⟩,
   ⟨onHart, ⟨31, ⟨(by first | decide +kernel | exact rfl), ⟨.vs, (Or.inl rfl)⟩⟩⟩⟩,
   ⟨onHart, ⟨31, ⟨(by first | decide +kernel | exact rfl), ⟨.vu, (Or.inr rfl)⟩⟩⟩⟩,
   ⟨onHart, ⟨31, (by first | decide +kernel | exact rfl)⟩⟩,
   ⟨State.reset, ⟨31, (by first | decide +kernel | exact rfl)⟩⟩,
   ⟨State.reset, ⟨31, (by first | decide +kernel | exact rfl)⟩⟩⟩

/-- The hypotheses of PeersOfTheLinks are met. -/
theorem witness_peers_of_the_links :
    (∃ s : State, ∃ k : Nat, ∃ pa : Nat, ∃ n : Nat, ∃ place : Nat, ∃ a : PeerAddr, (k < 2) ∧ ((s.ioPlace a .read = some (pa, place)) ∧ ((s.waitsBehind (.peer k (.read a n)) = false) ∧ ((pa + n ≤ 2 ^ 37))))) ∧
    (∃ s : State, ∃ k : Nat, ∃ pa : Nat, ∃ place : Nat, ∃ a : PeerAddr, ∃ data : List Byte, ∃ ro : Bool, let loc := dramLoc place pa
      (k < 2) ∧ ((s.ioPlace a .write = some (pa, place)) ∧ ((s.waitsBehind (.peer k (.write a data ro)) = false) ∧ ((pa + data.length ≤ 2 ^ 37) ∧ ((s.frozen loc = false) ∧ ((∀ d, (s.die d).remap = []) ∧ ((data ≠ []) ∧ ((loc + data.length ≤ 2 ^ 37))))))))) ∧
    (∃ s : State, ∃ k : Nat, ∃ pa : Nat, ∃ place : Nat, ∃ a : PeerAddr, ∃ data : List Byte, ∃ ro : Bool, let loc := dramLoc place pa
      (k < 2) ∧ ((s.ioPlace a .write = some (pa, place)) ∧ ((s.waitsBehind (.peer k (.write a data ro)) = false) ∧ ((pa + data.length ≤ 2 ^ 37) ∧ ((s.frozen loc = true)))))) ∧
    (∃ s : State, ∃ k : Nat, ∃ r : PeerReq, (k < 2) ∧ ((s.waitsBehind (.peer k r) = true))) ∧
    (∃ s : State, ∃ k : Nat, ∃ pa : Nat, ∃ place : Nat, ∃ f : Nat, ∃ a : PeerAddr, ∃ data : List Byte, ∃ ro : Bool, (k < 2) ∧ ((s.ioPlace a .write = some (pa, place)) ∧ ((s.waitsBehind (.peer k (.write a data ro)) = false) ∧ ((imsicFile pa = some f) ∧ ((pa % 4096 = 0) ∧ ((data.length = 4) ∧ ((1 ≤ leNat data) ∧ ((leNat data ≤ 2047))))))))) ∧
    (∃ s : State, ∃ k : Nat, ∃ pa : Nat, ∃ place : Nat, ∃ f : Nat, ∃ a : PeerAddr, ∃ data : List Byte, ∃ ro : Bool, (k < 2) ∧ ((s.ioPlace a .write = some (pa, place)) ∧ ((s.waitsBehind (.peer k (.write a data ro)) = false) ∧ ((imsicFile pa = some f) ∧ ((pa % 4096 = 0) ∧ ((data.length = 4) ∧ ((1 ≤ leNat data) ∧ ((leNat data ≤ 2047))))))))) ∧
    (∃ s : State, ∃ k : Nat, ∃ pa : Nat, ∃ place : Nat, ∃ a : PeerAddr, ∃ data : List Byte, ∃ ro : Bool, (k < 2) ∧ ((s.ioPlace a .write = some (pa, place)) ∧ ((s.waitsBehind (.peer k (.write a data ro)) = false) ∧ ((inWindow k pa = true))))) ∧
    (∃ s : State, ∃ k : Nat, ∃ n : Nat, ∃ a : PeerAddr, (k < 2) ∧ ((s.parked = []) ∧ ((s.ioPlace a .read = none ∨ ∃ pa place, s.ioPlace a .read = some (pa, place) ∧ 2 ^ 37 < pa + n ∧ (peerReaches k pa = false ∨ s.mapRead pa n = none))))) ∧
    (∃ s : State, ∃ k : Nat, ∃ n : Nat, ∃ a : PeerAddr, (k < 2) ∧ ((s.parked = []) ∧ ((s.ioPlace a .read = none ∨ ∃ pa place, s.ioPlace a .read = some (pa, place) ∧ 2 ^ 37 < pa + n ∧ (peerReaches k pa = false ∨ s.mapRead pa n = none))))) ∧
    (∃ s : State, ∃ k : Nat, ∃ a : PeerAddr, ∃ data : List Byte, (k < 2) ∧ ((s.parked = []) ∧ ((s.ioPlace a .write = none ∨ ∃ pa place, s.ioPlace a .write = some (pa, place) ∧ 2 ^ 37 < pa + data.length ∧ (peerReaches k pa = false ∨ s.mapWrite pa data = none))))) ∧
    (∃ s : State, ∃ k : Nat, ∃ a : PeerAddr, ∃ data : List Byte, (k < 2) ∧ ((s.parked = []) ∧ ((s.ioPlace a .write = none ∨ ∃ pa place, s.ioPlace a .write = some (pa, place) ∧ 2 ^ 37 < pa + data.length ∧ (peerReaches k pa = false ∨ s.mapWrite pa data = none))))) ∧
    (∃ k : Nat, (k < 2)) ∧
    (∃ k : Nat, (2 ≤ k)) ∧
    (∃ s : State, ∃ k : Nat, ∃ pa : Nat, ∃ n : Nat, (k < 2) ∧ ((s.parked = []) ∧ ((0x2600000000 ≤ pa) ∧ ((pa + n ≤ 0x2600000000 + 8 * 59))))) :=
  ⟨⟨State.reset, ⟨1, ⟨0x1FFFFFFFFF, ⟨1, ⟨0, ⟨.pa 0x1FFFFFFFFF 0, ⟨(by first | decide +kernel | exact rfl), ⟨(by first | decide +kernel | exact rfl), ⟨(by first | decide +kernel | exact rfl), (by first | decide +kernel | exact rfl)⟩⟩⟩⟩⟩⟩⟩⟩⟩,
   ⟨State.reset, ⟨1, ⟨0x1FFFFFFFFF, ⟨2, ⟨.pa 0x1FFFFFFFFF 2, ⟨[1], ⟨true, ⟨(by first | decide +kernel | exact rfl), ⟨(by first | decide +kernel | exact rfl), ⟨(by first | decide +kernel | exact rfl), ⟨(by first | decide +kernel | exact rfl), ⟨(by first | decide +kernel | exact rfl), ⟨(remap_of _ rfl), ⟨(by first | decide +kernel | exact rfl), (by first | decide +kernel | exact rfl)⟩⟩⟩⟩⟩⟩⟩⟩⟩⟩⟩⟩⟩⟩,
   ⟨onFroz, ⟨1, ⟨0, ⟨0, ⟨.pa 0 0, ⟨[1], ⟨true, ⟨(by first | decide +kernel | exact rfl), ⟨(by first | decide +kernel | exact rfl), ⟨(by first | decide +kernel | exact rfl), ⟨(by first | decide +kernel | exact rfl), (by first | decide +kernel | exact rfl)⟩⟩⟩⟩⟩⟩⟩⟩⟩⟩⟩,
   ⟨onPeerWaits, ⟨1, ⟨.read (.pa 0 0) 8, ⟨(by first | decide +kernel | exact rfl), (by first | decide +kernel | exact rfl)⟩⟩⟩⟩,
   ⟨State.reset, ⟨0, ⟨0x240001F000, ⟨0, ⟨0x240001F000, ⟨.pa 0x240001F000 0, ⟨[1, 0, 0, 0], ⟨true, ⟨(by first | decide +kernel | exact rfl), ⟨(by first | decide +kernel | exact rfl), ⟨(by first | decide +kernel | exact rfl), ⟨(by first | decide +kernel | exact rfl), ⟨(by first | decide +kernel | exact rfl), ⟨(by first | decide +kernel | exact rfl), ⟨(by first | decide +kernel | exact rfl), (by first | decide +kernel | exact rfl)⟩⟩⟩⟩⟩⟩⟩⟩⟩⟩⟩⟩⟩⟩⟩,
   ⟨State.reset, ⟨0, ⟨0x2410000000, ⟨0, ⟨0x2410000000, ⟨.pa 0x2410000000 0, ⟨[0xFF, 7, 0, 0], ⟨true, ⟨(by first | decide +kernel | exact rfl), ⟨(by first | decide +kernel | exact rfl), ⟨(by first | decide +kernel | exact rfl), ⟨(by first | decide +kernel | exact rfl), ⟨(by first | decide +kernel | exact rfl), ⟨(by first | decide +kernel | exact rfl), ⟨(by first | decide +kernel | exact rfl), (by first | decide +kernel | exact rfl)⟩⟩⟩⟩⟩⟩⟩⟩⟩⟩⟩⟩⟩⟩⟩,
   ⟨State.reset, ⟨1, ⟨0x8000000000, ⟨0, ⟨.pa 0x8000000000 0, ⟨[1], ⟨true, ⟨(by first | decide +kernel | exact rfl), ⟨(by first | decide +kernel | exact rfl), ⟨(by first | decide +kernel | exact rfl), (by first | decide +kernel | exact rfl)⟩⟩⟩⟩⟩⟩⟩⟩⟩⟩,
   ⟨State.reset, ⟨1, ⟨4, ⟨.pa 0x2000000000 0, ⟨(by first | decide +kernel | exact rfl), ⟨(by first | decide +kernel | exact rfl), (Or.inr ⟨_, _, rfl, by decide, Or.inl (by decide +kernel)⟩)⟩⟩⟩⟩⟩⟩,
   ⟨State.reset, ⟨1, ⟨4, ⟨.va 0 none (some 0), ⟨(by first | decide +kernel | exact rfl), ⟨(by first | decide +kernel | exact rfl), (Or.inl (by decide +kernel))⟩⟩⟩⟩⟩⟩,
   ⟨State.reset, ⟨0, ⟨.pa 0x2000000000 0, ⟨[1], ⟨(by first | decide +kernel | exact rfl), ⟨(by first | decide +kernel | exact rfl), (Or.inr ⟨_, _, rfl, by decide, Or.inl (by decide +kernel)⟩)⟩⟩⟩⟩⟩⟩,
   ⟨State.reset, ⟨1, ⟨.va 0 none (some 0), ⟨[1], ⟨(by first | decide +kernel | exact rfl), ⟨(by first | decide +kernel | exact rfl), (Or.inl (by decide +kernel))⟩⟩⟩⟩⟩⟩,
   ⟨1, (by first | decide +kernel | exact rfl)⟩,
   ⟨2, (by first | decide +kernel | exact rfl)⟩,
   ⟨State.reset, ⟨1, ⟨0x2600000000, ⟨8, ⟨(by first | decide +kernel | exact rfl), ⟨(by first | decide +kernel | exact rfl), ⟨(by first | decide +kernel | exact rfl), (by first | decide +kernel | exact rfl)⟩⟩⟩⟩⟩⟩⟩⟩

/-- The hypotheses of AlarmsAndBoost are met. -/
theorem witness_alarms_and_boost :
    (∃ s : State, ∃ t : State, ∃ i : Instr, ((∃ a e, i = .lqcuralm a e) ∨ (∃ k < 5, i = .currentAlarm k)) ∧ ((exec i s = .next t))) ∧
    (∃ s : State, ∃ t : State, ∃ i : Instr, ((∃ a e, i = .lqcuralm a e) ∨ (∃ k < 5, i = .currentAlarm k)) ∧ ((exec i s = .next t))) ∧
    (∃ s : State, ∃ t : State, ∃ i : Instr, ((∃ a e, i = .lqcuralm a e) ∨ (∃ k < 5, i = .currentAlarm k)) ∧ ((exec i s = .next t) ∧ (∃ d : Nat, d < 4 ∧ (∃ k : Nat, (k ≠ 18))))) ∧
    (∃ s : State, ∃ h : Nat, ∃ k : HartMode, (s.acts (.hart h) = true) ∧ ((k = .m ∨ k = .s))) ∧
    (∃ s : State, ∃ h : Nat, ∃ k : HartMode, (s.acts (.hart h) = true) ∧ ((k = .m ∨ k = .s))) ∧
    (∃ s : State, ∃ h : Nat, (s.acts (.hart h) = false)) ∧
    (∃ k : Nat, (k < 5)) ∧
    (∃ s : State, ∃ h : Nat, ∃ k : HartMode, ∃ v : DWord, (s.acts (.hart h) = true) ∧ ((k = .m ∨ k = .s) ∧ ((v.toNat < 4)))) ∧
    (∃ s : State, ∃ h : Nat, ∃ k : HartMode, ∃ v : DWord, (s.acts (.hart h) = true) ∧ ((k = .m ∨ k = .s) ∧ ((4 ≤ v.toNat)))) ∧
    (∃ s : State, ∃ h : Nat, ∃ k : HartMode, (s.acts (.hart h) = true) ∧ ((k = .m ∨ k = .s))) ∧
    (∃ s : State, ∃ h : Nat, ∃ k : Nat, (s.acts (.hart h) = true) ∧ ((k < 5))) ∧
    (∃ s : State, (s.leader?.isSome)) ∧
    (∃ s : State, ∃ h : Nat, ∃ n : Nat, ∃ k : HartMode, (s.acts (.hart h) = true) ∧ ((k = .m ∨ k = .s) ∧ ((n < 5)))) ∧
    (∃ s : State, ∃ h : Nat, ∃ n : Nat, ∃ k : HartMode, (s.acts (.hart h) = true) ∧ ((k = .m ∨ k = .s) ∧ ((n < 5)))) ∧
    (∃ d : Nat, (d < 4)) :=
  ⟨⟨State.reset, ⟨after State.reset (execCurrentAlarm 4 State.reset), ⟨.currentAlarm 4, ⟨(Or.inr ⟨4, by decide, rfl⟩), rfl⟩⟩⟩⟩,
   ⟨onHart, ⟨after onHart (execLqcuralm ⟨31, { mode := .m, w := some 1 }⟩ 0 onHart), ⟨.lqcuralm ⟨31, { mode := .m, w := some 1 }⟩ 0, ⟨(Or.inl ⟨_, 0, rfl⟩), rfl⟩⟩⟩⟩,
   ⟨State.reset, ⟨after State.reset (execCurrentAlarm 4 State.reset), ⟨.currentAlarm 4, ⟨(Or.inr ⟨4, by decide, rfl⟩), ⟨rfl, ⟨3, ⟨(by first | decide +kernel | exact rfl), ⟨17, (by first | decide +kernel | exact rfl)⟩⟩⟩⟩⟩⟩⟩⟩,
   ⟨onHart, ⟨31, ⟨.m, ⟨(by first | decide +kernel | exact rfl), (Or.inl rfl)⟩⟩⟩⟩,
   ⟨onHart, ⟨31, ⟨.s, ⟨(by first | decide +kernel | exact rfl), (Or.inr rfl)⟩⟩⟩⟩,
   ⟨State.reset, ⟨31, (by first | decide +kernel | exact rfl)⟩⟩,
   ⟨4, (by first | decide +kernel | exact rfl)⟩,
   ⟨onHart, ⟨31, ⟨.s, ⟨3, ⟨(by first | decide +kernel | exact rfl), ⟨(Or.inr rfl), (by first | decide +kernel | exact rfl)⟩⟩⟩⟩⟩⟩,
   ⟨onHart, ⟨31, ⟨.m, ⟨4, ⟨(by first | decide +kernel | exact rfl), ⟨(Or.inl rfl), (by first | decide +kernel | exact rfl)⟩⟩⟩⟩⟩⟩,
   ⟨onHart, ⟨31, ⟨.m, ⟨(by first | decide +kernel | exact rfl), (Or.inl rfl)⟩⟩⟩⟩,
   ⟨onHart, ⟨31, ⟨4, ⟨(by first | decide +kernel | exact rfl), (by first | decide +kernel | exact rfl)⟩⟩⟩⟩,
   ⟨leads 100 0 100, (by first | decide +kernel | exact rfl)⟩,
   ⟨onHart, ⟨31, ⟨4, ⟨.m, ⟨(by first | decide +kernel | exact rfl), ⟨(Or.inl rfl), (by first | decide +kernel | exact rfl)⟩⟩⟩⟩⟩⟩,
   ⟨onHart, ⟨31, ⟨0, ⟨.s, ⟨(by first | decide +kernel | exact rfl), ⟨(Or.inr rfl), (by first | decide +kernel | exact rfl)⟩⟩⟩⟩⟩⟩,
   ⟨3, (by first | decide +kernel | exact rfl)⟩⟩

/-- The hypotheses of ClockAndTokenRegisters are met. -/
theorem witness_clock_and_token_registers :
    (∃ row : Nat, ∃ v : Word, (row < 64) ∧ ((v.extractLsb' 4 3 = 0))) ∧
    (∃ v : Word, (v.extractLsb' 4 3 ≠ 0)) ∧
    (∃ v : Word, (v.toNat < 8)) ∧
    (∃ v : Word, (8 ≤ v.toNat)) ∧
    (∃ v : Word, (v.toNat < 3)) ∧
    (∃ v : Word, (3 ≤ v.toNat)) ∧
    (∃ s : State, ∃ sl : Nat, ∃ v : Word, let cap := v.extractLsb' 16 8
      (8 ≤ cap.toNat)) ∧
    (∃ s : State, ∃ sl : Nat, ∃ v : Word, let x := s.slice sl
      let cap := v.extractLsb' 16 8
      (x.tokNext = []) ∧ ((x.tokAt = s.now / 10) ∧ ((8 ≤ cap.toNat)))) ∧
    (∃ s : State, ∃ sl : Nat, ∃ v : Word, let cap := v.extractLsb' 16 8
      (cap.toNat < 8)) ∧
    (∃ s : State, ∃ sl : Nat, let x := s.slice sl
      (x.tokEn = true)) ∧
    (∃ s : State, ∃ sl : Nat, let x := s.slice sl
      (x.tokEn = false)) :=
  ⟨⟨63, ⟨0x8F, ⟨(by first | decide +kernel | exact rfl), (by first | decide +kernel | exact rfl)⟩⟩⟩,
   ⟨0x10, (by first | decide +kernel | exact rfl)⟩,
   ⟨7, (by first | decide +kernel | exact rfl)⟩,
   ⟨8, (by first | decide +kernel | exact rfl)⟩,
   ⟨2, (by first | decide +kernel | exact rfl)⟩,
   ⟨3, (by first | decide +kernel | exact rfl)⟩,
   ⟨State.reset, ⟨0, ⟨0x80080000, (by first | decide +kernel | exact rfl)⟩⟩⟩,
   ⟨State.reset, ⟨0, ⟨0x80080000, ⟨(by first | decide +kernel | exact rfl), ⟨(by first | decide +kernel | exact rfl), (by first | decide +kernel | exact rfl)⟩⟩⟩⟩⟩,
   ⟨State.reset, ⟨0, ⟨0x80070000, (by first | decide +kernel | exact rfl)⟩⟩⟩,
   ⟨{ State.reset with slices := [(0, { tokEn := true })] }, ⟨0, (by first | decide +kernel | exact rfl)⟩⟩,
   ⟨State.reset, ⟨0, (by first | decide +kernel | exact rfl)⟩⟩⟩

/-- The hypotheses of IdleStates are met. -/
theorem witness_idle_states :
    (∃ s : State, ∃ sl : Nat, ((s.slice sl).gated = false) ∧ ((s.sliceAwake sl = false) ∧ (((s.slice sl).stages = []) ∧ ((∀ k, s.tolerance (sl / 6) = some k → 20 ≤ k))))) ∧
    (∃ s : State, ∃ sl : Nat, ((s.slice sl).gated = false) ∧ ((s.sliceAwake sl = false) ∧ (((s.slice sl).stages = []) ∧ ((∀ k, s.tolerance (sl / 6) = some k → 20 ≤ k))))) ∧
    (∃ s : State, ∃ sl : Nat, ∃ k : Nat, (s.sliceAwake sl = true ∨ (s.tolerance (sl / 6) = some k ∧ k < 20))) ∧
    (∃ s : State, ∃ sl : Nat, ∃ k : Nat, (s.sliceAwake sl = true ∨ (s.tolerance (sl / 6) = some k ∧ k < 20))) ∧
    (∃ s : State, ∃ core : Nat, ((s.core core).idle = .on) ∧ ((s.occupied core = false) ∧ ((∀ k, s.tolerance core = some k → 200 ≤ k)))) ∧
    (∃ s : State, ∃ core : Nat, ((s.core core).idle = .on) ∧ ((s.occupied core = false) ∧ ((∀ k, s.tolerance core = some k → 200 ≤ k)))) ∧
    (∃ s : State, ∃ core : Nat, ((s.core core).idle ≠ .coff) ∧ ((s.occupied core = false) ∧ (((s.core core).emptied + 1400000 ≤ s.now) ∧ ((∀ k, s.tolerance core = some k → 5000 ≤ k))))) ∧
    (∃ s : State, ∃ core : Nat, (s.occupied core = true)) :=
  ⟨⟨State.reset, ⟨0, ⟨(by first | decide +kernel | exact rfl), ⟨(by first | decide +kernel | exact rfl), ⟨(by first | decide +kernel | exact rfl), (tol_of (by decide +kernel))⟩⟩⟩⟩⟩,
   ⟨{ onReg with launches := [(3, { lnX with eff := { eR with lattol := 20 } })] }, ⟨0, ⟨(by first | decide +kernel | exact rfl), ⟨(by first | decide +kernel | exact rfl), ⟨(by first | decide +kernel | exact rfl), (tol_of (by decide +kernel))⟩⟩⟩⟩⟩,
   ⟨on gp 3, ⟨0, ⟨0, (by first | decide +kernel | exact rfl)⟩⟩⟩,
   ⟨{ onReg with launches := [(3, { lnX with eff := { eR with lattol := 19 } })] }, ⟨0, ⟨19, (by first | decide +kernel | exact rfl)⟩⟩⟩,
   ⟨State.reset, ⟨0, ⟨(by first | decide +kernel | exact rfl), ⟨(by first | decide +kernel | exact rfl), (tol_of (by decide +kernel))⟩⟩⟩⟩,
   ⟨{ onReg with launches := [(3, { lnX with eff := { eR with lattol := 200 } })] }, ⟨0, ⟨(by first | decide +kernel | exact rfl), ⟨(by first | decide +kernel | exact rfl), (tol_of (by decide +kernel))⟩⟩⟩⟩,
   ⟨{ { onReg with launches := [(3, { lnX with eff := { eR with lattol := 5000 } })] } with now := 1400000 }, ⟨0, ⟨(by first | decide +kernel | exact rfl), ⟨(by first | decide +kernel | exact rfl), ⟨(by first | decide +kernel | exact rfl), (tol_of (by decide +kernel))⟩⟩⟩⟩⟩,
   ⟨on gp 3, ⟨0, (by first | decide +kernel | exact rfl)⟩⟩⟩

/-- The hypotheses of LinkDelivery are met. -/
theorem witness_link_delivery :
    (∃ s : State, ∃ l : Nat, ∃ inn : Bool, let x := s.link l
      let y := x.dir inn
      (x.carries = true) ∧ ((y.waiting = []) ∧ ((y.retry.length < 256) ∧ ((inn = true ∨ x.armed = false))))) ∧
    (∃ s : State, ∃ l : Nat, ∃ inn : Bool, let x := s.link l
      let y := x.dir inn
      (x.carries = true) ∧ ((y.waiting = []) ∧ ((y.retry.length < 256) ∧ ((inn = true ∨ x.armed = false))))) ∧
    (∃ s : State, ∃ l : Nat, ∃ inn : Bool, let x := s.link l
      let y := x.dir inn
      (x.carries = false ∨ 256 ≤ y.retry.length)) ∧
    (∃ s : State, ∃ l : Nat, ∃ inn : Bool, let x := s.link l
      let y := x.dir inn
      (x.carries = false ∨ 256 ≤ y.retry.length)) ∧
    (∃ s : State, ∃ l : Nat, ∃ inn : Bool, let x := s.link l
      let y := x.dir inn
      (x.carries = false ∨ 256 ≤ y.retry.length)) ∧
    (∃ s : State, ∃ l : Nat, ∃ inn : Bool, ∃ f : Flit, ∃ lane : BitVec 8, ∃ rest : List Flit, let x := s.link l
      let y := x.dir inn
      let bad := f.hurt ||| (lane &&& f.lanes)
      (y.wire = f :: rest) ∧ ((f.due ≤ s.now) ∧ ((bad = 0) ∧ ((f.num = y.expect))))) ∧
    (∃ s : State, ∃ l : Nat, ∃ inn : Bool, ∃ f : Flit, ∃ lane : BitVec 8, ∃ rest : List Flit, let x := s.link l
      let y := x.dir inn
      let bad := f.hurt ||| (lane &&& f.lanes)
      (y.wire = f :: rest) ∧ ((f.due ≤ s.now) ∧ ((bad = 0) ∧ ((f.num = y.expect))))) ∧
    (∃ s : State, ∃ l : Nat, ∃ inn : Bool, ∃ f : Flit, ∃ lane : BitVec 8, ∃ rest : List Flit, let x := s.link l
      let y := x.dir inn
      let bad := f.hurt ||| (lane &&& f.lanes)
      (y.wire = f :: rest) ∧ ((f.due ≤ s.now) ∧ ((bad = 0) ∧ ((f.num ≠ y.expect))))) ∧
    (∃ s : State, ∃ l : Nat, ∃ inn : Bool, ∃ f : Flit, ∃ lane : BitVec 8, ∃ rest : List Flit, let x := s.link l
      let y := x.dir inn
      let bad := f.hurt ||| (lane &&& f.lanes)
      (y.wire = f :: rest) ∧ ((f.due ≤ s.now) ∧ ((bad = 0) ∧ ((f.num ≠ y.expect))))) ∧
    (∃ s : State, ∃ l : Nat, ∃ inn : Bool, ∃ f : Flit, ∃ lane : BitVec 8, ∃ rest : List Flit, let x := s.link l
      let y := x.dir inn
      let bad := f.hurt ||| (lane &&& f.lanes)
      (y.wire = f :: rest) ∧ ((f.due ≤ s.now) ∧ ((bad ≠ 0)))) ∧
    (∃ s : State, ∃ l : Nat, ∃ inn : Bool, ∃ f : Flit, ∃ lane : BitVec 8, ∃ rest : List Flit, let x := s.link l
      let y := x.dir inn
      let bad := f.hurt ||| (lane &&& f.lanes)
      (y.wire = f :: rest) ∧ ((f.due ≤ s.now) ∧ ((bad ≠ 0)))) ∧
    (∃ s : State, ∃ l : Nat, ∃ inn : Bool, (∀ f ∈ ((s.link l).dir inn).wire, s.now < f.due)) ∧
    (∃ s : State, ∃ l : Nat, ∃ inn : Bool, (∀ f ∈ ((s.link l).dir inn).wire, s.now < f.due)) ∧
    (∃ s : State, ∃ l : Nat, ∃ n : Nat, ∃ inn : Bool, ∃ rest : List Nat, let x := s.link l
      let y := x.dir inn
      (y.acks = n :: rest) ∧ ((y.waiting = []))) ∧
    (∃ s : State, ∃ l : Nat, ∃ n : Nat, ∃ inn : Bool, ∃ rest : List Nat, let x := s.link l
      let y := x.dir inn
      (y.acks = n :: rest) ∧ ((y.waiting = []))) ∧
    (∃ s : State, ∃ l : Nat, ∃ n : Nat, ∃ inn : Bool, ∃ rest : List Nat, let x := s.link l
      let y := x.dir inn
      (y.naks = n :: rest) ∧ ((x.carries = true) ∧ ((inn = true ∨ x.armed = false)))) ∧
    (∃ s : State, ∃ l : Nat, ∃ n : Nat, ∃ inn : Bool, ∃ rest : List Nat, let x := s.link l
      let y := x.dir inn
      (y.naks = n :: rest) ∧ ((x.carries = true) ∧ ((inn = true ∨ x.armed = false)))) ∧
    (∃ s : State, ∃ l : Nat, ∃ inn : Bool, let x := s.link l
      let y := x.dir inn
      (y.retry ≠ []) ∧ ((y.heard + 14000 ≤ s.now) ∧ ((x.carries = true) ∧ ((inn = true ∨ x.armed = false))))) ∧
    (∃ s : State, ∃ l : Nat, ∃ inn : Bool, let x := s.link l
      let y := x.dir inn
      (y.retry ≠ []) ∧ ((y.heard + 14000 ≤ s.now) ∧ ((x.carries = true) ∧ ((inn = true ∨ x.armed = false))))) ∧
    (∃ s : State, ∃ l : Nat, ∃ inn : Bool, let x := s.link l
      let y := x.dir inn
      (y.retry = [] ∨ s.now < y.heard + 14000)) ∧
    (∃ s : State, ∃ l : Nat, ∃ inn : Bool, let x := s.link l
      let y := x.dir inn
      (y.retry = [] ∨ s.now < y.heard + 14000)) ∧
    (∃ s : State, ∃ l : Nat, ∃ inn : Bool, let x := s.link l
      let y := x.dir inn
      (y.retry = [] ∨ s.now < y.heard + 14000)) :=
  ⟨⟨onLink lkUp, ⟨0, ⟨true, ⟨(by first | decide +kernel | exact rfl), ⟨(by first | decide +kernel | exact rfl), ⟨(by first | decide +kernel | exact rfl), (Or.inl rfl)⟩⟩⟩⟩⟩⟩,
   ⟨onLink lkUp, ⟨0, ⟨false, ⟨(by first | decide +kernel | exact rfl), ⟨(by first | decide +kernel | exact rfl), ⟨(by first | decide +kernel | exact rfl), (Or.inr (by decide +kernel))⟩⟩⟩⟩⟩⟩,
   ⟨onLink {}, ⟨0, ⟨true, (Or.inl (by decide +kernel))⟩⟩⟩,
   ⟨onLink { lkUp with training := true }, ⟨0, ⟨false, (Or.inl (by decide +kernel))⟩⟩⟩,
   ⟨onLink { lkUp with out := { retry := List.replicate 256 (0, 0) } }, ⟨0, ⟨false, (Or.inr (by decide +kernel))⟩⟩⟩,
   ⟨onLink { lkUp with into := { wire := [fl 4095], expect := 4095 } }, ⟨0, ⟨true, ⟨fl 4095, ⟨0, ⟨[], ⟨(by first | decide +kernel | exact rfl), ⟨(by first | decide +kernel | exact rfl), ⟨(by first | decide +kernel | exact rfl), (by first | decide +kernel | exact rfl)⟩⟩⟩⟩⟩⟩⟩⟩⟩,
   ⟨onLink { lkUp with out := { wire := [fl 4095], expect := 4095 } }, ⟨0, ⟨false, ⟨fl 4095, ⟨0, ⟨[], ⟨(by first | decide +kernel | exact rfl), ⟨(by first | decide +kernel | exact rfl), ⟨(by first | decide +kernel | exact rfl), (by first | decide +kernel | exact rfl)⟩⟩⟩⟩⟩⟩⟩⟩⟩,
   ⟨onLink { lkUp with into := { wire := [fl 0], expect := 4095 } }, ⟨0, ⟨true, ⟨fl 0, ⟨0, ⟨[], ⟨(by first | decide +kernel | exact rfl), ⟨(by first | decide +kernel | exact rfl), ⟨(by first | decide +kernel | exact rfl), (by first | decide +kernel | exact rfl)⟩⟩⟩⟩⟩⟩⟩⟩⟩,
   ⟨onLink { lkUp with out := { wire := [fl 0], expect := 4095 } }, ⟨0, ⟨false, ⟨fl 0, ⟨0, ⟨[], ⟨(by first | decide +kernel | exact rfl), ⟨(by first | decide +kernel | exact rfl), ⟨(by first | decide +kernel | exact rfl), (by first | decide +kernel | exact rfl)⟩⟩⟩⟩⟩⟩⟩⟩⟩,
   ⟨onLink { lkUp with into := { wire := [fl 4095], expect := 4095 } }, ⟨0, ⟨true, ⟨fl 4095, ⟨0x80, ⟨[], ⟨(by first | decide +kernel | exact rfl), ⟨(by first | decide +kernel | exact rfl), (by first | decide +kernel | exact rfl)⟩⟩⟩⟩⟩⟩⟩⟩,
   ⟨onLink { lkUp with out := { wire := [fl 4095], expect := 4095 } }, ⟨0, ⟨false, ⟨fl 4095, ⟨0x80, ⟨[], ⟨(by first | decide +kernel | exact rfl), ⟨(by first | decide +kernel | exact rfl), (by first | decide +kernel | exact rfl)⟩⟩⟩⟩⟩⟩⟩⟩,
   ⟨onLink { lkUp with into := { wire := [{ fl 4095 with due := 5 }], expect := 4095 } }, ⟨0, ⟨true, (by first | decide +kernel | exact rfl)⟩⟩⟩,
   ⟨onLink { lkUp with out := { wire := [{ fl 4095 with due := 5 }], expect := 4095 } }, ⟨0, ⟨false, (by first | decide +kernel | exact rfl)⟩⟩⟩,
   ⟨onLink { lkUp with into := { retry := [(4095, 7), (0, 8)], acks := [0] } }, ⟨0, ⟨0, ⟨true, ⟨[], ⟨(by first | decide +kernel | exact rfl), (by first | decide +kernel | exact rfl)⟩⟩⟩⟩⟩⟩,
   ⟨onLink { lkUp with out := { retry := [(4095, 7), (0, 8)], acks := [0] } }, ⟨0, ⟨0, ⟨false, ⟨[], ⟨(by first | decide +kernel | exact rfl), (by first | decide +kernel | exact rfl)⟩⟩⟩⟩⟩⟩,
   ⟨onLink { lkUp with into := { retry := [(4095, 7), (0, 8)], naks := [0] } }, ⟨0, ⟨0, ⟨true, ⟨[], ⟨(by first | decide +kernel | exact rfl), ⟨(by first | decide +kernel | exact rfl), (Or.inl rfl)⟩⟩⟩⟩⟩⟩⟩,
   ⟨onLink { lkUp with out := { retry := [(4095, 7), (0, 8)], naks := [0] } }, ⟨0, ⟨0, ⟨false, ⟨[], ⟨(by first | decide +kernel | exact rfl), ⟨(by first | decide +kernel | exact rfl), (Or.inr (by decide +kernel))⟩⟩⟩⟩⟩⟩⟩,
   ⟨{ onLink { lkUp with into := { retry := [(4095, 7)] } } with now := 14000 }, ⟨0, ⟨true, ⟨(by first | decide +kernel | exact rfl), ⟨(by first | decide +kernel | exact rfl), ⟨(by first | decide +kernel | exact rfl), (Or.inl rfl)⟩⟩⟩⟩⟩⟩,
   ⟨{ onLink { lkUp with out := { retry := [(4095, 7)] } } with now := 14000 }, ⟨0, ⟨false, ⟨(by first | decide +kernel | exact rfl), ⟨(by first | decide +kernel | exact rfl), ⟨(by first | decide +kernel | exact rfl), (Or.inr (by decide +kernel))⟩⟩⟩⟩⟩⟩,
   ⟨onLink lkUp, ⟨0, ⟨true, (by first | decide +kernel | exact rfl)⟩⟩⟩,
   ⟨{ onLink { lkUp with into := { retry := [(4095, 7)] } } with now := 13999 }, ⟨0, ⟨true, (by first | decide +kernel | exact rfl)⟩⟩⟩,
   ⟨{ onLink { lkUp with out := { retry := [(4095, 7)] } } with now := 13999 }, ⟨0, ⟨false, (by first | decide +kernel | exact rfl)⟩⟩⟩⟩

/-- The hypotheses of LinkWidthAndFaults are met. -/
theorem witness_link_width_and_faults :
    (∃ s : State, ∃ l : Nat, ∃ bad : BitVec 8, let x := s.link l
      (∀ i < 8, bad.getLsbD i = (x.lanes.getLsbD i && decide (16 < x.errors s.now i))) ∧ ((bad = 0))) ∧
    (∃ s : State, ∃ l : Nat, ∃ bad : BitVec 8, let x := s.link l
      (∀ i < 8, bad.getLsbD i = (x.lanes.getLsbD i && decide (16 < x.errors s.now i))) ∧ ((bad ≠ 0) ∧ ((x.carries = true)))) ∧
    (∃ s : State, ∃ l : Nat, ∃ bad : BitVec 8, let x := s.link l
      (x.training = true) ∧ ((bad &&& x.lanes = 0))) ∧
    (∃ s : State, ∃ l : Nat, let x := s.link l
      (x.training = false)) ∧
    (∃ s : State, ∃ l : Nat, ∃ v : DWord, (v.getLsbD 0 = true) ∧ ((∃ e, s.resolve (l / 4) (v.extractLsb' 48 16).toNat = some e ∧ e.inject = true) ∧ ((v.extractLsb' 32 16 ≠ 0) ∧ ((v.extractLsb' 4 2 ≠ 3) ∧ ((v.extractLsb' 9 7 = 0) ∧ ((v.extractLsb' 2 2 = 0))))))) ∧
    (∃ s : State, ∃ l : Nat, ∃ v : DWord, (v.getLsbD 0 = true) ∧ ((s.resolve (l / 4) (v.extractLsb' 48 16).toNat = none ∨ (∃ e, s.resolve (l / 4) (v.extractLsb' 48 16).toNat = some e ∧ e.inject = false) ∨ v.extractLsb' 32 16 = 0 ∨ v.extractLsb' 4 2 = 3 ∨ v.extractLsb' 9 7 ≠ 0 ∨ v.extractLsb' 2 2 ≠ 0))) ∧
    (∃ s : State, ∃ l : Nat, ∃ v : DWord, (v.getLsbD 0 = true) ∧ ((s.resolve (l / 4) (v.extractLsb' 48 16).toNat = none ∨ (∃ e, s.resolve (l / 4) (v.extractLsb' 48 16).toNat = some e ∧ e.inject = false) ∨ v.extractLsb' 32 16 = 0 ∨ v.extractLsb' 4 2 = 3 ∨ v.extractLsb' 9 7 ≠ 0 ∨ v.extractLsb' 2 2 ≠ 0))) ∧
    (∃ s : State, ∃ l : Nat, ∃ v : DWord, (v.getLsbD 0 = true) ∧ ((s.resolve (l / 4) (v.extractLsb' 48 16).toNat = none ∨ (∃ e, s.resolve (l / 4) (v.extractLsb' 48 16).toNat = some e ∧ e.inject = false) ∨ v.extractLsb' 32 16 = 0 ∨ v.extractLsb' 4 2 = 3 ∨ v.extractLsb' 9 7 ≠ 0 ∨ v.extractLsb' 2 2 ≠ 0))) ∧
    (∃ s : State, ∃ l : Nat, ∃ v : DWord, (v.getLsbD 0 = true) ∧ ((s.resolve (l / 4) (v.extractLsb' 48 16).toNat = none ∨ (∃ e, s.resolve (l / 4) (v.extractLsb' 48 16).toNat = some e ∧ e.inject = false) ∨ v.extractLsb' 32 16 = 0 ∨ v.extractLsb' 4 2 = 3 ∨ v.extractLsb' 9 7 ≠ 0 ∨ v.extractLsb' 2 2 ≠ 0))) ∧
    (∃ s : State, ∃ l : Nat, ∃ v : DWord, (v.getLsbD 0 = true) ∧ ((s.resolve (l / 4) (v.extractLsb' 48 16).toNat = none ∨ (∃ e, s.resolve (l / 4) (v.extractLsb' 48 16).toNat = some e ∧ e.inject = false) ∨ v.extractLsb' 32 16 = 0 ∨ v.extractLsb' 4 2 = 3 ∨ v.extractLsb' 9 7 ≠ 0 ∨ v.extractLsb' 2 2 ≠ 0))) ∧
    (∃ s : State, ∃ l : Nat, let x := s.link l
      let y := x.out
      let lane := x.finj 8 6
      (x.carries = true) ∧ ((y.waiting = []) ∧ ((y.retry.length < 256) ∧ ((x.armed = true) ∧ ((x.lanes.getLsbD lane = true) ∧ (((x.finjcnt + 1).toNat = x.finj 47 32))))))) ∧
    (∃ s : State, ∃ l : Nat, let x := s.link l
      let y := x.out
      let lane := x.finj 8 6
      (x.carries = true) ∧ ((y.waiting = []) ∧ ((y.retry.length < 256) ∧ ((x.armed = true) ∧ ((x.lanes.getLsbD lane = true) ∧ (((x.finjcnt + 1).toNat ≠ x.finj 47 32))))))) :=
  ⟨⟨onLink (errsAt 16), ⟨0, ⟨0, ⟨(by first | decide +kernel | exact rfl), (by first | decide +kernel | exact rfl)⟩⟩⟩⟩,
   ⟨onLink (errsAt 17), ⟨0, ⟨8, ⟨(by first | decide +kernel | exact rfl), ⟨(by first | decide +kernel | exact rfl), (by first | decide +kernel | exact rfl)⟩⟩⟩⟩⟩,
   ⟨onLink { lkUp with training := true }, ⟨0, ⟨0, ⟨(by first | decide +kernel | exact rfl), (by first | decide +kernel | exact rfl)⟩⟩⟩⟩,
   ⟨onLink lkUp, ⟨0, (by first | decide +kernel | exact rfl)⟩⟩,
   ⟨onInj, ⟨0, ⟨0x0001_0001_0000_0001, ⟨(by first | decide +kernel | exact rfl), ⟨⟨eInj, by decide +kernel, by decide +kernel⟩, ⟨(by first | decide +kernel | exact rfl), ⟨(by first | decide +kernel | exact rfl), ⟨(by first | decide +kernel | exact rfl), (by first | decide +kernel | exact rfl)⟩⟩⟩⟩⟩⟩⟩⟩,
   ⟨onInj, ⟨0, ⟨0x0002_0001_0000_0001, ⟨(by first | decide +kernel | exact rfl), (Or.inl (by decide +kernel))⟩⟩⟩⟩,
   ⟨onInj, ⟨0, ⟨0x0001_0000_0000_0001, ⟨(by first | decide +kernel | exact rfl), (by first | decide +kernel | exact rfl)⟩⟩⟩⟩,
   ⟨onInj, ⟨0, ⟨0x0001_0001_0000_0031, ⟨(by first | decide +kernel | exact rfl), (by first | decide +kernel | exact rfl)⟩⟩⟩⟩,
   ⟨onInj, ⟨0, ⟨0x0001_0001_0000_0201, ⟨(by first | decide +kernel | exact rfl), (by first | decide +kernel | exact rfl)⟩⟩⟩⟩,
   ⟨onInj, ⟨0, ⟨0x0001_0001_0000_0005, ⟨(by first | decide +kernel | exact rfl), (by first | decide +kernel | exact rfl)⟩⟩⟩⟩,
   ⟨onArm 1, ⟨0, ⟨(by first | decide +kernel | exact rfl), ⟨(by first | decide +kernel | exact rfl), ⟨(by first | decide +kernel | exact rfl), ⟨(by first | decide +kernel | exact rfl), ⟨(by first | decide +kernel | exact rfl), (by first | decide +kernel | exact rfl)⟩⟩⟩⟩⟩⟩⟩,
   ⟨onArm 0, ⟨0, ⟨(by first | decide +kernel | exact rfl), ⟨(by first | decide +kernel | exact rfl), ⟨(by first | decide +kernel | exact rfl), ⟨(by first | decide +kernel | exact rfl), ⟨(by first | decide +kernel | exact rfl), (by first | decide +kernel | exact rfl)⟩⟩⟩⟩⟩⟩⟩⟩

/-- The hypotheses of Collectives are met. -/
theorem witness_collectives :
    (∃ s : State, ∃ d : Nat, ((s.die d).collbusy = false)) ∧
    (∃ s : State, ∃ d : Nat, ((s.die d).collbusy = true)) ∧
    (∃ s : State, ∃ d : Nat, let c := s.collDesc d
      ((s.die d).collbusy = true) ∧ ((inDram (s.die d).colldesc.toNat 64 = true) ∧ ((∀ k, (s.die k).remap = []) ∧ (((s.collRanks d = none ∧ ∀ k < 4, k ≠ d → (s.die k).collbusy = false) ∨ (s.collRanks d = some [(c.rank, d)] ∧ c.valid = false)) ∧ ((inDram c.compl 8 = true)))))) ∧
    (∃ s : State, ∃ d : Nat, let c := s.collDesc d
      ((s.die d).collbusy = true) ∧ ((inDram (s.die d).colldesc.toNat 64 = true) ∧ ((∀ k, (s.die k).remap = []) ∧ (((s.collRanks d = none ∧ ∀ k < 4, k ≠ d → (s.die k).collbusy = false) ∨ (s.collRanks d = some [(c.rank, d)] ∧ c.valid = false)) ∧ ((inDram c.compl 8 = true)))))) ∧
    (∃ s : State, ∃ d : Nat, ((s.die d).collbusy = true) ∧ ((inDram (s.die d).colldesc.toNat 64 = true) ∧ ((∀ k, (s.die k).remap = []) ∧ ((s.collRanks d = none) ∧ ((∀ k < 4, k ≠ d → (s.die k).collbusy = false)))))) ∧
    (∃ s : State, ∃ d : Nat, let c := s.collDesc d
      ((s.die d).collbusy = true) ∧ ((inDram (s.die d).colldesc.toNat 64 = true) ∧ ((∀ k, (s.die k).remap = []) ∧ (∃ l : List (Nat × Nat), ∃ k : Nat, (s.collRanks d = some l) ∧ ((s.collOwed d l = some k) ∧ ((inDram c.compl 8 = true))))))) ∧
    (∃ s : State, ∃ d : Nat, ((s.die d).collbusy = true) ∧ ((inDram (s.die d).colldesc.toNat 64 = true) ∧ ((∀ k, (s.die k).remap = []) ∧ (∃ l : List (Nat × Nat), (s.collRanks d = some l) ∧ ((s.collOwed d l = none) ∧ ((∃ x ∈ l, (s.die x.2).collbusy = false))))))) ∧
    (∃ s : State, ∃ d : Nat, let c := s.collDesc d
      ((s.die d).collbusy = true) ∧ ((inDram (s.die d).colldesc.toNat 64 = true) ∧ ((∀ k, (s.die k).remap = []) ∧ (∃ l : List (Nat × Nat), (s.collRanks d = some l) ∧ ((s.collOwed d l = none) ∧ ((∀ x ∈ l, (s.die x.2).collbusy = true) ∧ ((∃ x ∈ l, (s.collDesc x.2).valid = false ∨ (s.collDesc x.2).count ≠ c.count)))))))) ∧
    (∃ s : State, ∃ d : Nat, let c := s.collDesc d
      ((s.die d).collbusy = true) ∧ ((inDram (s.die d).colldesc.toNat 64 = true) ∧ ((∀ k, (s.die k).remap = []) ∧ ((c.valid = true) ∧ ((c.p = 1) ∧ ((d < 4) ∧ ((s.numAt (dramLoc 0 c.ranktab) 2 % 4 = d) ∧ ((c.compl + 8 ≤ c.dst ∨ c.dst + c.count * c.size ≤ c.compl))))))))) :=
  ⟨⟨State.reset, ⟨3, (by first | decide +kernel | exact rfl)⟩⟩,
   ⟨onColl1 [] true, ⟨0, (by first | decide +kernel | exact rfl)⟩⟩,
   ⟨onColl1 [] true, ⟨0, ⟨(by first | decide +kernel | exact rfl), ⟨(by first | decide +kernel | exact rfl), ⟨(remap_of _ rfl), ⟨(Or.inl ⟨by decide +kernel, by decide +kernel⟩), (by first | decide +kernel | exact rfl)⟩⟩⟩⟩⟩⟩,
   ⟨onColl1 descBad true, ⟨0, ⟨(by first | decide +kernel | exact rfl), ⟨(by first | decide +kernel | exact rfl), ⟨(remap_of _ rfl), ⟨(Or.inr ⟨by decide +kernel, by decide +kernel⟩), (by first | decide +kernel | exact rfl)⟩⟩⟩⟩⟩⟩,
   ⟨onColl1 [] true, ⟨0, ⟨(by first | decide +kernel | exact rfl), ⟨(by first | decide +kernel | exact rfl), ⟨(remap_of _ rfl), ⟨(by first | decide +kernel | exact rfl), (by first | decide +kernel | exact rfl)⟩⟩⟩⟩⟩⟩,
   ⟨onOwed, ⟨0, ⟨(by first | decide +kernel | exact rfl), ⟨(by first | decide +kernel | exact rfl), ⟨(remap_of _ rfl), ⟨[(0, 0), (1, 1)], ⟨1, ⟨(by first | decide +kernel | exact rfl), ⟨(by first | decide +kernel | exact rfl), (by first | decide +kernel | exact rfl)⟩⟩⟩⟩⟩⟩⟩⟩⟩,
   ⟨onColl1 descTwo true, ⟨0, ⟨(by first | decide +kernel | exact rfl), ⟨(by first | decide +kernel | exact rfl), ⟨(remap_of _ rfl), ⟨[(0, 0), (1, 1)], ⟨(by first | decide +kernel | exact rfl), ⟨(by first | decide +kernel | exact rfl), (by first | decide +kernel | exact rfl)⟩⟩⟩⟩⟩⟩⟩⟩,
   ⟨onColl2 descTwo, ⟨0, ⟨(by first | decide +kernel | exact rfl), ⟨(by first | decide +kernel | exact rfl), ⟨(remap_of _ rfl), ⟨[(0, 0), (1, 1)], ⟨(by first | decide +kernel | exact rfl), ⟨(by first | decide +kernel | exact rfl), ⟨(by first | decide +kernel | exact rfl), (by first | decide +kernel | exact rfl)⟩⟩⟩⟩⟩⟩⟩⟩⟩,
   ⟨onColl1 descC true, ⟨0, ⟨(by first | decide +kernel | exact rfl), ⟨(by first | decide +kernel | exact rfl), ⟨(remap_of _ rfl), ⟨(by first | decide +kernel | exact rfl), ⟨(by first | decide +kernel | exact rfl), ⟨(by first | decide +kernel | exact rfl), ⟨(by first | decide +kernel | exact rfl), (by first | decide +kernel | exact rfl)⟩⟩⟩⟩⟩⟩⟩⟩⟩⟩

/-- The hypotheses of Quotes are met. -/
theorem witness_quotes :
    (∃ s : State, ∃ d : Nat, let x := s.die d
      (x.attbusy = false) ∧ ((x.attbuf.toNat % 1024 = 0) ∧ ((x.attbuf.toNat + 1024 ≤ 2 ^ 37)))) ∧
    (∃ s : State, ∃ d : Nat, let x := s.die d
      (x.attbusy = true ∨ x.attbuf.toNat % 1024 ≠ 0 ∨ 2 ^ 37 < x.attbuf.toNat + 1024)) ∧
    (∃ s : State, ∃ d : Nat, let x := s.die d
      (x.attbusy = true ∨ x.attbuf.toNat % 1024 ≠ 0 ∨ 2 ^ 37 < x.attbuf.toNat + 1024)) ∧
    (∃ s : State, ∃ d : Nat, let x := s.die d
      (x.attbusy = true ∨ x.attbuf.toNat % 1024 ≠ 0 ∨ 2 ^ 37 < x.attbuf.toNat + 1024)) ∧
    (∃ s : State, ∃ d : Nat, ∃ lead : Nat, let a := (s.die d).attbuf.toNat
      ((s.die d).attbusy = true) ∧ ((s.leader? = some lead) ∧ ((a + 1024 ≤ 2 ^ 37) ∧ ((∀ k, (s.die k).remap = []) ∧ (((s.die lead).lead = some s.lease)))))) ∧
    (∃ s : State, ∃ d : Nat, ∃ lead : Nat, let a := (s.die d).attbuf.toNat
      ((s.die d).attbusy = true) ∧ ((s.leader? = some lead) ∧ ((a + 1024 ≤ 2 ^ 37) ∧ ((∀ k, (s.die k).remap = []) ∧ (((s.die lead).lead ≠ some s.lease)))))) :=
  ⟨⟨onAtt false 0x1FFFFFFC00, ⟨0, ⟨(by first | decide +kernel | exact rfl), ⟨(by first | decide +kernel | exact rfl), (by first | decide +kernel | exact rfl)⟩⟩⟩⟩,
   ⟨onAtt true 0, ⟨0, (by first | decide +kernel | exact rfl)⟩⟩,
   ⟨onAtt false 8, ⟨0, (by first | decide +kernel | exact rfl)⟩⟩,
   ⟨onAtt false 0x2000000000, ⟨0, (by first | decide +kernel | exact rfl)⟩⟩,
   ⟨onAtt true 0x1FFFFFFC00, ⟨0, ⟨0, ⟨(by first | decide +kernel | exact rfl), ⟨(by first | decide +kernel | exact rfl), ⟨(by first | decide +kernel | exact rfl), ⟨(remap_of _ rfl), (by first | decide +kernel | exact rfl)⟩⟩⟩⟩⟩⟩⟩,
   ⟨{ onAtt true 0x1FFFFFFC00 with lease := 101 }, ⟨0, ⟨0, ⟨(by first | decide +kernel | exact rfl), ⟨(by first | decide +kernel | exact rfl), ⟨(by first | decide +kernel | exact rfl), ⟨(remap_of _ rfl), (by first | decide +kernel | exact rfl)⟩⟩⟩⟩⟩⟩⟩⟩

/-- The hypotheses of UniformViews are met. -/
theorem witness_uniform_views :
    (∃ g : Group, ∃ h : Group, ∃ m : BitVec 32, (g.splitViews m = some h)) ∧
    (∃ g : Group, ∃ h : Group, ∃ m : BitVec 32, (g.splitViews m = some h) ∧ (∃ a : Nat, a < 32 ∧ (∃ b : Nat, b < 32 ∧ (((g.lane a).exited = false) ∧ (((g.lane b).exited = false)))))) ∧
    (∃ g : Group, (∀ v ∈ g.views, v < 8)) ∧
    (∃ s : State, ∃ g : Group, ∃ o : OpA, ∃ n : BitVec 6, (s.group? s.cur.key = some g) ∧ ((o.dst = .s n) ∧ (((g.advance s.cur).splitViews s.cur.lanes = none)))) :=
  ⟨⟨gp, ⟨(gp.splitViews 1).getD gp, ⟨1, (by first | decide +kernel | exact rfl)⟩⟩⟩,
   ⟨gp, ⟨(gp.splitViews 1).getD gp, ⟨1, ⟨(by first | decide +kernel | exact rfl), ⟨0, ⟨(by first | decide +kernel | exact rfl), ⟨31, ⟨(by first | decide +kernel | exact rfl), ⟨(by first | decide +kernel | exact rfl), (by first | decide +kernel | exact rfl)⟩⟩⟩⟩⟩⟩⟩⟩⟩,
   ⟨gpViews, (by first | decide +kernel | exact rfl)⟩,
   ⟨on gpViews 0xFF, ⟨gpViews, ⟨oa (.s 63) .imm .none .none, ⟨63, ⟨(by first | decide +kernel | exact rfl), ⟨(by first | decide +kernel | exact rfl), (by first | decide +kernel | exact rfl)⟩⟩⟩⟩⟩⟩⟩

/-- The hypotheses of StepRunsTheDecodedInstruction are met. -/
theorem witness_step_runs_the_decoded_instruction :
    (∃ s : State, ∃ l : Latch, ∃ k : Pick, ∃ ks : List Pick, ∃ key : Nat, ∃ g : Group, ∃ bs : List Byte, ∃ c : Coding, ∃ i : Instr, ∃ npc : DWord, ∃ f : Form, ∃ n : Nat, ∃ o : Op, (s.latch = some l) ∧ ((l.todo = k :: ks) ∧ ((k.sec = false) ∧ ((k.second = false) ∧ ((l.group = some key) ∧ ((s.group? key = some g) ∧ (((s.core (coreOf key)).cached (s.fetchRoot g) k.pc = some bs) ∧ ((reach bs k.pc = .ok (c, i, npc)) ∧ ((formOf i = some (f, n, o)) ∧ ((formLimits f g.nv (match s.block? g.blk with | some b => b.tiles.length | none => 0) o = none) ∧ (let seen := s.curOf key g k c i npc
      let cur : Cur := { seen with ws := (s.slice (sliceOf key)).foundW l.baton k.pc, baton := l.baton, start := none }
      (({ s with cur := seen } : State).valueCheck g i = none) ∧ ((seen.wild = []) ∧ ((seen.spoilt = []) ∧ ((seen.psn = []) ∧ ((seen.marred = []) ∧ ((seen.at_ ≠ 0) ∧ (∃ t : State, (exec i { s.putGroup key (g.onLanes seen.at_ (fun _ x => { x with ready := 0 })) with cur } = .next t) ∧ ((s.memAccepts t (coreOf key) = true))))))))))))))))))) ∧
    (∃ s : State, ∃ l : Latch, ∃ k : Pick, ∃ ks : List Pick, ∃ key : Nat, ∃ g : Group, ∃ bs : List Byte, ∃ c : Coding, ∃ i : Instr, ∃ npc : DWord, ∃ f : Form, ∃ n : Nat, ∃ o : Op, (s.latch = some l) ∧ ((l.todo = k :: ks) ∧ ((k.sec = false) ∧ ((k.second = false) ∧ ((l.group = some key) ∧ ((s.group? key = some g) ∧ (((s.core (coreOf key)).cached (s.fetchRoot g) k.pc = some bs) ∧ ((reach bs k.pc = .ok (c, i, npc)) ∧ ((formOf i = some (f, n, o)) ∧ ((formLimits f g.nv (match s.block? g.blk with | some b => b.tiles.length | none => 0) o = none) ∧ (let seen := s.curOf key g k c i npc
      let cur : Cur := { seen with ws := (s.slice (sliceOf key)).foundW l.baton k.pc, baton := l.baton, start := none }
      (({ s with cur := seen } : State).valueCheck g i = none) ∧ ((seen.wild = []) ∧ ((seen.spoilt = []) ∧ ((seen.psn = []) ∧ ((seen.marred = []) ∧ ((seen.at_ ≠ 0) ∧ (∃ t : State, (exec i { s.putGroup key (g.onLanes seen.at_ (fun _ x => { x with ready := 0 })) with cur } = .next t) ∧ ((s.memAccepts t (coreOf key) = false))))))))))))))))))) ∧
    (∃ s : State, ∃ l : Latch, ∃ k : Pick, ∃ ks : List Pick, ∃ key : Nat, ∃ g : Group, ∃ bs : List Byte, ∃ c : Coding, ∃ i : Instr, ∃ npc : DWord, ∃ f : Form, ∃ n : Nat, ∃ o : Op, (s.latch = some l) ∧ ((l.todo = k :: ks) ∧ ((k.sec = false) ∧ ((k.second = false) ∧ ((l.group = some key) ∧ ((s.group? key = some g) ∧ (((s.core (coreOf key)).cached (s.fetchRoot g) k.pc = some bs) ∧ ((reach bs k.pc = .ok (c, i, npc)) ∧ ((formOf i = some (f, n, o)) ∧ ((formLimits f g.nv (match s.block? g.blk with | some b => b.tiles.length | none => 0) o = none) ∧ (let seen := s.curOf key g k c i npc
      let cur : Cur := { seen with ws := (s.slice (sliceOf key)).foundW l.baton k.pc, baton := l.baton, start := none }
      (({ s with cur := seen } : State).valueCheck g i = none) ∧ ((seen.wild = []) ∧ ((seen.spoilt = []) ∧ ((seen.psn = []) ∧ ((seen.marred = []) ∧ ((seen.at_ ≠ 0) ∧ (∃ t : State, (exec i { s.putGroup key (g.onLanes seen.at_ (fun _ x => { x with ready := 0 })) with cur } = .next t) ∧ ((t.cur.probe = none))))))))))))))))))) ∧
    (∃ bs : List Byte, ∃ pc : DWord, ∃ j : Nat, (lineParityOk bs = true) ∧ ((lineWord bs / 2 ^ 20 % 2 ^ 8 = 0) ∧ ((j < 5) ∧ (∃ c : Coding, ∃ i : Instr, ∃ r : List Byte, (pc.toNat % 64 = 12 * j) ∧ ((tplOf bs j = .op) ∧ ((decodeBytes .op (slotOf' bs j) = .ok (c, i, r)))))))) ∧
    (∃ bs : List Byte, ∃ pc : DWord, ∃ j : Nat, (lineParityOk bs = true) ∧ ((lineWord bs / 2 ^ 20 % 2 ^ 8 = 0) ∧ ((j < 5) ∧ (∃ c : Coding, ∃ i : Instr, ∃ r : List Byte, (pc.toNat % 64 = 12 * j) ∧ ((tplOf bs j = .op) ∧ ((decodeBytes .op (slotOf' bs j) = .ok (c, i, r)))))))) ∧
    (∃ bs : List Byte, ∃ pc : DWord, ∃ j : Nat, (lineParityOk bs = true) ∧ ((lineWord bs / 2 ^ 20 % 2 ^ 8 = 0) ∧ ((j < 5) ∧ (∃ c : Coding, ∃ i : Instr, ∃ r : List Byte, (pc.toNat % 64 = 12 * j) ∧ ((tplOf bs j = .pair) ∧ ((decodeBytes .pair (slotOf' bs j) = .ok (c, i, r)))))))) ∧
    (∃ bs : List Byte, ∃ pc : DWord, ∃ j : Nat, (lineParityOk bs = true) ∧ ((lineWord bs / 2 ^ 20 % 2 ^ 8 = 0) ∧ ((j < 5) ∧ (∃ c : Coding, ∃ i : Instr, ∃ r : List Byte, (pc.toNat % 64 = 12 * j + 6) ∧ ((tplOf bs j = .pair) ∧ ((decodeBytes .pair ((slotOf' bs j).drop 6) = .ok (c, i, r)))))))) ∧
    (∃ bs : List Byte, ∃ pc : DWord, ∃ j : Nat, (lineParityOk bs = true) ∧ ((lineWord bs / 2 ^ 20 % 2 ^ 8 = 0) ∧ ((j < 5) ∧ (∃ c : Coding, ∃ i : Instr, ∃ r : List Byte, (pc.toNat % 64 = 12 * j) ∧ ((tplOf bs j = .pfx) ∧ ((j < 4) ∧ ((tplOf bs (j + 1) = .op) ∧ ((btmOf bs (j + 1) = false) ∧ ((decodeBytes .pfx (slotOf' bs j ++ slotOf' bs (j + 1)) = .ok (c, i, r))))))))))) ∧
    (∃ bs : List Byte, ∃ pc : DWord, ∃ j : Nat, (lineParityOk bs = true) ∧ ((lineWord bs / 2 ^ 20 % 2 ^ 8 = 0) ∧ ((j < 5) ∧ (∃ e : Reject, (pc.toNat % 64 = 12 * j) ∧ ((tplOf bs j = .op) ∧ ((decodeBytes .op (slotOf' bs j) = .error e))))))) ∧
    (∃ bs : List Byte, ∃ pc : DWord, ∃ j : Nat, (lineParityOk bs = true) ∧ ((lineWord bs / 2 ^ 20 % 2 ^ 8 = 0) ∧ ((j < 5) ∧ ((pc.toNat % 64 = 12 * j) ∧ ((tplOf bs j = .pfx) ∧ ((j = 4 ∨ tplOf bs (j + 1) ≠ .op ∨ btmOf bs (j + 1) = true))))))) ∧
    (∃ bs : List Byte, ∃ pc : DWord, ∃ j : Nat, (lineParityOk bs = true) ∧ ((lineWord bs / 2 ^ 20 % 2 ^ 8 = 0) ∧ ((j < 5) ∧ ((pc.toNat % 64 = 12 * j) ∧ ((tplOf bs j = .pfx) ∧ ((j = 4 ∨ tplOf bs (j + 1) ≠ .op ∨ btmOf bs (j + 1) = true))))))) ∧
    (∃ bs : List Byte, ∃ pc : DWord, ∃ j : Nat, (lineParityOk bs = true) ∧ ((lineWord bs / 2 ^ 20 % 2 ^ 8 = 0) ∧ ((j < 5) ∧ ((pc.toNat % 64 = 12 * j) ∧ ((tplOf bs j = .pfx) ∧ ((j = 4 ∨ tplOf bs (j + 1) ≠ .op ∨ btmOf bs (j + 1) = true))))))) ∧
    (∃ bs : List Byte, ∃ pc : DWord, ∃ j : Nat, (lineParityOk bs = true) ∧ ((lineWord bs / 2 ^ 20 % 2 ^ 8 = 0) ∧ ((j < 5) ∧ ((pc.toNat % 64 % 6 ≠ 0))))) ∧
    (∃ bs : List Byte, (lineParityOk bs = false)) :=
  ⟨⟨onStep, ⟨{ slice := 0, todo := [{ pc := 0 }], group := some 0 }, ⟨{ pc := 0 }, ⟨[], ⟨0, ⟨gp, ⟨lineIn 96 madW, ⟨cutMad.1, ⟨cutMad.2.1, ⟨cutMad.2.2, ⟨formMad.1, ⟨formMad.2.1, ⟨formMad.2.2, ⟨(by first | decide +kernel | exact rfl), ⟨(by first | decide +kernel | exact rfl), ⟨(by first | decide +kernel | exact rfl), ⟨(by first | decide +kernel | exact rfl), ⟨(by first | decide +kernel | exact rfl), ⟨(by first | decide +kernel | exact rfl), ⟨(by first | decide +kernel | exact rfl), ⟨(ok_of (by decide +kernel)), ⟨(by first | decide +kernel | exact rfl), ⟨(by first | decide +kernel | exact rfl), ⟨(by first | decide +kernel | exact rfl), ⟨(by first | decide +kernel | exact rfl), ⟨(by first | decide +kernel | exact rfl), ⟨(by first | decide +kernel | exact rfl), ⟨(by first | decide +kernel | exact rfl), ⟨(by first | decide +kernel | exact rfl), ⟨after goMad (exec cutMad.2.1 goMad), ⟨rfl, (by first | decide +kernel | exact rfl)⟩⟩⟩⟩⟩⟩⟩⟩⟩⟩⟩⟩⟩⟩⟩⟩⟩⟩⟩⟩⟩⟩⟩⟩⟩⟩⟩⟩⟩⟩⟩,
   ⟨onHeld, ⟨{ slice := 0, todo := [{ pc := 0 }], group := some 0 }, ⟨{ pc := 0 }, ⟨[], ⟨0, ⟨gp, ⟨lineIn 96 ldW, ⟨cutLd.1, ⟨cutLd.2.1, ⟨cutLd.2.2, ⟨formLd.1, ⟨formLd.2.1, ⟨formLd.2.2, ⟨(by first | decide +kernel | exact rfl), ⟨(by first | decide +kernel | exact rfl), ⟨(by first | decide +kernel | exact rfl), ⟨(by first | decide +kernel | exact rfl), ⟨(by first | decide +kernel | exact rfl), ⟨(by first | decide +kernel | exact rfl), ⟨(by first | decide +kernel | exact rfl), ⟨(ok_of (by decide +kernel)), ⟨(by first | decide +kernel | exact rfl), ⟨(by first | decide +kernel | exact rfl), ⟨(by first | decide +kernel | exact rfl), ⟨(by first | decide +kernel | exact rfl), ⟨(by first | decide +kernel | exact rfl), ⟨(by first | decide +kernel | exact rfl), ⟨(by first | decide +kernel | exact rfl), ⟨(by first | decide +kernel | exact rfl), ⟨after goLd (exec cutLd.2.1 goLd), ⟨rfl, (by first | decide +kernel | exact rfl)⟩⟩⟩⟩⟩⟩⟩⟩⟩⟩⟩⟩⟩⟩⟩⟩⟩⟩⟩⟩⟩⟩⟩⟩⟩⟩⟩⟩⟩⟩⟩,
   ⟨onStep, ⟨{ slice := 0, todo := [{ pc := 0 }], group := some 0 }, ⟨{ pc := 0 }, ⟨[], ⟨0, ⟨gp, ⟨lineIn 96 madW, ⟨cutMad.1, ⟨cutMad.2.1, ⟨cutMad.2.2, ⟨formMad.1, ⟨formMad.2.1, ⟨formMad.2.2, ⟨(by first | decide +kernel | exact rfl), ⟨(by first | decide +kernel | exact rfl), ⟨(by first | decide +kernel | exact rfl), ⟨(by first | decide +kernel | exact rfl), ⟨(by first | decide +kernel | exact rfl), ⟨(by first | decide +kernel | exact rfl), ⟨(by first | decide +kernel | exact rfl), ⟨(ok_of (by decide +kernel)), ⟨(by first | decide +kernel | exact rfl), ⟨(by first | decide +kernel | exact rfl), ⟨(by first | decide +kernel | exact rfl), ⟨(by first | decide +kernel | exact rfl), ⟨(by first | decide +kernel | exact rfl), ⟨(by first | decide +kernel | exact rfl), ⟨(by first | decide +kernel | exact rfl), ⟨(by first | decide +kernel | exact rfl), ⟨after goMad (exec cutMad.2.1 goMad), ⟨rfl, (by first | decide +kernel | exact rfl)⟩⟩⟩⟩⟩⟩⟩⟩⟩⟩⟩⟩⟩⟩⟩⟩⟩⟩⟩⟩⟩⟩⟩⟩⟩⟩⟩⟩⟩⟩⟩,
   ⟨lineIn 96 madW, ⟨0, ⟨0, ⟨(by first | decide +kernel | exact rfl), ⟨(by first | decide +kernel | exact rfl), ⟨(by first | decide +kernel | exact rfl), ⟨(cutOf .op (slotOf' (lineIn 96 madW) 0)).1, ⟨(cutOf .op (slotOf' (lineIn 96 madW) 0)).2.1, ⟨(cutOf .op (slotOf' (lineIn 96 madW) 0)).2.2, ⟨(by first | decide +kernel | exact rfl), ⟨(by first | decide +kernel | exact rfl), (ok_of (by decide +kernel))⟩⟩⟩⟩⟩⟩⟩⟩⟩⟩⟩,
   ⟨lineM4, ⟨48, ⟨4, ⟨(by first | decide +kernel | exact rfl), ⟨(by first | decide +kernel | exact rfl), ⟨(by first | decide +kernel | exact rfl), ⟨(cutOf .op (slotOf' (lineM4) 4)).1, ⟨(cutOf .op (slotOf' (lineM4) 4)).2.1, ⟨(cutOf .op (slotOf' (lineM4) 4)).2.2, ⟨(by first | decide +kernel | exact rfl), ⟨(by first | decide +kernel | exact rfl), (ok_of (by decide +kernel))⟩⟩⟩⟩⟩⟩⟩⟩⟩⟩⟩,
   ⟨lineP, ⟨0, ⟨0, ⟨(by first | decide +kernel | exact rfl), ⟨(by first | decide +kernel | exact rfl), ⟨(by first | decide +kernel | exact rfl), ⟨(cutOf .pair (slotOf' (lineP) 0)).1, ⟨(cutOf .pair (slotOf' (lineP) 0)).2.1, ⟨(cutOf .pair (slotOf' (lineP) 0)).2.2, ⟨(by first | decide +kernel | exact rfl), ⟨(by first | decide +kernel | exact rfl), (ok_of (by decide +kernel))⟩⟩⟩⟩⟩⟩⟩⟩⟩⟩⟩,
   ⟨lineP, ⟨6, ⟨0, ⟨(by first | decide +kernel | exact rfl), ⟨(by first | decide +kernel | exact rfl), ⟨(by first | decide +kernel | exact rfl), ⟨(cutOf .pair ((slotOf' (lineP) 0).drop 6)).1, ⟨(cutOf .pair ((slotOf' (lineP) 0).drop 6)).2.1, ⟨(cutOf .pair ((slotOf' (lineP) 0).drop 6)).2.2, ⟨(by first | decide +kernel | exact rfl), ⟨(by first | decide +kernel | exact rfl), (ok_of (by decide +kernel))⟩⟩⟩⟩⟩⟩⟩⟩⟩⟩⟩,
   ⟨lineIn 192 (madW * 2 ^ 96), ⟨0, ⟨0, ⟨(by first | decide +kernel | exact rfl), ⟨(by first | decide +kernel | exact rfl), ⟨(by first | decide +kernel | exact rfl), ⟨(cutOf .pfx (slotOf' (lineIn 192 (madW * 2 ^ 96)) 0 ++ slotOf' (lineIn 192 (madW * 2 ^ 96)) 1)).1, ⟨(cutOf .pfx (slotOf' (lineIn 192 (madW * 2 ^ 96)) 0 ++ slotOf' (lineIn 192 (madW * 2 ^ 96)) 1)).2.1, ⟨(cutOf .pfx (slotOf' (lineIn 192 (madW * 2 ^ 96)) 0 ++ slotOf' (lineIn 192 (madW * 2 ^ 96)) 1)).2.2, ⟨(by first | decide +kernel | exact rfl), ⟨(by first | decide +kernel | exact rfl), ⟨(by first | decide +kernel | exact rfl), ⟨(by first | decide +kernel | exact rfl), ⟨(by first | decide +kernel | exact rfl), (ok_of (by decide +kernel))⟩⟩⟩⟩⟩⟩⟩⟩⟩⟩⟩⟩⟩⟩,
   ⟨lineW 0, ⟨0, ⟨0, ⟨(by first | decide +kernel | exact rfl), ⟨(by first | decide +kernel | exact rfl), ⟨(by first | decide +kernel | exact rfl), ⟨.opcode, ⟨(by first | decide +kernel | exact rfl), ⟨(by first | decide +kernel | exact rfl), (error_of (by decide +kernel))⟩⟩⟩⟩⟩⟩⟩⟩⟩,
   ⟨lineW 0x40004000, ⟨48, ⟨4, ⟨(by first | decide +kernel | exact rfl), ⟨(by first | decide +kernel | exact rfl), ⟨(by first | decide +kernel | exact rfl), ⟨(by first | decide +kernel | exact rfl), ⟨(by first | decide +kernel | exact rfl), (by first | decide +kernel | exact rfl)⟩⟩⟩⟩⟩⟩⟩⟩,
   ⟨lineW 0xC00000C0, ⟨0, ⟨0, ⟨(by first | decide +kernel | exact rfl), ⟨(by first | decide +kernel | exact rfl), ⟨(by first | decide +kernel | exact rfl), ⟨(by first | decide +kernel | exact rfl), ⟨(by first | decide +kernel | exact rfl), (by first | decide +kernel | exact rfl)⟩⟩⟩⟩⟩⟩⟩⟩,
   ⟨lineW 0x60000042, ⟨0, ⟨0, ⟨(by first | decide +kernel | exact rfl), ⟨(by first | decide +kernel | exact rfl), ⟨(by first | decide +kernel | exact rfl), ⟨(by first | decide +kernel | exact rfl), ⟨(by first | decide +kernel | exact rfl), (by first | decide +kernel | exact rfl)⟩⟩⟩⟩⟩⟩⟩⟩,
   ⟨lineW 0, ⟨1, ⟨0, ⟨(by first | decide +kernel | exact rfl), ⟨(by first | decide +kernel | exact rfl), ⟨(by first | decide +kernel | exact rfl), (by first | decide +kernel | exact rfl)⟩⟩⟩⟩⟩⟩,
   ⟨[], (by first | decide +kernel | exact rfl)⟩⟩

/-- The hypotheses of DecodeEncode are met. -/
theorem witness_decode_encode :
    (∃ c : Coding, ∃ i : Instr, (i.legal c = true)) :=
  ⟨{ h := { neg := false, p := 7, stall := 0 } }, ⟨.ld { om (.v 255) 15 (.v 0) .none with scope := 0 }, (by first | decide +kernel | exact rfl)⟩⟩

/-- The hypotheses of StepKeepsMemoryCanonical are met. -/
theorem witness_step_keeps_memory_canonical :
    (∃ s : State, ∃ t : State, (s.memWf = true) ∧ ((step s = .next t))) :=
  ⟨State.reset, ⟨after State.reset (step State.reset), ⟨(by first | decide +kernel | exact rfl), rfl⟩⟩⟩

/-- The hypotheses of WritesLanes, LaneGives, LaneRounds and CompactGives are met, by a vector, a uniform and a predicate destination. -/
theorem witness_writes_lanes :
    (∃ (s : State) (g g0 : Group), s.group? s.cur.key = some g ∧ s.viewsFor (g.advance s.cur) (.v 255) = .ok g0 ∧ ∀ l < 32, Sel.within (.v 255) 2 = true) ∧
    (∃ (s : State) (g g0 : Group), s.group? s.cur.key = some g ∧ s.viewsFor (g.advance s.cur) (.s 62) = .ok g0 ∧ ∀ l < 32, Sel.within (.s 62) 2 = true) ∧
    (∃ (s : State) (g g0 : Group), s.group? s.cur.key = some g ∧ s.viewsFor (g.advance s.cur) (.p 7) = .ok g0 ∧ ∀ l < 32, Sel.within (.p 7) 1 = true) :=
  ⟨⟨on gp 3, gp, gp.advance (on gp 3).cur, by decide +kernel, by exact rfl, by decide⟩,
   ⟨on gp 3, gp, vf (on gp 3) gp (.s 62), by decide +kernel, by exact rfl, by decide⟩,
   ⟨on gp 3, gp, gp.advance (on gp 3).cur, by decide +kernel, by exact rfl, by decide⟩⟩
/-- The hypotheses of the clauses of ActsOnce are met. -/
theorem witness_acts_once :
    (∃ (s : State) (g : Group) (o : OpX), s.group? s.cur.key = some g ∧ s.cur.lanes ≠ 0 ∧ (s.low g Forms.bradv 0 (.x o) 3).psn = none) ∧
    (∃ (s : State) (g : Group) (o : OpX) (p : Nat), s.group? s.cur.key = some g ∧ s.cur.lanes ≠ 0 ∧ (s.low g Forms.bradv 0 (.x o) 3).psn = some p) ∧
    (∃ (s : State) (g : Group), s.group? s.cur.key = some g ∧ s.cur.lanes = 0) :=
  ⟨⟨on gp 3, gp, ox (.b 0) (.b 0) .imm .none 0xFFFFFFFF, by decide +kernel, by decide +kernel, by decide +kernel⟩,
   ⟨on gpPs 3, gpPs, ox (.b 0) (.b 0) (.s 62) .none 0, 3, by decide +kernel, by decide +kernel, by decide +kernel⟩,
   ⟨on gp 0, gp, by decide +kernel, by decide +kernel⟩⟩
/-- The hypotheses of both clauses of Sends are met: legal targets, and an illegal one of the higher lane. -/
theorem witness_sends :
    targetsOk (onR gp 3) gp true (fun _ => 0) = true ∧
    ∃ l, (lanesOf (onR gp 3).cur.lanes).find? (fun l => !(onR gp 3).targetOk (onR gp 3).cur.core ((onR gp 3).fetchRoot gp) true (BitVec.ofNat 64 (3 * l))) = some l :=
  ⟨by decide +kernel, 1, by decide +kernel⟩
/-- The hypotheses of ReadIssues are met. -/
theorem witness_read_issues : ∃ (o : OpM) (s : State) (g : Group) (b : Block) (accs : List Acc) (t : State) (g0 : Group), Issues s g b ∧
    s.viewsFor (g.advance s.cur) o.data = .ok g0 ∧ (∀ l ∈ actors s false, (s.index g o l).psn = none) ∧ Formed s g b o .read false false 4 accs t ∧ accs ≠ [] ∧
    (∀ a ∈ accs, a.fail ≠ some Cause.memunc) :=
  ⟨om (.v 0) 0 (.v 3) .none, on gp 1, gp, bk, [acS], issuing (on gp 1) gp, gp.advance (on gp 1).cur, ⟨rfl, rfl, rfl⟩, by exact rfl, by decide +kernel,
    by unfold Formed; decide +kernel, by decide +kernel, by decide +kernel⟩
/-- The hypotheses of WriteIssues are met. -/
theorem witness_write_issues : ∃ (o : OpM) (s : State) (g : Group) (b : Block) (accs : List Acc) (t : State), Issues s g b ∧ s.isStage g = false ∧
    memClean s g o (memRegs Forms.st o) false ∧ Formed s g b o .write false false (memBytes Forms.st o) accs t ∧ (∀ a ∈ accs, a.fail = none) ∧
    accs.filter (fun a => a.st == .todo) ≠ [] :=
  ⟨om (.v 1) 0 (.v 3) .none, on gp 1, gp, bk, [acS], issuing (on gp 1) gp, ⟨rfl, rfl, rfl⟩, by decide +kernel, by unfold memClean; decide +kernel,
    by unfold Formed; decide +kernel, by decide +kernel, by decide +kernel⟩
/-- The hypotheses of RmwIssues are met. -/
theorem witness_rmw_issues : ∃ (o : OpM) (s : State) (g : Group) (b : Block) (accs : List Acc) (t : State), Issues s g b ∧ s.isStage g = false ∧
    memClean s g o 0 false ∧ Formed s g b o .rmw false false (memBytes Forms.atomAdd o) accs t ∧ (∀ a ∈ accs, a.fail = none) ∧ (∀ a ∈ accs, a.st = .todo) ∧
    accs ≠ [] ∧ t.deniedAcc b accs = none :=
  ⟨om (.v 1) 0 (.v 3) (.v 2), on gp 1, gp, bk, [acS], issuing (on gp 1) gp, ⟨rfl, rfl, rfl⟩, by decide +kernel, by unfold memClean; decide +kernel,
    by unfold Formed; decide +kernel, by decide +kernel, by decide +kernel, by decide +kernel, by decide +kernel⟩
/-- The hypotheses of MulticastIssues are met, for STMC and for a member of STRED. -/
theorem witness_multicast_issues :
    (∃ (o : OpM) (s : State) (g : Group) (b : Block) (l : Nat) (accs : List Acc) (t : State), Issues s g b ∧ s.isStage g = false ∧ lanesOf s.cur.lanes = [l] ∧
      memClean s g o (memRegs Forms.stmc o) false ∧ (∀ j < 16, (s.readSel g o.aux 0 l).bits.getLsbD j = false) ∧
      Formed s g b o .write false false (memBytes Forms.stmc o) accs t ∧ (∀ a ∈ accs, a.fail = none ∧ a.st = .todo) ∧ accs ≠ [] ∧ t.deniedAcc b accs = none) ∧
    (∃ (o : OpM) (s : State) (g : Group) (b : Block) (l : Nat) (accs : List Acc) (t : State), Issues s g b ∧ s.isStage g = false ∧ lanesOf s.cur.lanes = [l] ∧
      memClean s g o (memRegs Forms.stredAdd o) false ∧ (∀ j < 16, (s.readSel g o.aux 0 l).bits.getLsbD j = false) ∧
      Formed s g b o .rmw false false (memBytes Forms.stredAdd o) accs t ∧ (∀ a ∈ accs, a.fail = none ∧ a.st = .todo) ∧ accs ≠ [] ∧ t.deniedAcc b accs = none) :=
  ⟨⟨om (.v 1) 0 (.v 3) (.v 2), on gp 1, gp, bk, 0, [acS], issuing (on gp 1) gp, ⟨rfl, rfl, rfl⟩, by decide +kernel, by decide +kernel, by unfold memClean; decide +kernel,
    by decide +kernel, by unfold Formed; decide +kernel, by decide +kernel, by decide +kernel, by decide +kernel⟩,
   ⟨om (.v 1) 0 (.v 3) (.v 2), on gp 1, gp, bk, 0, [acS], issuing (on gp 1) gp, ⟨rfl, rfl, rfl⟩, by decide +kernel, by decide +kernel, by unfold memClean; decide +kernel,
    by decide +kernel, by unfold Formed; decide +kernel, by decide +kernel, by decide +kernel, by decide +kernel⟩⟩
/-- The hypotheses of JobQueues are met: of a card that passes its checks, and of one that fails one. -/
theorem witness_job_queues :
    (∃ (o : OpX) (s : State) (g g0 : Group) (b : Block) (x : Xlate) (t1 t2 : State) (fol : Option (Nat × Nat)) (k : Nat), Issues s g b ∧ s.cur.lanes ≠ 0 ∧
      (s.lowPair g Forms.job 0 (.x o) 2).2 = none ∧ (s.lowPair g Forms.job 0 (.x o) 2).1 = 0 ∧
      (issuing s g).translate s.cur.core (s.rootOf b.launch) 0 .read = (.ok x, t1) ∧ t1.eccIn x.loc 128 = false ∧
      t1.jobCheck (g.advance s.cur) b (jobOfCard s t1 g 0 x.loc) false = (.ok fol, t2) ∧
      (List.range 4).find? (fun k => !((s.core s.cur.core).jobs.any (fun y => y.slot == k))) = some k ∧
      s.viewsFor (g.advance s.cur) o.dst = .ok g0 ∧ Sel.within o.dst 1 = true) ∧
    (∃ (o : OpX) (s : State) (g : Group) (b : Block) (x : Xlate) (t1 t2 : State) (c : Nat) (at_ : DWord), Issues s g b ∧ s.cur.lanes ≠ 0 ∧
      (s.lowPair g Forms.job 0 (.x o) 2).2 = none ∧ (s.lowPair g Forms.job 0 (.x o) 2).1 = 0 ∧
      (issuing s g).translate s.cur.core (s.rootOf b.launch) 0 .read = (.ok x, t1) ∧ t1.eccIn x.loc 128 = false ∧
      t1.jobCheck (g.advance s.cur) b (jobOfCard s t1 g 0 x.loc) false = (.error (c, at_), t2)) :=
  ⟨⟨ox (.s 63) (.s 0) .none .none 0, onJob cardM, gpJob, vf (onJob cardM) gpJob (.s 63), bkJob, ⟨0, 10, 0⟩, (jobAt cardM).2,
      ((jobAt cardM).2.jobCheck (gpJob.advance (onJob cardM).cur) bkJob (jobOf cardM) false).2, none, 0, ⟨rfl, rfl, rfl⟩, by decide +kernel, by decide +kernel, by decide +kernel,
      Prod.ext (ok_of (by decide +kernel)) rfl, by decide +kernel, Prod.ext (ok_of (by decide +kernel)) rfl, by decide +kernel, by exact rfl, by decide +kernel⟩,
   ⟨ox (.s 63) (.s 0) .none .none 0, onJob [], gpJob, bkJob, ⟨0, 10, 0⟩, (jobAt []).2,
      ((jobAt []).2.jobCheck (gpJob.advance (onJob []).cur) bkJob (jobOf []) false).2, Cause.jobcard, 0, ⟨rfl, rfl, rfl⟩, by decide +kernel, by decide +kernel, by decide +kernel,
      Prod.ext (ok_of (by decide +kernel)) rfl, by decide +kernel, Prod.ext (error_of (by decide +kernel)) rfl⟩⟩

/-! ## Words written out from the spec's encodings (08 R192 to R200, 09 R210 to R219)

The fields of a slot from bit 95 down: OPC 8, STALL 4, GUARD 4, MINOR 8, then format A: TYPE 4, DST 10, SA 10, SB 10, SC 10, RND 3, SAT 1, reserved, IMM16;
format M: TYPE 4, DATA 10, BREC 4, INDEX 10, SCOPE 3, REM 1, AUX 10, GLEN 2, reserved, IMM16; format X: DST 10, SA 10, SB 10, SC 10, IMM32. -/

/-- The worked encoding of 09: OPC 0x40, STALL 1, GUARD 3, MINOR 2, TYPE 5, p2, v4, v9. -/
theorem test_word_cmp : decode (.one 0x401302580804027FF0000000) =
    .ok ({ h := { neg := false, p := 3, stall := 1 }, zeroPfx := false },
      .cmpLt { pfx := none, ty := .u32, dst := .p 2, sa := .v 4, sb := .v 9, sc := .none, rnd := 0, sat := false, imm := 0 }) := by rfl
/-- The same word with SA 0x3FF is illegal (09, the worked encoding). -/
theorem test_word_cmp_no_source : (decode (.one 0x401302580BFF027FF0000000)).isOk = false := by decide +kernel
/-- The same word with TYPE 1 is illegal (09, the worked encoding). -/
theorem test_word_cmp_type : (decode (.one 0x401302180804027FF0000000)).isOk = false := by decide +kernel
/-- The same word with MINOR 6 is illegal (09, the worked encoding). -/
theorem test_word_cmp_minor : (decode (.one 0x401306580804027FF0000000)).isOk = false := by decide +kernel
/-- A slot of zeros is no instruction (09 R210). -/
theorem test_word_zero : (decode (.one 0)).isOk = false := by decide +kernel
/-- BRA to slot 2 of the next line: OPC 0x02, GUARD 7. -/
theorem test_word_bra : decodeTableWord 96 0x020700FFFFFFFFFF10000001 = some (.bra { OpC.blank with tslot := 2, ldisp := 1 }) := by decide +kernel
/-- PASS with predicate p1, group s9, address s4 and a carried list v4..v7. -/
theorem test_word_pass : decodeTableWord 96 0x1007008050941004C0000000 =
    some (.pass { pfx := none, d1 := .p 1, d2 := .s 9, sa := .s 4, carry := .v 4, clen := 3, tslot := 0, ldisp := 0 }) := by decide +kernel
/-- MAD v7, v1, v2, 1000 with .sat. -/
theorem test_word_mad : decodeTableWord 96 0x240700001C0100B0020003E8 =
    some (.mad { pfx := none, ty := .dflt, dst := .v 7, sa := .v 1, sb := .v 2, sc := .imm, rnd := 0, sat := true, imm := 0x3E8 }) := by decide +kernel
/-- CVTPK to E4M3 with .sat, lane list v2, v3, v4. -/
theorem test_word_cvtpk : decodeTableWord 96 0x71570400100200C042000000 =
    some (.cvtpk .e4m3 { pfx := none, ty := .dflt, dst := .v 4, sa := .v 2, sb := .v 3, sc := .v 4, rnd := 0, sat := true, imm := 0 }) := by decide +kernel
/-- RED.ADD.f32 v7, v5. -/
theorem test_word_red : decodeTableWord 96 0x780700101C05FFFFF0000000 =
    some (.redAdd { pfx := none, ty := .f32, dst := .v 7, sa := .v 5, sb := .none, sc := .none, rnd := 0, sat := false, imm := 0 }) := by decide +kernel
/-- CAS v5 in record b2 at index v3 + 8 against v6, scope 4. -/
theorem test_word_cas : decodeTableWord 96 0xA10700001480380180000008 =
    some (.cas { pfx := none, ty := .dflt, data := .v 5, brec := 2, index := .v 3, scope := 4, rem := false, aux := .v 6, glen := 0, imm := 8 }) := by decide +kernel
/-- FENCE.FULL.pkg names no operand. -/
theorem test_word_fence : decodeTableWord 96 0x8907020FFC3FFAFFC0000000 =
    some (.fenceFull { pfx := none, ty := .dflt, data := .none, brec := 0, index := .none, scope := 5, rem := false, aux := .none, glen := 0, imm := 0 }) := by decide +kernel
/-- JOB with its ticket in s20 and its card at s10. -/
theorem test_word_job : decodeTableWord 96 0xC001004510AFFFFF00000000 =
    some (.job { pfx := none, dst := .s 20, sa := .s 10, sb := .none, sc := .none, imm := 0 }) := by decide +kernel
/-- TDSET of word 1 of t3. -/
theorem test_word_tdset : decodeTableWord 96 0xC50701A0F00FFFFF00400101 =
    some (.tdset 1 { pfx := none, dst := .t 3, sa := .imm, sb := .none, sc := .none, imm := 0x00400101 }) := by decide +kernel
/-- TRET.W. -/
theorem test_word_tret : decodeTableWord 96 0xD40700FFFFFFFFFF00000000 = some .tretW := by decide +kernel
/-- SYSCALL s20, 12, s8. -/
theorem test_word_syscall : decodeTableWord 96 0xE0070045300423FF0000000C =
    some (.syscall { pfx := none, dst := .s 20, sa := .imm, sb := .s 8, sc := .none, imm := 12 }) := by decide +kernel
/-- A compact load: COP 0x80, v5, record b2, index v3, offset 4. -/
theorem test_word_compact_ld : decodeTableWord 48 0x800502030004 = some (.compactLdV { dst := 5, sa := 2, sb := 3, imm := 4 }) := by decide +kernel
/-- Bytes of a slot are little-endian, and a later word follows (00 R8). -/
theorem test_word_compact_add : decodeTableWord 48 0x080500000009 = some (.compactAddVi { dst := 5, sa := 0, sb := 0, imm := 9 }) := by decide +kernel

/-! ## Ill-formed terms: one for each check that a decoded instruction can fail (08 R193 to R200, R221) -/

def iv (d a b c : Sel) : OpA := { pfx := none, ty := .dflt, dst := d, sa := a, sb := b, sc := c, rnd := 0, sat := false, imm := 0 }
def im (d a : Sel) : OpM := { pfx := none, ty := .dflt, data := d, brec := 0, index := a, scope := 0, rem := false, aux := .none, glen := 0, imm := 0 }

theorem smoke_type : (Instr.add { iv (.v 0) (.v 1) (.v 2) .none with ty := .f32 }).reject? = some .type := by decide +kernel
theorem smoke_operand : (Instr.add (iv (.m 0) (.v 1) (.v 2) .none)).reject? = some .operand := by decide +kernel
theorem smoke_unused_operand : (Instr.add (iv (.v 0) (.v 1) (.v 2) (.v 3))).reject? = some .unusedOperand := by decide +kernel
theorem smoke_two_immediates : (Instr.add (iv (.v 0) .imm .imm .none)).reject? = some .twoImmediates := by decide +kernel
theorem smoke_uniform : (Instr.add (iv (.s 0) (.v 1) (.s 2) .none)).reject? = some .uniform := by decide +kernel
theorem smoke_modifier : (Instr.and { iv (.v 0) (.v 1) (.v 2) .none with sat := true }).reject? = some .modifier := by decide +kernel
theorem smoke_immediate : (Instr.shl { iv (.v 0) (.v 1) .imm .none with imm := 32 }).reject? = some .immediate := by decide +kernel
theorem smoke_prefix_field : (Instr.add { iv (.v 0) (.v 1) (.v 2) .none with pfx := some { rnd := 0, sat := 0, den := 1, seed := 0, imx := false, imm := 0 } }).wellFormed = false := by decide +kernel
theorem smoke_scope : (Instr.ld { im (.v 0) (.v 1) with scope := 5 }).reject? = some .scope := by decide +kernel
theorem smoke_glen : (Instr.cas { im (.v 0) (.v 1) with scope := 5, aux := .v 2, glen := 1 }).wellFormed = false := by decide +kernel
theorem smoke_brec : (Instr.fenceFull { im .none .none with scope := 5, brec := 1 }).reject? = some .brec := by decide +kernel
theorem smoke_carry : (Instr.pass { pfx := none, d1 := .p 1, d2 := .s 9, sa := .s 4, carry := .none, clen := 3, tslot := 0, ldisp := 0 }).reject? = some .carry := by decide +kernel
theorem smoke_compact_number : (Instr.compactLdV { dst := 5, sa := 16, sb := 3, imm := 4 }).reject? = some .compactNumber := by decide +kernel
theorem smoke_unit : (Instr.operandCollect ⟨1000000, none⟩).wellFormed = false := by decide +kernel
theorem smoke_well_formed : (Instr.add (iv (.v 0) (.v 1) .imm .none)).wellFormed = true := by decide +kernel
/-- The checks that fall on the words themselves: a selector beyond its class, an unassigned TYPE, a reserved bit (08 R193, 09 R211, R221). -/
theorem smoke_words :
    (decode (.one 0x20070000100100BFF0010000)).isOk = false ∧ (decode (.one 0x200700F0100100BFF0000000)).isOk = false ∧
    (decode (.one 0x20070000114100BFF0000000)).isOk = false := by decide +kernel

/-! ## One instruction on a small state, with results that the spec writes out -/

/-- The group of the small state after an instruction. -/
def groupAfter : Host.Outcome State Fault Refusal → Group
  | .next t => (t.group? 0).getD gp
  | _ => gp
/-- v1, v2, v4 and v5 of lanes 0 to 3. -/
def quads (a b c d : List Word) : Group :=
  let f (r : Nat) (x : List Word) (v : SMap Val) := ((List.range 4).zip x).foldl (fun v y => v.set ⟨0, none⟩ (32 * r + y.1) ⟨y.2, none⟩) v
  { gp with v := f 5 d (f 4 c (f 2 b (f 1 a []))) }
def laneWords (g : Group) (r : Nat) : List Word := (List.range 4).map (fun l => (g.vAt r l).bits)

/-- 12, Signed division in four lanes: DIVFIX after the fourth DIVSTEP. -/
theorem test_divfix :
    let g := groupAfter (exec (.divfix (iv (.v 4) (.v 4) (.v 2) (.v 1)))
      (on (quads [50, 10, 0xFFFFFFE2, 0xFFFFFFBA] [0xFFFFFFF9, 0, 7, 14] [7, 0xFFFFFFFF, 4, 5] [1, 10, 2, 0]) 15))
    laneWords g 4 = [0xFFFFFFF9, 0xFFFFFFFF, 0xFFFFFFFC, 0xFFFFFFFB] ∧ laneWords g 5 = [1, 10, 0xFFFFFFFE, 0] := by decide +kernel
/-- 12, the last DIVSTEP of 50 by 7, 10 by 0, 30 by 7 and 70 by 14: its quotient bits are 7 to 0. -/
theorem test_divstep :
    let g := groupAfter (exec (.divstep (iv (.v 4) (.v 4) (.v 2) .none))
      (on (quads [0, 0, 0, 0] [0xFFFFFFF9, 0, 7, 14] [0x32000000, 0x0AFFFFFF, 0x1E000000, 0x46000000] [0, 0, 0, 0]) 15))
    laneWords g 4 = [7, 0xFFFFFFFF, 4, 5] ∧ laneWords g 5 = [1, 10, 2, 0] := by decide +kernel
/-- 12, the MIX3 tables: 0xA8 gives a AND (b OR c), 0x96 gives a XOR b XOR c. -/
theorem test_mix3 :
    let s := on (quads [0xC] [0xA] [0x6] [0]) 1
    laneWords (groupAfter (exec (.mix3 { iv (.v 6) (.v 1) (.v 2) (.v 4) with imm := 0xA8 }) s)) 6 = [0xC, 0, 0, 0] ∧
    laneWords (groupAfter (exec (.mix3 { iv (.v 6) (.v 1) (.v 2) (.v 4) with imm := 0x96 }) s)) 6 = [0, 0, 0, 0] := by decide +kernel
/-- 12 R265: NEG.s32.sat of 0x80000000, and NEG.u32.sat. -/
theorem test_neg_sat :
    let s := on (quads [0x80000000, 5] [] [] []) 3
    laneWords (groupAfter (exec (.neg { iv (.v 6) (.v 1) .none .none with sat := true }) s)) 6 = [0x7FFFFFFF, 0xFFFFFFFB, 0, 0] ∧
    laneWords (groupAfter (exec (.neg { iv (.v 6) (.v 1) .none .none with sat := true, ty := .u32 }) s)) 6 = [0, 0, 0, 0] := by decide +kernel
/-- 12 R265: ABSD of 0x80000000 and 0 does not wrap. -/
theorem test_absd : laneWords (groupAfter (exec (.absd (iv (.v 6) (.v 1) (.v 2) .none)) (on (quads [0x80000000] [0] [] []) 1))) 6 = [0x80000000, 0, 0, 0] := by
  decide +kernel
/-- 10 R241, the promotion that the spec works out: S = 16777217, scales 0.5 and 3.0, acc 1.0. -/
theorem test_promote : promote 0x3F800000 (.fin false 16777217 0) 0x3F000000 0x40400000 = 0x4BC00000 := by decide +kernel
/-- 13, Quantising four lanes: 200 × l in E4M3 with saturation, read back; E4M3 has no 600, and 448 is its largest. -/
theorem test_cvtpk : laneWords (groupAfter (exec (.cvtpk .e4m3 { iv (.v 4) (.v 1) (.v 2) (.v 4) with sat := true })
    (on (quads [0, 0x43480000, 0x43C80000, 0x44160000] [0x80000000, 0xC3480000, 0xC3C80000, 0xC4160000] [] []) 15))) 4 =
    [0x8000, 0xF474, 0xFC7C, 0xFE7E] := by decide +kernel
/-- 12 R269: a register count of 32 is not reduced. -/
theorem test_shl : laneWords (groupAfter (exec (.shl (iv (.v 6) (.v 1) (.v 2) .none)) (on (quads [3, 3] [32, 31] [] []) 3))) 6 = [0, 0x80000000, 0, 0] := by
  decide +kernel
/-- A lane outside the executing lanes keeps its register; p7 reads true and keeps its value (03 R63). -/
theorem test_frame :
    laneWords (groupAfter (exec (.add (iv (.v 1) (.v 1) (.v 2) .none)) (on (quads [0xFFFFFFFF, 4] [2, 3] [] []) 1))) 1 = [1, 4, 0, 0] ∧
    ((groupAfter (exec (.cmpLt (iv (.p 7) (.v 1) (.v 2) .none)) (on (quads [1] [0] [] []) 1))).pAt 7 0).b = true := by decide +kernel

/-! ## Fetching and stepping -/

/-- The word that withFetchWord stores is the one that the next step runs: ADD v6, v2, 5 in every lane. -/
theorem test_step_runs_word : laneWords (groupAfter (step (State.reset.withFetchWord 96 0x200700001802C03FF0000005))) 6 = [5, 5, 5, 5] := by decide +kernel
/-- How long a slice cycle lasts whose E1 to E4 hold one instruction of a class, at a clock ratio. -/
def cycleTicks (cls : Nat) (k : BitVec 3) : Nat :=
  match step { State.reset.putSlice 0 { State.reset.slice 0 with clkrat := k, stages := [(cls, 0)] } with latch := some { slice := 0, todo := [] } } with
  | .next t => (t.slice 0).tick
  | _ => 0
/-- The lengths that 01 R30 tabulates, at K = 0, 3 and 7. -/
theorem test_cycle_lengths :
    (List.range 4).map (fun c => [cycleTicks c 0, cycleTicks c 3, cycleTicks c 7]) = [[7, 10, 14], [10, 14, 19], [14, 20, 27], [20, 28, 38]] := by decide +kernel

end Sys2Proof.Tests
end

section
/-! SUPPORT. What writing a span of bytes at once does to a map in canonical form. -/

namespace Sys2Proof.Machine

open Sys2Proof

namespace SMap

variable {α : Type} [DecidableEq α]

/-- A part of a map replaced: what lies below a place, new entries from it to a second place, and what lies from there on, is canonical. -/
theorem canon_replace (d : α) (m mid : SMap α) (a b : Nat) (hab : a ≤ b) (hm : m.canon d = true) (hmid : mid.canon d = true)
    (hin : ∀ c ∈ mid, a ≤ c.1 ∧ c.1 < b) :
    SMap.canon d (m.filter (fun c => c.1 < a) ++ mid ++ m.filter (fun c => b ≤ c.1)) = true := by
  rw [canon_iff] at hm hmid ⊢
  constructor
  · refine sorted_append _ _ (sorted_append _ _ (sorted_filter _ m hm.1) hmid.1 ?_) (sorted_filter _ m hm.1) ?_
    · intro x hx y hy
      have := (List.mem_filter.1 hx).2
      have := hin y hy
      grind
    · intro x hx y hy
      have := (List.mem_filter.1 hy).2
      rcases List.mem_append.1 hx with hx | hx
      · have := (List.mem_filter.1 hx).2
        grind
      · have := hin x hx
        grind
  · intro c hc
    grind

/-- Entries listed by rising number, without those of the default. -/
theorem canon_tabulate (d : α) (f : Nat → α) (a n : Nat) :
    SMap.canon d ((List.range n).filterMap (fun i => if f i = d then none else some (a + i, f i))) = true := by
  rw [canon_iff]
  constructor
  · induction n with
    | zero => rfl
    | succ n ih =>
      rw [List.range_succ, List.filterMap_append]
      refine sorted_append _ _ ih ?_ ?_
      · by_cases h : f n = d <;> simp [h, SMap.sorted]
      · intro x hx y hy
        simp at hx hy
        grind
  · intro c hc
    simp at hc
    grind

theorem mem_tabulate (d : α) (f : Nat → α) (a n : Nat) {c : Nat × α}
    (hc : c ∈ (List.range n).filterMap (fun i => if f i = d then none else some (a + i, f i))) : a ≤ c.1 ∧ c.1 < a + n := by
  simp at hc
  grind

end SMap

theorem Mem.wf_splice (m : Mem) (a : Nat) (bs : List Byte) (h : m.wf = true) : (m.splice a bs).wf = true := by
  have hz : bs.zipIdx.filterMap (fun b => if b.1 = Mem.blank then none else some (a + b.2, b.1))
      = (List.range bs.length).filterMap (fun i => if bs.getD i 0 = Mem.blank then none else some (a + i, bs.getD i 0)) := by
    have : bs.zipIdx = (List.range bs.length).map (fun i => (bs.getD i 0, i)) := 
      List.ext_getElem (by simp) (by simp +contextual)
    rw [this, List.filterMap_map]; rfl
  unfold Mem.splice
  rw [hz]
  exact SMap.canon_replace _ _ _ _ _ (Nat.le_add_right ..) h (SMap.canon_tabulate ..) (fun _ hc => SMap.mem_tabulate _ _ _ _ hc)

theorem Mem.wf_foldl_setByte (l : List Nat) (a : Nat → Nat) (x : Nat → Byte) (m : Mem) (h : m.wf = true) :
    (l.foldl (fun (m : Mem) i => m.setByte (a i) (x i)) m).wf = true := by
  induction l generalizing m with
  | nil => exact h
  | cons i l ih => exact ih _ (Mem.wf_setByte _ _ _ h)

end Sys2Proof.Machine
end

section
/-! SUPPORT. The three memories of a state, and the operations that leave every byte of them: a `mems_` lemma for each operation over
the state and a `keeps_` lemma for each instruction and event, in the order of the model's files. -/

namespace Sys2Proof.Machine

open Sys2Proof

/-- The three memories that hold bytes: DRAM, the scratchpads and the B-stores. -/
structure Mems where
  dram : Mem
  sram : Mem
  bst : Mem

/-- The memories of a state. -/
def State.mems : State → Mems
  | { dram, sram, bst, .. } => { dram, sram, bst }

/-- The memories of a state given by its fields: what a record update of any other field reduces to. -/
@[simp] theorem State.mems_mk : type_of% State.mems.eq_1 := State.mems.eq_1

@[simp] theorem State.mems_eta (s : State) : Mems.mk s.dram s.sram s.bst = s.mems := by
  cases s
  rfl

@[simp] theorem State.mems_ite (c : Prop) [Decidable c] (a b : State) : (if c then a else b).mems = if c then a.mems else b.mems :=
  apply_ite ..

@[simp] theorem State.mems_ite_snd {α : Type} (c : Prop) [Decidable c] (a b : α × State) :
    (if c then a else b).2.mems = if c then a.2.mems else b.2.mems :=
  apply_ite (fun p : α × State => p.2.mems) ..

theorem State.mems_of_eq {α : Type} {p : α × State} {a : α} {t : State} (h : p = (a, t)) : t.mems = p.2.mems := by rw [h]

theorem State.mems_of_eq_fst {α : Type} {p : State × α} {a : α} {t : State} (h : p = (t, a)) : t.mems = p.1.mems := by rw [h]

/-! #### Loops whose every turn leaves the bytes -/

@[simp] theorem State.mems_foldl {α : Type} (f : State → α → State) (l : List α) (s : State) (h : ∀ s x, (f s x).mems = s.mems) :
    (l.foldl f s).mems = s.mems :=
  List.foldlRecOn l f (motive := fun t => t.mems = s.mems) rfl fun t ht x _ => (h t x).trans ht

theorem State.mems_foldl_fst {α β : Type} (f : State × β → α → State × β) (l : List α) (p : State × β)
    (h : ∀ p x, (f p x).1.mems = p.1.mems) : (l.foldl f p).1.mems = p.1.mems :=
  List.foldlRecOn l f (motive := fun q => q.1.mems = p.1.mems) rfl fun q hq x _ => (h q x).trans hq

theorem State.mems_foldl_snd {α β : Type} (f : β × State → α → β × State) (l : List α) (p : β × State)
    (h : ∀ p x, (f p x).2.mems = p.2.mems) : (l.foldl f p).2.mems = p.2.mems :=
  List.foldlRecOn l f (motive := fun q => q.2.mems = p.2.mems) rfl fun q hq x _ => (h q x).trans hq

theorem State.mems_foldl_snd₂ {α β γ : Type} (f : β × γ × State → α → β × γ × State) (l : List α) (p : β × γ × State)
    (h : ∀ p x, (f p x).2.2.mems = p.2.2.mems) : (l.foldl f p).2.2.mems = p.2.2.mems :=
  List.foldlRecOn l f (motive := fun q => q.2.2.mems = p.2.2.mems) rfl fun q hq x _ => (h q x).trans hq

/-! #### Outcomes -/

/-- An outcome that leaves every byte. -/
def Keeps (s : State) : Host.Outcome State Fault Refusal → Prop
  | .next t => t.mems = s.mems
  | _ => True

@[simp] theorem keeps_next (s t : State) : Keeps s (.next t) ↔ t.mems = s.mems := Iff.rfl

theorem Keeps.mems_eq {s t : State} {o : Host.Outcome State Fault Refusal} (h : Keeps s o) (e : o = .next t) : t.mems = s.mems := by
  subst e
  exact h

@[simp] theorem State.mems_after {s : State} {o : Host.Outcome State Fault Refusal} (h : Keeps s o) : (s.after o).mems = s.mems := by
  unfold State.after
  split
  · exact h
  · rfl

theorem keeps_onGroup (s : State) (f : Group → Except Trap Group) : Keeps s (onGroup s f) := by
  unfold onGroup
  split
  · rfl
  · split <;> rfl

/-- An effect beyond the group that leaves every byte, or a trap. -/
def KeepsOk (m : Mems) : Except Trap State → Prop
  | .ok t => t.mems = m
  | .error _ => True

@[simp] theorem keepsOk_ok (m : Mems) (t : State) : KeepsOk m (.ok t) ↔ t.mems = m := Iff.rfl

@[simp] theorem keepsOk_error (m : Mems) (x : Trap) : KeepsOk m (.error x) := trivial

theorem keepsOk_ite {c : Prop} [Decidable c] {m : Mems} {a b : Except Trap State} (ha : KeepsOk m a) (hb : KeepsOk m b) :
    KeepsOk m (if c then a else b) := by
  split
  · exact ha
  · exact hb

theorem keeps_onState {s : State} {f : Group → State → Except Trap State} (h : ∀ g u, u.mems = s.mems → KeepsOk s.mems (f g u)) :
    Keeps s (onState s f) := by
  unfold onState
  split
  · rfl
  next g _ =>
    have hf := h (g.advance s.cur) (s.putGroup s.cur.key (g.advance s.cur)) rfl
    split
    next t ht => rw [ht] at hf; exact hf
    · rfl

/-! ### Machine/Ops -/

@[simp] theorem State.mems_putGroup (s : State) (key : Nat) (g : Group) : (s.putGroup key g).mems = s.mems := by rfl
@[simp] theorem State.mems_putSlice (s : State) (sl : Nat) (x : Slice) : (s.putSlice sl x).mems = s.mems := by rfl
@[simp] theorem State.mems_putCore (s : State) (c : Nat) (x : Core) : (s.putCore c x).mems = s.mems := by rfl
@[simp] theorem State.mems_putDie (s : State) (d : Nat) (x : Die) : (s.putDie d x).mems = s.mems := by rfl
@[simp] theorem State.mems_putBlock (s : State) (b : Nat) (x : Block) : (s.putBlock b x).mems = s.mems := by rfl
@[simp] theorem State.mems_putLaunch (s : State) (i : Nat) (x : Launch) : (s.putLaunch i x).mems = s.mems := by rfl
@[simp] theorem State.mems_addDue (s : State) (w : List Work) : (s.addDue w).mems = s.mems := by rfl

@[simp] theorem State.mems_raiseAt (s : State) (key : Nat) (t : Trap) : (s.raiseAt key t).mems = s.mems := by
  unfold State.raiseAt
  split <;> rfl

@[simp] theorem State.mems_countR (s : State) (d k : Nat) : (s.countR d k).mems = s.mems := by rfl
@[simp] theorem State.mems_pushTrap (s : State) (key id : Nat) (t : Trap) (tick : Nat) : (s.pushTrap key id t tick).mems = s.mems := by
  simp [State.pushTrap]

@[simp] theorem State.mems_becomeFaulted (s : State) (key : Nat) : (s.becomeFaulted key).mems = s.mems := by
  simp only [State.becomeFaulted]
  (repeat' split) <;> simp

@[simp] theorem State.mems_strike (s : State) (key blk id : Nat) (t : Trap) : (s.strike key blk id t).mems = s.mems := by
  unfold State.strike
  split <;> simp

@[simp] theorem State.mems_resumeAt (s : State) (key : Nat) (pc : DWord) : (s.resumeAt key pc).mems = s.mems := by
  simp only [State.resumeAt]
  (repeat' split) <;> simp

@[simp] theorem State.mems_tickFree (s : State) : s.tickFree.mems = s.mems := by rfl
@[simp] theorem State.mems_setCur (s : State) (g : Group) : (s.setCur g).mems = s.mems := by rfl

/-! ### Machine/Memory -/

@[simp] theorem State.mems_setFull (s : State) (loc : Nat) (full : Bool) : (s.setFull loc full).mems = s.mems := by rfl
@[simp] theorem State.mems_setRel (s : State) (loc n : Nat) (r : Option RelRec) : (s.setRel loc n r).mems = s.mems := by rfl
@[simp] theorem State.mems_noteWrote (s : State) (key : Nat) (l : List (Nat × Nat)) : (s.noteWrote key l).mems = s.mems := by
  simp [State.noteWrote]
@[simp] theorem State.mems_dirty (s : State) (loc : Nat) : (s.dirty loc).mems = s.mems := by
  simp [State.dirty]

@[simp] theorem State.mems_beforeWrite (s : State) (launch : Nat) (va : DWord) (loc : Nat) : (s.beforeWrite launch va loc).mems = s.mems := by
  simp only [State.beforeWrite]
  (repeat' split) <;> simp

@[simp] theorem State.mems_notReplayable (s : State) (launch : Nat) : (s.notReplayable launch).mems = s.mems := by rfl
@[simp] theorem State.mems_countD (s : State) (d k n : Nat) : (s.countD d k n).mems = s.mems := by rfl

@[simp] theorem State.mems_lineServed (s : State) (reqDie loc : Nat) : (s.lineServed reqDie loc).mems = s.mems := by
  simp only [State.lineServed]
  (repeat' split) <;> simp

@[simp] theorem State.mems_linesServed (s : State) (reqDie : Nat) (spans : List (Nat × Nat)) : (s.linesServed reqDie spans).mems = s.mems := by
  simp [State.linesServed]
@[simp] theorem State.mems_scopeMiss (s : State) (key : Nat) : (s.scopeMiss key).mems = s.mems := by rfl

@[simp] theorem State.mems_acquireAt (s : State) (key blk lane scope loc n : Nat) (promoted : Nat → Option Nat) :
    (s.acquireAt key blk lane scope loc n promoted).mems = s.mems := by
  simp [State.acquireAt]

@[simp] theorem State.mems_seenAt (s : State) (key lane loc n : Nat) : (s.seenAt key lane loc n).mems = s.mems := by
  unfold State.seenAt
  split <;> rfl

/-! ### Machine/Translate -/

@[simp] theorem State.mems_countWalk (s : State) (die : Nat) (root : DWord) (va : Nat) : (s.countWalk die root va).mems = s.mems := by
  simp [State.countWalk]

@[simp] theorem State.mems_translate (s : State) (core : Nat) (root : DWord) (va : Nat) (k : AccKind) :
    (s.translate core root va k).2.mems = s.mems := by
  simp only [State.translate]
  split
  · rfl
  · simp
  split
  · simp
  · simp
  · split <;> simp

/-! ### Machine/Fetch -/

@[simp] theorem keeps_execInstructionLineFill (core : Nat) (root va : DWord) (soft : Bool) (s : State) :
    Keeps s (execInstructionLineFill core root va soft s) := by
  simp only [execInstructionLineFill, keeps_next]
  split
  next h => simp [State.mems_of_eq h]
  next h => simp [State.mems_of_eq h]

@[simp] theorem keeps_execTableWalk (core : Nat) (root va : DWord) (k : AccKind) (s : State) : Keeps s (execTableWalk core root va k s) := by
  simp [execTableWalk]

/-! ### Machine/Operands -/

@[simp] theorem keeps_execAlu (f : Form) (minor : Nat) (o : OpA) (op : Nat → Word → Word → Word → Word) (s : State) :
    Keeps s (execAlu f minor o op s) :=
  keeps_onGroup ..

/-! ### Machine/Integer -/

@[simp] theorem keeps_execExact (f : Form) (o : OpA) (op : Int → Int → Int → Int) (s : State) : Keeps s (execExact f o op s) := by
  simp [execExact]
@[simp] theorem keeps_execWmul (o : OpA) (s : State) : Keeps s (execWmul o s) :=
  keeps_onGroup ..
@[simp] theorem keeps_execAdd64 (o : OpA) (s : State) : Keeps s (execAdd64 o s) :=
  keeps_onGroup ..
@[simp] theorem keeps_execDivstep (o : OpA) (s : State) : Keeps s (execDivstep o s) :=
  keeps_onGroup ..
@[simp] theorem keeps_execDivfix (o : OpA) (s : State) : Keeps s (execDivfix o s) :=
  keeps_onGroup ..
@[simp] theorem keeps_execCmp (f : Form) (cc : Cmp) (o : OpA) (s : State) : Keeps s (execCmp f cc o s) := by
  simp [execCmp]
@[simp] theorem keeps_execMovxSv (o : OpA) (s : State) : Keeps s (execMovxSv o s) :=
  keeps_onGroup ..
@[simp] theorem keeps_execMovxSw (o : OpA) (s : State) : Keeps s (execMovxSw o s) :=
  keeps_onGroup ..

@[simp] theorem keeps_execMovxWs (o : OpA) (s : State) : Keeps s (execMovxWs o s) := by
  refine keeps_onState fun g u hu => ?_
  dsimp only
  (repeat' split) <;> simp [hu]

@[simp] theorem keeps_execMovxMs (o : OpA) (s : State) : Keeps s (execMovxMs o s) :=
  keeps_onGroup ..
@[simp] theorem keeps_execMovxSm (o : OpA) (s : State) : Keeps s (execMovxSm o s) :=
  keeps_onGroup ..
@[simp] theorem keeps_execShfl (f : Form) (x : Shuffle) (o : OpA) (s : State) : Keeps s (execShfl f x o s) :=
  keeps_onGroup ..
@[simp] theorem keeps_execBr (o : OpX) (psn : Group → Option Nat) (r : Group → Brec) (s : State) : Keeps s (execBr o psn r s) :=
  keeps_onGroup ..
@[simp] theorem keeps_execBrget (o : OpX) (get : Brec → List Word) (s : State) : Keeps s (execBrget o get s) :=
  keeps_onGroup ..

/-! ### Machine/Access -/

@[simp] theorem State.mems_accOf (s : State) (core : Nat) (b : Block) (k : AccKind) (n l : Nat) (ga : Option DWord) :
    (s.accOf core b k n l ga).2.mems = s.mems := by
  cases ga with
  | none => rfl
  | some ga =>
    simp only [State.accOf]
    split
    · split
      next h => simp [State.mems_of_eq h]
      next h => simp [State.mems_of_eq h]
    · split <;> rfl

@[simp] theorem State.mems_formAccs (s : State) (core : Nat) (b : Block) (r : Brec) (oobf : Bool) (k : AccKind) (fe : Bool) (n : Nat)
    (idxs : List (Nat × Nat)) : (s.formAccs core b r oobf k fe n idxs).2.2.mems = s.mems := by
  simp only [State.formAccs]
  split
  · rfl
  · refine State.mems_foldl_snd _ _ _ fun p x => ?_
    split
    · simp
    · rfl

/-! ### Machine/FloatOps -/

@[simp] theorem keeps_execRounded (f : Form) (minor : Nat) (o : OpA) (op : Rnd → Nat → Word → Word → Word → Word) (s : State) :
    Keeps s (execRounded f minor o op s) :=
  keeps_onGroup ..

@[simp] theorem keeps_execFp (f : Form) (o : OpA) (op : RMode → FV → FV → FV → FV) (s : State) : Keeps s (execFp f o op s) := by
  simp [execFp]
@[simp] theorem keeps_execFscale (o : OpA) (s : State) : Keeps s (execFscale o s) := by
  simp [execFscale]
@[simp] theorem keeps_execFrnd (o : OpA) (s : State) : Keeps s (execFrnd o s) := by
  simp [execFrnd]
@[simp] theorem keeps_execFbits (f : Form) (o : OpA) (op : FFmt → Bool → Nat → Nat → Nat) (s : State) : Keeps s (execFbits f o op s) := by
  simp [execFbits]
@[simp] theorem keeps_execTwo (f : Form) (o : OpA) (op : RMode → FV → FV → FV → FV) (s : State) : Keeps s (execTwo f o op s) := by
  simp [execTwo]
@[simp] theorem keeps_execFdot2 (o : OpA) (s : State) : Keeps s (execFdot2 o s) := by
  simp [execFdot2]
@[simp] theorem keeps_execCvt (src : TyCode) (o : OpA) (s : State) : Keeps s (execCvt src o s) := by
  simp [execCvt]
@[simp] theorem keeps_execReduce (f : Form) (k : Comb) (scan : Bool) (o : OpA) (s : State) : Keeps s (execReduce f k scan o s) :=
  keeps_onGroup ..

/-! ### Machine/LoadStore -/

@[simp] theorem State.mems_pushTwin (s : State) (t : Nat) (lead : Bool) (e : TwinEntry) : (s.pushTwin t lead e).mems = s.mems := by rfl
@[simp] theorem State.mems_pushReq (s : State) (t : Nat) (lead : Bool) (r : Req) (result : Bool) (sig : List Nat) :
    (s.pushReq t lead r result sig).mems = s.mems := by rfl

@[simp] theorem State.mems_fromLog (s : State) (core t : Nat) (lead : Bool) (k : Nat) (y : TwinLog) (r : Req) :
    (s.fromLog core t lead k y r).mems = s.mems := by
  unfold State.fromLog
  split <;> rfl

@[simp] theorem State.mems_addTwin (s : State) (core : Nat) (t : Nat) (lead result : Bool) (r : Req) :
    (s.addTwin core t lead result r).mems = s.mems := by
  simp only [State.addTwin]
  (repeat' split) <;> simp

@[simp] theorem State.mems_addLdwe (s : State) (core : Nat) (t : Nat) (lead : Bool) (r : Req) : (s.addLdwe core t lead r).mems = s.mems := by
  simp only [State.addLdwe]
  (repeat' split) <;> simp

@[simp] theorem State.mems_addReq (s : State) (core : Nat) (r : Req) : (s.addReq core r).mems = s.mems := by
  simp only [State.addReq]
  (repeat' split) <;> simp

@[simp] theorem keeps_execRead (f : Form) (o : OpM) (kind : MKind) (acq fe once : Bool) (s : State) : Keeps s (execRead f o kind acq fe once s) := by
  refine keeps_onState fun g u hu => ?_
  dsimp only
  (repeat' split) <;> simp [hu]

@[simp] theorem keeps_execLea (o : OpM) (s : State) : Keeps s (execLea o s) :=
  keeps_onGroup ..

@[simp] theorem State.mems_fmtAcc (s : State) (core : Nat) (b : Block) (base : DWord) (code l idx : Nat) :
    (s.fmtAcc core b base code l idx).2.mems = s.mems := by
  unfold State.fmtAcc
  extract_lets root
  split
  extract_lets first n last bad second n2
  split
  · rfl
  split
  next h => simp [State.mems_of_eq h]
  next h =>
    split
    · simp [State.mems_of_eq h]
    extract_lets acc
    clear_value second
    split
    · simp [State.mems_of_eq h]
    split
    next h2 => simp [State.mems_of_eq h2, State.mems_of_eq h]
    next h2 => split <;> simp [State.mems_of_eq h2, State.mems_of_eq h]

@[simp] theorem keeps_execLdfmt (o : OpM) (s : State) : Keeps s (execLdfmt o s) := by
  refine keeps_onState fun g u hu => ?_
  split
  · exact hu
  extract_lets r all at_ inb bads
  split
  · trivial
  split
  next hd t h =>
    have ht : t.mems = s.mems := by
      refine (State.mems_of_eq h).trans ?_
      split
      · exact hu
      split
      next h => simp [State.mems_of_eq h, hu]
      next h => simp [State.mems_of_eq h, hu]
    split
    next bads accs v h =>
      have hv : v.mems = s.mems := by
        refine (State.mems_of_eq (congrArg Prod.snd h)).trans ?_
        split
        · exact ht
        · split
          · exact ht
          · refine (State.mems_foldl_snd₂ _ _ _ fun p x => ?_).trans ht
            split
            next h => simp [State.mems_of_eq h]
            next h => simp [State.mems_of_eq h]
        · exact ht
      split
      · trivial
      split
      · trivial
      · exact keepsOk_ite (by simp [hv]) (by simp [hv])

@[simp] theorem keeps_execWrite (f : Form) (o : OpM) (kind : MKind) (own : Option Nat) (atomic once : Bool) (s : State) :
    Keeps s (execWrite f o kind own atomic once s) := by
  refine keeps_onState fun g u hu => ?_
  dsimp only
  (repeat' split) <;> simp [hu]

@[simp] theorem State.mems_addAtomics (s : State) (core : Nat) (r : Req) (accs : List Acc) : (s.addAtomics core r accs).mems = s.mems := by
  simp [State.addAtomics]

@[simp] theorem keeps_execRmw (f : Form) (o : OpM) (kind : MKind) (dst : Bool) (arg cmp : Sel) (acqrel fe stage : Bool) (s : State) :
    Keeps s (execRmw f o kind dst arg cmp acqrel fe stage s) := by
  refine keeps_onState fun g u hu => ?_
  split
  · exact hu
  extract_lets n all regs
  split
  · trivial
  split
  next t h =>
    have ht : t.mems = s.mems := (State.mems_of_eq (congrArg Prod.snd h)).trans ((State.mems_formAccs ..).trans hu)
    split
    · trivial
    split
    · trivial
    split
    · trivial
    split
    · trivial
    extract_lets todo skip
    split
    extract_lets r0 r t1 t2
    have h1 : t1.mems = s.mems := by unfold t1; split <;> simp [ht]
    have h2 : t2.mems = s.mems := by unfold t2; split <;> simp [h1]
    clear_value t2
    split
    · exact h2
    · split <;> simp [h2]

@[simp] theorem keeps_execMulti (f : Form) (o : OpM) (red : Option AOp) (s : State) : Keeps s (execMulti f o red s) := by
  refine keeps_onState fun g u hu => ?_
  split
  · exact hu
  extract_lets n k all
  split
  · trivial
  next dests p accs l _ _ =>
    have hp : p.2.2.mems = s.mems := by
      refine (State.mems_foldl_snd₂ _ _ _ fun p d => ?_).trans hu
      simp
    clear_value p
    split
    · trivial
    split
    · trivial
    split
    · trivial
    refine keepsOk_ite trivial (keepsOk_ite hp ?_)
    cases red <;> simp [hp]

@[simp] theorem keeps_execFence (o : OpM) (acq rel full : Bool) (s : State) : Keeps s (execFence o acq rel full s) := by
  refine keeps_onState fun g u hu => ?_
  dsimp only
  (repeat' split) <;> simp [hu]

@[simp] theorem keeps_execLdwE (o : OpM) (s : State) : Keeps s (execLdwE o s) := by
  unfold execLdwE
  split
  · exact keeps_onGroup ..
  split
  · rfl
  extract_lets v
  split
  · exact keeps_onGroup ..
  · have hr := keeps_execRead Forms.ldwE (if o.aux = .imm then { o with imm := 0 } else o) .ldwe true true false s
    split
    next t h =>
      have ht : t.mems = s.mems := hr.mems_eq h
      simp only [keeps_next]
      split
      · split <;> simp [ht]
      · exact ht
    · exact hr

/-! ### Machine/MemEvents -/

@[simp] theorem State.mems_putReq (s : State) (core : Nat) (r : Req) : (s.putReq core r).mems = s.mems := by rfl
@[simp] theorem State.mems_delReq (s : State) (core id : Nat) : (s.delReq core id).mems = s.mems := by rfl
@[simp] theorem State.mems_fillWord (s : State) (loc : Nat) : (s.fillWord loc).mems = s.mems := by rfl
@[simp] theorem State.mems_observe (s : State) (core : Nat) (r : Req) (a : Acc) : (s.observe core r a).mems = s.mems := by
  simp [State.observe]

@[simp] theorem State.mems_readAcc (s : State) (core : Nat) (r : Req) (a : Acc) : (s.readAcc core r a).2.mems = s.mems := by
  simp only [State.readAcc]
  (repeat' split) <;> simp

@[simp] theorem State.mems_countBad (s : State) (before after : List Acc) : (s.countBad before after).mems = s.mems := by
  simp [State.countBad]

theorem State.mems_eachAcc (f : State → Acc → Acc × State) (hf : ∀ s a, (f s a).2.mems = s.mems) (s : State) (l : List Acc) :
    (s.eachAcc f l).2.mems = s.mems := by
  induction l generalizing s with
  | nil => rfl
  | cons a l ih => exact (ih _).trans (hf s a)

@[simp] theorem State.mems_countLines (s : State) (core : Nat) (accs : List Acc) : (s.countLines core accs).mems = s.mems := by
  simp [State.countLines]
@[simp] theorem State.mems_sendEntry (s : State) (core tgt : Nat) (e : InEntry) : (s.sendEntry core tgt e).mems = s.mems := by rfl

@[simp] theorem State.mems_testWord (s : State) (core : Nat) (r : Req) (a : Acc) : (s.testWord core r a).2.mems = s.mems := by
  simp only [State.testWord]
  (repeat' split) <;> simp

@[simp] theorem State.mems_noLdwe (s : State) (t : Nat) (lead : Bool) (id : Nat) : (s.noLdwe t lead id).mems = s.mems := by rfl
@[simp] theorem State.mems_foundEmpty (s : State) (t : Nat) (lead : Bool) (id : Nat) (sig : List Nat) :
    (s.foundEmpty t lead id sig).mems = s.mems := by rfl

@[simp] theorem State.mems_markErr (s : State) (r : Req) (e : Ecc) : (s.markErr r e).mems = s.mems := by
  unfold State.markErr
  split <;> rfl

@[simp] theorem State.mems_noteBanks (s : State) (key : Nat) (regs : List Nat) : (s.noteBanks key regs).mems = s.mems := by
  simp [State.noteBanks]
@[simp] theorem State.mems_arrive (s : State) (key : Nat) (regs : List Nat) : (s.arrive key regs).mems = s.mems := by
  simp [State.arrive]

@[simp] theorem State.mems_onAsker (s : State) (r : Req) (f : Group → Group) : (s.onAsker r f).mems = s.mems := by
  simp only [State.onAsker]
  (repeat' split) <;> simp

@[simp] theorem State.mems_replyOne (s : State) (core : Nat) (r : Req) : (s.replyOne core r).mems = s.mems := by
  simp [State.replyOne]

@[simp] theorem State.mems_replyWith (s : State) (core : Nat) (l : List LaneRes) (id : Nat) : (s.replyWith core l id).mems = s.mems := by
  unfold State.replyWith
  split <;> simp

@[simp] theorem State.mems_endFlight (s : State) (t : Nat) (x : Twin) (f : Flight) : (s.endFlight t x f).mems = s.mems := by
  simp [State.endFlight]

@[simp] theorem State.mems_replyAll (s : State) (core : Nat) (r : Req) : (s.replyAll core r).mems = s.mems := by
  simp only [State.replyAll]
  (repeat' split) <;> simp

@[simp] theorem keeps_execLoadReply (core id : Nat) (s : State) : Keeps s (execLoadReply core id s) := by
  unfold execLoadReply
  split <;> simp

@[simp] theorem keeps_execFullEmptyAnswer (core id : Nat) (s : State) : Keeps s (execFullEmptyAnswer core id s) := by
  simp only [execFullEmptyAnswer, keeps_next]
  split
  · rfl
  split
  · simp
  · simp
  · split <;> simp
  · split <;> simp
  · rfl

@[simp] theorem keeps_execLdwEWake (core id : Nat) (s : State) : Keeps s (execLdwEWake core id s) := by
  simp only [execLdwEWake, keeps_next]
  split
  · rfl
  split
  · rfl
  split
  · rfl
  split
  · simp
  simp only [State.mems_addDue, State.mems_putReq, State.mems_countBad]
  refine State.mems_eachAcc _ (fun s a => ?_) _ _
  split <;> simp

@[simp] theorem keeps_execCreditAcknowledge (src tgt : Nat) (s : State) : Keeps s (execCreditAcknowledge src tgt s) := by
  simp [execCreditAcknowledge]

@[simp] theorem keeps_execCreditReturn (src tgt : Nat) (s : State) : Keeps s (execCreditReturn src tgt s) := by
  simp only [execCreditReturn]
  (repeat' split) <;> simp

@[simp] theorem State.mems_promoteAll (s : State) (core scope : Nat) : (s.promoteAll core scope).mems = s.mems := by rfl

@[simp] theorem keeps_execPromotionDemand (id : Nat) (s : State) : Keeps s (execPromotionDemand id s) := by
  simp only [execPromotionDemand]
  (repeat' split) <;> simp

@[simp] theorem keeps_execPromotionAnswer (id : Nat) (s : State) : Keeps s (execPromotionAnswer id s) := by
  simp only [execPromotionAnswer]
  (repeat' split) <;> simp

@[simp] theorem State.mems_passFence (s : State) (core : Nat) (r : Req) (a : Acc) : (s.passFence core r a).mems = s.mems := by
  simp only [State.passFence]
  (repeat' split) <;> simp

@[simp] theorem State.mems_keepResult (s : State) (a : Acc) (x : AtomRes) : (s.keepResult a x).mems = s.mems := by
  simp [State.keepResult]

@[simp] theorem keeps_execAtomicReplay (core id : Nat) (s : State) : Keeps s (execAtomicReplay core id s) := by
  unfold execAtomicReplay
  split <;> simp

@[simp] theorem keeps_execStreamPrefetch (die line : Nat) (s : State) : Keeps s (execStreamPrefetch die line s) := by
  simp only [execStreamPrefetch]
  (repeat' split) <;> simp

/-! ### Machine/Batons -/

@[simp] theorem State.mems_setBaton (s : State) (sl n : Nat) (b : BatonSt) : (s.setBaton sl n b).mems = s.mems := by rfl

@[simp] theorem State.mems_takeBaton (s : State) (sl slot n : Nat) : (s.takeBaton sl slot n).mems = s.mems := by
  unfold State.takeBaton
  split <;> rfl

@[simp] theorem State.mems_dropBaton (s : State) (key : Nat) : (s.dropBaton key).mems = s.mems := by
  simp only [State.dropBaton]
  (repeat' split) <;> simp

@[simp] theorem State.mems_moveBaton (s : State) (key slot : Nat) : (s.moveBaton key slot).mems = s.mems := by
  simp only [State.moveBaton]
  (repeat' split) <;> simp

@[simp] theorem State.mems_handOn (s : State) (key slot : Nat) : (s.handOn key slot).mems = s.mems := by
  unfold State.handOn
  split <;> simp

@[simp] theorem State.mems_giveOrphans (s : State) (sl : Nat) : (s.giveOrphans sl).mems = s.mems := by
  refine (State.mems_foldl _ _ _ fun s n => ?_).trans (State.mems_putSlice s sl _)
  split
  · split <;> simp
  · rfl

@[simp] theorem State.mems_reclaim (s : State) (sl : Nat) : (s.reclaim sl).mems = s.mems := by
  refine State.mems_foldl _ _ _ fun s n => ?_
  split
  · split <;> simp
  · rfl

@[simp] theorem State.mems_putBar (s : State) (lvl : BarLvl) (key blk n : Nat) (x : Bar) : (s.putBar lvl key blk n x).mems = s.mems := by
  simp only [State.putBar]
  (repeat' split) <;> simp

@[simp] theorem State.mems_settleBar (s : State) (lvl : BarLvl) (key blk n : Nat) : (s.settleBar lvl key blk n).mems = s.mems := by
  simp [State.settleBar]
@[simp] theorem State.mems_settleBars (s : State) (key blk : Nat) : (s.settleBars key blk).mems = s.mems :=
  State.mems_foldl _ _ _ fun _ lvl => State.mems_foldl _ _ _ fun s n => State.mems_settleBar s lvl key blk n

@[simp] theorem keeps_execBarrierRelease (blk : Nat) (lvl : BarLvl) (n : Nat) (s : State) : Keeps s (execBarrierRelease blk lvl n s) := by
  refine State.mems_foldl _ _ _ fun s x => ?_
  split
  · simp
  · rfl

@[simp] theorem State.mems_unlend (s : State) (j : Job) : (s.unlend j).mems = s.mems := by
  unfold State.unlend
  split <;> rfl

@[simp] theorem State.mems_endJobs (s : State) (core blk : Nat) : (s.endJobs core blk).mems = s.mems := by
  simp only [State.endJobs, State.mems_ite, State.mems_addDue, ite_self]
  refine (State.mems_foldl _ _ _ fun s j => ?_).trans (State.mems_putCore s core _)
  split <;> simp

@[simp] theorem State.mems_freeArea (s : State) (b : Block) : (s.freeArea b).mems = s.mems := by
  unfold State.freeArea
  split <;> rfl

@[simp] theorem State.mems_blockEnded (s : State) (blk : Nat) : (s.blockEnded blk).mems = s.mems := by
  unfold State.blockEnded
  split
  · rfl
  · simp

@[simp] theorem State.mems_reapOne (s : State) (key : Nat) : (s.reapOne key).mems = s.mems := by
  unfold State.reapOne
  split <;> simp

@[simp] theorem State.mems_reap (s : State) (key : Nat) : (s.reap key).mems = s.mems := by
  unfold State.reap
  split <;> simp

@[simp] theorem State.mems_exitLanes (s : State) (key : Nat) (lanes : BitVec 32) : (s.exitLanes key lanes).mems = s.mems := by
  unfold State.exitLanes
  split
  · rfl
  · simp

/-! ### Machine/Control -/

@[simp] theorem keeps_execNop (s : State) : Keeps s (execNop s) :=
  keeps_onGroup ..
@[simp] theorem keeps_execBra (o : OpC) (s : State) : Keeps s (execBra o s) :=
  keeps_onGroup ..
@[simp] theorem keeps_execBrx (o : OpC) (s : State) : Keeps s (execBrx o s) :=
  keeps_onGroup ..
@[simp] theorem keeps_execBrv (o : OpC) (take : Nat → Nat → Bool) (s : State) : Keeps s (execBrv o take s) :=
  keeps_onGroup ..

@[simp] theorem keeps_execCallTo (psn : Group → Option (List Nat × Nat)) (pc : Group → Nat → DWord) (s : State) :
    Keeps s (execCallTo psn pc s) := by
  refine keeps_onState fun g u hu => ?_
  dsimp only
  (repeat' split) <;> simp [hu]

@[simp] theorem keeps_execRet (s : State) : Keeps s (execRet s) := by
  unfold execRet
  split
  · rfl
  extract_lets g e trap none_
  split
  · rfl
  split
  · rfl
  split
  next h =>
    have ht := (State.mems_of_eq (congrArg Prod.snd h)).trans (State.mems_formAccs ..)
    split
    · rfl
    · rfl
    extract_lets r0 r c t1 cr t' p p'
    have ht' : t'.mems = s.mems := by unfold t'; split <;> simp [t1, ht]
    have hp : p'.2.mems = s.mems := by
      simp only [p', State.mems_countBad]
      exact (State.mems_eachAcc _ (fun t a => State.mems_readAcc t s.cur.core r a) _ _).trans ht'
    split
    · exact hp
    · split <;> exact hp

@[simp] theorem keeps_execMask (o : OpA) (op : Group → Word) (s : State) : Keeps s (execMask o op s) :=
  keeps_onGroup ..
@[simp] theorem keeps_execMballot (o : OpA) (s : State) : Keeps s (execMballot o s) :=
  keeps_onGroup ..
@[simp] theorem keeps_execMtest (o : OpA) (s : State) : Keeps s (execMtest o s) :=
  keeps_onGroup ..
@[simp] theorem keeps_execMpop (o : OpA) (s : State) : Keeps s (execMpop o s) :=
  keeps_onGroup ..
@[simp] theorem keeps_execVote (o : OpA) (op : Word → Word) (s : State) : Keeps s (execVote o op s) :=
  keeps_onGroup ..
@[simp] theorem keeps_execJoin (o : OpC) (s : State) : Keeps s (execJoin o s) :=
  keeps_onGroup ..

@[simp] theorem keeps_execJoinTest (key : Nat) (s : State) : Keeps s (execJoinTest key s) := by
  unfold execJoinTest
  split <;> simp

@[simp] theorem keeps_execPassTo (o : OpC) (width : Nat) (pick : Group → State → Nat → Nat × Nat) (s : State) :
    Keeps s (execPassTo o width pick s) := by
  refine keeps_onState fun g u hu => ?_
  dsimp only
  (repeat' split) <;> simp [hu]

@[simp] theorem State.mems_yieldBaton (s : State) (key : Nat) : (s.yieldBaton key).mems = s.mems := by
  unfold State.yieldBaton
  split <;> simp

@[simp] theorem keeps_execPark (s : State) : Keeps s (execPark s) := by
  refine keeps_onState fun g u hu => ?_
  (repeat' split) <;> simp [hu]

@[simp] theorem keeps_execExit (s : State) : Keeps s (execExit s) :=
  keeps_onState fun g u hu => by simp [hu]

@[simp] theorem State.keepsOk_barArrive (s t : State) (g : Group) (b : Block) (lvl : BarLvl) (n : Nat) :
    KeepsOk t.mems (s.barArrive t g b lvl n) := by
  simp only [State.barArrive]
  split <;> simp

@[simp] theorem State.mems_barWait (s t : State) (b : Block) (lvl : BarLvl) (n : Nat) (succ : Option Val) :
    (s.barWait t b lvl n succ).mems = t.mems := by
  unfold State.barWait
  split
  · rfl
  · simp

@[simp] theorem keeps_execBar (lvl : BarLvl) (o : OpC) (arrive wait : Bool) (s : State) : Keeps s (execBar lvl o arrive wait s) := by
  refine keeps_onState fun g u hu => ?_
  split
  · simp [hu]
  split
  · simp [hu]
  · dsimp only
    split
    · simp
    · have h : KeepsOk s.mems (if arrive then s.barArrive u g ‹_› lvl (barNum o) else .ok u) := by
        split <;> simp [← hu]
      split
      · simp
      next h2 =>
        rw [h2] at h
        split <;> simp_all

@[simp] theorem keeps_execLdf (o : OpM) (s : State) : Keeps s (execLdf o s) := by
  refine keeps_onState fun g u hu => ?_
  split
  · exact hu
  extract_lets all psn
  split
  next t h =>
    have ht : t.mems = s.mems := (State.mems_of_eq (congrArg Prod.snd h)).trans ((State.mems_formAccs ..).trans hu)
    split
    · trivial
    · trivial
    extract_lets ask r0 r c t1 t2 asleep rest es addr trap g1 g2 r1 v p
    clear_value ask
    have h2 : t2.mems = s.mems := by unfold t2; split <;> simp [t1, ht]
    have h3 : ∀ x, KeepsOk s.mems (trap x) := fun x => by simp [trap]
    have hv : v.mems = s.mems := by simp [v, h2]
    have hp : p.2.mems = s.mems := (State.mems_eachAcc _ (fun t a => State.mems_readAcc t s.cur.core r1 a) v rest).trans hv
    clear_value t2 trap p
    refine keepsOk_ite (h3 _) (keepsOk_ite (h3 _) ?_)
    split
    · exact h3 _
    · exact keepsOk_ite (by simp [h2]) (by simp [hp])

@[simp] theorem keeps_execTretTo (wait : Bool) (s : State) : Keeps s (execTretTo wait s) := by
  refine keeps_onState fun g u hu => ?_
  dsimp only
  (repeat' split) <;> simp [hu]

@[simp] theorem keeps_execHintIdleWake (sl : Nat) (s : State) : Keeps s (execHintIdleWake sl s) := by
  simp [execHintIdleWake]

/-! ### Machine/Nodes -/

@[simp] theorem State.mems_onGraph (s : State) (gr : Nat) (f : Graph → Graph) : (s.onGraph gr f).mems = s.mems := by rfl

/-! ### Machine/System -/

@[simp] theorem State.mems_msi (s : State) (file id : Nat) : (s.msi file id).mems = s.mems := by
  simp [State.msi]
@[simp] theorem State.mems_message (s : State) (route : Word) : (s.message route).mems = s.mems := by
  simp [State.message]
@[simp] theorem State.mems_dieEvent (s : State) (d src : Nat) : (s.dieEvent d src).mems = s.mems := by
  simp [State.dieEvent]

@[simp] theorem keeps_execEmit (o : OpX) (s : State) : Keeps s (execEmit o s) := by
  refine keeps_onState fun g u hu => ?_
  dsimp only
  (repeat' split) <;> simp [hu]

@[simp] theorem keeps_execTake (o : OpX) (s : State) : Keeps s (execTake o s) := by
  refine keeps_onState fun g u hu => ?_
  (repeat' split) <;> simp [hu]

@[simp] theorem keeps_execDone (o : OpX) (s : State) : Keeps s (execDone o s) := by
  refine keeps_onState fun g u hu => ?_
  dsimp only
  (repeat' split) <;> simp [hu]

@[simp] theorem State.mems_callWaits (s : State) (key : Nat) (g : Group) (c : Call) (regs : List Nat) : (s.callWaits key g c regs).mems = s.mems := by
  simp [State.callWaits]
@[simp] theorem State.mems_setScval (s : State) (d h : Nat) (v : DWord) : (s.setScval d h v).mems = s.mems := by rfl
@[simp] theorem keeps_execScdone (d h : Nat) (v : DWord) (s : State) : Keeps s (execScdone d h v s) := by
  simp [execScdone]

@[simp] theorem keeps_execSyscallCompletion (id : Nat) (s : State) : Keeps s (execSyscallCompletion id s) := by
  simp only [execSyscallCompletion]
  (repeat' split) <;> simp

@[simp] theorem keeps_execBrk (o : OpX) (s : State) : Keeps s (execBrk o s) :=
  keeps_onGroup ..
@[simp] theorem State.mems_armTimer (s : State) (core n deadline : Nat) : (s.armTimer core n deadline).mems = s.mems := by
  simp [State.armTimer]
@[simp] theorem State.mems_compareAt (s : State) (core n at_ : Nat) : (s.compareAt core n at_).mems = s.mems := by
  simp [State.compareAt]
@[simp] theorem State.mems_armTimerIn (s : State) (core n deadline cc rank : Nat) : (s.armTimerIn core n deadline cc rank).mems = s.mems := by
  simp [State.armTimerIn]

@[simp] theorem keeps_execTimerarm (o : OpX) (s : State) : Keeps s (execTimerarm o s) := by
  refine keeps_onState fun g u hu => ?_
  dsimp only
  (repeat' split) <;> simp [hu]

@[simp] theorem keeps_execComparatorFire (core n : Nat) (s : State) : Keeps s (execComparatorFire core n s) := by
  simp [execComparatorFire]
@[simp] theorem keeps_execRdsr (o : OpX) (s : State) : Keeps s (execRdsr o s) :=
  keeps_onGroup ..

@[simp] theorem State.mems_applyWrs (s : State) (key baton : Nat) : (s.applyWrs key baton).mems = s.mems := by
  unfold State.applyWrs
  split <;> simp

@[simp] theorem keeps_execWrsr (o : OpX) (s : State) : Keeps s (execWrsr o s) :=
  keeps_onGroup ..
@[simp] theorem keeps_execRdcnt (o : OpX) (s : State) : Keeps s (execRdcnt o s) :=
  keeps_onGroup ..

@[simp] theorem keeps_execCkpt (s : State) : Keeps s (execCkpt s) := by
  refine keeps_onState fun g u hu => ?_
  (repeat' split) <;> simp [hu]

@[simp] theorem keeps_execHintClass (o : OpX) (s : State) : Keeps s (execHintClass o s) :=
  keeps_onGroup ..
@[simp] theorem keeps_execHintIdle (o : OpX) (s : State) : Keeps s (execHintIdle o s) :=
  keeps_onGroup ..

/-! ### Machine/Issue -/

@[simp] theorem State.mems_sendAsk (s t : State) (core : Nat) : (s.sendAsk t core).mems = s.mems := by
  simp only [State.sendAsk]
  (repeat' split) <;> simp

@[simp] theorem State.mems_refreshColl (s : State) (sl b : Nat) : (s.refreshColl sl b).mems = s.mems := by
  simp only [State.refreshColl]
  (repeat' split) <;> simp

@[simp] theorem State.mems_bankError (s : State) (sl b : Nat) (second : Bool) : (s.bankError sl b second).mems = s.mems := by
  simp only [State.bankError]
  (repeat' split) <;> simp

@[simp] theorem keeps_execOperandCollect (x : Collecting) (s : State) : Keeps s (execOperandCollect x s) := by
  unfold execOperandCollect
  split <;> simp

@[simp] theorem keeps_execResultWriteback (sl : Nat) (s : State) : Keeps s (execResultWriteback sl s) := by
  simp [execResultWriteback]

@[simp] theorem State.mems_applyW (s : State) (core now : Nat) : (s.applyW core now).mems = s.mems := by
  refine (State.mems_foldl _ _ _ fun s w => ?_).trans (State.mems_putCore ..)
  split <;> simp

@[simp] theorem keeps_execWRegisterApply (core : Nat) (s : State) : Keeps s (execWRegisterApply core s) := by
  simp [execWRegisterApply]
@[simp] theorem keeps_execTokenRefill (sl : Nat) (s : State) : Keeps s (execTokenRefill sl s) := by
  simp [execTokenRefill]

@[simp] theorem keeps_execCeiling (key : Nat) (s : State) : Keeps s (execCeiling key s) := by
  simp only [execCeiling]
  (repeat' split) <;> simp

@[simp] theorem State.mems_noteOver (s : State) (key : Nat) (g : Group) (pc : DWord) (cyc : Nat) : (s.noteOver key g pc cyc).mems = s.mems := by
  unfold State.noteOver
  split
  · split
    · split
      next h => exact (keeps_execCeiling key s).mems_eq h
      · rfl
    · simp
  · simp

@[simp] theorem State.mems_dropOver (s : State) (key : Nat) (pc : Option DWord) : (s.dropOver key pc).mems = s.mems := by
  unfold State.dropOver
  split <;> simp

@[simp] theorem State.mems_liftCeilings (s : State) (sl : Nat) : (s.liftCeilings sl).mems = s.mems := by
  refine State.mems_foldl _ _ _ fun s x => ?_
  split
  · split
    · split <;> simp
    · rfl
  · simp

@[simp] theorem State.mems_passEmpty (s : State) (key n : Nat) : (s.passEmpty key n).mems = s.mems := by
  induction n generalizing s with
  | zero => rfl
  | succ n ih =>
    unfold State.passEmpty
    split
    · rfl
    · simp [ih]

@[simp] theorem State.mems_needLine (s : State) (key : Nat) (g : Group) (pc : DWord) : (s.needLine key g pc).mems = s.mems := by
  simp only [State.needLine]
  split
  next h => simp [State.mems_of_eq h]
  next h => simp [State.mems_of_eq h]

@[simp] theorem State.mems_fetchTrap (s : State) (key : Nat) (g : Group) (pc : DWord) (c : Nat) : (s.fetchTrap key g pc c).mems = s.mems := by
  simp [State.fetchTrap]

@[simp] theorem State.mems_noteRoom (s : State) (key : Nat) (g : Group) (b : Nat) (pa : DWord) (c : Coding) (i : Instr) (cur : Cur)
    (sec : Option (Pick × Look)) : (s.noteRoom key g b pa c i cur sec).mems = s.mems := by
  unfold State.noteRoom
  simp

@[simp] theorem State.mems_decide (s : State) (sl b ceil key : Nat) (g : Group) (l : Latch) : (s.decide sl b ceil key g l).1.mems = s.mems := by
  unfold State.decide
  split
  · rfl
  extract_lets x kp at2 l1 s1
  split
  · simp
  next sec s2 _ =>
    have h1 : s1.mems = s.mems := by simp [s1]
    clear_value sec
    have h2 : s2.mems = s.mems := by unfold s2; split <;> simp [h1]
    clear_value s2
    split
    · simp [h1]
    split
    · simp [h1]
    · simp [h1]
    split
    · simp [h1]
    extract_lets s3 g1
    have h3 : s3.mems = s.mems := by simp [s3, h2]
    clear_value s3
    split
    · exact h3
    split
    · split <;> simp [h3]
    split
    · exact h3
    split
    · simp [h3]
    · exact h3

@[simp] theorem State.mems_testJoins (s : State) (sl : Nat) : (s.testJoins sl).mems = s.mems := by
  unfold State.testJoins
  split
  · rfl
  · refine State.mems_foldl _ _ _ fun s g => ?_
    split
    next h => exact (keeps_execJoinTest g.1 s).mems_eq h
    · rfl

@[simp] theorem keeps_execSliceCycle (sl : Nat) (s : State) : Keeps s (execSliceCycle sl s) := by
  unfold execSliceCycle
  extract_lets s1 s2 x src s3 s4 s5 y row r b holder l
  have h2 : s2.mems = s.mems := by unfold s2; split <;> simp [s1]
  have h3 : s3.mems = s.mems := by
    unfold s3
    split
    next h => exact ((keeps_execHintIdleWake ..).mems_eq h).trans h2
    · exact h2
  have h4 : s4.mems = s3.mems := State.mems_foldl _ _ _ fun s b => by split <;> simp
  have h5 : s5.mems = s4.mems := State.mems_foldl _ _ _ fun s b => State.mems_refreshColl ..
  replace h5 := h5.trans (h4.trans h3)
  clear_value s5
  split
  · exact h5
  split
  · exact h5
  split
  · exact h5
  · exact (State.mems_decide ..).trans h5

@[simp] theorem State.mems_finish (t : State) (i : Instr) (cur : Cur) (l : Latch) : (t.finish i cur l).mems = t.mems := by
  unfold State.finish
  extract_lets key sl x n u l'
  have hu : u.mems = t.mems := by simp only [u, State.mems_ite, State.mems_putSlice, ite_self]
  split
  · simp [hu]
  split
  · simp [hu]
  split
  · simp [hu]
  · simp only [State.mems_mk, State.mems_eta, State.mems_putSlice, State.mems_putGroup, hu]

@[simp] theorem State.mems_handOffs (s : State) (sl : Nat) : (s.handOffs sl).mems = s.mems := by
  refine State.mems_foldl _ _ _ fun s x => ?_
  split
  · rfl
  · refine State.mems_foldl _ _ _ fun s h => ?_
    split
    · rfl
    split
    · rfl
    simp only [State.mems_ite, State.mems_putGroup]
    split
    · split <;> simp
    · rfl

@[simp] theorem State.mems_rereadHeirs (s : State) (sl key : Nat) : (s.rereadHeirs sl key).mems = s.mems := by
  unfold State.rereadHeirs
  split <;> rfl

@[simp] theorem State.mems_endYield (s : State) (key : Nat) : (s.endYield key).mems = s.mems := by
  unfold State.endYield
  split <;> simp

/-! ### Machine/Copies -/

@[simp] theorem State.mems_putTag (s : State) (core n : Nat) (x : Copy) : (s.putTag core n x).mems = s.mems := by rfl
@[simp] theorem State.mems_freeTag (s : State) (core n : Nat) : (s.freeTag core n).mems = s.mems := by rfl

@[simp] theorem keeps_execCpyb (o : OpX) (s : State) : Keeps s (execCpyb o s) := by
  refine keeps_onState fun g u hu => ?_
  dsimp only
  (repeat' split) <;> simp [hu]

@[simp] theorem keeps_execCpyk (o : OpM) (s : State) : Keeps s (execCpyk o s) := by
  refine keeps_onState fun g u hu => ?_
  dsimp only
  (repeat' split) <;> simp [hu]

@[simp] theorem State.mems_cpywTrap (s : State) (key tag : Nat) (c : Copy) (pc : DWord) (lanes : BitVec 32) :
    (s.cpywTrap key tag c pc lanes).mems = s.mems := by
  unfold State.cpywTrap
  split <;> rfl

@[simp] theorem keeps_execCpyw (o : OpX) (s : State) : Keeps s (execCpyw o s) := by
  refine keeps_onState fun g u hu => ?_
  (repeat' split) <;> simp [hu]

@[simp] theorem keeps_execCpyq (o : OpX) (s : State) : Keeps s (execCpyq o s) := by
  refine keeps_onState fun g u hu => ?_
  (repeat' split) <;> simp [hu]

@[simp] theorem State.mems_copyPlace (s : State) (core : Nat) (b : Block) (k : AccKind) (ga : DWord) : (s.copyPlace core b k ga).2.mems = s.mems := by
  unfold State.copyPlace
  split
  · split
    next h => simp [State.mems_of_eq h]
    next h => simp [State.mems_of_eq h]
  split
  · split <;> rfl
  · rfl

@[simp] theorem State.mems_copyFill (s : State) (b : Block) (c : Copy) : (s.copyFill b c).mems = s.mems := by
  refine State.mems_foldl _ _ _ fun s k => ?_
  split
  · split <;> simp
  · rfl

@[simp] theorem State.mems_endTag (s : State) (core tag : Nat) (c : Copy) : (s.endTag core tag c).mems = s.mems := by
  simp [State.endTag]

@[simp] theorem State.mems_failTag (s : State) (core tag : Nat) (c : Copy) : (s.failTag core tag c).mems = s.mems := by
  unfold State.failTag
  split
  · simp
  · refine (State.mems_foldl _ _ _ fun s g => ?_).trans (State.mems_putTag ..)
    split <;> simp

@[simp] theorem keeps_execCopyRetire (core tag : Nat) (s : State) : Keeps s (execCopyRetire core tag s) := by
  simp only [execCopyRetire]
  (repeat' split) <;> simp

@[simp] theorem keeps_execCopyFault (core tag : Nat) (s : State) : Keeps s (execCopyFault core tag s) := by
  simp only [execCopyFault]
  (repeat' split) <;> simp

@[simp] theorem State.mems_restartCopy (s : State) (core tag : Nat) : (s.restartCopy core tag).mems = s.mems := by
  simp only [State.restartCopy]
  (repeat' split) <;> simp

/-! ### Machine/Anvil -/

@[simp] theorem keeps_execAccrd (o : OpX) (s : State) : Keeps s (execAccrd o s) := by
  refine keeps_onState fun g u hu => ?_
  dsimp only
  (repeat' split) <;> simp [hu]

@[simp] theorem keeps_execAccwr (o : OpX) (s : State) : Keeps s (execAccwr o s) := by
  refine keeps_onState fun g u hu => ?_
  dsimp only
  (repeat' split) <;> simp [hu]

@[simp] theorem keeps_execAccz (o : OpX) (s : State) : Keeps s (execAccz o s) := by
  refine keeps_onState fun g u hu => ?_
  dsimp only
  (repeat' split) <;> simp [hu]

@[simp] theorem State.mems_wildTiles (s : State) (core : Nat) (j : Job) : (s.wildTiles core j).mems = s.mems := by
  simp [State.wildTiles]
@[simp] theorem keeps_execTdset (wd : BitVec 3) (o : OpX) (s : State) : Keeps s (execTdset wd o s) :=
  keeps_onGroup ..
@[simp] theorem keeps_execTdget (wd : BitVec 3) (o : OpX) (s : State) : Keeps s (execTdget wd o s) :=
  keeps_onGroup ..

@[simp] theorem State.mems_crecCheck (s : State) (core : Nat) (root : DWord) (r : Brec) : (s.crecCheck core root r).2.mems = s.mems := by
  unfold State.crecCheck
  extract_lets a tag
  split
  · rfl
  split
  · split
    · rfl
    split
    next h => simp [State.mems_of_eq h]
    next h => simp [State.mems_of_eq h]
  · split <;> split <;> rfl

@[simp] theorem State.mems_engineAcc (s : State) (b : Block) (r : Brec) (k : AccKind) (n idx : Nat) : (s.engineAcc b r k n idx).2.mems = s.mems := by
  unfold State.engineAcc
  split
  · rfl
  · rfl
  split
  next h => simp [State.mems_of_eq h]
  next h => simp [State.mems_of_eq h]

@[simp] theorem State.mems_drainAcc (s : State) (core : Nat) (b : Block) (j : Job) (k : Nat) : (s.drainAcc core b j k).2.2.2.2.2.mems = s.mems := by
  simp [State.drainAcc]

@[simp] theorem State.mems_bsldPages (s : State) (core : Nat) (root base : DWord) (size code : Nat) :
    (s.bsldPages core root base size code).2.mems = s.mems := by
  unfold State.bsldPages
  extract_lets first last p
  have h : p.2.mems = s.mems := State.mems_foldl_snd _ _ _ fun p i => by
    split
    · rfl
    extract_lets va
    split
    next h => simp [State.mems_of_eq h]
    next h => simp [State.mems_of_eq h]
  split
  · exact h
  · split <;> exact h

@[simp] theorem State.mems_jobCheck (s : State) (g : Group) (b : Block) (j : Job) (pair : Bool) : (s.jobCheck g b j pair).2.mems = s.mems := by
  unfold State.jobCheck
  extract_lets root m acc0 no
  split
  · rfl
  split
  · rfl
  next p t ar q u fol bad8 c _ _ =>
    have hp : p.2.mems = s.mems := by unfold p; split <;> simp
    have hq : q.2.mems = s.mems := by
      unfold q
      split
      · exact hp
      split
      · exact hp
      split
      next h => simpa [State.mems_of_eq h] using hp
      next h => simpa [State.mems_of_eq h] using hp
    split
    · exact hp
    split
    · exact hp
    split
    · exact hq
    split
    · exact hq
    clear_value bad8
    split
    · exact hq
    split
    · exact hq
    · split <;> exact hq

@[simp] theorem keeps_execJobWith (pair : Bool) (o : OpX) (s : State) : Keeps s (execJobWith pair o s) := by
  refine keeps_onState fun g u hu => ?_
  split
  · exact hu
  · exact hu
  extract_lets d a
  split
  · trivial
  split
  · trivial
  split
  · trivial
  split
  · trivial
  split
  · trivial
  split
  · trivial
  next ht =>
    split
    · trivial
    extract_lets card j0 j
    split
    · trivial
    next h =>
      have hv := (State.mems_of_eq ht).trans ((State.mems_translate ..).trans hu)
      replace hv := (State.mems_of_eq h).trans ((State.mems_jobCheck ..).trans hv)
      extract_lets c
      split
      · simp [hv]
      extract_lets id
      split
      · trivial
      · simp [hv]

@[simp] theorem keeps_execFenceOpr (s : State) : Keeps s (execFenceOpr s) := by
  refine keeps_onState fun g u hu => ?_
  (repeat' split) <;> simp [hu]

@[simp] theorem State.mems_putJob (s : State) (core : Nat) (j : Job) : (s.putJob core j).mems = s.mems := by rfl
@[simp] theorem State.mems_freeJob (s : State) (core slot : Nat) : (s.freeJob core slot).mems = s.mems := by rfl

@[simp] theorem keeps_execJwait (o : OpX) (s : State) : Keeps s (execJwait o s) := by
  refine keeps_onState fun g u hu => ?_
  dsimp only
  (repeat' split) <;> simp [hu]

@[simp] theorem keeps_execJstat (o : OpX) (s : State) : Keeps s (execJstat o s) :=
  keeps_onGroup ..

@[simp] theorem keeps_execJchk (o : OpX) (s : State) : Keeps s (execJchk o s) := by
  refine keeps_onState fun g u hu => ?_
  dsimp only
  (repeat' split) <;> simp [hu]

@[simp] theorem keeps_execJobStart (core : Nat) (s : State) : Keeps s (execJobStart core s) := by
  simp only [execJobStart]
  (repeat' split) <;> simp

@[simp] theorem State.mems_scales (s : State) (b : Block) (j : Job) (r : Brec) (code : Nat) (idx : Nat → Nat) :
    (s.scales b j r code idx).2.mems = s.mems := by
  unfold State.scales
  split
  · rfl
  · refine State.mems_foldl_snd _ _ _ fun p i => ?_
    split
    · rfl
    split
    next h => simp [State.mems_of_eq h]
    next h => simp [State.mems_of_eq h]
    next h => split <;> simp [State.mems_of_eq h]

@[simp] theorem State.mems_arrayStep (s : State) (core : Nat) (b : Block) (j : Job) (mi ni kc : Nat) (errs : List Word) (aTile : Nat → FV)
    (sa sb : List Word) : (s.arrayStep core b j mi ni kc errs aTile sa sb).1.mems = s.mems := by
  simp only [State.arrayStep]
  split
  · rfl
  · split <;> simp

@[simp] theorem State.mems_emptySlot (s : State) (j : Job) (n : Nat) : (s.emptySlot j n).mems = s.mems := by
  unfold State.emptySlot
  split <;> simp

@[simp] theorem State.mems_countRun (s : State) (core : Nat) (j : Job) : (s.countRun core j).mems = s.mems := by
  unfold State.countRun
  split <;> rfl

@[simp] theorem State.mems_acquireSlot (s : State) (core : Nat) (j : Job) : (s.acquireSlot core j).mems = s.mems := by
  unfold State.acquireSlot
  split <;> simp

@[simp] theorem State.mems_jobFails (s : State) (core : Nat) (j : Job) (c : Nat) (a : DWord) : (s.jobFails core j c a).mems = s.mems := by
  simp [State.jobFails]

@[simp] theorem keeps_execAnvilIteration (core soft : Nat) (s : State) : Keeps s (execAnvilIteration core soft s) := by
  unfold execAnvilIteration
  split
  · rfl
  split
  · split
    extract_lets prev moved
    split
    · simp
    split
    · rfl
    next s1 last _ _ =>
      have h1 : s1.mems = s.mems := by unfold s1; split <;> simp
      clear_value s1
      split
      next h => simp [State.mems_of_eq h, h1]
      next h =>
        split
        next h2 => simp [State.mems_of_eq h2, State.mems_of_eq h, h1]
        next t h2 =>
          have ht : t.mems = s.mems := by simp [State.mems_of_eq h2, State.mems_of_eq h, h1]
          extract_lets fol
          clear_value fol
          split
          next h3 =>
            have hu := State.mems_of_eq h3
            cases fol <;> simpa [ht] using hu
          next u h3 =>
            have hu : u.mems = s.mems := by
              have hu := State.mems_of_eq h3
              cases fol <;> simpa [ht] using hu
            extract_lets loc aTile
            clear_value aTile
            split
            next h4 =>
              have hv := (State.mems_of_eq_fst h4).trans ((State.mems_arrayStep ..).trans hu)
              split
              next v _ _ h5 =>
                have hw : v.mems = s.mems := by
                  refine (State.mems_of_eq_fst h5).trans ?_
                  cases fol with
                  | none => exact hv
                  | some f =>
                    dsimp only
                    split
                    · exact hv
                    · exact (State.mems_arrayStep ..).trans hv
                simp [hw]
  · rfl

@[simp] theorem State.mems_wakeJwait (s : State) (core : Nat) (j : Job) : (s.wakeJwait core j).1.mems = s.mems := by
  refine State.mems_foldl_fst _ _ _ fun p x => ?_
  split
  · split
    · split <;> simp
    · rfl
  · rfl

@[simp] theorem keeps_execJobDone (core : Nat) (s : State) : Keeps s (execJobDone core s) := by
  simp only [execJobDone]
  (repeat' split) <;> simp

@[simp] theorem keeps_execJobFault (core : Nat) (s : State) : Keeps s (execJobFault core s) := by
  unfold execJobFault
  split <;> simp

@[simp] theorem State.mems_resumeJob (s : State) (core slot : Nat) : (s.resumeJob core slot).mems = s.mems := by
  unfold State.resumeJob
  split <;> simp

/-! ### Machine/Front -/

@[simp] theorem State.mems_putQueue (s : State) (d q : Nat) (x : Queue) : (s.putQueue d q x).mems = s.mems := by rfl
@[simp] theorem keeps_execQres (d q : Nat) (s : State) : Keeps s (execQres d q s) := by
  simp [execQres]
@[simp] theorem keeps_execQcommit (d q : Nat) (v : Word) (s : State) : Keeps s (execQcommit d q v s) := by
  simp [execQcommit]
@[simp] theorem keeps_execQcfg (d q : Nat) (v : Word) (s : State) : Keeps s (execQcfg d q v s) := by
  simp [execQcfg]
@[simp] theorem State.mems_wakeFront (s : State) : s.wakeFront.mems = s.mems := by rfl
@[simp] theorem State.mems_wakeUnits (s : State) (e : Eff) : (s.wakeUnits e).mems = s.mems := by rfl

@[simp] theorem State.mems_giveBatons (s : State) (blk : Nat) (p : Plan) : (s.giveBatons blk p).mems = s.mems := by
  refine State.mems_foldl _ _ _ fun s b => State.mems_foldl _ _ _ fun s n => ?_
  split <;> simp

@[simp] theorem State.mems_wakeCore (s : State) (core : Nat) (used : Nat → Bool) : (s.wakeCore core used).mems = s.mems := by
  simp [State.wakeCore]
@[simp] theorem State.mems_freeCore (s : State) (blk core : Nat) : (s.freeCore blk core).mems = s.mems := by rfl
@[simp] theorem State.mems_keepTwins (s : State) : s.keepTwins.mems = s.mems := by rfl

@[simp] theorem keeps_execBlockRelease (blk : Nat) (s : State) : Keeps s (execBlockRelease blk s) := by
  unfold execBlockRelease
  split <;> simp

@[simp] theorem State.mems_doorbell (s : State) (d : Nat) (status : BitVec 8) : (s.doorbell d status).mems = s.mems := by
  simp [State.doorbell]

theorem State.mems_served (s : State) (d code operands : Nat) (usesRegion : Bool) (f : Die → State → State × BitVec 8)
    (h : ∀ x t, (f x t).1.mems = t.mems) : (s.served d code operands usesRegion f).mems = s.mems := by
  unfold State.served
  extract_lets x r
  split
  · rfl
  · exact (State.mems_doorbell ..).trans (h x s)

@[simp] theorem State.mems_withdraw (s : State) (rid : Nat) : (s.withdraw rid).mems = s.mems := by rfl

theorem State.mems_letIn {s t : State} {e : Eff} (h : s.letIn e = some t) : t.mems = s.mems := by
  simp only [State.letIn] at h
  split at h
  · cases h; simp
  · split at h
    · cases h
    · cases h; simp

@[simp] theorem keeps_execSetregion (d : Nat) (s : State) : Keeps s (execSetregion d s) := by
  refine State.mems_served _ _ _ _ _ _ fun x t => ?_
  split
  · rfl
  extract_lets u
  split
  · rfl
  split
  · rfl
  next h => simp [State.mems_letIn h, u]

@[simp] theorem keeps_execClearregion (d : Nat) (s : State) : Keeps s (execClearregion d s) := by
  refine State.mems_served _ _ _ _ _ _ fun x t => ?_
  split <;> simp

@[simp] theorem keeps_execSetrspace (d : Nat) (s : State) : Keeps s (execSetrspace d s) := by
  refine State.mems_served _ _ _ _ _ _ fun x t => ?_
  split <;> simp

@[simp] theorem keeps_execBadreq (d : Nat) (s : State) : Keeps s (execBadreq d s) := by
  simp only [execBadreq]
  (repeat' split) <;> simp

@[simp] theorem State.mems_exchange (s : State) (d : Nat) (old new : DWord) : (s.exchange d old new).mems = s.mems := by
  simp [State.exchange]

@[simp] theorem keeps_execLeaseRenew (d : Nat) (s : State) : Keeps s (execLeaseRenew d s) := by
  unfold execLeaseRenew
  split <;> simp

@[simp] theorem keeps_execLeasePoll (d : Nat) (s : State) : Keeps s (execLeasePoll d s) := by
  simp [execLeasePoll]

@[simp] theorem keeps_execLeaderLapse (d : Nat) (s : State) : Keeps s (execLeaderLapse d s) := by
  unfold execLeaderLapse
  split <;> simp

@[simp] theorem keeps_execLeaseHandover (d succ : Nat) (s : State) : Keeps s (execLeaseHandover d succ s) := by
  unfold execLeaseHandover
  split <;> simp

/-! ### Machine/Vane -/

@[simp] theorem State.mems_retryWaiting (s : State) (gr : Nat) : (s.retryWaiting gr).mems = s.mems := by
  unfold State.retryWaiting
  split <;> simp

@[simp] theorem keeps_execRecordArrival (die : Nat) (s : State) : Keeps s (execRecordArrival die s) := by
  unfold execRecordArrival
  split <;> simp

@[simp] theorem keeps_execVaneDone (die : Nat) (s : State) : Keeps s (execVaneDone die s) := by
  simp only [execVaneDone]
  (repeat' split) <;> simp

@[simp] theorem keeps_execVaneTake (die : Nat) (s : State) : Keeps s (execVaneTake die s) := by
  simp only [execVaneTake]
  (repeat' split) <;> simp

@[simp] theorem keeps_execOverflowRefill (gr node q : Nat) (s : State) : Keeps s (execOverflowRefill gr node q s) := by
  simp [execOverflowRefill]
@[simp] theorem State.mems_setTimer (s : State) (gr node q : Nat) (t : Option Nat) (expired : Bool) :
    (s.setTimer gr node q t expired).mems = s.mems := by rfl

@[simp] theorem State.mems_stepTimer (s : State) (gr node q : Nat) : (s.stepTimer gr node q).mems = s.mems := by
  unfold State.stepTimer
  split <;> simp

@[simp] theorem State.mems_markDue (s : State) (gr node q : Nat) : (s.markDue gr node q).mems = s.mems := by
  unfold State.markDue
  split <;> simp

@[simp] theorem keeps_execBinfull (key : Nat) (s : State) : Keeps s (execBinfull key s) := by
  simp only [execBinfull]
  (repeat' split) <;> simp

/-! ### Machine/Traps -/

@[simp] theorem State.mems_withdrawSleep (s : State) (key blk : Nat) : (s.withdrawSleep key blk).mems = s.mems := by
  simp only [State.withdrawSleep]
  split <;> simp

@[simp] theorem State.mems_withdrawHeld (s : State) (key blk : Nat) : (s.withdrawHeld key blk).mems = s.mems := by
  unfold State.withdrawHeld
  split <;> simp

@[simp] theorem State.mems_presentOne (s : State) (key : Nat) (b : Block) (x : Req × List (Nat × DWord)) :
    (s.presentOne key b x).mems = s.mems := by
  unfold State.presentOne
  split <;> simp

@[simp] theorem State.mems_presentAgain (s : State) (key : Nat) : (s.presentAgain key).mems = s.mems := by
  simp only [State.presentAgain]
  (repeat' split) <;> simp

@[simp] theorem State.mems_raiseDenied (s : State) (key : Nat) : (s.raiseDenied key).mems = s.mems := by
  simp only [State.raiseDenied]
  (repeat' split) <;> simp

@[simp] theorem State.mems_goAgain (s : State) (key : Nat) : (s.goAgain key).mems = s.mems := by
  unfold State.goAgain
  split <;> simp

@[simp] theorem keeps_execTsync (die : Nat) (v : DWord) (s : State) : Keeps s (execTsync die v s) := by
  simp [execTsync]

@[simp] theorem State.mems_landGroup (s : State) (key : Nat) : (s.landGroup key).mems = s.mems := by
  simp only [State.landGroup]
  (repeat' split) <;> simp

@[simp] theorem keeps_execTlbInvalidation (core : Nat) (s : State) : Keeps s (execTlbInvalidation core s) := by
  simp only [execTlbInvalidation]
  (repeat' split) <;> simp

@[simp] theorem keeps_execTrcfg (d : Nat) (v : Word) (s : State) : Keeps s (execTrcfg d v s) := by
  simp [execTrcfg]
@[simp] theorem State.mems_dropEntries (s : State) (p : Nat → InEntry → Bool) : (s.dropEntries p).mems = s.mems := by rfl

@[simp] theorem State.mems_removeBlock (s : State) (finish : Bool) (blk : Nat) : (s.removeBlock finish blk).mems = s.mems := by
  unfold State.removeBlock
  split <;> simp

@[simp] theorem State.mems_removeBlocks (s : State) (finish : Bool) (id : Nat) : (s.removeBlocks finish id).mems = s.mems := by
  simp [State.removeBlocks]
@[simp] theorem State.mems_resumeTo (s : State) (key : Nat) (lanes : BitVec 32) (pc : DWord) : (s.resumeTo key lanes pc).mems = s.mems := by
  simp [State.resumeTo]

@[simp] theorem keeps_execTractResumeTrpc (d : Nat) (v : Word) (s : State) : Keeps s (execTractResumeTrpc d v s) := by
  unfold execTractResumeTrpc
  split <;> simp

@[simp] theorem keeps_execTractResumePc (d : Nat) (v : Word) (s : State) : Keeps s (execTractResumePc d v s) := by
  simp only [execTractResumePc]
  (repeat' split) <;> simp

@[simp] theorem keeps_execTractEndGroup (d : Nat) (v : Word) (s : State) : Keeps s (execTractEndGroup d v s) := by
  simp only [execTractEndGroup]
  (repeat' split) <;> simp

@[simp] theorem keeps_execDenialNotice (id : Nat) (s : State) : Keeps s (execDenialNotice id s) := by
  simp only [execDenialNotice]
  (repeat' split) <;> simp

@[simp] theorem keeps_execMigctlGo (d : Nat) (s : State) : Keeps s (execMigctlGo d s) := by
  simp [execMigctlGo]
@[simp] theorem keeps_execMigrationFreeze (d : Nat) (s : State) : Keeps s (execMigrationFreeze d s) := by
  simp [execMigrationFreeze]

/-! ### Machine/Preempt -/

@[simp] theorem State.mems_handNow (s : State) (key : Nat) : (s.handNow key).mems = s.mems := by
  unfold State.handNow
  split
  · rfl
  simp only [State.mems_ite, State.mems_putGroup]
  split
  · rfl
  · refine (State.mems_foldl _ _ _ fun s h => ?_).trans (State.mems_putGroup s key _)
    split <;> simp

@[simp] theorem State.mems_standAt (s : State) (key : Nat) : (s.standAt key).mems = s.mems := by
  unfold State.standAt
  split <;> rfl

@[simp] theorem State.mems_waitedFor (s : State) (key : Nat) : (s.waitedFor key).mems = s.mems := by rfl

@[simp] theorem keeps_execRestore (d : Nat) (s : State) : Keeps s (execRestore d s) := by
  simp only [execRestore]
  (repeat' split) <;> simp

@[simp] theorem State.mems_followRels (s : State) (ks : List (Nat × Nat)) (blk : Nat) : (s.followRels ks blk).mems = s.mems := by rfl
@[simp] theorem State.mems_followSpans (s : State) (mates : List (Nat × Block)) : (s.followSpans mates).mems = s.mems := by rfl

@[simp] theorem State.mems_wakeGroup (s : State) (key : Nat) : (s.wakeGroup key).mems = s.mems := by
  unfold State.wakeGroup
  split <;> simp

@[simp] theorem State.mems_wakeGroups (s : State) (mates : List (Nat × Block)) : (s.wakeGroups mates).mems = s.mems := by
  simp [State.wakeGroups]

@[simp] theorem State.mems_relink (s : State) (mates : List (Nat × Block)) : (s.relink mates).mems = s.mems := by
  refine State.mems_foldl _ _ _ fun s m => ?_
  split
  · rfl
  · refine (State.mems_foldl _ _ _ fun s j => ?_).trans (by simp)
    split
    · simp
    · rfl

/-! ### Machine/Harts -/

@[simp] theorem State.mems_putHart (s : State) (h : Nat) (x : Hart) : (s.putHart h x).mems = s.mems := by rfl

@[simp] theorem State.mems_except (s : State) (m : Master) (e : Option HartExc) : (s.except m e).mems = s.mems := by
  unfold State.except
  split <;> rfl

@[simp] theorem State.mems_refuse (s : State) (m : Master) : (s.refuse m).mems = s.mems := by
  simp [State.refuse]

theorem State.mems_csr (s : State) (h : Nat) (o : CsrOp) (val : DWord) (refused : DWord → Bool) (write : DWord → State → State)
    (hw : ∀ v t, (write v t).mems = t.mems) : (s.csr h o val refused write).mems = s.mems := by
  unfold State.csr
  split
  · rfl
  split
  · simp
  · simp
  · split <;> simp [hw]

@[simp] theorem keeps_execLqdevattr (h : Nat) (o : DevAttrOp) (s : State) : Keeps s (execLqdevattr h o s) := by
  cases o with
  | csr o => exact State.mems_csr _ _ _ _ _ _ fun _ _ => by simp
  | fence => simp [execLqdevattr]

@[simp] theorem State.mems_aplicMsi (s : State) (low : Bool) (t : Nat) : (s.aplicMsi low t).mems = s.mems := by
  simp [State.aplicMsi]
@[simp] theorem State.mems_forward (s : State) (d : Nat) (low : Bool) : (s.forward d low).mems = s.mems := by
  simp [State.forward]
@[simp] theorem State.mems_setWired (s : State) (d src : Nat) (on : Bool) : (s.setWired d src on).mems = s.mems := by
  simp [State.setWired]
@[simp] theorem State.mems_aplicStore (s : State) (d : Nat) (low : Bool) (o : Nat) (v : Word) : (s.aplicStore d low o v).mems = s.mems := by
  simp [State.aplicStore]
@[simp] theorem keeps_execAplicWiredSource (d src : Nat) (on : Bool) (s : State) : Keeps s (execAplicWiredSource d src on s) := by
  simp [execAplicWiredSource]

/-! ### Machine/Power -/

@[simp] theorem State.mems_reboost (s : State) : s.reboost.mems = s.mems := by rfl
@[simp] theorem State.mems_setAlarms (s : State) (v : BitVec 5) : (s.setAlarms v).mems = s.mems := by
  simp [State.setAlarms]

@[simp] theorem keeps_execLqcuralm (a : HartCsr) (ev : BitVec 5) (s : State) : Keeps s (execLqcuralm a ev s) := by
  simp only [execLqcuralm, keeps_next, State.mems_setAlarms]
  exact State.mems_csr _ _ _ _ _ _ fun _ _ => by simp

@[simp] theorem keeps_execLqpwrctl (r : PowerCsr) (s : State) : Keeps s (execLqpwrctl r s) := by
  cases r with
  | control a => exact State.mems_csr _ _ _ _ _ _ fun _ _ => by simp
  | telemetry k a =>
    simp only [execLqpwrctl, keeps_next]
    split
    · rfl
    · exact State.mems_csr _ _ _ _ _ _ fun _ _ => rfl

@[simp] theorem keeps_execCurrentAlarm (k : Nat) (s : State) : Keeps s (execCurrentAlarm k s) := by
  simp [execCurrentAlarm]
@[simp] theorem keeps_execBoostGrant (on : Bool) (s : State) : Keeps s (execBoostGrant on s) := by
  simp [execBoostGrant]
@[simp] theorem keeps_execTelemetryUpdate (avg : Word) (pwr tmp uj : DWord) (s : State) : Keeps s (execTelemetryUpdate avg pwr tmp uj s) := by
  simp [execTelemetryUpdate]
@[simp] theorem keeps_execSlottabWrite (sl row : Nat) (v : Word) (s : State) : Keeps s (execSlottabWrite sl row v s) := by
  simp [execSlottabWrite]
@[simp] theorem keeps_execClkratWrite (sl : Nat) (v : Word) (s : State) : Keeps s (execClkratWrite sl v s) := by
  simp [execClkratWrite]
@[simp] theorem keeps_execPasscntWrite (core : Nat) (v : Word) (s : State) : Keeps s (execPasscntWrite core v s) := by
  simp [execPasscntWrite]
@[simp] theorem keeps_execTokbalWrite (sl : Nat) (v : Word) (s : State) : Keeps s (execTokbalWrite sl v s) := by
  simp [execTokbalWrite]
@[simp] theorem keeps_execDramActivationWindow (d : Nat) (v : BitVec 16) (s : State) : Keeps s (execDramActivationWindow d v s) := by
  simp [execDramActivationWindow]
@[simp] theorem keeps_execSgate (sl : Nat) (s : State) : Keeps s (execSgate sl s) := by
  simp [execSgate]
@[simp] theorem State.mems_stopCore (s : State) (core : Nat) (to_ : CoreIdle) : (s.stopCore core to_).mems = s.mems := by
  simp [State.stopCore]
@[simp] theorem keeps_execCgate (core : Nat) (s : State) : Keeps s (execCgate core s) := by
  simp [execCgate]
@[simp] theorem keeps_execCoff (core : Nat) (s : State) : Keeps s (execCoff core s) := by
  simp [execCoff]
@[simp] theorem State.mems_wakeSlice (s : State) (sl : Nat) : (s.wakeSlice sl).mems = s.mems := by rfl
@[simp] theorem keeps_execUnitWake (core : Nat) (s : State) : Keeps s (execUnitWake core s) := by
  simp [execUnitWake]

/-! ### Machine/Links -/

@[simp] theorem State.mems_putLink (s : State) (l : Nat) (x : Link) : (s.putLink l x).mems = s.mems := by
  simp [State.putLink]
@[simp] theorem keeps_execFlitSend (d : LinkEnd) (pay : DWord) (s : State) : Keeps s (execFlitSend d pay s) := by
  simp [execFlitSend]

@[simp] theorem keeps_execFlitReceive (d : LinkEnd) (lane : BitVec 8) (s : State) : Keeps s (execFlitReceive d lane s) := by
  simp only [execFlitReceive]
  (repeat' split) <;> simp

@[simp] theorem keeps_execAckReceive (d : LinkEnd) (s : State) : Keeps s (execAckReceive d s) := by
  simp only [execAckReceive]
  (repeat' split) <;> simp

@[simp] theorem keeps_execNakReceive (d : LinkEnd) (s : State) : Keeps s (execNakReceive d s) := by
  simp only [execNakReceive]
  (repeat' split) <;> simp

@[simp] theorem keeps_execAckTimeout (d : LinkEnd) (s : State) : Keeps s (execAckTimeout d s) := by
  simp [execAckTimeout]
@[simp] theorem keeps_execLaneShed (l : Nat) (s : State) : Keeps s (execLaneShed l s) := by
  simp [execLaneShed]
@[simp] theorem keeps_execRetrainComplete (l : Nat) (bad : BitVec 8) (s : State) : Keeps s (execRetrainComplete l bad s) := by
  simp [execRetrainComplete]
@[simp] theorem keeps_execLinkReset (l : Nat) (s : State) : Keeps s (execLinkReset l s) := by
  simp [execLinkReset]
@[simp] theorem keeps_execFinjctl (l : Nat) (v : DWord) (s : State) : Keeps s (execFinjctl l v s) := by
  simp [execFinjctl]
@[simp] theorem keeps_execCollctlGo (d : Nat) (s : State) : Keeps s (execCollctlGo d s) := by
  simp [execCollctlGo]
@[simp] theorem State.mems_collOwe (s : State) (d : Nat) (ds : List Nat) : (s.collOwe d ds).mems = s.mems := by rfl
@[simp] theorem keeps_execAttctlGo (d : Nat) (s : State) : Keeps s (execAttctlGo d s) := by
  simp [execAttctlGo]

/-! ### Machine/Twin -/

@[simp] theorem State.mems_dropRequests (s : State) (key at_ : Nat) (q : List TwinEntry) : (s.dropRequests key at_ q).mems = s.mems := by rfl

@[simp] theorem State.mems_restoreCopy (s : State) (key : Nat) (c : Option Group) : (s.restoreCopy key c).mems = s.mems := by
  unfold State.restoreCopy
  split <;> simp

@[simp] theorem State.mems_twinDiffer (s : State) (t : Nat) (x : Twin) : (s.twinDiffer t x).mems = s.mems := by
  simp [State.twinDiffer]

@[simp] theorem State.mems_twinRequest (s : State) (x : Twin) (id : Nat) : (s.twinRequest x id).mems = s.mems := by
  simp only [State.twinRequest]
  split <;> simp

@[simp] theorem State.mems_twinRequests (s : State) (t : Nat) (x : Twin) (a b : List Nat) (result : Bool) :
    (s.twinRequests t x a b result).mems = s.mems := by
  simp [State.twinRequests]

@[simp] theorem State.mems_landFlights (s : State) (t : Nat) : (s.landFlights t).mems = s.mems := by
  unfold State.landFlights
  split <;> simp

@[simp] theorem keeps_execCkptRendezvous (t : Nat) (s : State) : Keeps s (execCkptRendezvous t s) := by
  simp only [execCkptRendezvous]
  (repeat' split) <;> simp

/-! ### Machine/ControlIO -/

@[simp] theorem keeps_execIntroute (d k : Nat) (v : Word) (s : State) : Keeps s (execIntroute d k v s) := by
  simp [execIntroute]
@[simp] theorem keeps_execPcieLinkReset (k : Nat) (s : State) : Keeps s (execPcieLinkReset k s) := by
  simp [execPcieLinkReset]

@[simp] theorem State.mems_readHalf (s : State) (d off : Nat) : (s.readHalf d off).2.mems = s.mems := by
  simp only [State.readHalf]
  split <;> simp

@[simp] theorem State.mems_loadWin (s : State) (d off n : Nat) : (s.loadWin d off n).2.mems = s.mems := by
  simp only [State.loadWin]
  split
  · rfl
  · split <;> simp

theorem State.mems_mapWrite {s t : State} {pa : Nat} {data : List Byte} (h : s.mapWrite pa data = some t) : t.mems = s.mems := by
  unfold State.mapWrite at h
  split at h
  · cases h; simp
  · split at h <;> cases h; simp
  · split at h <;> cases h; rfl

@[simp] theorem State.mems_park (s : State) (i : Access) : (s.park i).mems = s.mems := by rfl
@[simp] theorem keeps_execWarmReset (s : State) : Keeps s (execWarmReset s) := by
  simp [execWarmReset]

/-! ### Machine/Work -/

@[simp] theorem State.mems_vaneEvents (s : State) (die cyc n : Nat) : (s.vaneEvents die cyc n).mems = s.mems := by
  induction n generalizing s with
  | zero => rfl
  | succ n ih =>
    unfold State.vaneEvents
    split
    · rfl
    · refine (ih _).trans ?_
      split
      · simp
      · split <;> simp
      · simp

/-! ### Machine/Run -/

@[simp] theorem State.mems_skip (s : State) (l : Latch) (t : Option (Trap × Option (Instr × Cur))) : (s.skip l t).mems = s.mems := by
  unfold State.skip
  split <;> simp

end Sys2Proof.Machine
end

section
/-! SUPPORT. The operations that write bytes: each keeps the canonical form of the memories (`wf_` for an operation over the state,
`canonical_` for an instruction or an event). -/

namespace Sys2Proof.Machine

open Sys2Proof

/-! ### Canonical memories -/

/-- All three memories are canonical. -/
def Mems.Wf (m : Mems) : Prop := m.dram.wf = true ∧ m.sram.wf = true ∧ m.bst.wf = true

theorem State.memWf_iff_wf (s : State) : s.memWf = true ↔ s.mems.Wf := s.memWf_iff

theorem State.wf_of_mems {s t : State} (e : t.mems = s.mems) (h : s.mems.Wf) : t.mems.Wf := e ▸ h

@[simp] theorem Mems.wf_ite (c : Prop) [Decidable c] (a b : Mems) : (if c then a else b).Wf ↔ if c then a.Wf else b.Wf := by
  split <;> rfl

theorem State.wf_ite {c : Prop} [Decidable c] {a b : State} (ha : a.mems.Wf) (hb : b.mems.Wf) : (if c then a else b).mems.Wf := by
  split
  · exact ha
  · exact hb

theorem State.wf_eachAcc {f : State → Acc → Acc × State} (hf : ∀ s a, s.mems.Wf → (f s a).2.mems.Wf) (l : List Acc) {s : State}
    (h : s.mems.Wf) : (s.eachAcc f l).2.mems.Wf := by
  induction l generalizing s with
  | nil => exact h
  | cons a l ih => exact ih (hf s a h)

theorem State.wf_foldl {α : Type} {f : State → α → State} (l : List α) {s : State} (hf : ∀ s x, s.mems.Wf → (f s x).mems.Wf)
    (h : s.mems.Wf) : (l.foldl f s).mems.Wf :=
  List.foldlRecOn l f (motive := fun t => t.mems.Wf) h fun t ht x _ => hf t x ht

theorem State.wf_foldl_snd {α β : Type} {f : β × State → α → β × State} (l : List α) {p : β × State}
    (hf : ∀ p x, p.2.mems.Wf → (f p x).2.mems.Wf) (h : p.2.mems.Wf) : (l.foldl f p).2.mems.Wf :=
  List.foldlRecOn l f (motive := fun q => q.2.mems.Wf) h fun q hq x _ => hf q x hq

/-- An outcome whose memories are canonical. -/
def Canonical : Host.Outcome State Fault Refusal → Prop
  | .next t => t.mems.Wf
  | _ => True

@[simp] theorem canonical_next (t : State) : Canonical (.next t) ↔ t.mems.Wf := Iff.rfl

theorem Keeps.canonical {s : State} {o : Host.Outcome State Fault Refusal} (h : s.mems.Wf) (k : Keeps s o) : Canonical o := by
  cases o with
  | next t => exact State.wf_of_mems k h
  | fault e => trivial
  | refused e => trivial

theorem State.wf_after {s : State} {o : Host.Outcome State Fault Refusal} (h : s.mems.Wf) (c : Canonical o) : (s.after o).mems.Wf := by
  unfold State.after
  split
  · exact c
  · exact h

/-- An effect beyond the group whose memories are canonical, or a trap. -/
def CanonicalOk : Except Trap State → Prop
  | .ok t => t.mems.Wf
  | .error _ => True

@[simp] theorem canonicalOk_ok (t : State) : CanonicalOk (.ok t) ↔ t.mems.Wf := Iff.rfl

theorem canonical_onState {s : State} {f : Group → State → Except Trap State} (h : s.mems.Wf)
    (hf : ∀ g u, u.mems.Wf → CanonicalOk (f g u)) : Canonical (onState s f) := by
  unfold onState
  split
  · exact h
  next g _ =>
    have hg := hf (g.advance s.cur) (s.putGroup s.cur.key (g.advance s.cur)) h
    split
    next t ht => rw [ht] at hg; exact hg
    · exact h

/-! ### Bytes written -/

@[simp] theorem State.wf_writeAt {s : State} {loc : Nat} {bs : List Byte} {r : Option RelRec} (h : s.mems.Wf) : (s.writeAt loc bs r).mems.Wf :=
  (State.memWf_iff_wf _).1 (State.memWf_writeAt s loc bs r ((State.memWf_iff_wf s).2 h))

@[simp] theorem State.wf_writeAcc {s : State} {r : Req} {a : Acc} (h : s.mems.Wf) : (s.writeAcc r a).mems.Wf := by
  unfold State.writeAcc
  split <;> simp [h]

theorem State.wf_serveStore {s : State} {core : Nat} {r : Req} (h : s.mems.Wf) : (s.serveStore core r).mems.Wf := by
  unfold State.serveStore
  extract_lets here upper s1 halves es p left
  have h1 : s1.mems.Wf := State.wf_foldl _ (fun s a hs => by split <;> simp [hs]) (by simp [h])
  have h2 : p.2.mems.Wf := State.wf_foldl_snd _ (fun p e hp => by split <;> simp [hp]) h1
  split <;> simp [h2]

theorem State.wf_serve {s : State} {core : Nat} {r : Req} (h : s.mems.Wf) : (s.serve core r).mems.Wf := by
  unfold State.serve
  split
  · simp [h]
  split
  case h_1 | h_2 => exact State.wf_serveStore h
  case h_3 | h_4 | h_5 | h_6 =>
    extract_lets s1 p p'
    have hp : p.2.mems = s.mems := by
      refine (State.mems_eachAcc _ (fun t a => ?_) _ _).trans (State.mems_countLines ..)
      simp
    split <;> simp [p', hp, h]
  case h_7 =>
    extract_lets bad p
    have hp : p.2.mems = s.mems := by
      refine State.mems_eachAcc _ (fun t a => ?_) _ _
      cases a.rel <;> simp
    clear_value bad
    split
    · simp [h]
    · simp [hp, h]
  case h_8 | h_9 =>
    extract_lets p p' t accs asleep
    have hp : p.2.mems = s.mems := State.mems_eachAcc _ (fun t a => State.mems_testWord ..) _ _
    have ht : t.mems = s.mems := by simp [t, p', hp]
    split
    · split
      · split <;> simp [p', ht, hp, h]
      · simp [ht, h]
    · simp [ht, h]
  case h_10 =>
    extract_lets t
    have ht : t.mems = s.mems := State.mems_delReq ..
    cases t.group? r.key <;> simp [ht, h]
  case h_11 | h_12 => exact h

theorem State.wf_serveCore {s : State} {c id : Nat} {err : Ecc} (h : s.mems.Wf) : (s.serveCore c id err).mems.Wf := by
  unfold State.serveCore
  split
  · exact State.wf_ite (State.wf_ite (State.wf_serve (by simp [h])) h) h
  · exact h

@[simp] theorem State.wf_writeMasked {s : State} {loc : Nat} {rels : List (Option RelRec)} {l : List (Option Byte)} (h : s.mems.Wf) :
    (s.writeMasked loc rels l).mems.Wf := by
  induction l generalizing s loc rels with
  | nil => exact h
  | cons b l ih =>
    cases b with
    | none => exact ih h
    | some b => exact ih (State.wf_writeAt h)

@[simp] theorem State.wf_copyDrain {s : State} {src core : Nat} {e : InEntry} (h : s.mems.Wf) : (s.copyDrain src core e).mems.Wf := by
  unfold State.copyDrain
  simp [h]

theorem canonical_execInboundDrain (core : Nat) {s : State} (h : s.mems.Wf) : Canonical (execInboundDrain core s) := by
  unfold execInboundDrain
  extract_lets c
  rw [canonical_next]
  split
  · exact h
  split
  · exact h
  · simp [h]

@[simp] theorem State.wf_rmwAcc {s : State} {core : Nat} {r : Req} {a : Acc} (h : s.mems.Wf) : (s.rmwAcc core r a).2.mems.Wf := by
  unfold State.rmwAcc
  split
  · exact h
  extract_lets s1 old w new done s2 rec'
  have h1 : s1.mems.Wf := by simp [s1, h]
  have h2 : s2.mems.Wf := by simp [s2, h1]
  clear_value new
  split
  · simpa using h1
  · exact State.wf_writeAt h2

theorem State.wf_perform {s : State} {core : Nat} {r : Req} {lost : Bool} (h : s.mems.Wf) : (s.perform core r lost).mems.Wf := by
  unfold State.perform
  split
  · simp [h]
  next a _ _ =>
  extract_lets fin p
  have hfin : ∀ t accs, t.mems.Wf → (fin t accs).mems.Wf := fun t accs ht => by simp [fin, ht]
  split
  · exact hfin _ _ h
  · exact hfin _ _ (by simpa using State.wf_eachAcc (fun t a ht => State.wf_rmwAcc ht) r.accs (by simp [h]))

theorem canonical_execAtomicPerform (core id : Nat) (lost : Bool) (err : Ecc) {s : State} (h : s.mems.Wf) :
    Canonical (execAtomicPerform core id lost err s) := by
  unfold execAtomicPerform
  rw [canonical_next]
  split
  · exact h
  split
  case h_1 | h_2 =>
    refine State.wf_ite h ?_
    split
    · simp [h]
    · refine State.wf_ite (State.wf_perform h) ?_
      split
      · simp [h]
      · exact State.wf_perform (by simp [h])
  case h_3 => exact h

/-! ### Rings of calls -/

@[simp] theorem State.wf_drawTicket {s : State} {r : RingHdr} (h : s.mems.Wf) : (s.drawTicket r).2.mems.Wf :=
  State.wf_writeAt h

@[simp] theorem State.wf_postCall {s : State} {r : RingHdr} {key blk ticket rid : Nat} {num : Word} {args : List Word} {time : Nat} {pc : DWord}
    (h : s.mems.Wf) : (s.postCall r key blk ticket rid num args time pc).mems.Wf := by
  unfold State.postCall
  extract_lets at_ place s1 s2 s3
  have h3 : s3.mems.Wf := State.wf_writeAt (State.wf_writeAt (State.wf_writeAt h))
  simp [h3]

theorem canonical_execSyscall (o : OpX) {s : State} (h : s.mems.Wf) : Canonical (execSyscall o s) := by
  refine canonical_onState h fun g t ht => ?_
  split
  · exact ht
  · trivial
  split
  · trivial
  · exact ht
  · trivial
  next r num args _ _ =>
  split
  · trivial
  next g' _ =>
  extract_lets regs time
  split
  · simp [ht]
  · exact State.wf_postCall (by simp [ht])
  · split
    · exact State.wf_postCall (by simp [ht])
    · simp [ht]

theorem canonical_execSyscallTicketDraw (key : Nat) {s : State} (h : s.mems.Wf) : Canonical (execSyscallTicketDraw key s) := by
  unfold execSyscallTicketDraw
  rw [canonical_next]
  split
  · exact h
  split
  · exact State.wf_ite (by simp [h]) h
  · exact h

/-! ### Copies -/

theorem canonical_execCopyElement (core tag k : Nat) (err : Ecc) {s : State} (h : s.mems.Wf) : Canonical (execCopyElement core tag k err s) := by
  unfold execCopyElement
  rw [canonical_next]
  split
  · exact h
  split
  next b _ _ =>
    split
    next sa da _ =>
      refine State.wf_ite h ?_
      extract_lets n fail
      have hfail : ∀ t e a die, t.mems.Wf → (fail t e a die).mems.Wf := fun t e a die ht => by simp [fail, ht]
      split
      next t e =>
        exact hfail _ _ _ _ (State.wf_of_mems ((State.mems_of_eq e).trans (State.mems_copyPlace ..)) h)
      next sl t e =>
        have ht : t.mems.Wf := State.wf_of_mems ((State.mems_of_eq e).trans (State.mems_copyPlace ..)) h
        refine State.wf_ite (hfail _ _ _ _ ht) ?_
        split
        next u e =>
          exact hfail _ _ _ _ (State.wf_of_mems ((State.mems_of_eq e).trans (State.mems_copyPlace ..)) ht)
        next dl u e =>
          have hu : u.mems.Wf := State.wf_of_mems ((State.mems_of_eq e).trans (State.mems_copyPlace ..)) ht
          extract_lets u1 bs u2 base
          have hu2 : u2.mems.Wf := by simp [u2, u1, hu]
          exact State.wf_ite h (State.wf_ite (State.wf_ite h (by simp [hu2])) (by simp [hu2]))
    · simp [h]
  · exact h

theorem State.canonical_copyStep {s : State} {core tag : Nat} (h : s.mems.Wf) : Canonical (s.copyStep core tag) := by
  unfold State.copyStep
  split
  · split
    · exact (keeps_execCopyFault core tag s).canonical h
    · split
      · exact canonical_execCopyElement _ _ _ _ h
      · exact (keeps_execCopyRetire core tag s).canonical h
  · exact h

/-! ### The matrix unit -/

@[simp] theorem State.wf_wildDrain {s : State} {core : Nat} {j : Job} (h : s.mems.Wf) : (s.wildDrain core j).mems.Wf := by
  unfold State.wildDrain
  split
  · exact h
  · refine State.wf_foldl _ (fun s k hs => ?_) h
    split
    · exact State.wf_writeAt (by simp [hs])
    · exact hs

@[simp] theorem State.wf_spoilJobs {s : State} {core key blk td : Nat} (h : s.mems.Wf) : (s.spoilJobs core key blk td).mems.Wf := by
  unfold State.spoilJobs
  exact State.wf_foldl _ (fun s j hs => by simp [hs]) (by simp [h])

theorem canonical_execBsld (o : OpX) {s : State} (h : s.mems.Wf) : Canonical (execBsld o s) := by
  refine canonical_onState h fun g t ht => ?_
  split
  · exact ht
  · exact ht
  next b _ _ =>
  extract_lets td r n code c busy ext used p t1 c1
  split
  · trivial
  split
  · trivial
  split
  · trivial
  split
  · trivial
  split
  · trivial
  split
  · trivial
  have hp : p.2.mems.Wf := by
    unfold p
    split
    · exact ht
    · simpa using ht
  split
  · trivial
  split
  · simp [ht]
  · extract_lets x u u1
    have hu : u.mems.Wf := by simp [u, t1, hp]
    have hu1 : u1.mems.Wf := State.wf_ite (by simp [hu]) hu
    simpa using hu1

theorem canonical_execBsldComplete (core id : Nat) {s : State} (h : s.mems.Wf) : Canonical (execBsldComplete core id s) := by
  unfold execBsldComplete
  rw [canonical_next]
  extract_lets c
  split
  · exact h
  next s1 _ x _ =>
  refine State.wf_ite h ?_
  extract_lets s2 s3 tile
  split
  · simp [s1, h]
  · obtain ⟨hd, hs, hb⟩ : s2.mems.Wf := by simp [s2, s1, h]
    exact ⟨hd, hs, Mem.wf_setBytes _ _ _ hb⟩

theorem canonical_execAnvilDrain (core : Nat) {s : State} (h : s.mems.Wf) : Canonical (execAnvilDrain core s) := by
  unfold execAnvilDrain
  rw [canonical_next]
  split
  · exact h
  split
  next b _ _ =>
    split
    next tile e fmt _ acc hp =>
    have hacc : acc.2.mems.Wf := by
      rw [← State.mems_drainAcc s core b _ _, hp] at h; exact h
    extract_lets w bytes
    split
    · simpa using hacc
    · simpa using hacc
    · exact State.wf_ite h (by simp [hacc])
  · exact h

theorem State.canonical_anvilStep {s : State} {core : Nat} (h : s.mems.Wf) : Canonical (s.anvilStep core) := by
  unfold State.anvilStep
  extract_lets c
  split
  · exact (keeps_execJobFault core s).canonical h
  split
  · exact (keeps_execJobStart core s).canonical h
  split
  · exact h
  split
  · exact (keeps_execAnvilIteration core 0 s).canonical h
  split
  · exact canonical_execAnvilDrain core h
  · exact (keeps_execJobDone core s).canonical h

/-! ### Commands of the queues -/

theorem State.wf_virtWrite {s t : State} {die : Nat} {root va : DWord} {bs : List Byte} {rel : Option RelRec} (h : s.mems.Wf)
    (e : s.virtWrite die root va bs rel = some t) : t.mems.Wf := by
  obtain ⟨ls, -, rfl⟩ := Option.map_eq_some_iff.1 e
  exact State.wf_foldl _ (fun s x hs => State.wf_writeAt hs) h

theorem State.wf_virtWrite_getD {s : State} {die : Nat} {root va : DWord} {bs : List Byte} {rel : Option RelRec} (h : s.mems.Wf) :
    ((s.virtWrite die root va bs rel).getD s).mems.Wf := by
  cases e : s.virtWrite die root va bs rel with
  | none => exact h
  | some t => exact State.wf_virtWrite h e

@[simp] theorem State.wf_completeCmd {s : State} {d q : Nat} {c : Cmd} {status cause replays : Nat} (h : s.mems.Wf) :
    (s.completeCmd d q c status cause replays).mems.Wf := by
  unfold State.completeCmd
  extract_lets w word s1 x x1
  rw [State.mems_wakeFront, State.mems_addDue, State.mems_putQueue]
  exact State.wf_ite h (State.wf_virtWrite_getD h)

theorem canonical_execCommandConsume (d q : Nat) {s : State} (h : s.mems.Wf) : Canonical (execCommandConsume d q s) := by
  unfold execCommandConsume
  extract_lets x e va x1
  rw [canonical_next]
  refine State.wf_ite h ?_
  split
  · simp [h]
  · extract_lets c x2 s1 s2
    have h2 : s2.mems.Wf := h
    clear_value c s2
    exact State.wf_ite (by simp [h2]) (State.wf_completeCmd h2)

theorem canonical_execNopCommand (d q : Nat) {s : State} (h : s.mems.Wf) : Canonical (execNopCommand d q s) := by
  unfold execNopCommand
  rw [canonical_next]
  split
  · exact State.wf_ite (State.wf_completeCmd h) (State.wf_completeCmd h)
  · exact h

theorem canonical_execWaitmem (d q : Nat) {s : State} (h : s.mems.Wf) : Canonical (execWaitmem d q s) := by
  unfold execWaitmem
  rw [canonical_next]
  split
  · exact State.wf_ite (State.wf_completeCmd h) (by simp [h])
  · exact h

theorem canonical_execWaitmemSatisfied (d q : Nat) {s : State} (h : s.mems.Wf) : Canonical (execWaitmemSatisfied d q s) := by
  unfold execWaitmemSatisfied
  rw [canonical_next]
  split
  · split
    · exact State.wf_ite (State.wf_completeCmd h) h
    · exact h
  · exact h

theorem canonical_execWritemem (d q : Nat) {s : State} (h : s.mems.Wf) : Canonical (execWritemem d q s) := by
  unfold execWritemem
  rw [canonical_next]
  extract_lets _ s1
  have h1 : s1.mems.Wf := by
    unfold s1
    split
    · simp [h]
    · exact h
  split
  · refine State.wf_ite ?_ h1
    split
    next e => exact State.wf_completeCmd (State.wf_virtWrite h1 e)
    · exact State.wf_completeCmd h1
  · exact h1

theorem canonical_execLaunch (d q : Nat) {s : State} (h : s.mems.Wf) : Canonical (execLaunch d q s) := by
  unfold execLaunch
  rw [canonical_next]
  split
  · exact h
  extract_lets x reject
  have hr : ∀ k, (reject k).mems.Wf := fun k => State.wf_completeCmd h
  split
  · exact hr _
  · exact hr _
  refine State.wf_ite (hr _) ?_
  split
  · exact hr _
  · extract_lets l
    split
    next s1 _ _ _ _ _ _ =>
    exact State.wf_ite (hr _) (State.wf_ite (hr _) (by simp [s1, h]))

/-! ### Launches and blocks -/

theorem State.wf_takeCore (s : State) (blk rid : Nat) (p : Plan) (need : Need) (h : s.mems.Wf) : (s.takeCore blk rid p need).mems.Wf := by
  obtain ⟨hd, hs, hb⟩ := h
  exact ⟨hd, Mem.wf_clear _ _ _ hs, SMap.canon_replace _ _ _ _ _ (Nat.le_add_right ..) hb (SMap.canon_tabulate ..)
    (fun _ hc => SMap.mem_tabulate _ _ _ _ hc)⟩

@[simp] theorem State.wf_startBlock {s : State} {blk : Nat} {b : Block} {p : Plan} {need : Need} {mk : Nat → Group} (h : s.mems.Wf) :
    (s.startBlock blk b p need mk).mems.Wf := by
  unfold State.startBlock
  simp [State.wf_takeCore, h]

theorem canonical_execBlockStart (id : Nat) {s : State} (h : s.mems.Wf) : Canonical (execBlockStart id s) := by
  unfold execBlockStart
  rw [canonical_next]
  split
  · exact h
  refine State.wf_ite h ?_
  split
  · exact h
  extract_lets need w ids pairs count graph s1 s2 x s3 s4 s5
  have h3 : s3.mems.Wf := h
  have h4 : s4.mems.Wf := State.wf_foldl _ (fun s p hs => State.wf_startBlock hs) h3
  have h5 : s5.mems.Wf := by
    refine State.wf_ite h4 (State.wf_of_mems (State.mems_foldl _ _ _ fun s i => ?_) h4)
    split
    · split <;> rfl
    · rfl
  simp [h5]

@[simp] theorem State.wf_endLaunch {s : State} {id : Nat} {l : Launch} {status cause : Nat} (h : s.mems.Wf) :
    (s.endLaunch id l status cause).mems.Wf := by
  unfold State.endLaunch
  extract_lets s1 _ s2
  have h2 : s2.mems.Wf := State.wf_completeCmd h
  exact State.wf_ite (by simp [h2]) h2

theorem canonical_execLaunchComplete (id : Nat) {s : State} (h : s.mems.Wf) : Canonical (execLaunchComplete id s) := by
  unfold execLaunchComplete
  rw [canonical_next]
  split
  · exact h
  · exact State.wf_ite h (State.wf_endLaunch h)

/-! ### Graphs -/

theorem canonical_execGraph (d q : Nat) {s : State} (h : s.mems.Wf) : Canonical (execGraph d q s) := by
  unfold execGraph
  rw [canonical_next]
  split
  · exact h
  extract_lets x reject
  have hr : ∀ k, (reject k).mems.Wf := fun k => State.wf_completeCmd h
  split
  · exact hr _
  · exact hr _
  split
  · exact hr _
  extract_lets l
  refine State.wf_ite (hr _) ?_
  split
  · exact hr _
  next s1 _ _ _ => exact State.wf_ite (hr _) (by simp [s1, h])

theorem State.wf_launchNode {s t : State} {gr node q count : Nat} (h : s.mems.Wf) (e : s.launchNode gr node q count = some t) : t.mems.Wf := by
  unfold State.launchNode at e
  split at e
  next g l n _ _ _ =>
    extract_lets batch need ordered at e
    split at e
    next a b area d _ _ =>
      split at e
      · cases e
      · split at e
        next p _ =>
          extract_lets at e
          obtain rfl := Option.some.inj e
          exact State.wf_startBlock h
        · cases e
    · cases e
  · cases e

@[simp] theorem State.wf_launchFull {s : State} {gr node q n : Nat} (h : s.mems.Wf) : (s.launchFull gr node q n).mems.Wf := by
  induction n generalizing s with
  | zero => exact h
  | succ k ih =>
    unfold State.launchFull
    split
    · refine State.wf_ite ?_ h
      split
      next e => exact ih (State.wf_launchNode h e)
      · exact h
    · exact h

@[simp] theorem State.wf_launchRest {s : State} {gr node q : Nat} (h : s.mems.Wf) : (s.launchRest gr node q).mems.Wf := by
  unfold State.launchRest
  split
  · refine State.wf_ite h ?_
    split
    next t e =>
      have ht := State.wf_launchNode h e
      split
      · exact State.wf_ite ht (by simp [ht])
      · exact ht
    · exact h
  · exact h

@[simp] theorem State.wf_comeDue {s : State} {gr node q : Nat} (h : s.mems.Wf) : (s.comeDue gr node q).mems.Wf := by
  unfold State.comeDue
  split
  · exact h
  · exact State.wf_ite h (State.wf_launchRest (by simp [h]))

theorem canonical_execBinEvaluation (die : Nat) {s : State} (h : s.mems.Wf) : Canonical (execBinEvaluation die s) := by
  unfold execBinEvaluation
  rw [canonical_next]
  extract_lets qs s1 s2 quiet
  have h1 : s1.mems.Wf := by simp [s1, h]
  have h2 : s2.mems.Wf := by
    refine State.wf_foldl _ (fun s x hs => ?_) h1
    extract_lets t
    have ht : t.mems.Wf := State.wf_launchFull hs
    split
    · exact State.wf_ite (State.wf_launchRest ht) ht
    · exact ht
  exact State.wf_foldl _ (fun s x hs => State.wf_ite (State.wf_comeDue hs) hs) h2

theorem canonical_execBinTimerExpiry (gr node q : Nat) {s : State} (h : s.mems.Wf) : Canonical (execBinTimerExpiry gr node q s) :=
  State.wf_ite (State.wf_comeDue h) h

@[simp] theorem State.wf_writeStatus {s : State} {gr : Nat} (h : s.mems.Wf) : (s.writeStatus gr).mems.Wf := by
  unfold State.writeStatus
  split
  · exact State.wf_foldl _ (fun s n hs => State.wf_virtWrite_getD hs) h
  · exact h

theorem canonical_execNodeStatusWrite (gr : Nat) {s : State} (h : s.mems.Wf) : Canonical (execNodeStatusWrite gr s) := State.wf_writeStatus h

theorem canonical_execGstatus (d q : Nat) {s : State} (h : s.mems.Wf) : Canonical (execGstatus d q s) := by
  unfold execGstatus
  rw [canonical_next]
  split
  · exact h
  split
  · exact State.wf_completeCmd (State.wf_writeStatus h)
  · exact State.wf_completeCmd h

theorem canonical_execGraphComplete (gr : Nat) {s : State} (h : s.mems.Wf) : Canonical (execGraphComplete gr s) := by
  unfold execGraphComplete
  rw [canonical_next]
  split
  · exact State.wf_ite (State.wf_endLaunch (State.wf_writeStatus h)) h
  · exact h

/-! ### Traps, kills and rollbacks -/

theorem State.wf_putDie {s : State} {k : Nat} {x : Die} (h : s.mems.Wf) : (s.putDie k x).mems.Wf := h

theorem State.wf_groups_blocks {s : State} {g : SMap Group} {b : SMap Block} (h : s.mems.Wf) :
    ({ s with groups := g, blocks := b } : State).mems.Wf := h

theorem canonical_execTrapDelivery (d : Nat) {s : State} (h : s.mems.Wf) : Canonical (execTrapDelivery d s) := by
  unfold execTrapDelivery
  extract_lets x
  rw [canonical_next]
  split
  · exact h
  refine State.wf_ite h ?_
  extract_lets s1 x1 s2 tell s3
  have h3 : s3.mems.Wf := State.wf_groups_blocks (State.wf_putDie (State.wf_writeAt h))
  rw [State.mems_addDue, State.mems_dieEvent]
  exact h3

@[simp] theorem State.wf_killOne {s : State} {id cause : Nat} (h : s.mems.Wf) : (s.killOne id cause).mems.Wf := by
  unfold State.killOne
  split
  · exact h
  next l _ =>
    have h1 : (s.removeBlocks false id).mems.Wf := by simp [h]
    exact State.wf_endLaunch h1

@[simp] theorem State.wf_kill {s : State} {id cause : Nat} (h : s.mems.Wf) : (s.kill id cause).mems.Wf := by
  unfold State.kill
  split
  · exact h
  · exact State.wf_foldl _ (fun s i hs => State.wf_killOne hs) h

theorem canonical_execLaunchKill (id : Nat) (cause : BitVec 9) {s : State} (h : s.mems.Wf) : Canonical (execLaunchKill id cause s) :=
  State.wf_kill h

@[simp] theorem State.wf_restoreSnap {s : State} {l : Launch} {x : Snap} (h : s.mems.Wf) : (s.restoreSnap l x).mems.Wf := State.wf_writeAt h

@[simp] theorem State.wf_startAgain {s : State} {id : Nat} {l : Launch} (h : s.mems.Wf) : (s.startAgain id l).mems.Wf := by
  unfold State.startAgain
  extract_lets s1 desc l' s2 s3
  have h1 : s1.mems.Wf := State.wf_foldl _ (fun s x hs => State.wf_restoreSnap hs) h
  have h3 : s3.mems.Wf := by simpa [s3, s2] using h1
  simpa using h3

theorem canonical_execRollback (id : Nat) {s : State} (h : s.mems.Wf) : Canonical (execRollback id s) := by
  unfold execRollback
  rw [canonical_next]
  split
  · exact h
  refine State.wf_ite h ?_
  extract_lets s1
  have h1 : s1.mems.Wf := State.wf_ite h (by simp [h])
  refine State.wf_ite (by simp [h1]) ?_
  split
  · exact State.wf_startAgain h1
  · exact h1

theorem State.canonical_consumeError {s : State} {id cause : Nat} (h : s.mems.Wf) : Canonical (s.consumeError id cause) := by
  unfold State.consumeError
  split
  · exact h
  split
  · exact State.wf_kill h
  split
  · exact h
  split
  · exact canonical_execRollback id h
  · exact State.wf_kill h

theorem canonical_execTractKill (d : Nat) (v : Word) {s : State} (h : s.mems.Wf) : Canonical (execTractKill d v s) := by
  unfold execTractKill
  rw [canonical_next]
  split
  · exact h
  · split
    · exact State.wf_kill h
    · exact h

theorem canonical_execMigrationDone (d : Nat) {s : State} (h : s.mems.Wf) : Canonical (execMigrationDone d s) := by
  unfold execMigrationDone
  extract_lets x src dst from_ dram s1
  rw [canonical_next]
  obtain ⟨hd, hs, hb⟩ := h
  have hdram : dram.wf = true := Mem.wf_foldl_setByte _ _ _ _ hd
  clear_value dram
  have h1 : s1.mems.Wf := ⟨hdram, hs, hb⟩
  exact State.wf_ite ⟨hd, hs, hb⟩ (by simp [h1])

/-! ### Preemption and restore -/

theorem State.wf_putSpan {s : State} {pa n : Nat} {bs : List Byte} (h : s.mems.Wf) : (s.putSpan pa n bs).mems.Wf := by
  induction n generalizing s pa bs with
  | zero => exact h
  | succ k ih =>
    obtain ⟨hd, hs, hb⟩ := h
    have h1 : Mems.Wf ⟨s.dram.splice (s.moved (dramLoc 0 pa)) (bs.take (min bs.length (4096 - pa % 4096))), s.sram, s.bst⟩ :=
      ⟨Mem.wf_splice _ _ _ hd, hs, hb⟩
    exact ih (by simpa using h1)

@[simp] theorem State.wf_statusOf {s : State} {rid : Nat} (h : s.mems.Wf) : (s.statusOf rid).mems.Wf :=
  State.wf_foldl _ (fun _ _ hs => State.wf_writeStatus hs) h

theorem canonical_execPreempt (d : Nat) {s : State} (h : s.mems.Wf) : Canonical (execPreempt d s) := by
  unfold execPreempt
  extract_lets x
  rw [canonical_next]
  refine State.wf_ite h ?_
  split
  · exact State.wf_ite h (by simp [h])
  next s1 _ _ =>
    have h1 : s1.mems.Wf := h
    exact State.wf_ite (by simp [h]) (State.wf_ite (by simp [h1]) (by simp [h1]))

theorem State.wf_saveBlock {s : State} {blk : Nat} {b : Block} {base : Nat} (h : s.mems.Wf) : (s.saveBlock blk b base).mems.Wf := by
  unfold State.saveBlock
  extract_lets s1 s2 gs ordered groups bytes c jobs tags b0 sbck s3 s4
  have h1 : s1.mems.Wf := by simp [s1, h]
  have h2 : s2.mems.Wf := by simp [s2, h1]
  have h3 : s3.mems.Wf := State.wf_putSpan h2
  have h4 : s4.mems.Wf := by simp [s4, h3]
  exact h4

theorem canonical_execBlockPreempt (blk : Nat) {s : State} (h : s.mems.Wf) : Canonical (execBlockPreempt blk s) := by
  unfold execBlockPreempt
  rw [canonical_next]
  split
  · exact h
  split
  · extract_lets s1 s2 s3
    have h1 : s1.mems.Wf := by simp [s1, h]
    refine State.wf_ite h1 ?_
    have h2 : s2.mems.Wf := State.wf_saveBlock h1
    refine State.wf_ite h2 ?_
    have h3 : s3.mems.Wf := State.wf_statusOf h2
    simp [h3]
  · exact h

theorem State.wf_putBack {s : State} {base : Nat} {x : Nat × Block × Plan × List (Nat × Nat)} (h : s.mems.Wf) : (s.putBack base x).mems.Wf := by
  unfold State.putBack
  split
  next blk b p _ =>
  split
  · exact h
  split
  extract_lets need core s1 off o1 o2 o3 data fe empties c wild ks acc tags jobs s2 s3 s4 s5 bars place nb s6 s7 s8
  have h2 : s2.mems.Wf := State.wf_takeCore s blk b.region p need h
  have h3 : s3.mems.Wf := by
    obtain ⟨hd, hs, hb⟩ := h2
    exact ⟨hd, Mem.wf_splice _ _ _ hs, Mem.wf_splice _ _ _ hb⟩
  clear_value s3
  have h8 : s8.mems.Wf := by simpa [s8, s7, s6, s5, s4] using h3
  refine State.wf_of_mems (State.mems_foldl _ _ _ fun t g => ?_) h8
  split
  · extract_lets key st oldB newB bat _ g' t1 t2
    have h2 : t2.mems = t.mems := by
      unfold t2
      cases bat <;> rfl
    split
    · rfl
    split
    · exact h2
    · exact h2
  · rfl

theorem canonical_execBlockRestore (blk : Nat) {s : State} (h : s.mems.Wf) : Canonical (execBlockRestore blk s) := by
  unfold execBlockRestore
  rw [canonical_next]
  split
  · exact h
  split
  · refine State.wf_ite h ?_
    extract_lets done mates
    have hd : ∀ t, t.mems.Wf → (done t).mems.Wf := fun t ht => State.wf_ite ht (by simp [ht])
    refine State.wf_ite (hd _ (State.wf_kill h)) (State.wf_ite h ?_)
    split
    · exact h
    · refine hd _ ?_
      simp only [State.mems_wakeGroups, State.mems_followSpans, State.mems_relink, State.mems_tickFree]
      exact State.wf_foldl _ (fun s p hs => State.wf_putBack hs) h
  · exact h

/-! ### Collectives and quotes -/

@[simp] theorem State.wf_collEnd {s : State} {d compl code : Nat} (h : s.mems.Wf) : (s.collEnd d compl code).mems.Wf := by
  unfold State.collEnd
  extract_lets s1
  exact State.wf_putDie (State.wf_ite (State.wf_writeAt h) h)

@[simp] theorem State.wf_collEnds {s : State} {ds : List Nat} {code : Nat} (h : s.mems.Wf) : (s.collEnds ds code).mems.Wf :=
  State.wf_foldl _ (fun _ _ hs => State.wf_collEnd hs) h

theorem canonical_execCollectiveComplete (d : Nat) {s : State} (h : s.mems.Wf) : Canonical (execCollectiveComplete d s) := by
  unfold execCollectiveComplete
  rw [canonical_next]
  refine State.wf_ite h ?_
  split
  · simp [h]
  split
  · simp [h]
  · extract_lets c agree bytes t
    refine State.wf_ite h (State.wf_ite (State.wf_collEnds h) ?_)
    have ht : t.mems.Wf := State.wf_foldl _ (fun _ _ hs => State.wf_writeAt hs) h
    rw [State.mems_tickFree]
    exact State.wf_foldl _ (fun _ _ hs => State.wf_collEnd hs) ht

theorem canonical_execQuoteSign (d : Nat) {s : State} (h : s.mems.Wf) : Canonical (execQuoteSign d s) := by
  unfold execQuoteSign
  extract_lets x
  rw [canonical_next]
  split
  · exact State.wf_ite h (State.wf_putDie (State.wf_writeAt h))
  · exact h

/-! ### Twins -/

theorem State.wf_twinCall {s t : State} {x : Twin} {a b : Nat} {num : Word} {args : List Word} {time : Nat} {pc : DWord} (h : s.mems.Wf)
    (e : s.twinCall x a b num args time pc = some t) : t.mems.Wf := by
  unfold State.twinCall at e
  split at e
  · obtain rfl := Option.some.inj e
    exact h
  split at e
  next r _ _ =>
    split at e
    · cases e
    · obtain rfl := Option.some.inj e
      exact State.wf_postCall (by simp [h])
  · obtain rfl := Option.some.inj e
    exact h

theorem State.wf_twinAgree {s u : State} {t : Nat} {x : Twin} {l r : TwinOp} (h : s.mems.Wf) (e : s.twinAgree t x l r = some u) : u.mems.Wf := by
  unfold State.twinAgree at e
  extract_lets launch at e
  split at e
  case h_5 => exact State.wf_twinCall h e
  all_goals obtain rfl := Option.some.inj e
  · simp [h]
  · rw [State.mems_addDue]
    split <;> simp [h]
  · simp [h]
  · simp [h]
  · exact h

theorem canonical_execTwinCompare (t : Nat) {s : State} (h : s.mems.Wf) : Canonical (execTwinCompare t s) := by
  unfold execTwinCompare
  extract_lets s1
  have h1 : s1.mems.Wf := by simp [s1, h]
  rw [canonical_next]
  split
  · exact h1
  split
  · refine State.wf_ite h1 ?_
    split
    · split
      next u e =>
        have hu := State.wf_twinAgree h1 e
        simp [hu]
      · exact h1
    · simp [h1]
  · exact State.wf_ite (by simp [h1]) h1
  · exact State.wf_ite (by simp [h1]) h1
  · simp [h1]

theorem State.canonical_twinStep {s : State} {t : Nat} (h : s.mems.Wf) : Canonical (s.twinStep t) := by
  unfold State.twinStep
  split
  · split
    · exact (keeps_execCkptRendezvous t s).canonical h
    · exact canonical_execTwinCompare t h
  · exact h

theorem canonical_execTract (d : Nat) (v : Word) {s : State} (h : s.mems.Wf) : Canonical (execTract d v s) := by
  unfold execTract
  split
  · exact (keeps_execTractResumeTrpc d v s).canonical h
  · exact (keeps_execTractResumePc d v s).canonical h
  · exact (keeps_execTractEndGroup d v s).canonical h
  · exact canonical_execTractKill d v h

/-! ### Registers and the bus -/

theorem State.wf_writeReg {s : State} {d : Nat} {r : Reg} {n : Nat} {fw : Bool} (h : s.mems.Wf) : (s.writeReg d r n fw).mems.Wf := by
  unfold State.writeReg
  extract_lets x w v
  cases r with
  | queue q o =>
    dsimp only
    split <;> simp [h]
  | trans o =>
    dsimp only
    split
    case h_6 => exact State.wf_after h (canonical_execTract d v h)
    all_goals simp [h]
  | port hh o =>
    dsimp only
    split
    · simp [h]
    · split <;> simp [h]
  | link i o =>
    dsimp only
    split <;> simp [h]
  | attctl =>
    refine State.wf_of_mems ?_ h
    simp +zetaDelta
  | tmrpend | introute | intpend | fwreq | fwctl | colldesc | collctl | attbuf | slottab | clkrat | tokbal | passcnt | bootstat
    | tmrcmp | rcount | dcount | iommu | none => simp [h]

theorem State.wf_storeWin {s : State} {d off n x : Nat} {fw : Bool} (h : s.mems.Wf) : (s.storeWin d off n x fw).mems.Wf := by
  unfold State.storeWin
  extract_lets r u
  split
  · exact State.wf_ite (State.wf_writeReg h) (State.wf_writeReg (State.wf_writeReg h))
  · exact State.wf_ite (State.wf_writeReg h) (State.wf_ite (State.wf_writeReg h) (State.wf_writeReg h))

theorem canonical_execRegisterWrite (d off n : Nat) (v : DWord) (m : Master) {s : State} (h : s.mems.Wf) :
    Canonical (execRegisterWrite d off n v m s) :=
  State.wf_ite h (State.wf_ite (State.wf_storeWin (by simp [h])) (by simp [h]))

theorem State.wf_busDram {s : State} {reqDie loc : Nat} {o : BusOp} (h : s.mems.Wf) : (s.busDram reqDie loc o).mems.Wf := by
  cases o with
  | read n => simpa [State.busDram] using h
  | write data rel => exact State.wf_of_mems (s := (s.linesServed _ _).writeAt loc data _) rfl (State.wf_writeAt (by simp [h]))
  | amoadd v rel => exact State.wf_of_mems (s := (s.linesServed _ _).writeAt loc _ _) rfl (State.wf_writeAt (by simp [h]))

theorem State.wf_mapWrite {s t : State} {pa : Nat} {data : List Byte} (h : s.mems.Wf) (e : s.mapWrite pa data = some t) : t.mems.Wf :=
  State.wf_of_mems (State.mems_mapWrite e) h

theorem State.wf_bus {s : State} {m : Master} {pa loc : Nat} {o : BusOp} (h : s.mems.Wf) : (s.bus m pa loc o).mems.Wf := by
  unfold State.bus
  extract_lets w
  have hx : (s.except m none).mems.Wf := by simp [h]
  have hr : (s.refuse m).mems.Wf := by simp [h]
  split
  · rw [State.mems_tickFree]
    exact State.wf_busDram hx
  split
  · refine State.wf_ite hr ?_
    split
    · simp +zetaDelta [h]
    · exact State.wf_storeWin (s := s.except m none) hx
    · exact hr
  split
  · split
    · exact State.wf_of_mems (State.mems_tickFree _) hx
    · exact hr
  · split
    next t e =>
      have ht : t.mems.Wf := State.wf_mapWrite hx e
      exact ht
    · exact hr
  · exact hr

theorem State.wf_busAccess {s : State} {m : Master} {pa place : Nat} {o : BusOp} (h : s.mems.Wf) : (s.busAccess m pa place o).mems.Wf := by
  unfold State.busAccess
  extract_lets loc
  exact State.wf_ite h (State.wf_ite (by simp [h]) (State.wf_bus h))

theorem canonical_execMemoryRequestServe (q : ServeReq) {s : State} (h : s.mems.Wf) : Canonical (execMemoryRequestServe q s) := by
  cases q with
  | core c id err => exact State.wf_serveCore h
  | bus m pa place o => exact State.wf_busAccess h

theorem State.wf_peerAccess {s : State} {k : Nat} {r : PeerReq} (h : s.mems.Wf) : (s.peerAccess k r).mems.Wf := by
  unfold State.peerAccess
  extract_lets d refused
  have hr : refused.mems.Wf := h
  refine State.wf_ite hr (State.wf_ite (by simp [h]) ?_)
  split
  · split
    · exact hr
    · refine State.wf_ite (State.wf_busDram h) (State.wf_ite hr ?_)
      split
      · simp [h]
      · exact hr
  · split
    · exact hr
    · refine State.wf_ite (State.wf_ite (by simp [h]) (State.wf_busDram h)) (State.wf_ite hr ?_)
      split
      next t e =>
        have ht : t.mems.Wf := State.wf_mapWrite h e
        exact ht
      · exact hr

theorem canonical_execPciePeerRequest (k : Nat) (r : PeerReq) {s : State} (h : s.mems.Wf) : Canonical (execPciePeerRequest k r s) :=
  State.wf_peerAccess h

theorem State.wf_unpark {s : State} (h : s.mems.Wf) : s.unpark.mems.Wf := by
  unfold State.unpark
  refine State.wf_foldl _ (fun s i hs => ?_) h
  cases i with
  | bus m pa place o => exact State.wf_busAccess hs
  | peer k r => exact State.wf_peerAccess hs

theorem canonical_execColdReset {s : State} : Canonical (execColdReset s) := by
  unfold execColdReset
  extract_lets okay entry _ t1 t2 t3
  have h1 : t1.mems.Wf := ⟨rfl, rfl, rfl⟩
  have h2 : t2.mems = t1.mems := State.mems_foldl _ _ _ fun t d => by
    extract_lets b fail code step cfg _ t'
    have ht : t'.mems = t.mems := rfl
    split
    · exact (State.mems_foldl _ _ _ fun t n => State.mems_putHart ..).trans ht
    · exact ht
  have h3 : t3.mems = t2.mems := by
    unfold t3
    split
    · rfl
    · rfl
  clear_value t3
  have h : t3.mems.Wf := h3 ▸ h2 ▸ h1
  split
  · simp [h]
  · exact h

/-! ### Work -/

theorem State.wf_vaneEnd {s : State} {die : Nat} (h : s.mems.Wf) : (s.vaneEnd die).mems.Wf := by
  unfold State.vaneEnd
  extract_lets s1
  have h1 : s1.mems.Wf := State.wf_foldl _ (fun s x hs => by simp [hs]) h
  exact State.wf_after h1 (canonical_execBinEvaluation die h1)

theorem State.wf_vaneCycles {s : State} {die n : Nat} (h : s.mems.Wf) : (s.vaneCycles die n).mems.Wf := by
  induction n generalizing s with
  | zero => exact h
  | succ k ih =>
    unfold State.vaneCycles
    split
    · exact ih (State.wf_vaneEnd (by simp [h]))
    · exact h

theorem State.wf_vaneStep {s : State} {die : Nat} (h : s.mems.Wf) : (s.vaneStep die).mems.Wf :=
  State.wf_foldl _ (fun _ g hs => State.wf_ite (State.wf_after hs (canonical_execGraphComplete g.1 hs)) hs) (State.wf_vaneEnd (State.wf_vaneCycles h))

theorem State.wf_passOn {s : State} {d q : Nat} (h : s.mems.Wf) : (s.passOn d q).mems.Wf := by
  unfold State.passOn
  split
  · exact h
  refine State.wf_after h ?_
  split
  · exact canonical_execNopCommand d q h
  · exact canonical_execLaunch d q h
  · exact canonical_execGraph d q h
  · exact canonical_execWaitmem d q h
  · exact canonical_execWritemem d q h
  · exact canonical_execGstatus d q h

theorem State.wf_mailbox {s : State} {d : Nat} (h : s.mems.Wf) : (s.mailbox d).mems.Wf := by
  unfold State.mailbox
  extract_lets s1
  have h1 : s1.mems.Wf := by simp [s1, h]
  split
  · simp [h1]
  · simp [h1]
  · exact State.wf_after h1 (canonical_execPreempt d h1)
  · simp [h1]
  · simp [h1]
  · exact h1

theorem State.wf_migrate {s : State} {d : Nat} (h : s.mems.Wf) : (s.migrate d).mems.Wf := by
  unfold State.migrate
  split
  · simp [h]
  · exact State.wf_after h (canonical_execMigrationDone d h)
  · exact h

theorem State.wf_work {s : State} {w : Work} (h : s.mems.Wf) : (s.work w).mems.Wf := by
  cases w with
  | serve c id => exact State.wf_after h (canonical_execMemoryRequestServe (.core c id .none) h)
  | perform c id => exact State.wf_after h (canonical_execAtomicPerform _ _ _ _ h)
  | drain c => exact State.wf_after h (canonical_execInboundDrain c h)
  | copy c t => exact State.wf_after h (State.canonical_copyStep h)
  | bsld c id => exact State.wf_after h (canonical_execBsldComplete c id h)
  | anvil c => exact State.wf_after h (State.canonical_anvilStep h)
  | vane d => exact State.wf_vaneStep h
  | trap d => exact State.wf_after h (canonical_execTrapDelivery d h)
  | twin t => exact State.wf_after h (State.canonical_twinStep h)
  | consume d q => exact State.wf_after h (canonical_execCommandConsume d q h)
  | command d q => exact State.wf_passOn h
  | waitmem d q => exact State.wf_after h (canonical_execWaitmemSatisfied d q h)
  | writemem d q => exact State.wf_after h (canonical_execWritemem d q h)
  | start id => exact State.wf_after h (canonical_execBlockStart id h)
  | complete id => exact State.wf_after h (canonical_execLaunchComplete id h)
  | rollback id cause => exact State.wf_after h (State.canonical_consumeError h)
  | preempt b => exact State.wf_after h (canonical_execBlockPreempt b h)
  | restore b => exact State.wf_after h (canonical_execBlockRestore b h)
  | mail d => exact State.wf_mailbox h
  | migrate d => exact State.wf_migrate h
  | collective d => exact State.wf_after h (canonical_execCollectiveComplete d h)
  | quote d => exact State.wf_after h (canonical_execQuoteSign d h)
  | parked => exact State.wf_unpark h
  | reply | answer | wake | ack | credit | notice | demand | promoted | wapply | fill | timer | barrier | inval | release | sysdone | unit =>
    simp [State.work, h]

theorem State.wf_runDue {s : State} (h : s.mems.Wf) : s.runDue.mems.Wf := by
  unfold State.runDue
  split
  · exact h
  next w rest _ =>
    extract_lets t
    have ht : t.mems.Wf := State.wf_work (s := { s with due := rest }) h
    exact State.wf_ite (by simp [ht]) ht

theorem State.wf_beforeCycle {s : State} {sl : Nat} (h : s.mems.Wf) : (s.beforeCycle sl).mems.Wf := by
  unfold State.beforeCycle
  extract_lets s1
  have h1 : s1.mems.Wf := State.wf_ite (by simp [h]) h
  refine State.wf_foldl _ (fun s g hs => ?_) h1
  extract_lets s2
  have h2 : s2.mems.Wf := State.wf_ite (State.wf_after hs (canonical_execSyscallTicketDraw g.1 hs)) hs
  exact State.wf_ite (by simp [h2]) h2

theorem State.wf_goOn {s : State} (h : s.mems.Wf) : s.goOn.mems.Wf := by
  unfold State.goOn
  split
  · exact State.wf_runDue (s := { s with turn := false }) h
  extract_lets s1
  have h1 : s1.mems.Wf := h
  split
  next sl _ => exact State.wf_after h1 ((keeps_execSliceCycle sl _).canonical (State.wf_beforeCycle h1))
  · exact h1

end Sys2Proof.Machine
end

section
/-! CLAIM O25. Every instruction, and so every step, keeps memory in canonical form. -/

namespace Sys2Proof.Machine

open Sys2Proof

/-- Every instruction and event leaves memory canonical. The first groups share one operation each, which keeps every byte; the long group
keeps every byte by a lemma for each; the last are those that write. -/
theorem canonical_exec (i : Instr) {s : State} (h : s.mems.Wf) : Canonical (exec i s) := by
  cases i with
  | call | callx =>
    refine Keeps.canonical h ?_
    simp only [exec, execCall, execCallx, keeps_execCallTo]
  | mlogAnd | mlogOr | mlogXor | mlogAndn | mlogMov =>
    refine Keeps.canonical h ?_
    simp only [exec, execMlogAnd, execMlog, execMlogOr, execMlogXor, execMlogAndn, execMlogMov, keeps_execMask]
  | voteAny | voteAll | voteBallot =>
    refine Keeps.canonical h ?_
    simp only [exec, execVoteAny, execVoteAll, execVoteBallot, keeps_execVote]
  | brvAny | brvAll | brvNone =>
    refine Keeps.canonical h ?_
    simp only [exec, execBrvAny, execBrvAll, execBrvNone, keeps_execBrv]
  | pass | passAny =>
    refine Keeps.canonical h ?_
    simp only [exec, execPass, execPassAny, keeps_execPassTo]
  | barArrive | barWait | barSync =>
    refine Keeps.canonical h ?_
    simp only [exec, execBarArrive, execBarWait, execBarSync, keeps_execBar]
  | add | sub | mul | mulhi | mad | madhi | min | max | absd | neg | compactAddV | compactAddVi | compactSubV | compactMulV | compactMulVi |
    compactMin | compactMax | compactAddS | compactAddSi =>
    refine Keeps.canonical h ?_
    simp only [exec, execAdd, execSub, execMul, execMulhi, execMad, execMadhi, execMin, execMax, execAbsd, execNeg, execCompactAddV, execCompactAddVi,
      execCompactSubV, execCompactMulV, execCompactMulVi, execCompactMin, execCompactMax, execCompactAddS, execCompactAddSi, keeps_execExact]
  | and | or | xor | andn | mix3 | shl | shr | sar | fshf | popc | clz | brev | bfe | bfi | plogAnd | plogOr | plogXor | plogAndn | plogMov | sel |
    mov | movxPv | movxVp | frcp | frsq | fex2 | flg2 | fsin | fcos | ftanh | cvtwd | compactAndV | compactAndVi | compactOrV | compactOrVi |
    compactXorV | compactXorVi | compactShlV | compactShlVi | compactShrVi | compactSarVi | compactMovV | compactMovVi | compactMovS | compactMovSi |
    compactPopc =>
    refine Keeps.canonical h ?_
    simp only [exec, execAnd, execOr, execXor, execAndn, execMix3, execShl, execShr, execSar, execFshf, execPopc, execClz, execBrev, execBfe, execBfi,
      execPlogAnd, execPlog, execPlogOr, execPlogXor, execPlogAndn, execPlogMov, execSel, execMov, execMovxPv, execMovxVp, execFrcp, execApprox,
      execFrsq, execFex2, execFlg2, execFsin, execFcos, execFtanh, execCvtwd, execCompactAndV, execCompactAndVi, execCompactOrV, execCompactOrVi,
      execCompactXorV, execCompactXorVi, execCompactShlV, execCompactShlVi, execCompactShrVi, execCompactSarVi, execCompactMovV, execCompactMovVi,
      execCompactMovS, execCompactMovSi, execCompactPopc, keeps_execAlu]
  | cmpEq | cmpNe | cmpLt | cmpLe | cmpGt | cmpGe | compactCmpEq | compactCmpLt | compactCmpLtU32 | compactCmpLtI =>
    refine Keeps.canonical h ?_
    simp only [exec, execCmpEq, execCmpNe, execCmpLt, execCmpLe, execCmpGt, execCmpGe, execCompactCmpEq, execCompactCmpLt, execCompactCmpLtU32,
      execCompactCmpLtI, keeps_execCmp]
  | shflIdx | shflUp | shflDown | shflXor | rdlane | compactShflXor | compactShflIdx =>
    refine Keeps.canonical h ?_
    simp only [exec, execShflIdx, execShflUp, execShflDown, execShflXor, execRdlane, execCompactShflXor, execCompactShflIdx, keeps_execShfl]
  | fadd | fmul | fma | fnma | fsqrt | compactFadd | compactFmul =>
    refine Keeps.canonical h ?_
    simp only [exec, execFadd, execFmul, execFma, execFnma, execFsqrt, execCompactFadd, execCompactFmul, keeps_execFp]
  | fmin | fmax | fabs | fneg | fcpsgn | fcmpEq | fcmpNe | fcmpLt | fcmpLe | fcmpGt | fcmpGe | fcmpUn | fcmpOrd | fclass | compactFmin | compactFmax
    =>
    refine Keeps.canonical h ?_
    simp only [exec, execFmin, execFmax, execFabs, execFneg, execFcpsgn, execFcmpEq, execFcmp, execFcmpNe, execFcmpLt, execFcmpLe, execFcmpGt,
      execFcmpGe, execFcmpUn, execFcmpOrd, execFclass, execCompactFmin, execCompactFmax, keeps_execFbits]
  | fadd2 | fmul2 | fma2 =>
    refine Keeps.canonical h ?_
    simp only [exec, execFadd2, execFmul2, execFma2, keeps_execTwo]
  | cvtpk | qscaleE8m0 | qscaleE4m3 | qscaleF32 | qscaleF16 =>
    refine Keeps.canonical h ?_
    simp only [exec, execCvtpk, execQscaleE8m0, execQscale, execQscaleE4m3, execQscaleF32, execQscaleF16, keeps_execRounded]
  | redAdd | redMin | redMax | redAnd | redOr | redXor | scanAdd | scanMin | scanMax | scanAnd | scanOr | scanXor =>
    refine Keeps.canonical h ?_
    simp only [exec, execRedAdd, execRedMin, execRedMax, execRedAnd, execRedOr, execRedXor, execScanAdd, execScanMin, execScanMax, execScanAnd,
      execScanOr, execScanXor, keeps_execReduce]
  | ld | lda | ldu | feget | compactLdV | compactLdI | compactLdu =>
    refine Keeps.canonical h ?_
    simp only [exec, execLd, execLda, execLdu, execFeget, execCompactLdV, execCompactLdI, execCompactLdu, keeps_execRead]
  | st | str | stu | fill | compactSt =>
    refine Keeps.canonical h ?_
    simp only [exec, execSt, execStr, execStu, execFill, execCompactSt, keeps_execWrite]
  | stmc | stredAdd | stredAnd | stredOr | stredXor | stredMin | stredMax =>
    refine Keeps.canonical h ?_
    simp only [exec, execStmc, execStredAdd, execStredAnd, execStredOr, execStredXor, execStredMin, execStredMax, keeps_execMulti]
  | fenceAcq | fenceRel | fenceFull =>
    refine Keeps.canonical h ?_
    simp only [exec, execFenceAcq, execFenceRel, execFenceFull, keeps_execFence]
  | brmake | brsetBase | brsetStride | brsetExtent | brsetSwz | brsetEsz | brsetOobf | bradv =>
    refine Keeps.canonical h ?_
    simp only [exec, execBrmake, execBrsetBase, execBrsetStride, execBrset, execBrsetExtent, execBrsetSwz, execBrsetEsz, execBrsetOobf, execBradv,
      keeps_execBr]
  | brgetBase | brgetStride | brgetExtent | brgetSwz | brgetEsz | brgetOobf =>
    refine Keeps.canonical h ?_
    simp only [exec, execBrgetBase, execBrgetStride, execBrgetExtent, execBrgetSwz, execBrgetEsz, execBrgetOobf, keeps_execBrget]
  | atomAdd | atomAnd | atomOr | atomXor | atomMin | atomMax | atomXchg | cas | atomnAdd | atomnAnd | atomnOr | atomnXor | atomnMin | atomnMax | empty
    =>
    refine Keeps.canonical h ?_
    simp only [exec, execAtomAdd, execAtom, execAtomAnd, execAtomOr, execAtomXor, execAtomMin, execAtomMax, execAtomXchg, execCas, execAtomnAdd,
      execAtomn, execAtomnAnd, execAtomnOr, execAtomnXor, execAtomnMin, execAtomnMax, execEmpty, keeps_execRmw]
  | job | jobp =>
    refine Keeps.canonical h ?_
    simp only [exec, execJob, execJobp, keeps_execJobWith]
  | tret | tretW =>
    refine Keeps.canonical h ?_
    simp only [exec, execTret, execTretW, keeps_execTretTo]
  | compactNop =>
    refine Keeps.canonical h ?_
    simp only [exec, execCompactNop, keeps_execNop]
  | compactExit =>
    refine Keeps.canonical h ?_
    simp only [exec, execCompactExit, keeps_execExit]
  | bra | brx | join | mballot | mtest | mpop | wmul | add64 | divstep | divfix | movxSv | movxSw | movxWs | movxMs | movxSm | fscale | frnd | fdot2 |
    cvt | ldfmt | lea | ldwE | ldf | cpyb | cpyk | cpyw | cpyq | jwait | jstat | tdset | tdget | accrd | accwr | accz | jchk | emit | take | done |
    brk | timerarm | rdsr | wrsr | rdcnt | hintClass | hintIdle | sliceCycle | nop | ret | park | exit | fenceOpr | ckpt | ceiling |
    instructionLineFill | operandCollect | resultWriteback | wRegisterApply | joinTest | barrierRelease | hintIdleWake | loadReply | creditAcknowledge
    | creditReturn | denialNotice | fullEmptyAnswer | ldwEWake | promotionDemand | promotionAnswer | atomicReplay | streamPrefetch | copyRetire |
    copyFault | jobStart | anvilIteration | jobDone | jobFault | recordArrival | overflowRefill | binfull | vaneDone | vaneTake | qres | qcommit |
    qcfg | blockRelease | leaseRenew | leasePoll | leaderLapse | leaseHandover | setregion | clearregion | restore | setrspace | tsync |
    tlbInvalidation | tableWalk | trcfg | tractResumeTrpc | tractResumePc | tractEndGroup | migctlGo | migrationFreeze | scdone | syscallCompletion |
    introute | comparatorFire | lqdevattr | lqcuralm | lqpwrctl | currentAlarm | boostGrant | telemetryUpdate | slottabWrite | clkratWrite |
    passcntWrite | tokbalWrite | tokenRefill | sgate | cgate | coff | unitWake | warmReset | flitSend | flitReceive | ackReceive | nakReceive |
    ackTimeout | laneShed | linkReset | finjctl | collctlGo | attctlGo | ckptRendezvous | aplicWiredSource | pcieLinkReset | retrainComplete |
    dramActivationWindow | badreq =>
    refine Keeps.canonical h ?_
    simp [exec]
  | bsld o => exact canonical_execBsld o h
  | syscall o => exact canonical_execSyscall o h
  | memoryRequestServe r => exact canonical_execMemoryRequestServe r h
  | inboundDrain core => exact canonical_execInboundDrain core h
  | atomicPerform core id lost err => exact canonical_execAtomicPerform core id lost err h
  | copyElement core tag k err => exact canonical_execCopyElement core tag k err h
  | bsldComplete core id => exact canonical_execBsldComplete core id h
  | anvilDrain core => exact canonical_execAnvilDrain core h
  | binEvaluation die => exact canonical_execBinEvaluation die h
  | binTimerExpiry gr node q => exact canonical_execBinTimerExpiry gr node q h
  | nodeStatusWrite gr => exact canonical_execNodeStatusWrite gr h
  | graphComplete gr => exact canonical_execGraphComplete gr h
  | commandConsume die q => exact canonical_execCommandConsume die q h
  | nopCommand die q => exact canonical_execNopCommand die q h
  | launch die q => exact canonical_execLaunch die q h
  | graph die q => exact canonical_execGraph die q h
  | waitmem die q => exact canonical_execWaitmem die q h
  | waitmemSatisfied die q => exact canonical_execWaitmemSatisfied die q h
  | writemem die q => exact canonical_execWritemem die q h
  | gstatus die q => exact canonical_execGstatus die q h
  | blockStart id => exact canonical_execBlockStart id h
  | launchComplete id => exact canonical_execLaunchComplete id h
  | preempt die => exact canonical_execPreempt die h
  | blockPreempt id => exact canonical_execBlockPreempt id h
  | blockRestore id => exact canonical_execBlockRestore id h
  | trapDelivery die => exact canonical_execTrapDelivery die h
  | tractKill die v => exact canonical_execTractKill die v h
  | migrationDone die => exact canonical_execMigrationDone die h
  | rollback id => exact canonical_execRollback id h
  | launchKill id cause => exact canonical_execLaunchKill id cause h
  | syscallTicketDraw g => exact canonical_execSyscallTicketDraw g h
  | coldReset => exact canonical_execColdReset
  | collectiveComplete die => exact canonical_execCollectiveComplete die h
  | quoteSign die => exact canonical_execQuoteSign die h
  | twinCompare t => exact canonical_execTwinCompare t h
  | pciePeerRequest k r => exact canonical_execPciePeerRequest k r h
  | registerWrite die off n v m => exact canonical_execRegisterWrite die off n v m h

theorem State.mems_of_present {s : State} {l : Latch} {k : Pick} {r : Ready} (e : s.present l k = .go r) : r.s.mems = s.mems := by
  unfold State.present at e
  split at e
  · cases e
  split at e
  · cases e
  split at e
  next c i cur0 _ =>
    extract_lets at e
    split at e
    · cases e
    split at e
    · cases e
    · cases e
      rfl
  · split at e <;> cases e
  · cases e

@[simp] theorem State.mems_endCycle (s : State) (l : Latch) : (s.endCycle l).mems = s.mems := by
  unfold State.endCycle
  extract_lets sl key keys s1 s2 s3 s4 s5 x len n s6 s7 x' stages busy c s8 coll wb s9
  have h1 : s1.mems = s.mems := by unfold s1; split <;> simp
  have h3 : s3.mems = s2.mems := State.mems_foldl _ _ _ fun t k => by
    (repeat' split) <;> simp
  have h4 : s4.mems = s3.mems := State.mems_foldl _ _ _ fun t k => State.mems_reap ..
  have h6 : s6.mems = s5.mems := by
    unfold s6
    split
    · rfl
    · exact State.mems_foldl _ _ _ fun t k => by (repeat' split) <;> simp
  have h7 : s7.mems = s6.mems := by
    unfold s7
    (repeat' split) <;> simp
  have h8 : s8.mems = s7.mems := by unfold s8; split <;> simp
  calc s9.mems = s5.mems := by rw [State.mems_putSlice, h8, h7, h6]
    _ = s3.mems := by rw [State.mems_reclaim, State.mems_giveOrphans, h4]
    _ = s.mems := by rw [h3, State.mems_handOffs, h1]

theorem State.wf_settle {s : State} {l : Latch} {k : Pick} {r : Ready} {t : State} (hs : s.mems.Wf) (ht : t.mems.Wf) :
    (s.settle l k r t).mems.Wf := by
  unfold State.settle
  refine State.wf_ite ?_ ?_
  · exact State.wf_of_mems (State.mems_sendAsk s t r.s.cur.core) hs
  extract_lets u
  have hu : u.mems.Wf := by simp [u, ht]
  split
  · exact State.wf_ite hu (by simp [hu])
  · exact hu

theorem canonical_step {s : State} (h : s.mems.Wf) : Canonical (step s) := by
  unfold step
  split
  next l _ =>
    split
    · simp [h]
    next k _ _ =>
      split
      · simp [h]
      · simp [h]
      next r e =>
        have hr : Canonical (exec r.i r.s) := canonical_exec r.i (State.wf_of_mems (State.mems_of_present e) h)
        split
        next t ht =>
          rw [ht] at hr
          exact State.wf_settle h hr
        · trivial
        · trivial
  · split
    · exact canonical_exec _ h
    · exact State.wf_goOn h

/-- Settles O25: whatever the step runs (an instruction, an event of the agenda, or the work that is due) writes bytes only by operations
that keep the canonical form. -/
theorem stepKeepsMemoryCanonical : Obligations.StepKeepsMemoryCanonical := by
  intro s t h e
  have hc := canonical_step ((State.memWf_iff_wf s).1 h)
  rw [e] at hc
  exact (State.memWf_iff_wf t).2 hc

end Sys2Proof.Machine
end

section
/-! SUPPORT. The views of a group (03 R69, R70): which lanes a view holds, what one split gives, and what the splits of a uniform write give together. -/

namespace Sys2Proof.Machine

open Sys2Proof

/-! ### Lanes and views of a group -/

/-- Lane `l` of the group has not exited. -/
def Group.Live (g : Group) (l : Nat) : Prop := l < 32 ∧ (g.lane l).exited = false

theorem Group.mem_lanesOf_live (g : Group) (l : Nat) : l ∈ lanesOf g.live ↔ g.Live l := by
  rw [mem_lanesOf, Group.live, getLsbD_maskOf, Group.Live]
  simp +contextual

theorem Group.getLsbD_viewLanes (g : Group) (v l : Nat) : (g.viewLanes v).getLsbD l = true ↔ g.Live l ∧ (g.lane l).view = v := by
  rw [Group.viewLanes, getLsbD_maskOf, Group.Live]
  simp [and_assoc]

/-- A value appended to those met before it, unless it is among them. -/
def addNew (a : List Nat) (v : Nat) : List Nat := if a.contains v then a else a ++ [v]

theorem mem_addNew (a : List Nat) (x v : Nat) : v ∈ addNew a x ↔ v ∈ a ∨ v = x := by
  unfold addNew
  grind

theorem nodup_addNew {a : List Nat} (h : a.Nodup) (x : Nat) : (addNew a x).Nodup := by
  unfold addNew
  grind

theorem mem_foldl_addNew (xs a : List Nat) (v : Nat) : v ∈ xs.foldl addNew a ↔ v ∈ a ∨ v ∈ xs := by
  induction xs generalizing a with
  | nil => simp
  | cons x xs ih => rw [List.foldl_cons, ih, mem_addNew, List.mem_cons, or_assoc]

theorem Group.views_eq (g : Group) : g.views = ((lanesOf g.live).map (fun l => (g.lane l).view)).foldl addNew [] := by rfl

theorem Group.mem_views (g : Group) (v : Nat) : v ∈ g.views ↔ ∃ l, g.Live l ∧ (g.lane l).view = v := by
  simp only [Group.views_eq, mem_foldl_addNew, List.mem_map, Group.mem_lanesOf_live, List.not_mem_nil, false_or]

theorem Group.view_mem_views {g : Group} {l : Nat} (h : g.Live l) : (g.lane l).view ∈ g.views := (g.mem_views _).2 ⟨l, h, rfl⟩

theorem Group.nodup_views (g : Group) : g.views.Nodup := by
  rw [Group.views_eq]
  exact List.foldlRecOn _ addNew List.nodup_nil (fun _ h x _ => nodup_addNew h x)

theorem Group.views_length_le {g : Group} (h8 : ∀ v ∈ g.views, v < 8) : g.views.length ≤ 8 := by
  have hsub : g.views ⊆ List.range 8 := fun v hv => List.mem_range.2 (h8 v hv)
  simpa only [List.length_range] using List.Nodup.length_le_of_subset g.nodup_views hsub

/-- With no number free a group has its 8 views (03 R70). -/
theorem Group.eight_le_views_length {g : Group} (h : ∀ k < 8, k ∈ g.views) : 8 ≤ g.views.length := by
  have hsub : List.range 8 ⊆ g.views := fun k hk => h k (List.mem_range.1 hk)
  simpa only [List.length_range] using List.Nodup.length_le_of_subset List.nodup_range hsub

/-! ### One split -/

/-- Some lanes of a view, but not all, are in a mask: the view that a uniform write of those lanes splits (03 R69). -/
def Group.mixed (g : Group) (m : BitVec 32) (v : Nat) : Bool := decide (g.viewLanes v &&& m ≠ 0 ∧ g.viewLanes v &&& m ≠ g.viewLanes v)

theorem Group.mixed_iff (g : Group) (m : BitVec 32) (v : Nat) : g.mixed m v ↔
    (∃ a, g.Live a ∧ (g.lane a).view = v ∧ m.getLsbD a = true) ∧ ∃ b, g.Live b ∧ (g.lane b).view = v ∧ m.getLsbD b = false := by
  have hsome : g.viewLanes v &&& m ≠ 0 ↔ ∃ a, (g.viewLanes v).getLsbD a = true ∧ m.getLsbD a = true := by
    rw [Ne, BitVec.eq_of_getLsbD_eq_iff]
    simp only [BitVec.getLsbD_and]
    grind [BitVec.lt_of_getLsbD]
  have hall : g.viewLanes v &&& m ≠ g.viewLanes v ↔ ∃ b, (g.viewLanes v).getLsbD b = true ∧ m.getLsbD b = false := by
    rw [Ne, BitVec.eq_of_getLsbD_eq_iff]
    simp only [BitVec.getLsbD_and]
    grind [BitVec.lt_of_getLsbD]
  rw [Group.mixed, decide_eq_true_iff, hsome, hall]
  simp only [Group.getLsbD_viewLanes, and_assoc]

/-- A write reaches all lanes of a view that it does not split, or none. -/
theorem Group.getLsbD_eq_of_not_mixed {g : Group} {m : BitVec 32} {v : Nat} (h : ¬ g.mixed m v) {a b : Nat} (ha : g.Live a) (hb : g.Live b)
    (hav : (g.lane a).view = v) (hbv : (g.lane b).view = v) : m.getLsbD a = m.getLsbD b := by
  rw [Group.mixed_iff] at h
  grind

/-- The lanes of view `v` that are in the mask, in a view `k` of their own. -/
def Group.moveView (g : Group) (m : BitVec 32) (v k : Nat) : Group := g.onLanes (g.viewLanes v &&& m) (fun _ x => { x with view := k })

theorem Group.split_of_not_mixed {g : Group} {m : BitVec 32} {v : Nat} (h : ¬ g.mixed m v) : g.split m v = some g := by
  rw [Group.mixed, decide_eq_true_iff, Decidable.not_and_iff_not_or_not, Decidable.not_not, Decidable.not_not] at h
  refine if_pos ?_
  rw [Bool.or_eq_true, beq_iff_eq, beq_iff_eq]
  exact h

theorem Group.split_of_mixed {g : Group} {m : BitVec 32} {v : Nat} (h : g.mixed m v) :
    g.split m v = ((List.range 8).find? (fun k => !g.views.contains k)).map (g.moveView m v) := by
  obtain ⟨h0, hall⟩ := of_decide_eq_true h
  simp only [Group.split, beq_false_of_ne h0, beq_false_of_ne hall, Bool.or_false, Bool.false_eq_true, if_false]
  cases (List.range 8).find? (fun k => !g.views.contains k) <;> rfl

/-- What a split that succeeds gives: the group as it was, or the part of the view in a view of a free number. -/
theorem Group.split_eq_some {g h : Group} {m : BitVec 32} {v : Nat} (e : g.split m v = some h) :
    (¬ g.mixed m v ∧ h = g) ∨ (g.mixed m v ∧ ∃ k, k < 8 ∧ k ∉ g.views ∧ h = g.moveView m v k) := by
  by_cases hm : g.mixed m v
  · rw [Group.split_of_mixed hm, Option.map_eq_some_iff] at e
    obtain ⟨k, hk, rfl⟩ := e
    exact .inr ⟨hm, k, List.mem_range.1 (List.mem_of_find?_eq_some hk), by simpa using List.find?_some hk, rfl⟩
  · rw [Group.split_of_not_mixed hm, Option.some_inj] at e
    exact .inl ⟨hm, e.symm⟩

/-- A split fails where a view would be split and no number is free (03 R70). -/
theorem Group.split_eq_none {g : Group} {m : BitVec 32} {v : Nat} : g.split m v = none ↔ g.mixed m v ∧ ∀ k < 8, k ∈ g.views := by
  by_cases hm : g.mixed m v
  · simp [Group.split_of_mixed hm, hm]
  · simp [Group.split_of_not_mixed hm, hm]

theorem Group.lane_moveView (g : Group) (m : BitVec 32) (v k : Nat) {l : Nat} (hl : l < 32) :
    (g.moveView m v k).lane l = { g.lane l with view := ((g.moveView m v k).lane l).view } := by
  rw [Group.moveView, Group.lane_onLanes _ _ _ _ hl]
  split <;> rfl

theorem Group.live_moveView (g : Group) (m : BitVec 32) (v k l : Nat) : (g.moveView m v k).Live l ↔ g.Live l :=
  and_congr_right fun hl => by rw [Group.lane_moveView g m v k hl]

theorem Group.view_moveView {g : Group} {l : Nat} (hl : g.Live l) (m : BitVec 32) (v k : Nat) :
    ((g.moveView m v k).lane l).view = if (g.lane l).view = v ∧ m.getLsbD l = true then k else (g.lane l).view := by
  have hin : (g.viewLanes v).getLsbD l = true ↔ (g.lane l).view = v := (g.getLsbD_viewLanes v l).trans (and_iff_right hl)
  rw [Group.moveView, Group.lane_onLanes _ _ _ _ hl.1, BitVec.getLsbD_and, apply_ite Lane.view]
  simp only [Bool.and_eq_true, hin]

/-- The new view joins the old ones, none of which ceases to exist. -/
theorem Group.mem_views_moveView {g : Group} {m : BitVec 32} {v : Nat} (hm : g.mixed m v) (k w : Nat) :
    w ∈ (g.moveView m v k).views ↔ w = k ∨ w ∈ g.views := by
  obtain ⟨⟨a, ha, hav, hma⟩, b, hb, hbv, hmb⟩ := (g.mixed_iff m v).1 hm
  simp only [Group.mem_views, Group.live_moveView]
  constructor
  · rintro ⟨l, hl, rfl⟩
    rw [Group.view_moveView hl]
    split
    · exact .inl rfl
    · exact .inr ⟨l, hl, rfl⟩
  · rintro (rfl | ⟨l, hl, rfl⟩)
    · exact ⟨a, ha, by rw [Group.view_moveView ha, if_pos ⟨hav, hma⟩]⟩
    · by_cases hlv : (g.lane l).view = v
      · exact ⟨b, hb, by rw [Group.view_moveView hb, if_neg (by simp [hmb]), hbv, hlv]⟩
      · exact ⟨l, hl, by rw [Group.view_moveView hl, if_neg (fun h => hlv h.1)]⟩

theorem Group.views_length_moveView {g : Group} {m : BitVec 32} {v k : Nat} (hm : g.mixed m v) (hk : k ∉ g.views) :
    (g.moveView m v k).views.length = g.views.length + 1 := by
  have hp : (g.moveView m v k).views.Perm (k :: g.views) :=
    (List.perm_ext_iff_of_nodup (Group.nodup_views _) (List.nodup_cons.2 ⟨hk, g.nodup_views⟩)).2
      (fun w => by rw [Group.mem_views_moveView hm, List.mem_cons])
  exact hp.length_eq

/-! ### The splits of a uniform write -/

/-- The group `h` is `g` after the splits of its views in the list `done` by a write of the lanes `m`: nothing but the numbers of views has changed, lanes of
one view stand in one view still unless the write told them apart, and the views not in the list are as they were. -/
structure Splits (g : Group) (m : BitVec 32) (done : List Nat) (h : Group) : Prop where
  rest : h = { g with lanes := h.lanes }
  lane : ∀ l < 32, h.lane l = { g.lane l with view := (h.lane l).view }
  same : ∀ a b, g.Live a → g.Live b →
    ((h.lane a).view = (h.lane b).view ↔ (g.lane a).view = (g.lane b).view ∧ ((g.lane a).view ∈ done → m.getLsbD a = m.getLsbD b))
  kept : ∀ l, g.Live l → (g.lane l).view ∉ done → (h.lane l).view = (g.lane l).view

theorem Splits.refl (g : Group) (m : BitVec 32) : Splits g m [] g where
  rest := rfl
  lane _ _ := rfl
  same _ _ _ _ := by simp
  kept _ _ _ := rfl

section
variable {g h : Group} {m : BitVec 32} {done : List Nat} {v : Nat}

theorem Splits.live_iff (hs : Splits g m done h) (l : Nat) : h.Live l ↔ g.Live l :=
  and_congr_right fun hl => by rw [hs.lane l hl]

/-- A view not split yet holds the lanes that it held. -/
theorem Splits.view_eq_iff (hs : Splits g m done h) (hv : v ∈ g.views) (hd : v ∉ done) {l : Nat} (hl : g.Live l) :
    (h.lane l).view = v ↔ (g.lane l).view = v := by
  obtain ⟨a, ha, rfl⟩ := (g.mem_views v).1 hv
  constructor
  · intro e
    exact ((hs.same l a hl ha).1 (e.trans (hs.kept a ha hd).symm)).1
  · intro e
    rw [hs.kept l hl (e ▸ hd), e]

theorem Splits.mixed_iff (hs : Splits g m done h) (hv : v ∈ g.views) (hd : v ∉ done) : h.mixed m v ↔ g.mixed m v := by
  simp only [Group.mixed_iff, hs.live_iff]
  have hiff : ∀ x l, (g.Live l ∧ (h.lane l).view = v ∧ m.getLsbD l = x) ↔ (g.Live l ∧ (g.lane l).view = v ∧ m.getLsbD l = x) :=
    fun x l => and_congr_right fun hl => by rw [hs.view_eq_iff hv hd hl]
  simp only [hiff]

/-- One more view split, with a number that no view bears for the part that the write reaches. -/
theorem Splits.moveView (hs : Splits g m done h) (hv : v ∈ g.views) (hd : v ∉ done) {k : Nat} (hk : k ∉ h.views) :
    Splits g m (done ++ [v]) (h.moveView m v k) := by
  have hlane : ∀ l, g.Live l → ((h.moveView m v k).lane l).view =
      if (g.lane l).view = v ∧ m.getLsbD l = true then k else (h.lane l).view := by
    intro l hl
    simp only [Group.view_moveView ((hs.live_iff l).2 hl), hs.view_eq_iff hv hd hl]
  have hfree : ∀ l, g.Live l → (h.lane l).view ≠ k := fun l hl e => hk (e ▸ Group.view_mem_views ((hs.live_iff l).2 hl))
  refine ⟨?_, ?_, ?_, ?_⟩
  · rw [Group.moveView, Group.onLanes_eq, hs.rest]
  · intro l hl
    rw [Group.lane_moveView h m v k hl, hs.lane l hl]
  · intro a b ha hb
    have hsame := hs.same a b ha hb
    have hfa := hfree a ha
    have hfb := hfree b hb
    rw [hlane a ha, hlane b hb, List.mem_append, List.mem_singleton]
    -- Two lanes of the view at hand part where the mask tells them apart; a lane of another view stands where it stood, and not in view `k`.
    by_cases hab : (g.lane a).view = v ∧ (g.lane b).view = v
    · grind
    · grind
  · intro l hl hn
    rw [List.mem_append, List.mem_singleton, not_or] at hn
    rw [hlane l hl, if_neg (fun e => hn.2 e.1), hs.kept l hl hn.1]

/-- A view whose lanes are all in the mask, or all out of it, needs no split. -/
theorem Splits.skip (hs : Splits g m done h) (hm : ¬ g.mixed m v) : Splits g m (done ++ [v]) h where
  rest := hs.rest
  lane := hs.lane
  same a b ha hb := by
    rw [hs.same a b ha hb, List.mem_append, List.mem_singleton]
    refine and_congr_right fun hab => ⟨fun hd hv => hv.elim hd fun hav => ?_, fun hd hv => hd (.inl hv)⟩
    exact Group.getLsbD_eq_of_not_mixed hm ha hb hav (hab.symm.trans hav)
  kept l hl hn := hs.kept l hl (fun hd => hn (List.mem_append_left _ hd))

theorem Splits.split (hs : Splits g m done h) (hv : v ∈ g.views) (hd : v ∉ done) {h' : Group} (e : h.split m v = some h') :
    Splits g m (done ++ [v]) h' := by
  obtain ⟨hm, rfl⟩ | ⟨-, k, -, hk, rfl⟩ := Group.split_eq_some e
  · exact hs.skip (fun hg => hm ((hs.mixed_iff hv hd).2 hg))
  · exact hs.moveView hv hd hk

end

/-- The views of a list split one after the other, from a group that the splits before them have left. -/
def splitAll (m : BitVec 32) (vs : List Nat) (r : Option Group) : Option Group :=
  vs.foldl (fun r v => match r with | some g => g.split m v | none => none) r

theorem Group.splitViews_eq (g : Group) (m : BitVec 32) : g.splitViews m = splitAll m g.views (some g) := by
  unfold Group.splitViews splitAll
  rfl

@[simp] theorem splitAll_none (m : BitVec 32) (vs : List Nat) : splitAll m vs none = none := by
  induction vs with
  | nil => rfl
  | cons v vs ih => exact ih

@[simp] theorem splitAll_nil (m : BitVec 32) (r : Option Group) : splitAll m [] r = r := rfl

@[simp] theorem splitAll_cons (m : BitVec 32) (v : Nat) (vs : List Nat) (h : Group) :
    splitAll m (v :: vs) (some h) = splitAll m vs (h.split m v) := rfl

section
variable {g h : Group} {m : BitVec 32} {done vs : List Nat}

theorem Group.next_view {v : Nat} (hvs : g.views = done ++ v :: vs) : v ∈ g.views ∧ v ∉ done :=
  ⟨by simp [hvs], fun hd => (List.nodup_append.1 (hvs ▸ g.nodup_views)).2.2 v hd v (List.mem_cons_self ..) rfl⟩

theorem Splits.splitAll (hs : Splits g m done h) (hvs : g.views = done ++ vs) {h' : Group} (e : splitAll m vs (some h) = some h') :
    Splits g m g.views h' := by
  induction vs generalizing done h with
  | nil =>
    obtain rfl := Option.some_inj.1 e
    rwa [hvs, List.append_nil]
  | cons v vs ih =>
    obtain ⟨hv, hd⟩ := Group.next_view hvs
    rw [splitAll_cons] at e
    cases h1 : h.split m v with
    | none => simp [h1] at e
    | some h1' => exact ih (hs.split hv hd h1) (by simp [hvs]) (h1 ▸ e)

/-- The splits fail exactly where the views at hand and the splits to come are more than 8 (03 R70). -/
theorem Splits.splitAll_eq_none_iff (hs : Splits g m done h) (hvs : g.views = done ++ vs) (h8 : ∀ v ∈ h.views, v < 8) :
    Machine.splitAll m vs (some h) = none ↔ 8 < h.views.length + vs.countP (g.mixed m) := by
  induction vs generalizing done h with
  | nil => simpa using Group.views_length_le h8
  | cons v vs ih =>
    obtain ⟨hv, hd⟩ := Group.next_view hvs
    have hvs' : g.views = (done ++ [v]) ++ vs := by simp [hvs]
    have hmix := hs.mixed_iff hv hd
    rw [splitAll_cons, List.countP_cons]
    cases h1 : h.split m v with
    | none =>
      obtain ⟨hm, hfull⟩ := Group.split_eq_none.1 h1
      have := Group.eight_le_views_length hfull
      simp only [splitAll_none, hmix.1 hm, if_true, true_iff]
      omega
    | some h1' =>
      have hs' := hs.split hv hd h1
      obtain ⟨hm, rfl⟩ | ⟨hm, k, hk8, hk, rfl⟩ := Group.split_eq_some h1
      · simp [ih hs' hvs' h8, mt hmix.2 hm]
      · have h8' : ∀ w ∈ (h.moveView m v k).views, w < 8 :=
          fun w hw => ((Group.mem_views_moveView hm k w).1 hw).elim (fun e => e ▸ hk8) (h8 w)
        simp only [ih hs' hvs' h8', Group.views_length_moveView hm hk, hmix.1 hm, if_true]
        omega

end

/-- A uniform write tells apart exactly the lanes of one view of which it reaches some but not all (03 R69). -/
theorem Group.splits_of_splitViews {g h : Group} {m : BitVec 32} (e : g.splitViews m = some h) : Splits g m g.views h :=
  (Splits.refl g m).splitAll rfl (g.splitViews_eq m ▸ e)

theorem Group.splitViews_eq_none_iff {g : Group} (m : BitVec 32) (h8 : ∀ v ∈ g.views, v < 8) :
    g.splitViews m = none ↔ 8 < g.views.length + g.views.countP (g.mixed m) := by
  rw [Group.splitViews_eq]
  exact (Splits.refl g m).splitAll_eq_none_iff rfl h8

/-- A uniform write that no lane executes splits no view. -/
theorem Group.splitViews_zero (g : Group) : g.splitViews 0 = some g := by
  have hall : ∀ vs, splitAll 0 vs (some g) = some g := by
    intro vs
    induction vs with
    | nil => rfl
    | cons v vs ih => rw [splitAll_cons, Group.split_of_not_mixed (by simp [Group.mixed]), ih]
  rw [Group.splitViews_eq, hall]

/-! ### The destination of an instruction -/

/-- With no lane executing, a destination leaves the views as they are. -/
theorem State.viewsFor_of_no_lanes {s : State} (h : s.cur.lanes = 0) (g : Group) (d : Sel) : s.viewsFor g d = .ok g := by
  unfold State.viewsFor
  rw [h, Group.splitViews_zero]
  split <;> rfl

/-- A uniform destination that would make a ninth view is the trap UVIEW (03 R70). -/
theorem State.viewsFor_uview {s : State} {g : Group} (n : BitVec 6) (h : g.splitViews s.cur.lanes = none) :
    s.viewsFor g (.s n) = .error (s.trapOf Cause.uview) := by
  simp only [State.viewsFor, isUniform, if_true, h]

theorem State.writeLanes_trap {s : State} {g : Group} {d : Sel} {t : Trap} (f : Nat → List Val) (h : s.viewsFor g d = .error t) :
    s.writeLanes g d f = .error t := by
  rw [State.writeLanes, h]

end Sys2Proof.Machine
end

section
/-! CLAIM O19. A uniform write splits views, and a ninth view is the trap UVIEW (03 R69, R70). -/

namespace Sys2Proof.Machine

open Sys2Proof

/-- A group after a uniform write of some lanes: only views have changed, and two live lanes share one when they did and are both among the lanes or both not
(03 R69). -/
theorem splitViews_tells_apart {g h : Group} {m : BitVec 32} (e : g.splitViews m = some h) : h = { g with lanes := h.lanes } ∧
    (∀ l < 32, h.lane l = { g.lane l with view := (h.lane l).view }) ∧
    ∀ a < 32, ∀ b < 32, (g.lane a).exited = false → (g.lane b).exited = false →
      ((h.lane a).view = (h.lane b).view ↔ (g.lane a).view = (g.lane b).view ∧ m.getLsbD a = m.getLsbD b) := by
  have hs := Group.splits_of_splitViews e
  refine ⟨hs.rest, hs.lane, fun a ha b hb hla hlb => ?_⟩
  rw [hs.same a b ⟨ha, hla⟩ ⟨hb, hlb⟩]
  simp [Group.view_mem_views (⟨ha, hla⟩ : g.Live a)]

theorem exec_mov (o : OpA) (s : State) : exec (.mov o) s = onGroup s (fun g => s.alu g Forms.mov 0 o (fun _ a _ _ => a)) := by
  rfl

/-- MOV to a uniform register raises UVIEW, with none of its effects, where the write would make a ninth view. -/
theorem mov_uview {s : State} {g : Group} {o : OpA} {n : BitVec 6} (hg : s.group? s.cur.key = some g) (hd : o.dst = .s n)
    (hv : (g.advance s.cur).splitViews s.cur.lanes = none) :
    ActsOnGroup (.mov o) s (fun h => h = g.raise { cause := 0x041, pc := s.cur.pc, lanes := s.cur.lanes }) := by
  have htrap : s.alu (g.advance s.cur) Forms.mov 0 o (fun _ a _ _ => a) = .error (s.trapOf Cause.uview) :=
    State.writeLanes_trap _ (hd ▸ State.viewsFor_uview n hv)
  exact ⟨_, (exec_mov o s).trans (onGroup_trap hg htrap), rfl⟩

/-- Settles O19, by following the splits of a write one view after the other: what each leaves of the lanes' views, and how many views there are. -/
theorem uniformViews : Obligations.UniformViews := by
  unfold Obligations.UniformViews
  exact ⟨fun _ _ _ => splitViews_tells_apart, fun _ => Group.splitViews_eq_none_iff, fun _ _ _ _ => mov_uview⟩

end Sys2Proof.Machine
end

section
/-! CLAIM O12. RDSR, WRSR and RDCNT, and the registers that their numbers name (03 R78 to R80, 16 R356 to R358). -/

namespace Sys2Proof.Machine

open Sys2Proof

/-! ### Reads and writes of the instructions -/

@[simp] theorem Group.advance_wrs (g : Group) (c : Cur) : (g.advance c).wrs = g.wrs := by rw [Group.advance_eq]

@[simp] theorem State.srIndex_advance (s : State) (g : Group) (c : Cur) (o : OpX) : s.srIndex (g.advance c) o = s.srIndex g o := by
  simp only [State.srIndex, State.readSel_advance]

theorem pairVals_nil (x : DWord) : pairVals x [] = [⟨x.extractLsb' 0 32, none⟩, ⟨x.extractLsb' 32 32, none⟩] := rfl

theorem lanesOf_zero : lanesOf 0 = [] := by decide

/-- A value that every executing lane takes, where no ninth view arises. -/
theorem writeSame_wrote {s : State} {g g0 : Group} {d : Sel} {xs : List Val} (h0 : s.viewsFor g d = .ok g0) (hw : Sel.within d xs.length = true) :
    ∃ h, s.writeSame g d xs = .ok h ∧ Wrote s.cur.lanes d (fun _ => xs) g0 h := by
  have hall := wrote_foldl s.cur.lanes d (fun _ => xs) g0 (fun _ _ => hw)
  unfold State.writeSame
  split
  next hz =>
    have hz : s.cur.lanes = 0 := eq_of_beq hz
    obtain rfl : g = g0 := by simpa [State.viewsFor_of_no_lanes hz] using h0
    exact ⟨g, rfl, by simpa only [hz, lanesOf_zero, List.foldl_nil] using hall⟩
  next => exact ⟨_, by rw [State.writeLanes, h0], hall⟩

/-- An instruction of its group that gives every executing lane one value. -/
theorem onGroup_writeSame {i : Instr} {s : State} {g g0 : Group} {d : Sel} {xs : List Val} {f : Group → Except Trap Group}
    (he : exec i s = onGroup s f) (hg : s.group? s.cur.key = some g) (hf : f (g.advance s.cur) = s.writeSame (g.advance s.cur) d xs)
    (h0 : s.viewsFor (g.advance s.cur) d = .ok g0) (hw : Sel.within d xs.length = true) :
    ActsOnGroup i s (Wrote s.cur.lanes d (fun _ => xs) g0) := by
  obtain ⟨h, hok, hwrote⟩ := writeSame_wrote h0 hw
  exact ⟨h, he.trans (onGroup_ok hg (hf.trans hok)), hwrote⟩

theorem exec_rdsr (o : OpX) (s : State) : exec (.rdsr o) s = execRdsr o s := by rfl
theorem exec_wrsr (o : OpX) (s : State) : exec (.wrsr o) s = execWrsr o s := by rfl
theorem exec_rdcnt (o : OpX) (s : State) : exec (.rdcnt o) s = execRdcnt o s := by rfl

theorem rdsr_gives {o : OpX} {s : State} {g g0 : Group} {n : Nat} (hg : s.group? s.cur.key = some g) (hp : (s.srIndex g o).bind (·.psn) = none)
    (hn : srCheck o.imm ((s.srIndex g o).map (·.bits.toNat)) false = .ok n) (h0 : s.viewsFor (g.advance s.cur) o.dst = .ok g0)
    (hw : Sel.within o.dst (if o.imm.getLsbD 12 then 2 else 1) = true) :
    ActsOnGroup (.rdsr o) s (Wrote s.cur.lanes o.dst (fun _ =>
      let v := s.srRead s.cur.key (g.advance s.cur) n
      if o.imm.getLsbD 12 then [⟨v.extractLsb' 0 32, none⟩, ⟨v.extractLsb' 32 32, none⟩] else [⟨v.extractLsb' 0 32, none⟩]) g0) := by
  refine onGroup_writeSame (exec_rdsr o s) hg ?_ h0 (by split <;> simp_all)
  simp only [State.srIndex_advance, hp, hn, pairVals_nil, BitVec.setWidth_eq_extractLsb' (show 32 ≤ 64 by decide)]

theorem rdsr_traps {o : OpX} {s : State} {g : Group} {c : Nat} (hg : s.group? s.cur.key = some g) (hp : (s.srIndex g o).bind (·.psn) = none)
    (hc : srCheck o.imm ((s.srIndex g o).map (·.bits.toNat)) false = .error c) :
    ActsOnGroup (.rdsr o) s (fun h => h = g.raise { cause := c, pc := s.cur.pc, lanes := s.cur.lanes }) := by
  refine ⟨_, (exec_rdsr o s).trans (onGroup_trap (t := s.trapOf c) hg ?_), rfl⟩
  simp only [State.srIndex_advance, hp, hc]

theorem rdcnt_gives {o : OpX} {s : State} {g g0 : Group} {n : Nat} (hg : s.group? s.cur.key = some g)
    (hn : s.counter s.cur.key (g.advance s.cur) (field o.imm.toNat 7 0) = some n) (h0 : s.viewsFor (g.advance s.cur) o.dst = .ok g0)
    (hw : Sel.within o.dst 2 = true) :
    ActsOnGroup (.rdcnt o) s (Wrote s.cur.lanes o.dst (fun _ =>
      [⟨(BitVec.ofNat 64 n).extractLsb' 0 32, none⟩, ⟨(BitVec.ofNat 64 n).extractLsb' 32 32, none⟩]) g0) := by
  refine onGroup_writeSame (exec_rdcnt o s) hg ?_ h0 hw
  simp only [hn, pairVals_nil]

/-- The value that a WRSR hands over: the pair of its SA or the single register, as its W bit says (16 R356). -/
def State.wrsrValue (s : State) (g : Group) (o : OpX) : DWord :=
  if o.imm.getLsbD 12 then (s.lowPair g Forms.wrsr 0 (.x o) 2).1 else (s.low g Forms.wrsr 0 (.x o) 2).bits.setWidth 64

/-- A WRSR only queues its write, which is applied at the end of the slice cycle (16 R357). -/
theorem wrsr_queues {o : OpX} {s : State} {g : Group} {n : Nat} (hg : s.group? s.cur.key = some g) (hl : s.cur.lanes ≠ 0)
    (hp : (s.srIndex g o).bind (·.psn) = none)
    (hv : if o.imm.getLsbD 12 then (s.lowPair g Forms.wrsr 0 (.x o) 2).2 = none else (s.low g Forms.wrsr 0 (.x o) 2).psn = none)
    (hn : srCheck o.imm ((s.srIndex g o).map (·.bits.toNat)) true = .ok n) :
    ActsOnGroup (.wrsr o) s (fun h => h = { g.advance s.cur with
      wrs := if s.cur.sec then (n, s.wrsrValue g o) :: g.wrs else g.wrs ++ [(n, s.wrsrValue g o)] }) := by
  refine ⟨s.pushWrs (g.advance s.cur) n (s.wrsrValue g o), (exec_wrsr o s).trans (onGroup_ok hg ?_), ?_⟩
  · have hpsn : (if o.imm.getLsbD 12 then (s.lowPair g Forms.wrsr 0 (.x o) 2).2 else (s.low g Forms.wrsr 0 (.x o) 2).psn) = none := by
      split <;> simp_all
    simp only [State.srIndex_advance, State.lowPair_advance, State.low_advance, hp, hpsn, hn, beq_false_of_ne hl]
    rfl
  · rw [State.pushWrs, Group.advance_wrs]

/-! ### Writes applied at the end of the slice cycle -/

/-- A value with one bit cleared, bit by bit. -/
theorem getLsbD_and_not_twoPow (v : DWord) (n i : Nat) :
    (v &&& ~~~BitVec.twoPow 64 n).getLsbD i = (v.getLsbD i && decide (i ≠ n)) := by
  by_cases hi : i < 64
  · by_cases hn : i = n <;> simp [hi, hn]
  · simp [BitVec.getLsbD_of_ge v i (by omega)]

section
variable (g : Group) (v : DWord)

theorem Group.srWrite_gstat : g.srWrite 0 v = { g with scopemiss := g.scopemiss && !v.getLsbD 15, rsspill := g.rsspill && !v.getLsbD 14 } := rfl

theorem Group.srWrite_heir : g.srWrite 1 v = { g with heir := v.extractLsb' 0 5 } := by
  rw [← BitVec.setWidth_eq_extractLsb' (by decide)]
  rfl

theorem Group.srWrite_futh : ∃ x, g.srWrite 2 v = { g with futh := x } ∧ x.getLsbD 1 = false ∧ ∀ i, i ≠ 1 → x.getLsbD i = v.getLsbD i := by
  have hbit : ∀ i, (v &&& ~~~2).getLsbD i = (v.getLsbD i && decide (i ≠ 1)) := getLsbD_and_not_twoPow v 1
  refine ⟨v &&& ~~~2, rfl, ?_, fun i hi => ?_⟩
  · rw [hbit]
    simp
  · rw [hbit]
    simp [hi]

theorem Group.srWrite_futpc :
    ∃ x, g.srWrite 3 v = { g with futpc := x } ∧ x.getLsbD 0 = g.futpc.getLsbD 0 ∧ ∀ i, i ≠ 0 → x.getLsbD i = v.getLsbD i := by
  have hbit : ∀ i, (v &&& ~~~1).getLsbD i = (v.getLsbD i && decide (i ≠ 0)) := getLsbD_and_not_twoPow v 0
  refine ⟨v &&& ~~~1 ||| g.futpc &&& 1, rfl, ?_, fun i hi => ?_⟩
  · rw [BitVec.getLsbD_or, hbit]
    simp
  · rw [BitVec.getLsbD_or, hbit]
    simp [hi, BitVec.getLsbD_one]

theorem Group.srWrite_seed (k : Nat) : g.srWrite (0x10 + k) v = { g with seed := g.seed.set (BitVec.ofNat 32 (k + 1)) k (v.extractLsb' 0 32) } := by
  rw [← BitVec.setWidth_eq_extractLsb' (by decide)]
  simp only [Group.srWrite, Nat.add_sub_cancel_left]
  rw [if_neg (by omega), if_neg (by omega), if_neg (by omega), if_neg (by omega)]

end

/-- A read of another key than the one written, whatever the two defaults. -/
theorem SMap.get_set_ne {α : Type} [DecidableEq α] (d d' : α) (m : SMap α) (v : α) {k j : Nat} (h : j ≠ k) :
    SMap.get d' (m.set d k v) j = SMap.get d' m j := by
  unfold SMap.set
  split
  · rw [SMap.get_del, if_neg h]
  · rw [SMap.get_put, if_neg h]

/-- A seed after a write of one. -/
theorem Group.seedAt_srWrite (g : Group) (v : DWord) (k j : Nat) :
    (g.srWrite (0x10 + k) v).seedAt j = if j = k then v.extractLsb' 0 32 else g.seedAt j := by
  rw [Group.srWrite_seed]
  unfold Group.seedAt
  split
  next h => rw [h, SMap.get_set, if_pos rfl]
  next h => exact SMap.get_set_ne _ _ _ _ h

/-- What each writable register takes of a written value (03 R78, 16 R357). -/
theorem srWrite_changes (g : Group) (v : DWord) :
    (g.srWrite 0 v = { g with scopemiss := g.scopemiss && !v.getLsbD 15, rsspill := g.rsspill && !v.getLsbD 14 }) ∧
    (g.srWrite 1 v = { g with heir := v.extractLsb' 0 5 }) ∧
    (∃ x, g.srWrite 2 v = { g with futh := x } ∧ x.getLsbD 1 = false ∧ ∀ i, i ≠ 1 → x.getLsbD i = v.getLsbD i) ∧
    (∃ x, g.srWrite 3 v = { g with futpc := x } ∧ x.getLsbD 0 = g.futpc.getLsbD 0 ∧ ∀ i, i ≠ 0 → x.getLsbD i = v.getLsbD i) ∧
    (∀ k < 4, (g.srWrite (0x10 + k) v).seedAt k = v.extractLsb' 0 32 ∧ ∀ j, j ≠ k → (g.srWrite (0x10 + k) v).seedAt j = g.seedAt j) := by
  refine ⟨g.srWrite_gstat v, g.srWrite_heir v, g.srWrite_futh v, g.srWrite_futpc v, fun k _ => ⟨?_, fun j hj => ?_⟩⟩
  · rw [Group.seedAt_srWrite, if_pos rfl]
  · rw [Group.seedAt_srWrite, if_neg hj]

/-! ### Numbers that are refused -/

theorem srCheck_srnum {imm : Word} (h : imm.toNat % 4096 = 5) : srCheck imm none false = .error 0x042 := by
  have hbase : field imm.toNat 11 0 = 5 := by simpa [field] using h
  simp only [srCheck, hbase]
  rfl

theorem srCheck_srwrite {imm : Word} (h : imm.toNat % 4096 = 8) (hw : imm.getLsbD 12 = true) : srCheck imm none true = .error 0x043 := by
  have hbase : field imm.toNat 11 0 = 8 := by simpa [field] using h
  simp only [srCheck, hbase, hw]
  rfl

/-- Settles O12: each instruction by its one group operation, each writable register by the bits that a write reaches, each refused number by its check. -/
theorem statusRegisters : Obligations.StatusRegisters := by
  unfold Obligations.StatusRegisters
  refine ⟨fun _ _ _ _ _ => rdsr_gives, ?_, fun _ _ _ _ => rdsr_traps, fun _ _ _ _ _ => rdcnt_gives, srWrite_changes,
    fun _ => ⟨srCheck_srnum, srCheck_srwrite⟩⟩
  intro o s g n hg hl hp hv hn
  obtain ⟨h, he, rfl⟩ := wrsr_queues hg hl hp hv hn
  refine ⟨_, he, s.wrsrValue g o, ?_, rfl⟩
  unfold State.wrsrValue
  split <;> rfl

end Sys2Proof.Machine
end

section
/-! CLAIM O4. Every encoded value of a format is represented exactly (10 R224, R232). -/

namespace Sys2Proof.Machine

open Sys2Proof

/-! ### Encodings -/

/-- The exponent field of an encoding. -/
def FFmt.expo (f : FFmt) (n : Nat) : Nat := n / 2 ^ f.mb % 2 ^ f.eb

/-- The mantissa field of an encoding. -/
def FFmt.mant (f : FFmt) (n : Nat) : Nat := n % 2 ^ f.mb

theorem FFmt.mant_lt (f : FFmt) (n : Nat) : f.mant n < 2 ^ f.mb := Nat.mod_lt _ (Nat.two_pow_pos _)

theorem FFmt.expo_lt (f : FFmt) (n : Nat) : f.expo n < 2 ^ f.eb := Nat.mod_lt _ (Nat.two_pow_pos _)

/-- The finite value of an exponent and a mantissa: subnormal at exponent 0 (10 R224). -/
def FFmt.finite (f : FFmt) (neg : Bool) (e m : Nat) : FV :=
  if e = 0 then .fin neg m (1 - f.bias - f.mb) else .fin neg (2 ^ f.mb + m) (e - f.bias - f.mb)

theorem FFmt.value_below_top {f : FFmt} {n : Nat} (h : f.expo n ≠ 2 ^ f.eb - 1) :
    f.value false n = f.finite (n.testBit f.signBit) (f.expo n) (f.mant n) := if_neg h

theorem FFmt.value_top_ieee {f : FFmt} {n : Nat} (h : f.expo n = 2 ^ f.eb - 1) (hs : f.special = .ieee) :
    f.value false n = if f.mant n = 0 then .inf (n.testBit f.signBit) else .nan := (if_pos h).trans (by rw [hs]; rfl)

theorem FFmt.value_top_e4m3 {f : FFmt} {n : Nat} (h : f.expo n = 2 ^ f.eb - 1) (hs : f.special = .e4m3) :
    f.value false n = if f.mant n = 2 ^ f.mb - 1 then .nan else f.finite (n.testBit f.signBit) (f.expo n) (f.mant n) :=
  (if_pos h).trans (by rw [hs]; rfl)

theorem FFmt.value_top_none {f : FFmt} {n : Nat} (h : f.expo n = 2 ^ f.eb - 1) (hs : f.special = .none) :
    f.value false n = f.finite (n.testBit f.signBit) (f.expo n) (f.mant n) := (if_pos h).trans (by rw [hs]; rfl)

/-! ### Codes without their sign -/

/-- An encoding without its sign. -/
def FFmt.code (f : FFmt) (n : Nat) : Nat := f.expo n * 2 ^ f.mb + f.mant n

/-- An encoding is its sign and its code. -/
theorem FFmt.signed_code {f : FFmt} {n : Nat} (h : n < 2 ^ (f.signBit + 1)) :
    f.signed (n.testBit f.signBit) (f.code n) = n := by
  have hcode : f.code n = n % 2 ^ f.signBit := by
    rw [FFmt.code, FFmt.signBit, Nat.add_comm f.eb, Nat.pow_add, Nat.mod_mul, Nat.add_comm, Nat.mul_comm]
    rfl
  have hdiv := Nat.div_add_mod n (2 ^ f.signBit)
  have hlt : n / 2 ^ f.signBit < 2 := Nat.div_lt_of_lt_mul (by rwa [← Nat.pow_succ])
  rw [hcode, FFmt.signed, Nat.testBit_eq_decide_div_mod_eq, Nat.mod_eq_of_lt hlt]
  rcases Nat.le_one_iff_eq_zero_or_eq_one.mp (Nat.le_of_lt_succ hlt) with hq | hq
  · rw [hq] at hdiv ⊢
    simpa only [Nat.zero_ne_one, decide_false, Bool.false_eq_true, ↓reduceIte, Nat.mul_zero, Nat.zero_add] using hdiv
  · rw [hq] at hdiv ⊢
    simpa only [decide_true, ↓reduceIte, Nat.mul_one, Nat.add_comm] using hdiv

/-- The largest finite code is the one below the infinity, or below the NaN, of a format that has one, and all ones in the others (10 R224). -/
def FFmt.MaxCodeFits (f : FFmt) : Prop :=
  match f.special with
  | .ieee => f.maxCode + 1 = f.infCode
  | .e4m3 => f.maxCode + 2 = 2 ^ f.eb * 2 ^ f.mb
  | .none => f.maxCode + 1 = 2 ^ f.eb * 2 ^ f.mb

theorem FFmt.infCode_add (f : FFmt) : f.infCode + 2 ^ f.mb = 2 ^ f.eb * 2 ^ f.mb := by
  rw [FFmt.infCode, ← Nat.succ_mul, Nat.succ_eq_add_one, Nat.sub_add_cancel Nat.one_le_two_pow]

theorem FFmt.code_top {f : FFmt} {n : Nat} (h : f.expo n = 2 ^ f.eb - 1) : f.code n = f.infCode + f.mant n := by
  rw [FFmt.code, FFmt.infCode, h]

theorem FFmt.code_below_top {f : FFmt} {n : Nat} (h : f.expo n ≠ 2 ^ f.eb - 1) : f.code n < f.infCode := by
  have hm := f.mant_lt n
  have he := f.expo_lt n
  have hmul : (f.expo n + 1) * 2 ^ f.mb ≤ f.infCode := Nat.mul_le_mul_right _ (by omega)
  rw [Nat.add_mul, Nat.one_mul] at hmul
  unfold FFmt.code
  omega

theorem FFmt.MaxCodeFits.infCode_le {f : FFmt} (hf : f.MaxCodeFits) : f.infCode ≤ f.maxCode + 1 := by
  have hinf := f.infCode_add
  have hpos := Nat.two_pow_pos f.mb
  unfold FFmt.MaxCodeFits at hf
  cases hs : f.special <;> simp only [hs] at hf <;> omega

/-- What an encoding that is no NaN reads as. -/
theorem FFmt.value_cases {f : FFmt} {n : Nat} (hf : f.MaxCodeFits) (hn : FV.isNan (f.value false n) = false) :
    (f.special = .ieee ∧ f.code n = f.infCode ∧ f.value false n = .inf (n.testBit f.signBit)) ∨
    (f.code n ≤ f.maxCode ∧ f.value false n = f.finite (n.testBit f.signBit) (f.expo n) (f.mant n)) := by
  have hinf := f.infCode_add
  have hm := f.mant_lt n
  by_cases htop : f.expo n = 2 ^ f.eb - 1
  · rw [FFmt.code_top htop]
    cases hs : f.special with
    | ieee =>
      rw [FFmt.value_top_ieee htop hs] at hn ⊢
      by_cases hz : f.mant n = 0
      · exact .inl ⟨rfl, by rw [hz, Nat.add_zero], if_pos hz⟩
      · rw [if_neg hz] at hn
        cases hn
    | e4m3 =>
      rw [FFmt.value_top_e4m3 htop hs] at hn ⊢
      simp only [FFmt.MaxCodeFits, hs] at hf
      by_cases hz : f.mant n = 2 ^ f.mb - 1
      · rw [if_pos hz] at hn
        cases hn
      · exact .inr ⟨by omega, if_neg hz⟩
    | none =>
      simp only [FFmt.MaxCodeFits, hs] at hf
      exact .inr ⟨by omega, FFmt.value_top_none htop hs⟩
  · exact .inr ⟨Nat.le_of_lt_succ (Nat.lt_of_lt_of_le (FFmt.code_below_top htop) hf.infCode_le), FFmt.value_below_top htop⟩

/-! ### Rounding -/

theorem FFmt.round_inf {f : FFmt} (h : f.special = .ieee) (mode : RMode) (draw : Nat) (neg ftz : Bool) :
    f.round mode draw false ftz (.inf neg) = f.signed neg f.infCode := by
  simp only [FFmt.round, h, Bool.false_eq_true, ↓reduceIte]

/-- A mantissa that stands at the exponent that rounding gives it is kept. -/
theorem FFmt.round_aligned {f : FFmt} {m : Nat} {e : Int} (hm : m ≠ 0)
    (he : (if e + m.log2 < 1 - f.bias then 1 - f.bias else e + m.log2) - f.mb = e) {code : Nat}
    (hcode : (if m < 2 ^ f.mb then m else ((e + f.mb + f.bias).toNat - 1) * 2 ^ f.mb + m) = code) (hmax : code ≤ f.maxCode)
    (mode : RMode) (draw : Nat) (neg : Bool) : f.round mode draw false false (.fin neg m e) = f.signed neg code := by
  simp only [FFmt.round, hm, he, hcode, gt_iff_lt, Nat.not_lt.mpr hmax, Int.le_refl, Int.sub_self, Int.toNat_zero, Nat.pow_zero, Nat.mul_one,
    Bool.false_and, Bool.false_eq_true, ↓reduceIte]

/-- A finite value of the format stands at its exponent: at the least one when subnormal, and with its leading bit in place otherwise. -/
theorem FFmt.round_finite {f : FFmt} {e m : Nat} (hm : m < 2 ^ f.mb) (hmax : e * 2 ^ f.mb + m ≤ f.maxCode) (mode : RMode) (draw : Nat) (neg : Bool) :
    f.round mode draw false false (f.finite neg e m) = f.signed neg (e * 2 ^ f.mb + m) := by
  unfold FFmt.finite
  split
  next he =>
    subst he
    by_cases hm0 : m = 0
    · simp only [FFmt.round, hm0, Nat.zero_mul, Nat.add_zero, ↓reduceIte]
    · have hlog : m.log2 < f.mb := (Nat.log2_lt hm0).mpr hm
      exact FFmt.round_aligned hm0 (by rw [if_pos (by omega)]) (by rw [if_pos hm, Nat.zero_mul, Nat.zero_add]) hmax mode draw neg
  next he =>
    have hlog : (2 ^ f.mb + m).log2 = f.mb := (Nat.log2_eq_iff (by omega)).mpr ⟨by omega, by rw [Nat.pow_succ]; omega⟩
    have hexp : ((e : Int) - f.bias - f.mb + f.mb + f.bias).toNat = e := by omega
    have hcode : (e - 1) * 2 ^ f.mb + (2 ^ f.mb + m) = e * 2 ^ f.mb + m := by
      rw [← Nat.add_assoc, ← Nat.succ_mul, Nat.succ_eq_add_one, Nat.sub_add_cancel (Nat.one_le_iff_ne_zero.mpr he)]
    refine FFmt.round_aligned (by omega) ?_ ?_ hmax mode draw neg
    · rw [hlog, if_neg (by omega), Int.add_sub_cancel]
    · rw [if_neg (by omega), hexp, hcode]

/-- The largest finite codes of the table of 10 R224. -/
theorem maxCodeFits_formats : ∀ f ∈ [FFmt.f32, FFmt.bf16, FFmt.f16, FFmt.e4m3, FFmt.e5m2, FFmt.e3m2, FFmt.e2m3, FFmt.e2m1], f.MaxCodeFits := by
  simp only [List.mem_cons, List.not_mem_nil, or_false, forall_eq_or_imp, forall_eq]
  exact ⟨rfl, rfl, rfl, rfl, rfl, rfl, rfl, rfl⟩

/-- Settles O4: a NaN apart, an encoding is an infinity or a finite value, and neither needs rounding. -/
theorem roundingIsExactOnTheFormat : Obligations.RoundingIsExactOnTheFormat := by
  unfold Obligations.RoundingIsExactOnTheFormat
  intro f hf mode draw n hlt hn
  rcases FFmt.value_cases (maxCodeFits_formats f hf) hn with ⟨hspecial, hcode, hval⟩ | ⟨hcode, hval⟩
  · rw [hval, FFmt.round_inf hspecial, ← hcode, FFmt.signed_code hlt]
  · rw [hval, FFmt.round_finite (f.mant_lt n) hcode, ← FFmt.code, FFmt.signed_code hlt]

end Sys2Proof.Machine
end

section
/-! CLAIM O5. The reduction tree of integer additions is a sum (10 R243). -/

namespace Sys2Proof.Machine

open Sys2Proof

/-- The integer sum of `n` lanes from lane `j`, where an absent value counts as 0. -/
def laneSum (leaf : Nat → Option Word) (j n : Nat) : Int := ((List.range n).map (fun i => ((leaf (j + i)).getD 0).toInt)).sum

theorem laneSum_one (leaf : Nat → Option Word) (j : Nat) : laneSum leaf j 1 = ((leaf j).getD 0).toInt := Int.add_zero _

theorem laneSum_add (leaf : Nat → Option Word) (j n m : Nat) : laneSum leaf j (n + m) = laneSum leaf j n + laneSum leaf (j + n) m := by
  simp only [laneSum, List.range_add, List.map_append, List.sum_append_int, List.map_map, Function.comp_def, Nat.add_assoc]

/-- A tree of additions is the sum of the values present in its `2^d` leaves, modulo 2^32: a subtree without a value gives way to the other, as a 0 does. -/
theorem treeOf_add_getD {op : Nat → Nat → Word → Word → Word} (hop : ∀ d j a b, op d j a b = a + b) (leaf : Nat → Option Word) (d j : Nat) :
    (treeOf op leaf d j).getD 0 = BitVec.ofInt 32 (laneSum leaf j (2 ^ d)) := by
  induction d generalizing j with
  | zero => rw [Nat.pow_zero, laneSum_one, BitVec.ofInt_toInt, treeOf]
  | succ d ih =>
    have hsplit : (treeOf op leaf (d + 1) j).getD 0 = (treeOf op leaf d j).getD 0 + (treeOf op leaf d (j + 2 ^ d)).getD 0 := by
      rw [treeOf]
      cases treeOf op leaf d j <;> cases treeOf op leaf d (j + 2 ^ d) <;>
        simp only [hop, BitVec.ofNat_eq_ofNat, Option.getD_some, Option.getD_none, BitVec.add_zero, BitVec.zero_add]
    rw [hsplit, ih, ih, ← BitVec.ofInt_add, ← laneSum_add, Nat.pow_succ, Nat.mul_two]

/-- ADD of integers without saturation adds modulo 2^32. -/
theorem Comb.op_add_s32 {r : Rnd} (h : r.sat = false) (draw : Nat) (a b : Word) : Comb.add.op .s32 r draw a b = a + b := by
  simp only [Comb.op, TyCode.isFloat, TyCode.isSigned, asInt, narrow, h, BitVec.ofInt_add, BitVec.ofInt_toInt, Bool.false_eq_true, ↓reduceIte]

/-- Settles O5, by induction on the levels of the tree: each halves the lanes, and addition modulo 2^32 joins the two sums. -/
theorem reductionIsTheSum : Obligations.ReductionIsTheSum := by
  unfold Obligations.ReductionIsTheSum
  intro leaf r hr
  rw [treeOf_add_getD (fun _ _ => Comb.op_add_s32 hr _), laneSum, List.sum_eq_foldl]
  simp only [Nat.zero_add, Nat.reducePow]

end Sys2Proof.Machine
end

section
/-! SUPPORT. The number that a finite value stands for, and what exact sums, products and comparisons make of it (10 R232, R236). -/

namespace Sys2Proof.Machine

open Sys2Proof

/-! ### Powers of two -/

/-- The number 2^e. -/
def pow2 (e : Int) : Rat := 2 ^ e

theorem pow2_zero : pow2 0 = 1 := Rat.zpow_zero 2

theorem pow2_add (d e : Int) : pow2 (d + e) = pow2 d * pow2 e := Rat.zpow_add (by decide) d e

theorem pow2_ne_zero (e : Int) : pow2 e ≠ 0 := Rat.ne_of_gt (Rat.zpow_pos (by decide))

theorem mul_pow2_inj {p q : Rat} (e : Int) : p * pow2 e = q * pow2 e ↔ p = q :=
  ⟨fun h => by rw [← Rat.mul_div_cancel (pow2_ne_zero e) (a := p), h, Rat.mul_div_cancel (pow2_ne_zero e)], fun h => by rw [h]⟩

theorem pow2_natCast (n : Nat) : pow2 n = ((2 ^ n : Nat) : Int) := by
  rw [pow2, Rat.zpow_natCast, Int.natCast_pow, Rat.intCast_pow]
  rfl

/-! ### Numbers -/

theorem rat_add_add_add_comm (a b c d : Rat) : a + b + (c + d) = a + c + (b + d) := by
  rw [Rat.add_assoc, ← Rat.add_assoc b, Rat.add_comm b, Rat.add_assoc c, ← Rat.add_assoc]

theorem rat_mul_mul_mul_comm (a b c d : Rat) : a * b * (c * d) = a * c * (b * d) := by
  rw [Rat.mul_assoc, ← Rat.mul_assoc b, Rat.mul_comm b, Rat.mul_assoc c, ← Rat.mul_assoc]

/-- The number of a finite value; the other values have none, and 0 stands in its place. -/
def FV.rat (x : FV) : Rat := x.exact.1 * pow2 x.exact.2

/-- The value is finite, and stands for a number. -/
def FV.Is (x : FV) (q : Rat) : Prop := x.special = false ∧ x.rat = q

theorem FV.is_rat {x : FV} (h : x.special = false) : x.Is x.rat := ⟨h, rfl⟩

theorem FV.exists_fin {x : FV} {q : Rat} (h : x.Is q) : ∃ n m e, x = .fin n m e := by
  obtain ⟨hx, -⟩ := h
  cases x with
  | fin n m e => exact ⟨n, m, e, rfl⟩
  | nan => cases hx
  | inf n => cases hx

theorem FV.rat_zero (n : Bool) (e : Int) : (FV.fin n 0 e).rat = 0 := by
  cases n <;> exact Rat.zero_mul _

/-- An integer as sign and magnitude, at an exponent. -/
theorem FV.rat_natAbs (x e : Int) : (FV.fin (x < 0) x.natAbs e).rat = x * pow2 e := by
  have hx : (FV.fin (x < 0) x.natAbs e).exact.1 = x := by
    simp only [FV.exact, decide_eq_true_eq]
    omega
  rw [FV.rat, hx]
  rfl

/-- The signed mantissa at a lower exponent stands for the same number. -/
theorem FV.at_rat (m : Nat) (n : Bool) {e lo : Int} (h : lo ≤ e) : (FV.at m n e lo : Rat) * pow2 lo = (FV.fin n m e).rat := by
  have hat : FV.at m n e lo = (FV.fin n m e).exact.1 * ((2 ^ (e - lo).toNat : Nat) : Int) := by
    cases n
    · exact Int.natCast_mul _ _
    · exact (congrArg Neg.neg (Int.natCast_mul _ _)).trans (Int.neg_mul _ _).symm
  have hexp : ((e - lo).toNat : Int) + lo = e := by omega
  rw [hat, Rat.intCast_mul, ← pow2_natCast, Rat.mul_assoc, ← pow2_add, hexp]
  rfl

/-! ### Operations -/

theorem FV.is_ofInt (x : Int) : (FV.ofInt x).Is x :=
  ⟨rfl, by rw [FV.ofInt, FV.rat_natAbs, pow2_zero, Rat.mul_one]⟩

theorem FV.Is.ofExact {x : FV} {q : Rat} (h : x.Is q) : (ofExact x.exact).Is q :=
  ⟨rfl, (FV.rat_natAbs _ _).trans h.2⟩

/-- The lower one of two exponents. -/
theorem lower_le (e k : Int) : (if e ≤ k then e else k) ≤ e ∧ (if e ≤ k then e else k) ≤ k := by
  omega

theorem FV.Is.add {x y : FV} {p q : Rat} (hx : x.Is p) (hy : y.Is q) (mode : RMode) : (x.add mode y).Is (p + q) := by
  obtain ⟨a, m, e, rfl⟩ := FV.exists_fin hx
  obtain ⟨b, n, k, rfl⟩ := FV.exists_fin hy
  obtain ⟨-, rfl⟩ := hx
  obtain ⟨-, rfl⟩ := hy
  obtain ⟨he, hk⟩ := lower_le e k
  simp only [FV.add]
  generalize (if e ≤ k then e else k) = lo at he hk ⊢
  have hsum : ((FV.at m a e lo + FV.at n b k lo : Int) : Rat) * pow2 lo = (FV.fin a m e).rat + (FV.fin b n k).rat := by
    rw [Rat.intCast_add, Rat.add_mul, FV.at_rat m a he, FV.at_rat n b hk]
  split
  next hz =>
    rw [hz.1, hz.2, FV.rat_zero, FV.rat_zero, Rat.zero_add]
    split <;> exact ⟨rfl, FV.rat_zero _ _⟩
  next =>
    split
    next hm => exact ⟨rfl, by rw [hm, FV.rat_zero, Rat.zero_add]⟩
    next =>
      split
      next hn => exact ⟨rfl, by rw [hn, FV.rat_zero, Rat.add_zero]⟩
      next =>
        split
        next hx => exact ⟨rfl, by rw [← hsum, hx, FV.rat_zero, Rat.intCast_zero, Rat.zero_mul]⟩
        next => exact ⟨rfl, by rw [FV.rat_natAbs, hsum]⟩

theorem FV.exact_mul (a b : Bool) (m n : Nat) (e k : Int) :
    ((FV.fin a m e).mul (FV.fin b n k)).exact = ((FV.fin a m e).exact.1 * (FV.fin b n k).exact.1, e + k) := by
  cases a <;> cases b <;>
    simp only [FV.mul, FV.exact, bne_self_eq_false, Bool.bne_true, Bool.bne_false, Bool.not_false, Bool.false_eq_true, ↓reduceIte, Int.natCast_mul,
      Int.mul_neg, Int.neg_mul, Int.neg_neg]

theorem FV.Is.mul {x y : FV} {p q : Rat} (hx : x.Is p) (hy : y.Is q) : (x.mul y).Is (p * q) := by
  obtain ⟨a, m, e, rfl⟩ := FV.exists_fin hx
  obtain ⟨b, n, k, rfl⟩ := FV.exists_fin hy
  obtain ⟨-, rfl⟩ := hx
  obtain ⟨-, rfl⟩ := hy
  refine ⟨rfl, ?_⟩
  rw [FV.rat, FV.exact_mul, Rat.intCast_mul, pow2_add]
  exact rat_mul_mul_mul_comm _ _ _ _

/-- Two finite values compare equal when they stand for one number. -/
theorem FV.cmp_eq_zero_iff {x y : FV} {p q : Rat} (hx : x.Is p) (hy : y.Is q) : x.cmp y = 0 ↔ p = q := by
  obtain ⟨a, m, e, rfl⟩ := FV.exists_fin hx
  obtain ⟨b, n, k, rfl⟩ := FV.exists_fin hy
  obtain ⟨-, rfl⟩ := hx
  obtain ⟨-, rfl⟩ := hy
  obtain ⟨he, hk⟩ := lower_le e k
  rw [← FV.at_rat m a he, ← FV.at_rat n b hk, mul_pow2_inj, Rat.intCast_inj]
  simp only [FV.cmp]
  generalize (if e ≤ k then e else k) = lo
  split
  next hlt => exact iff_of_false (by decide) (Int.ne_of_lt hlt)
  next =>
    split
    next heq => exact iff_of_true rfl heq
    next hne => exact iff_of_false (by decide) hne

theorem FV.same_iff {x y : FV} {p q : Rat} (hx : x.Is p) (hy : y.Is q) : x.same y = true ↔ p = q := by
  rw [FV.same, beq_iff_eq, FV.cmp_eq_zero_iff hx hy]

/-! ### Sums of numbers -/

/-- The sum of the first `n` numbers of a sequence. -/
def ratSum : Nat → (Nat → Rat) → Rat
  | 0, _ => 0
  | n + 1, q => ratSum n q + q n

theorem ratSum_zero (n : Nat) : ratSum n (fun _ => 0) = 0 := by
  induction n with
  | zero => rfl
  | succ n ih => rw [ratSum, ih, Rat.add_zero]

theorem ratSum_add (n : Nat) (p q : Nat → Rat) : ratSum n (fun k => p k + q k) = ratSum n p + ratSum n q := by
  induction n with
  | zero => exact (Rat.add_zero 0).symm
  | succ n ih => rw [ratSum, ratSum, ratSum, ih, rat_add_add_add_comm]

theorem ratSum_mul_left (n : Nat) (c : Rat) (q : Nat → Rat) : ratSum n (fun k => c * q k) = c * ratSum n q := by
  induction n with
  | zero => exact (Rat.mul_zero c).symm
  | succ n ih => rw [ratSum, ratSum, ih, Rat.mul_add]

theorem ratSum_mul_right (n : Nat) (c : Rat) (q : Nat → Rat) : ratSum n (fun k => q k * c) = ratSum n q * c := by
  simp only [Rat.mul_comm _ c, ratSum_mul_left]

/-- A double sum in the other order. -/
theorem ratSum_comm (n m : Nat) (q : Nat → Nat → Rat) : ratSum n (fun i => ratSum m (q i)) = ratSum m (fun k => ratSum n (fun i => q i k)) := by
  induction n with
  | zero => exact (ratSum_zero m).symm
  | succ n ih => simp only [ratSum, ratSum_add, ih]

/-- A sum of integers. -/
theorem ratSum_intCast (n : Nat) (x : Nat → Int) : ratSum n (fun k => x k) = (((List.range n).map x).foldl (· + ·) 0 : Int) := by
  induction n with
  | zero => rfl
  | succ n ih => rw [ratSum, ih, List.range_succ, List.map_append, List.foldl_append, ← Rat.intCast_add]; rfl

/-! ### Exact sums of values -/

theorem exactSum_succ_succ (n : Nat) (f : Nat → FV) : exactSum (n + 2) f = (exactSum (n + 1) f).add .rne (f (n + 1)) := by
  simp only [exactSum, List.range_succ (n := n + 1), List.range_succ (n := n), List.foldl_append, List.foldl_cons, List.foldl_nil, Option.getD_some]

/-- An exact sum of finite values is the sum of their numbers: nothing is rounded on the way (10 R239). -/
theorem exactSum_is (n : Nat) (f : Nat → FV) (q : Nat → Rat) (h : ∀ k < n, (f k).Is (q k)) : (exactSum n f).Is (ratSum n q) := by
  induction n with
  | zero => exact ⟨rfl, FV.rat_zero false 0⟩
  | succ n ih =>
    cases n with
    | zero =>
      rw [ratSum, ratSum, Rat.zero_add]
      exact h 0 Nat.one_pos
    | succ n =>
      rw [exactSum_succ_succ, ratSum]
      exact (ih (fun k hk => h k (Nat.lt_succ_of_lt hk))).add (h _ (Nat.lt_succ_self _)) .rne

end Sys2Proof.Machine
end

section
/-! CLAIM O10. A chunk is summed exactly, and a chunk without an error passes its check (10 R239, R240, 15 R339, R340). -/

namespace Sys2Proof.Machine

open Sys2Proof

theorem pick_keep {n i : Nat} (f : Nat → FV) (h : i < n) : pick (keep n f) i = f i := by
  simp only [pick, keep, Array.getD_eq_getD_getElem?, List.size_toArray, List.length_map, List.length_range, h, getElem?_pos, List.getElem_toArray,
    List.getElem_map, List.getElem_range, Option.getD_some]

theorem chunkSum_is {a b : Nat → FV} {p q : Nat → Rat} (ha : ∀ k < 128, (a k).Is (p k)) (hb : ∀ k < 128, (b k).Is (q k)) :
    (chunkSum a b).Is (ratSum 128 (fun k => p k * q k)) :=
  exactSum_is _ _ _ (fun k hk => (ha k hk).mul (hb k hk))

theorem Chunk.rows_eq_nil {c : Chunk} (h : ∀ i < 128, (c.rs i).same (pick c.col i) = true) : c.rows = [] := by
  rw [Chunk.rows, List.filter_eq_nil_iff]
  intro i hi
  rw [Bool.not_eq_true', Bool.not_eq_false]
  exact h i (List.mem_range.mp hi)

theorem Chunk.cols_eq_nil {c : Chunk} (h : ∀ j < 128, (c.cs j).same (pick c.row j) = true) : c.cols = [] := by
  rw [Chunk.cols, List.filter_eq_nil_iff]
  intro j hj
  rw [Bool.not_eq_true', Bool.not_eq_false]
  exact h j (List.mem_range.mp hj)

theorem Chunk.decide_good {c : Chunk} (hr : c.rows = []) (hc : c.cols = []) : c.decide.1 = .good := by
  unfold Chunk.decide
  rw [hr, hc]

/-! ### The sums of a chunk of finite elements -/

section finite
variable {a b bs : Nat → FV} {p q : Nat → Rat} (ha : ∀ e < 16384, (a e).Is (p e)) (hb : ∀ e < 16384, (b e).Is (q e))
include ha hb

/-- S(i, j). -/
theorem chunkOf_sums_is {i j : Nat} (hi : i < 128) (hj : j < 128) :
    (pick (chunkOf a b bs).sums (128 * i + j)).Is (ratSum 128 (fun k => p (128 * i + k) * q (128 * j + k))) := by
  have hrow : (128 * i + j) / 128 = i := by omega
  have hcol : (128 * i + j) % 128 = j := by omega
  rw [chunkOf, pick_keep _ (by omega), hrow, hcol]
  exact chunkSum_is (fun k hk => ha _ (by omega)) (fun k hk => hb _ (by omega))

/-- The checksum row: the sums of A's columns, times B. -/
theorem chunkOf_row_is {j : Nat} (hj : j < 128) :
    (pick (chunkOf a b bs).row j).Is (ratSum 128 (fun k => ratSum 128 (fun i => p (128 * i + k)) * q (128 * j + k))) := by
  rw [chunkOf, pick_keep _ hj]
  refine exactSum_is 128 _ _ (fun k hk => FV.Is.mul ?_ (hb _ (by omega)))
  rw [pick_keep _ hk]
  exact exactSum_is 128 _ _ (fun i hi => ha _ (by omega))

theorem chunkOf_rs_is {i : Nat} (hi : i < 128) :
    ((chunkOf a b bs).rs i).Is (ratSum 128 (fun j => ratSum 128 (fun k => p (128 * i + k) * q (128 * j + k)))) :=
  exactSum_is 128 _ _ (fun _ hj => chunkOf_sums_is ha hb hi hj)

theorem chunkOf_cs_is {j : Nat} (hj : j < 128) :
    ((chunkOf a b bs).cs j).Is (ratSum 128 (fun i => ratSum 128 (fun k => p (128 * i + k) * q (128 * j + k)))) :=
  exactSum_is 128 _ _ (fun _ hi => chunkOf_sums_is ha hb hi hj)

/-- The column test: a sum over i and k, in either order. -/
theorem chunkOf_cs_same {j : Nat} (hj : j < 128) : ((chunkOf a b bs).cs j).same (pick (chunkOf a b bs).row j) = true := by
  rw [FV.same_iff (chunkOf_cs_is ha hb hj) (chunkOf_row_is ha hb hj), ratSum_comm]
  simp only [ratSum_mul_right]

omit ha in
theorem bsumOf_is {k : Nat} (hk : k < 128) : (bsumOf b k).Is (ratSum 128 (fun j => q (128 * j + k))) :=
  exactSum_is 128 _ _ (fun j hj => (hb _ (by omega)).ofExact)

variable (hbs : ∀ k < 128, (bs k).special = false ∧ FV.cmp (bs k) (bsumOf b k) = 0)
include hbs

/-- The checksum column: A, times the sums of B's columns. -/
theorem chunkOf_col_is {i : Nat} (hi : i < 128) :
    (pick (chunkOf a b bs).col i).Is (ratSum 128 (fun k => p (128 * i + k) * ratSum 128 (fun j => q (128 * j + k)))) := by
  rw [chunkOf, pick_keep _ hi]
  refine exactSum_is 128 _ _ (fun k hk => FV.Is.mul (ha _ (by omega)) ?_)
  obtain ⟨hfin, hsum⟩ := hbs k hk
  exact ⟨hfin, (FV.cmp_eq_zero_iff (FV.is_rat hfin) (bsumOf_is hb hk)).mp hsum⟩

/-- The row test: a sum over j and k, in either order. -/
theorem chunkOf_rs_same {i : Nat} (hi : i < 128) : ((chunkOf a b bs).rs i).same (pick (chunkOf a b bs).col i) = true := by
  rw [FV.same_iff (chunkOf_rs_is ha hb hi) (chunkOf_col_is ha hb hbs hi), ratSum_comm]
  simp only [ratSum_mul_left]

theorem chunkOf_good : ((chunkOf a b bs).decide).1 = .good :=
  Chunk.decide_good (Chunk.rows_eq_nil fun _ => chunkOf_rs_same ha hb hbs) (Chunk.cols_eq_nil fun _ => chunkOf_cs_same ha hb)

end finite

/-- Integer products: the values of both sides stand for one number. -/
theorem chunkSum_ofInt (x y : Nat → Int) :
    FV.cmp (chunkSum (fun k => FV.ofInt (x k)) (fun k => FV.ofInt (y k))) (FV.ofInt (((List.range 128).map (fun k => x k * y k)).foldl (· + ·) 0)) = 0 := by
  have hsum := chunkSum_is (fun k _ => FV.is_ofInt (x k)) (fun k _ => FV.is_ofInt (y k))
  simp only [← Rat.intCast_mul] at hsum
  rw [ratSum_intCast] at hsum
  exact (FV.cmp_eq_zero_iff hsum (FV.is_ofInt _)).mpr rfl

/-- Settles O10, by the numbers that the values stand for: every sum of a chunk is a sum of rationals, and each check compares one double sum taken in two
orders. -/
theorem chunkSumIsExact : Obligations.ChunkSumIsExact := by
  unfold Obligations.ChunkSumIsExact
  exact ⟨chunkSum_ofInt, fun _ _ _ hfin hbs => chunkOf_good (fun e he => FV.is_rat (hfin e he).1) (fun e he => FV.is_rat (hfin e he).2) hbs⟩

end Sys2Proof.Machine
end

section
/-! SUPPORT. A form that gives each executing lane one value: its result from the meaning, with the poison of its first poisoned source (12 R264). -/

namespace Sys2Proof.Machine

open Sys2Proof

theorem foldl_orElse (l : List Val) (x : Option Nat) : (l.map (·.psn)).foldl (fun a x => a <|> x) x = x.or (firstPsn l) := by
  induction l generalizing x with
  | nil => simp [firstPsn]
  | cons v l ih =>
    rw [List.map_cons, List.foldl_cons, ih]
    cases x <;> cases h : v.psn <;> simp [firstPsn, h]

/-- A value with the poisons of its sources takes that of the first poisoned one. -/
theorem Val.with_psns (w : Word) (l : List Val) : Val.with w (l.map (·.psn)) = ⟨w, firstPsn l⟩ := by
  rw [Val.with, foldl_orElse, Option.none_or]

/-- A form whose meaning gives one result per lane. -/
theorem laneGives_of_execAlu {i : Instr} {f : Form} {n : Nat} {o : OpA} {op r : Nat → Word → Word → Word → Word}
    (he : ∀ s, exec i s = execAlu f n o op s) (hr : ∀ l a b c, op l a b c = r l a b c) : LaneGives i f n o r := by
  obtain rfl : op = r := by
    funext l a b c
    exact hr l a b c
  intro s g g0 hg h0 hw
  obtain ⟨h, hex, hwrote⟩ := execAlu_writes he s g g0 hg h0 hw
  refine ⟨h, hex, ?_⟩
  simpa only [← Val.with_psns, List.map_cons, List.map_nil] using hwrote

/-- A form whose meaning is an exact result of the numbers that its TYPE reads. -/
theorem laneGives_of_execExact {i : Instr} {f : Form} {o : OpA} {op : Int → Int → Int → Int} {r : Nat → Word → Word → Word → Word}
    (he : ∀ s, exec i s = execExact f o op s)
    (hr : ∀ l a b c, narrow (signedOf f o) (satOf o) (op (num (signedOf f o) a) (num (signedOf f o) b) (num (signedOf f o) c)) = r l a b c) :
    LaneGives i f 0 o r :=
  laneGives_of_execAlu he hr

/-! ### Numbers of a TYPE -/

/-- The number lies in the range of a 32-bit type. -/
def InRange (sg : Bool) (x : Int) : Prop := (range32 sg).1 ≤ x ∧ x ≤ (range32 sg).2

theorem inRange_signed (x : Int) : InRange true x ↔ -2147483648 ≤ x ∧ x ≤ 2147483647 := Iff.rfl

theorem inRange_unsigned (x : Int) : InRange false x ↔ 0 ≤ x ∧ x ≤ 4294967295 := Iff.rfl

theorem inRange_num (sg : Bool) (w : Word) : InRange sg (num sg w) := by
  cases sg
  · rw [inRange_unsigned]
    simp only [num, Bool.false_eq_true, ↓reduceIte]
    omega
  · rw [inRange_signed]
    simp only [num, ↓reduceIte]
    exact ⟨BitVec.le_toInt w, Int.le_of_lt_add_one BitVec.toInt_lt⟩

theorem ofInt_num (sg : Bool) (w : Word) : BitVec.ofInt 32 (num sg w) = w := by
  cases sg
  · exact (BitVec.ofInt_natCast 32 w.toNat).trans ((BitVec.ofNat_toNat 32 w).trans (BitVec.setWidth_eq w))
  · exact BitVec.ofInt_toInt

theorem num_inj (sg : Bool) {a b : Word} : num sg a = num sg b ↔ a = b :=
  ⟨fun h => by rw [← ofInt_num sg a, h, ofInt_num], fun h => by rw [h]⟩

/-- A number in range is its own result, clamped or not. -/
theorem narrow_of_inRange {sg : Bool} {x : Int} (h : InRange sg x) (sat : Bool) : narrow sg sat x = BitVec.ofInt 32 x := by
  obtain ⟨hlo, hhi⟩ := h
  have hclamp : clampInt (range32 sg).1 (range32 sg).2 x = x := by
    rw [clampInt, if_neg (by omega), if_neg (by omega)]
  rw [narrow, hclamp, ite_self]

theorem narrow_num (sg sat : Bool) (w : Word) : narrow sg sat (num sg w) = w := by
  rw [narrow_of_inRange (inRange_num sg w), ofInt_num]

theorem narrow_ite (sg sat : Bool) (c : Prop) [Decidable c] (a b : Word) :
    narrow sg sat (if c then num sg a else num sg b) = if c then a else b := by
  split <;> exact narrow_num ..

/-- Clamping as the statements say it: the least upper bound of the range's ends. -/
theorem narrow_eq_result (sg sat : Bool) (x : Int) : narrow sg sat x = result sg sat x := by
  have hclamp : ∀ lo hi : Int, lo ≤ hi → clampInt lo hi x = max lo (min x hi) := by
    intro lo hi h
    unfold clampInt
    omega
  cases sat
  · rfl
  · cases sg
    · exact congrArg (BitVec.ofInt 32) (hclamp 0 4294967295 (by decide))
    · exact congrArg (BitVec.ofInt 32) (hclamp (-2147483648) 2147483647 (by decide))

/-! ### Truth values -/

theorem truth_decide (c : Prop) [Decidable c] : truth (decide c) = if c then 1 else 0 := by
  by_cases h : c <;> simp [truth, h]

theorem truth_not_decide (c : Prop) [Decidable c] : truth (!decide c) = if c then 0 else 1 := by
  by_cases h : c <;> simp [truth, h]

theorem bne_zero (a : Word) : (a != 0) = decide (a ≠ 0) := decide_not.symm

end Sys2Proof.Machine
end

section
/-! CLAIM O1. Integer arithmetic: the exact result of each lane, wrapped or clamped (12 R265). -/

namespace Sys2Proof.Machine

open Sys2Proof

/-! ### Bits [63:32] of an exact value -/

/-- The upper half of a product and a sum of two words is itself a number of the TYPE. -/
theorem inRange_high (sg : Bool) (a b c : Word) : InRange sg ((num sg a * num sg b + num sg c) / 2 ^ 32) := by
  cases sg
  · have hprod : a.toNat * b.toNat ≤ 4294967295 * 4294967295 := Nat.mul_le_mul (by omega) (by omega)
    rw [inRange_unsigned]
    simp only [num, Bool.false_eq_true, ↓reduceIte, ← Int.natCast_mul]
    omega
  · obtain ⟨hala, hahi⟩ := (inRange_signed _).1 (inRange_num true a)
    obtain ⟨hblo, hbhi⟩ := (inRange_signed _).1 (inRange_num true b)
    obtain ⟨hclo, hchi⟩ := (inRange_signed _).1 (inRange_num true c)
    have hprod : (num true a * num true b).natAbs ≤ 2147483648 * 2147483648 := by
      rw [Int.natAbs_mul]
      exact Nat.mul_le_mul (by omega) (by omega)
    rw [inRange_signed]
    omega

theorem ofInt_div_eq_extractLsb' (x : Int) : BitVec.ofInt 32 (x / 2 ^ 32) = (BitVec.ofInt 64 x).extractLsb' 32 32 := by
  apply BitVec.eq_of_toNat_eq
  simp only [BitVec.toNat_ofInt, BitVec.extractLsb'_toNat, Nat.shiftRight_eq_div_pow]
  omega

theorem narrow_high (sg sat : Bool) (a b c : Word) : narrow sg sat ((num sg a * num sg b + num sg c) / 2 ^ 32) =
    (BitVec.ofInt 64 (num sg a * num sg b + num sg c)).extractLsb' 32 32 := by
  rw [narrow_of_inRange (inRange_high sg a b c), ofInt_div_eq_extractLsb']

theorem num_zero (sg : Bool) : num sg 0 = 0 := by
  cases sg <;> rfl

theorem narrow_high_mul (sg sat : Bool) (a b : Word) : narrow sg sat (num sg a * num sg b / 2 ^ 32) =
    (BitVec.ofInt 64 (num sg a * num sg b)).extractLsb' 32 32 := by
  simpa only [num_zero, Int.add_zero] using narrow_high sg sat a b 0

/-! ### ABSD -/

theorem firstReject_eq_none {l : List (Reject × Bool)} (h : firstReject l = none) : ∀ c ∈ l, c.2 = true := by
  induction l with
  | nil => simp
  | cons c l ih =>
    obtain ⟨r, _ | _⟩ := c
    · cases h
    · simpa using ih h

/-- A well-formed instruction has .sat, of its own or of its modifying slot, only where its form has the slot (09 R221, 08 R198). -/
theorem satOf_of_wellFormed {i : Instr} {f : Form} {n : Nat} {o : OpA} (hi : i.wellFormed = true) (hc : i.checks = f.checks n (.a o))
    (hf : f.sat = false) : satOf o = false := by
  have hall : ∀ c ∈ f.checks n (.a o), c.2 = true := by
    rw [← hc]
    rw [Instr.wellFormed, Bool.and_eq_true, Instr.reject?, Option.isNone_iff_eq_none] at hi
    exact firstReject_eq_none hi.1
  have hmod : f.modOk (.a o) = true := hall (.modifier, f.modOk (.a o)) (by simp [Form.checks])
  have hpfx : f.pfxOk n (.a o) = true := hall (.pfxField, f.pfxOk n (.a o)) (by simp [Form.checks])
  have hsat : o.sat = false := by simpa [hf] using (Bool.and_eq_true_iff.1 hmod).2
  unfold satOf
  cases hp : o.pfx with
  | none => exact hsat
  | some p =>
    have hzero : p.sat = 0 := by
      simp only [Form.pfxOk, Op.pfx, hp, hf, Bool.and_eq_true, Bool.false_or, beq_iff_eq] at hpfx
      grind
    simp [hzero, hsat]

/-- The distance of two numbers, taken without saturation. -/
theorem narrow_absd {sat : Bool} (h : sat = false) (sg : Bool) (x y : Int) :
    narrow sg sat (if x ≤ y then y - x else x - y) = BitVec.ofNat 32 (x - y).natAbs := by
  have habs : (if x ≤ y then y - x else x - y) = ((x - y).natAbs : Int) := by omega
  rw [h, habs]
  exact BitVec.ofInt_natCast ..

/-- Settles O1: each form narrows its exact result; a result that is itself a number of the TYPE is left as it is. -/
theorem integerArithmetic : Obligations.IntegerArithmetic := by
  unfold Obligations.IntegerArithmetic
  exact ⟨fun _ => laneGives_of_execExact (op := fun a b _ => a + b) (fun _ => rfl) fun _ _ _ _ => narrow_eq_result ..,
    fun _ => laneGives_of_execExact (op := fun a b _ => a - b) (fun _ => rfl) fun _ _ _ _ => narrow_eq_result ..,
    fun _ => laneGives_of_execExact (op := fun a b _ => a * b) (fun _ => rfl) fun _ _ _ _ => narrow_eq_result ..,
    fun _ => laneGives_of_execExact (op := fun a b _ => a * b / 2 ^ 32) (fun _ => rfl) fun _ _ _ _ => narrow_high_mul ..,
    fun _ => laneGives_of_execExact (op := fun a b c => a * b + c) (fun _ => rfl) fun _ _ _ _ => narrow_eq_result ..,
    fun _ => laneGives_of_execExact (op := fun a b c => (a * b + c) / 2 ^ 32) (fun _ => rfl) fun _ _ _ _ => narrow_high ..,
    fun _ => laneGives_of_execExact (op := fun a b _ => if a ≤ b then a else b) (fun _ => rfl) fun _ _ _ _ => narrow_ite ..,
    fun _ => laneGives_of_execExact (op := fun a b _ => if a ≤ b then b else a) (fun _ => rfl) fun _ _ _ _ => narrow_ite ..,
    fun _ hwf => laneGives_of_execExact (op := fun a b _ => if a ≤ b then b - a else a - b) (fun _ => rfl) fun _ _ _ _ =>
      narrow_absd (satOf_of_wellFormed hwf rfl rfl) ..,
    fun _ => laneGives_of_execExact (op := fun a _ _ => 0 - a) (fun _ => rfl) fun _ _ _ _ => narrow_eq_result ..⟩

end Sys2Proof.Machine
end

section
/-! CLAIM O2. Division in steps: 32 of them leave quotient and remainder (12 R267, R268). -/

namespace Sys2Proof.Machine

open Sys2Proof

theorem divSteps_add (dv m n q r : Nat) : divSteps dv (m + n) q r = divSteps dv n (divSteps dv m q r).1 (divSteps dv m q r).2 := by
  induction m generalizing q r with
  | zero => rw [Nat.zero_add, divSteps]
  | succ m ih =>
    rw [Nat.succ_add, divSteps, divSteps]
    split <;> exact ih ..

/-- The register of a division under way holds `z`, the bits of the dividend to come, above `Q`, the bits of the quotient so far: its top bit is the next
bit `b` of the dividend, and a shift makes room for one more bit of the quotient. -/
theorem divRegister_shift {p P b z Q : Nat} (hp : P * p = 2147483648) (hz : z < p) (hQ : Q < P) :
    ((b * p + z) * P + Q) / 2 ^ 31 = b ∧ 2 * ((b * p + z) * P + Q) % 2 ^ 32 = z * (2 * P) + 2 * Q := by
  have hsplit : (b * p + z) * P + Q = b * 2147483648 + (z * P + Q) := by
    rw [Nat.add_mul, Nat.mul_assoc, Nat.mul_comm p P, hp, Nat.add_assoc]
  have hlow : z * P + Q < 2147483648 := by
    calc z * P + Q < z * P + P := by omega
      _ = (z + 1) * P := (Nat.succ_mul z P).symm
      _ ≤ p * P := Nat.mul_le_mul_right P hz
      _ = 2147483648 := by rw [Nat.mul_comm, hp]
  rw [hsplit, Nat.mul_left_comm z 2 P]
  omega

/-- One step: the remainder takes in the next bit of the dividend, and gives the divisor where it can (12 R267). -/
theorem divSteps_succ {p P b z Q : Nat} (hp : P * p = 2147483648) (hz : z < p) (hQ : Q < P) (dv n r : Nat) :
    divSteps dv (n + 1) ((b * p + z) * P + Q) r =
      if dv ≤ 2 * r + b then divSteps dv n (z * (2 * P) + (2 * Q + 1)) ((2 * r + b - dv) % 2 ^ 32)
      else divSteps dv n (z * (2 * P) + 2 * Q) ((2 * r + b) % 2 ^ 32) := by
  obtain ⟨htop, hshift⟩ := divRegister_shift hp hz hQ
  rw [divSteps, htop, hshift, Nat.add_assoc]

/-- The dividend's bits to come, `z`, as the next bit and the rest. -/
theorem next_bit {j z : Nat} (hz : z < 2 ^ (j + 1)) : ∃ b y, z = b * 2 ^ j + y ∧ b < 2 ∧ y < 2 ^ j := by
  have hpos : 0 < 2 ^ j := Nat.two_pow_pos j
  refine ⟨z / 2 ^ j, z % 2 ^ j, ?_, ?_, Nat.mod_lt _ hpos⟩
  · rw [Nat.mul_comm, Nat.div_add_mod]
  · rwa [Nat.div_lt_iff_lt_mul hpos, Nat.mul_comm, ← Nat.pow_succ]

/-- The room for the quotient doubles as the dividend gives up a bit. -/
theorem room_doubles {P j : Nat} (h : P * 2 ^ (j + 1) = 2 ^ 32) : P * 2 ^ j = 2147483648 ∧ 2 * P * 2 ^ j = 2 ^ 32 := by
  rw [Nat.pow_succ, ← Nat.mul_assoc] at h
  rw [Nat.mul_assoc]
  omega

theorem shift_in (j r b y : Nat) : r * 2 ^ (j + 1) + (b * 2 ^ j + y) = (2 * r + b) * 2 ^ j + y := by
  rw [Nat.pow_succ, Nat.add_mul, Nat.mul_comm 2 r, Nat.mul_assoc, Nat.mul_comm 2, Nat.add_assoc]

/-- Steps that follow the dividend's last `j` bits `z` divide the number that they make with the remainder so far. -/
theorem divSteps_eq_div {dv : Nat} (h0 : 0 < dv) (h32 : dv < 2 ^ 32) (j P z Q r : Nat) (hP : P * 2 ^ j = 2 ^ 32) (hz : z < 2 ^ j) (hQ : Q < P)
    (hr : r < dv) : divSteps dv j (z * P + Q) r = (Q * 2 ^ j + (r * 2 ^ j + z) / dv, (r * 2 ^ j + z) % dv) := by
  induction j generalizing P z Q r with
  | zero =>
    obtain rfl : z = 0 := by simpa using hz
    simp only [divSteps, Nat.zero_mul, Nat.zero_add, Nat.pow_zero, Nat.mul_one, Nat.add_zero, Nat.div_eq_of_lt hr, Nat.mod_eq_of_lt hr]
  | succ j ih =>
    obtain ⟨b, y, rfl, hb, hy⟩ := next_bit hz
    obtain ⟨hp, hP'⟩ := room_doubles hP
    rw [divSteps_succ hp hy hQ, shift_in]
    split
    next hle =>
      have hsub : (2 * r + b) * 2 ^ j + y = (2 * r + b - dv) * 2 ^ j + y + dv * 2 ^ j := by
        rw [Nat.add_right_comm, ← Nat.add_mul, Nat.sub_add_cancel hle]
      rw [Nat.mod_eq_of_lt (by omega), ih (2 * P) y (2 * Q + 1) _ hP' hy (by omega) (by omega), hsub, Nat.add_mul_div_left _ _ h0,
        Nat.add_mul_mod_self_left, Nat.add_mul, Nat.one_mul, Nat.mul_comm 2 Q, Nat.mul_assoc, Nat.pow_succ, Nat.mul_comm (2 ^ j) 2]
      congr 1
      omega
    next hlt =>
      rw [Nat.mod_eq_of_lt (by omega), ih (2 * P) y (2 * Q) _ hP' hy (by omega) (by omega), Nat.mul_comm 2 Q, Nat.mul_assoc, Nat.pow_succ,
        Nat.mul_comm (2 ^ j) 2]

/-- With a divisor of zero every bit of the quotient is 1, and the remainder takes in the whole dividend. -/
theorem divSteps_zero (j P z Q r : Nat) (hP : P * 2 ^ j = 2 ^ 32) (hz : z < 2 ^ j) (hQ : Q < P) (hr : r * 2 ^ j + z < 2 ^ 32) :
    divSteps 0 j (z * P + Q) r = (Q * 2 ^ j + (2 ^ j - 1), r * 2 ^ j + z) := by
  induction j generalizing P z Q r with
  | zero =>
    obtain rfl : z = 0 := by simpa using hz
    simp only [divSteps, Nat.zero_mul, Nat.zero_add, Nat.pow_zero, Nat.mul_one, Nat.add_zero, Nat.sub_self]
  | succ j ih =>
    obtain ⟨b, y, rfl, hb, hy⟩ := next_bit hz
    obtain ⟨hp, hP'⟩ := room_doubles hP
    rw [shift_in] at hr ⊢
    have hrem : 2 * r + b < 2 ^ 32 :=
      Nat.lt_of_le_of_lt (Nat.le_trans (Nat.le_mul_of_pos_right _ (Nat.two_pow_pos j)) (Nat.le_add_right _ y)) hr
    rw [divSteps_succ hp hy hQ, if_pos (Nat.zero_le _), Nat.sub_zero, Nat.mod_eq_of_lt hrem, ih (2 * P) y (2 * Q + 1) _ hP' hy (by omega) hr,
      Nat.add_mul, Nat.one_mul, Nat.mul_comm 2 Q, Nat.mul_assoc, Nat.pow_succ, Nat.mul_comm (2 ^ j) 2]
    have hpos := Nat.two_pow_pos j
    congr 1
    omega

/-- Settles O2: four times eight steps are 32, in which the remainder takes in every bit of the dividend. -/
theorem divisionSteps : Obligations.DivisionSteps := by
  unfold Obligations.DivisionSteps
  intro x dv
  have h32 : divSteps dv.toNat 32 x.toNat 0 = if dv = 0 then (4294967295, x.toNat) else (x.toNat / dv.toNat, x.toNat % dv.toNat) := by
    split
    next h =>
      rw [h]
      simpa using divSteps_zero 32 1 x.toNat 0 0 rfl (by omega) Nat.one_pos (by omega)
    next h =>
      have hpos : 0 < dv.toNat := Nat.pos_of_ne_zero fun e => h (BitVec.eq_of_toNat_eq e)
      simpa using divSteps_eq_div hpos (by omega) 32 1 x.toNat 0 0 rfl (by omega) Nat.one_pos hpos
  rw [← h32]
  simp only [← divSteps_add]

end Sys2Proof.Machine
end

section
/-! SUPPORT. Forms that write a destination in every executing lane, and forms that act once for the group (12 R264, R272). -/

namespace Sys2Proof.Machine

open Sys2Proof

/-- A form whose meaning gives the results of each lane. -/
theorem writesLanes_of_exec {i : Instr} {d : Sel} {ys xs : State → Group → Nat → List Val}
    (he : ∀ s, exec i s = onGroup s (fun g => s.writeLanes g d (ys s g)))
    (hx : ∀ (s : State) (g : Group) (l : Nat), ys s (g.advance s.cur) l = xs s g l) : WritesLanes i d xs :=
  writeLanes_acts he fun s g => congrArg _ (funext (hx s g))

/-- A form whose meaning gives every executing lane the same. -/
theorem writesLanes_of_writeSame {i : Instr} {d : Sel} {ys xs : State → Group → List Val}
    (he : ∀ s, exec i s = onGroup s (fun g => s.writeSame g d (ys s g))) (hx : ∀ (s : State) (g : Group), ys s (g.advance s.cur) = xs s g) :
    WritesLanes i d (fun s g _ => xs s g) :=
  fun s g _ hg h0 hw => onGroup_writeSame (he s) hg (congrArg _ (hx s g)) h0 (hw 0 (by decide))

/-! ### Consumption by the lowest executing lane -/

theorem maskIn_take_one (m : BitVec 32) : maskIn ((lanesOf m).take 1) = maskOf (fun k => lowest m == some k) := by
  refine maskOf_congr fun k _ => ?_
  rw [lowest]
  cases lanesOf m with
  | nil => rfl
  | cons l _ =>
    rw [List.head?_cons, List.take_succ_cons, List.take_zero, Bool.eq_iff_iff, List.contains_iff_mem, List.mem_singleton, beq_iff_eq,
      Option.some_inj, eq_comm]

theorem State.consumedOf_advance (s : State) (g : Group) (p : Nat) :
    s.consumedOf (g.advance s.cur) p = g.consumed s.cur.pc (lowMask s) p := by
  rw [State.consumedOf, State.consumedIn, maskIn_take_one, Group.consumed, Group.advance_ptab]
  rfl

/-- What a form that acts once for the group makes of it: nothing with no lane executing, the consumption of a poisoned source, or its result. -/
def State.actOnce (s : State) (psn : Group → Option Nat) (r : Group → Group) (g : Group) : Except Trap Group :=
  if s.cur.lanes == 0 then .ok g else match psn g with | some p => .error (s.consumedOf g p) | none => .ok (r g)

theorem actsOnce_of_exec {i : Instr} {psn : State → Group → Option Nat} {r : State → Group → Group} {after : State → Group → Group → Prop}
    (he : ∀ s, exec i s = onGroup s (s.actOnce (psn s) (r s))) (hp : ∀ (s : State) (g : Group), psn s (g.advance s.cur) = psn s g)
    (hr : ∀ (s : State) (g : Group), after s (g.advance s.cur) (r s (g.advance s.cur))) : ActsOnce i (fun s _ => lowMask s) psn after := by
  intro s g hg
  refine ⟨fun hl hnone => ?_, fun hl p hsome => ?_, fun hl => ?_⟩
  · refine ⟨_, (he s).trans (onGroup_ok hg ?_), hr s g⟩
    rw [State.actOnce, beq_false_of_ne hl, hp, hnone]
    rfl
  · refine ⟨_, (he s).trans (onGroup_trap hg ?_), rfl⟩
    rw [State.actOnce, beq_false_of_ne hl, hp, hsome, ← State.consumedOf_advance]
    rfl
  · refine ⟨_, (he s).trans (onGroup_ok hg ?_), rfl⟩
    rw [State.actOnce, hl]
    rfl

end Sys2Proof.Machine
end

section
/-! CLAIM O27. The forms that write a pair, and the moves between register classes (12 R266 to R268, R272, 03 R73). -/

namespace Sys2Proof.Machine

open Sys2Proof

/-! ### Pairs -/

theorem pairVals_two (x : DWord) (p q : Option Nat) : pairVals x [p, q] = pairResult (x.extractLsb' 0 32) (x.extractLsb' 32 32) (p <|> q) := by
  cases p <;> rfl

theorem pairVals_three (x : DWord) (p q r : Option Nat) :
    pairVals x [p, q, r] = pairResult (x.extractLsb' 0 32) (x.extractLsb' 32 32) (p <|> q <|> r) := by
  cases p <;> cases q <;> rfl

theorem firstPsn_two (a b : Val) : firstPsn [a, b] = (a.psn <|> b.psn) := by
  unfold firstPsn
  cases ha : a.psn <;> cases hb : b.psn <;> simp [ha, hb]

theorem wmul_gives (o : OpA) : WritesLanes (.wmul o) o.dst (fun s g l =>
    let a := s.source g Forms.wmul 0 (.a o) 2 l
    let b := s.source g Forms.wmul 0 (.a o) 3 l
    let x := BitVec.ofInt 64 (num (signedOf Forms.wmul o) a.bits * num (signedOf Forms.wmul o) b.bits)
    pairResult (x.extractLsb' 0 32) (x.extractLsb' 32 32) (firstPsn [a, b])) := by
  refine writesLanes_of_exec (fun s => show exec _ s = execWmul o s from rfl) fun s g l => ?_
  simp only [State.source_advance, pairVals_two, firstPsn_two]
  rfl

theorem add64_gives (o : OpA) : WritesLanes (.add64 o) o.dst (fun s g l =>
    let a := s.sourcePair g Forms.add64 0 (.a o) 2 l
    let b := s.sourcePair g Forms.add64 0 (.a o) 3 l
    pairResult ((a.1 + b.1).extractLsb' 0 32) ((a.1 + b.1).extractLsb' 32 32) (a.2 <|> b.2)) := by
  refine writesLanes_of_exec (fun s => show exec _ s = execAdd64 o s from rfl) fun s g l => ?_
  simp only [State.sourcePair_advance, pairVals_two]

theorem divSteps_divOne (dv n q r : Nat) : divSteps dv (n + 1) q r = divSteps dv n (divOne dv (q, r)).1 (divOne dv (q, r)).2 := by
  by_cases h : dv ≤ 2 * r + q / 2147483648 <;> simp [divSteps, divOne, h]

/-- The steps as the statements write them, one after the other. -/
theorem foldl_divOne {α : Type} (dv : Nat) (l : List α) (x : Nat × Nat) : l.foldl (fun x _ => divOne dv x) x = divSteps dv l.length x.1 x.2 := by
  induction l generalizing x with
  | nil => rfl
  | cons _ l ih => rw [List.foldl_cons, ih, List.length_cons, divSteps_divOne]

theorem toNat_low (x : DWord) : (x.extractLsb' 0 32).toNat = x.toNat % 2 ^ 32 := by
  rw [BitVec.extractLsb'_toNat, Nat.shiftRight_zero]

theorem toNat_high (x : DWord) : (x.extractLsb' 32 32).toNat = x.toNat / 2 ^ 32 := by
  rw [BitVec.extractLsb'_toNat, Nat.shiftRight_eq_div_pow]
  omega

theorem divstep_gives (o : OpA) : WritesLanes (.divstep o) o.dst (fun s g l =>
    let a := s.sourcePair g Forms.divstep 0 (.a o) 2 l
    let b := s.source g Forms.divstep 0 (.a o) 3 l
    let dv := if signedOf Forms.divstep o then b.bits.toInt.natAbs else b.bits.toNat
    let r := (List.range 8).foldl (fun x _ => divOne dv x) (a.1.toNat % 2 ^ 32, a.1.toNat / 2 ^ 32)
    pairResult (BitVec.ofNat 32 r.1) (BitVec.ofNat 32 r.2) (a.2 <|> b.psn)) := by
  refine writesLanes_of_exec (fun s => show exec _ s = execDivstep o s from rfl) fun s g l => ?_
  simp only [State.sourcePair_advance, State.source_advance, pairVals_two, BitVec.extractLsb'_append_eq_left, BitVec.extractLsb'_append_eq_right,
    foldl_divOne, List.length_range, toNat_low, toNat_high]

/-- DIVFIX by the signs of dividend and divisor (12 R268). -/
theorem divFix_eq (sg : Bool) (q r b x : Word) : divFix sg q r b x =
    if sg = false then (q, r) else if b = 0 then (0xFFFFFFFF, x)
    else (if decide (x.toInt < 0) = decide (b.toInt < 0) then q else -q, if x.toInt < 0 then -r else r) := by
  cases sg
  · rfl
  · have hneg : ∀ w : Word, w.toInt < 0 ↔ w.msb = true := fun w => by rw [BitVec.msb_eq_toInt, decide_eq_true_iff]
    simp only [divFix, hneg]
    cases x.msb <;> cases b.msb <;> simp

theorem divfix_gives (o : OpA) : WritesLanes (.divfix o) o.dst (fun s g l =>
    let a := s.sourcePair g Forms.divfix 0 (.a o) 2 l
    let b := s.source g Forms.divfix 0 (.a o) 3 l
    let x := s.source g Forms.divfix 0 (.a o) 4 l
    let q := a.1.extractLsb' 0 32
    let r := a.1.extractLsb' 32 32
    let psn := a.2 <|> b.psn <|> x.psn
    if signedOf Forms.divfix o = false then pairResult q r psn
    else if b.bits = 0 then pairResult 0xFFFFFFFF x.bits psn
    else pairResult (if decide (x.bits.toInt < 0) = decide (b.bits.toInt < 0) then q else -q) (if x.bits.toInt < 0 then -r else r) psn) := by
  refine writesLanes_of_exec (fun s => show exec _ s = execDivfix o s from rfl) fun s g l => ?_
  simp only [State.sourcePair_advance, State.source_advance, pairVals_three, BitVec.extractLsb'_append_eq_left, BitVec.extractLsb'_append_eq_right,
    divFix_eq]
  split
  next => rfl
  next => split <;> rfl

/-! ### Moves -/

/-- A move into a mask register acts once for the group (12 R264, R272). -/
theorem movxMs_acts (o : OpA) : ActsOnce (.movxMs o) (fun s _ => lowMask s) (fun s g => (s.low g Forms.movxMs 0 (.a o) 2).psn)
    (fun s g h => h = g.setM o.dst.num (s.low g Forms.movxMs 0 (.a o) 2).bits) :=
  actsOnce_of_exec (r := fun s g => g.setM o.dst.num (s.low g Forms.movxMs 0 (.a o) 2).bits) (fun _ => rfl)
    (fun s g => by rw [State.low_advance]) (fun _ _ => rfl)

/-- The write to a block-shared register that a move gives its core, with the core cycle in which it is due (03 R73). -/
def State.wWrite (s : State) (g : Group) (reg : Nat) (x : Word) : WWrite :=
  { blk := g.blk, reg, bits := x, slice := s.cur.slice, baton := s.cur.baton, prim := if s.cur.sec then 0 else 1,
    due := (s.slice (sliceKey s.cur.core s.cur.slice)).cyc + 4 + (s.core s.cur.core).passes - 1 }

/-- The state with such a write in the queue of the issuing core. -/
def State.queueW (s : State) (w : WWrite) : State :=
  (s.putCore s.cur.core { s.core s.cur.core with wq := (s.core s.cur.core).wq ++ [w] }).addDue [.wapply s.cur.core]

section movxWs
variable {o : OpA} {s : State} {g : Group} (hg : s.group? s.cur.key = some g)
include hg

/-- A move to a block-shared register leaves its write in the core's queue, for the core cycle of 03 R73. -/
theorem movxWs_queues (hl : s.cur.lanes ≠ 0) (hp : (s.low g Forms.movxWs 0 (.a o) 2).psn = none) : Answers (.movxWs o) s (fun t =>
    t.group? s.cur.key = some (g.advance s.cur) ∧ t.blocks = s.blocks ∧
    ∃ w, (t.core s.cur.core).wq = (s.core s.cur.core).wq ++ [w] ∧ w.blk = g.blk ∧ w.reg = o.dst.num ∧
      w.bits = (s.low g Forms.movxWs 0 (.a o) 2).bits ∧ .wapply s.cur.core ∈ t.due) := by
  have hex : exec (.movxWs o) s = .next ((s.putGroup s.cur.key (g.advance s.cur)).queueW
      (s.wWrite g o.dst.num (s.low g Forms.movxWs 0 (.a o) 2).bits)).tickFree := by
    refine Eq.trans (b := execMovxWs o s) rfl (onState_ok hg ?_)
    simp only [State.low_advance, Group.advance_blk, hp, beq_false_of_ne hl]
    rfl
  refine ⟨_, hex, State.group?_putGroup_self .., rfl, s.wWrite g o.dst.num _, ?_, rfl, rfl, rfl, List.mem_append_right _ (List.mem_singleton.2 rfl)⟩
  exact congrArg Core.wq (State.core_putCore_self ..)

theorem movxWs_consumes (hl : s.cur.lanes ≠ 0) {p : Nat} (hp : (s.low g Forms.movxWs 0 (.a o) 2).psn = some p) :
    ActsOnGroup (.movxWs o) s (fun h => h = g.raise (g.consumed s.cur.pc (lowMask s) p)) := by
  refine ⟨_, Eq.trans (b := execMovxWs o s) rfl (onState_trap hg ?_), rfl⟩
  simp only [State.low_advance, hp, beq_false_of_ne hl, State.consumedOf_advance]
  rfl

theorem movxWs_of_no_lanes (hl : s.cur.lanes = 0) : ActsOnGroup (.movxWs o) s (fun h => h = g.advance s.cur) := by
  refine ⟨_, Eq.trans (b := execMovxWs o s) rfl (onState_ok (t := s.putGroup s.cur.key (g.advance s.cur)) hg ?_), rfl⟩
  simp only [hl]
  rfl

theorem movxSv_of_no_lanes (hl : s.cur.lanes = 0) : ActsOnGroup (.movxSv o) s (fun h => h = g.advance s.cur) := by
  refine ⟨_, Eq.trans (b := execMovxSv o s) rfl (onGroup_ok hg ?_), rfl⟩
  rw [State.writeSame, hl]
  rfl

end movxWs

theorem integerPairs : Sys2Proof.Claims.IntegerPairs := by
  unfold Sys2Proof.Claims.IntegerPairs
  exact ⟨wmul_gives, add64_gives, divstep_gives, divfix_gives⟩

theorem moves : Sys2Proof.Claims.Moves := by
  unfold Sys2Proof.Claims.Moves
  refine ⟨fun _ => laneGives_of_execAlu (op := fun _ a _ _ => a) (fun _ => rfl) fun _ _ _ _ => rfl,
    fun _ => laneGives_of_execAlu (op := fun _ a _ _ => truth (a != 0)) (fun _ => rfl) fun _ _ _ _ => by rw [bne_zero, truth_decide],
    fun _ => laneGives_of_execAlu (op := fun _ a _ _ => a) (fun _ => rfl) fun _ _ _ _ => rfl,
    fun o => writesLanes_of_writeSame (ys := fun s g => [s.low g Forms.movxSv 0 (.a o) 2]) (fun _ => rfl) fun _ _ => by rw [State.low_advance],
    fun o => writesLanes_of_writeSame (ys := fun s g => [⟨s.wAt g.blk o.sa.num, none⟩]) (fun _ => rfl) fun _ _ => by rw [Group.advance_blk],
    fun o => writesLanes_of_writeSame (ys := fun _ g => [⟨g.mAt o.sa.num, none⟩]) (fun _ => rfl) fun _ _ => by rw [Group.mAt_advance],
    fun o s g hg hl hp => ?_, fun _ _ _ => movxWs_queues, fun o s g hg hl => ⟨?_, movxSv_of_no_lanes hg hl, movxWs_of_no_lanes hg hl⟩,
    fun o s g p hg hl => ⟨?_, movxWs_consumes hg hl⟩⟩ <;>
  obtain ⟨hwrites, hconsumes, hidle⟩ := movxMs_acts o s g hg
  · simpa only [State.low_advance] using hwrites hl hp
  · exact hidle hl
  · exact hconsumes hl p

/-- Settles O27, form by form: a pair takes the two halves of its result, a move one value or one effect for the group. -/
theorem integerPairsAndMoves : Obligations.IntegerPairsAndMoves := ⟨integerPairs, moves⟩

end Sys2Proof.Machine
end

section
/-! CLAIM O28. Logic, shifts, bit fields, compares, predicate logic and select (12 R269 to R271). -/

namespace Sys2Proof.Machine

open Sys2Proof

/-! ### Logic and shifts -/

theorem mix3_eq (tbl : BitVec 16) (a b c : Word) : mix3 tbl.toNat a b c =
    bitsOf (fun i => tbl.getLsbD ((if a.getLsbD i then 1 else 0) + (if b.getLsbD i then 2 else 0) + (if c.getLsbD i then 4 else 0))) := by
  refine maskOf_congr fun i _ => ?_
  cases a.getLsbD i <;> cases b.getLsbD i <;> cases c.getLsbD i <;> rfl

theorem shl_eq (a : Word) (n : Nat) : (if n < 32 then a <<< n else 0) = if 32 ≤ n then 0 else wrap (a.toNat * 2 ^ n) := by
  by_cases h : 32 ≤ n
  · rw [if_neg (by omega), if_pos h]
  · have hcast : (a.toNat * 2 ^ n : Int) = ((a.toNat * 2 ^ n : Nat) : Int) := by simp
    rw [if_pos (by omega), if_neg h, wrap, hcast, BitVec.ofInt_natCast]
    apply BitVec.eq_of_toNat_eq
    rw [BitVec.toNat_shiftLeft, Nat.shiftLeft_eq, BitVec.toNat_ofNat]

theorem shr_eq (a : Word) (n : Nat) : a >>> n = if 32 ≤ n then 0 else BitVec.ofNat 32 (a.toNat / 2 ^ n) := by
  by_cases h : 32 ≤ n
  · rw [if_pos h, BitVec.ushiftRight_eq_zero h]
    rfl
  · rw [if_neg h]
    apply BitVec.eq_of_toNat_eq
    rw [BitVec.toNat_ushiftRight, Nat.shiftRight_eq_div_pow, BitVec.toNat_ofNat, Nat.mod_eq_of_lt (Nat.lt_of_le_of_lt (Nat.div_le_self ..) a.isLt)]

theorem sar_eq (a : Word) (n : Nat) : a.sshiftRight n = if 32 ≤ n then (if a.getLsbD 31 then 0xFFFFFFFF else 0) else wrap (a.toInt / 2 ^ n) := by
  by_cases h : 32 ≤ n
  · rw [if_pos h]
    apply BitVec.eq_of_getLsbD_eq
    intro i hi
    rw [BitVec.getLsbD_sshiftRight, if_neg (by omega), BitVec.msb_eq_getLsbD_last]
    have hones : (0xFFFFFFFF : Word).getLsbD i = true := by
      rw [show (0xFFFFFFFF : Word) = BitVec.allOnes 32 from rfl, BitVec.getLsbD_allOnes, decide_eq_true hi]
    have hnot : (!decide (32 ≤ i)) = true := by simpa using hi
    rw [hnot, Bool.true_and]
    split
    next h31 => rw [h31, hones]
    next h31 => rw [Bool.eq_false_iff.2 h31]; exact BitVec.getLsbD_zero.symm
  · have hpow : (2 ^ n : Int) = ((2 ^ n : Nat) : Int) := (Int.natCast_pow 2 n).symm
    rw [if_neg h, wrap, hpow, ← Int.shiftRight_eq_div_pow]
    rfl

theorem fshf_eq (a b c : Word) : fshf a b c = (b ++ a).extractLsb' (min c.toNat 32) 32 := by
  apply BitVec.eq_of_toNat_eq
  rw [fshf, BitVec.toNat_setWidth, BitVec.toNat_ushiftRight, BitVec.extractLsb'_toNat]

theorem popcount_eq (a : Word) : popcount a = (List.range 32).countP (fun i => a.getLsbD i) := List.countP_eq_length_filter.symm

/-- The leading 0 bits stand above the place of the number's logarithm. -/
theorem clz_eq (a : Word) : BitVec.ofNat 32 (clz a) = if a = 0 then 32 else BitVec.ofNat 32 (31 - Nat.log2 a.toNat) := by
  split
  next h =>
    rw [h]
    rfl
  next h =>
    have h0 : a.toNat ≠ 0 := fun e => h (BitVec.eq_of_toNat_eq e)
    have hlog : a.toNat.log2 < 32 := (Nat.log2_lt h0).2 a.isLt
    have hfind : (List.range 32).find? (fun i => a.getLsbD (31 - i)) = some (31 - a.toNat.log2) := by
      rw [List.find?_range_eq_some]
      refine ⟨?_, List.mem_range.2 (by omega), fun j hj => ?_⟩
      · rw [BitVec.getLsbD, Nat.sub_sub_self (by omega)]
        exact Nat.testBit_log2 h0
      · rw [BitVec.getLsbD, Nat.testBit_lt_two_pow (Nat.lt_of_lt_of_le Nat.lt_log2_self (Nat.pow_le_pow_right (by decide) (by omega)))]
        rfl
    rw [clz, hfind]

theorem brev_eq (a : Word) : wordOf (fun i => a.getLsbD (31 - i)) = a.reverse := by
  apply BitVec.eq_of_getLsbD_eq
  intro i hi
  rw [wordOf, getLsbD_maskOf, BitVec.getLsbD_reverse, BitVec.getMsbD]

/-! ### Bit fields -/

/-- A field of a word read as a signed number is that of its bits. -/
theorem toNat_extractLsb'_eq {w pos len : Nat} (x : BitVec w) (h : pos + len ≤ w) :
    ((x.extractLsb' pos len).toNat : Int) = x.toInt / 2 ^ pos % 2 ^ len := by
  obtain ⟨k, rfl⟩ := Nat.exists_eq_add_of_le h
  have hwrap : ∃ c : Int, x.toInt = x.toNat + 2 ^ pos * (2 ^ len * (2 ^ k * c)) := by
    have hpow : ((2 ^ (pos + len + k) : Nat) : Int) = 2 ^ pos * (2 ^ len * 2 ^ k) := by
      simp [Int.pow_add, Int.mul_assoc]
    rw [BitVec.toInt_eq_toNat_cond]
    split
    · exact ⟨0, by simp⟩
    · exact ⟨-1, by rw [hpow]; simp only [Int.sub_eq_add_neg, Int.mul_neg, Int.mul_one]⟩
  obtain ⟨c, hc⟩ := hwrap
  have hpos : (2 ^ pos : Int) ≠ 0 := Int.pow_ne_zero (by decide)
  rw [hc, Int.add_mul_ediv_left _ _ hpos, Int.add_mul_emod_self_left, BitVec.extractLsb'_toNat, Nat.shiftRight_eq_div_pow]
  simp

/-- A word extended without limit, as a signed or an unsigned number. -/
def unlimited (sg : Bool) (a : Word) : BitVec 320 := if sg then a.signExtend 320 else a.setWidth 320

theorem toInt_unlimited (sg : Bool) (a : Word) : (unlimited sg a).toInt = asInt sg a := by
  cases sg
  · have hnat : (unlimited false a).toNat = a.toNat := BitVec.toNat_setWidth_of_le (b := a) (by decide)
    have hmsb : (unlimited false a).msb = false := by
      rw [BitVec.msb_eq_getLsbD_last]
      exact (BitVec.getLsbD_setWidth 320 a 319).trans (by rw [BitVec.getLsbD_of_ge a 319 (by decide), Bool.and_false])
    rw [BitVec.toInt_eq_toNat_of_msb hmsb, hnat]
    rfl
  · exact BitVec.toInt_signExtend_of_le (by decide)

/-- BFE extends a field of the word to a register (12 R270). -/
theorem bfe_eq_extend (sg : Bool) (a ctl : Word) : bfe sg a ctl =
    let y := (unlimited sg a).extractLsb' (ctl.toNat % 256) (min (ctl.toNat / 256 % 256) 32)
    if min (ctl.toNat / 256 % 256) 32 = 0 then 0 else if sg then y.signExtend 32 else y.setWidth 32 := by
  simp only [bfe]
  generalize hpos : ctl.toNat % 256 = pos
  generalize hlen : min (ctl.toNat / 256 % 256) 32 = len
  have hfit : pos + len ≤ 320 := by omega
  rw [← toInt_unlimited, ← toNat_extractLsb'_eq _ hfit]
  generalize (unlimited sg a).extractLsb' pos len = y
  split
  next => rfl
  next h0 =>
    cases sg
    · simp
    · have hmsb : ((y.toNat : Int) / 2 ^ (len - 1) % 2 == 1) = y.msb := by
        rw [Bool.eq_iff_iff, BitVec.msb_eq_getLsbD_last, BitVec.getLsbD, Nat.testBit_eq_decide_div_mod_eq, beq_iff_eq, decide_eq_true_iff]
        norm_cast
      rw [hmsb, if_pos rfl, BitVec.signExtend, BitVec.toInt_eq_msb_cond]
      simp

theorem bfe_eq (sg : Bool) (a ctl : Word) : bfe sg a ctl = fieldOf sg a ctl := by
  have hx : (if sg then a.signExtend 320 else a.setWidth 320) = unlimited sg a := rfl
  rw [bfe_eq_extend]
  simp only [fieldOf, hx]
  generalize unlimited sg a = x
  generalize ctl.toNat % 256 = pos
  generalize min (ctl.toNat / 256 % 256) 32 = len
  split
  next => rfl
  next h0 =>
    have hlast : pos + (len - 1) = pos + len - 1 := by omega
    have hlen : len - 1 < len := by omega
    apply BitVec.eq_of_getLsbD_eq
    intro i hi
    rw [bitsOf, getLsbD_maskOf]
    cases sg
    · simp [hi]
    · simp only [if_true, BitVec.getLsbD_signExtend, BitVec.msb_eq_getLsbD_last, BitVec.getLsbD_extractLsb', hi, hlast, hlen, decide_true, Bool.true_and]
      split
      next h => rw [decide_eq_true h, Bool.true_and]
      next => rfl

theorem logicAndShifts : Sys2Proof.Claims.LogicAndShifts := by
  unfold Sys2Proof.Claims.LogicAndShifts
  exact ⟨fun _ => laneGives_of_execAlu (op := fun _ a b _ => Logic.and.word a b) (fun _ => rfl) fun _ _ _ _ => rfl,
    fun _ => laneGives_of_execAlu (op := fun _ a b _ => Logic.or.word a b) (fun _ => rfl) fun _ _ _ _ => rfl,
    fun _ => laneGives_of_execAlu (op := fun _ a b _ => Logic.xor.word a b) (fun _ => rfl) fun _ _ _ _ => rfl,
    fun _ => laneGives_of_execAlu (op := fun _ a b _ => Logic.andn.word a b) (fun _ => rfl) fun _ _ _ _ => rfl,
    fun o => laneGives_of_execAlu (op := fun _ a b c => mix3 o.imm.toNat a b c) (fun _ => rfl) fun _ => mix3_eq o.imm,
    fun _ => laneGives_of_execAlu (op := fun _ a b _ => if b.toNat < 32 then a <<< b.toNat else 0) (fun _ => rfl) fun _ _ _ _ => shl_eq ..,
    fun _ => laneGives_of_execAlu (op := fun _ a b _ => a >>> b.toNat) (fun _ => rfl) fun _ _ _ _ => shr_eq ..,
    fun _ => laneGives_of_execAlu (op := fun _ a b _ => a.sshiftRight b.toNat) (fun _ => rfl) fun _ _ _ _ => sar_eq ..,
    fun _ => laneGives_of_execAlu (op := fun _ a b c => fshf a b c) (fun _ => rfl) fun _ => fshf_eq,
    fun _ => laneGives_of_execAlu (op := fun _ a _ _ => BitVec.ofNat 32 (popcount a)) (fun _ => rfl) fun _ a _ _ =>
      congrArg _ (popcount_eq a),
    fun _ => laneGives_of_execAlu (op := fun _ a _ _ => BitVec.ofNat 32 (clz a)) (fun _ => rfl) fun _ a _ _ => clz_eq a,
    fun _ => laneGives_of_execAlu (op := fun _ a _ _ => wordOf (fun i => a.getLsbD (31 - i))) (fun _ => rfl) fun _ a _ _ => brev_eq a,
    fun o => laneGives_of_execAlu (op := fun _ a b _ => bfe (signedOf Forms.bfe o) a b) (fun _ => rfl) fun _ _ _ _ => bfe_eq ..,
    fun _ => laneGives_of_execAlu (op := fun _ a b c => bfi a b c) (fun _ => rfl) fun _ _ _ _ => rfl⟩

/-! ### Compares, predicate logic and select -/

/-- A member of CMP, by what it holds of the two numbers of the TYPE. -/
theorem laneGives_of_execCmp {i : Instr} {f : Form} {cc : Cmp} {o : OpA} {c : Word → Word → Prop} [∀ a b, Decidable (c a b)]
    (he : ∀ s, exec i s = execCmp f cc o s) (hc : ∀ a b, cc.holds (num (signedOf f o) a) (num (signedOf f o) b) = decide (c a b)) :
    LaneGives i f 0 o (fun _ a b _ => if c a b then 1 else 0) :=
  laneGives_of_execAlu he fun _ a b _ => (congrArg truth (hc a b)).trans (truth_decide _)

/-- A member of PLOG, by what it holds of the two truth values. -/
theorem laneGives_of_execPlog {i : Instr} {f : Form} {op : Logic} {o : OpA} {c : Word → Word → Prop} [∀ a b, Decidable (c a b)]
    (he : ∀ s, exec i s = execPlog f op o s) (hc : ∀ a b : Word, op.bool (decide (a ≠ 0)) (decide (b ≠ 0)) = decide (c a b)) :
    LaneGives i f 0 o (fun _ a b _ => if c a b then 1 else 0) :=
  laneGives_of_execAlu he fun _ a b _ => by rw [bne_zero, bne_zero, hc, truth_decide]

theorem cmpNe_eq (sg : Bool) (a b : Word) : truth (Cmp.ne.holds (num sg a) (num sg b)) = if a = b then 0 else 1 := by
  rw [← truth_not_decide, ← decide_eq_decide.2 (num_inj sg), ← decide_not]
  rfl

theorem truth_xor (c d : Prop) [Decidable c] [Decidable d] : truth (decide c ^^ decide d) = if c ↔ d then 0 else 1 := by
  by_cases hc : c <;> by_cases hd : d <;> simp [truth, hc, hd]

theorem plogXor_eq (a b : Word) : truth (Logic.xor.bool (a != 0) (b != 0)) = if (a ≠ 0) ↔ (b ≠ 0) then 0 else 1 := by
  rw [bne_zero, bne_zero]
  exact truth_xor ..

theorem comparePredicateSelect : Sys2Proof.Claims.ComparePredicateSelect := by
  unfold Sys2Proof.Claims.ComparePredicateSelect
  exact ⟨fun _ => laneGives_of_execCmp (fun _ => rfl) fun _ _ => decide_eq_decide.2 (num_inj _),
    fun _ => laneGives_of_execAlu (op := fun _ a b _ => truth (Cmp.ne.holds (num _ a) (num _ b))) (fun _ => rfl) fun _ _ _ _ => cmpNe_eq ..,
    fun _ => laneGives_of_execCmp (fun _ => rfl) fun _ _ => rfl, fun _ => laneGives_of_execCmp (fun _ => rfl) fun _ _ => rfl,
    fun _ => laneGives_of_execCmp (fun _ => rfl) fun _ _ => rfl, fun _ => laneGives_of_execCmp (fun _ => rfl) fun _ _ => rfl,
    fun _ => laneGives_of_execPlog (fun _ => rfl) fun _ _ => (Bool.decide_and ..).symm,
    fun _ => laneGives_of_execPlog (fun _ => rfl) fun _ _ => (Bool.decide_or ..).symm,
    fun _ => laneGives_of_execAlu (op := fun _ a b _ => truth (Logic.xor.bool (a != 0) (b != 0))) (fun _ => rfl) fun _ _ _ _ => plogXor_eq ..,
    fun _ => laneGives_of_execPlog (fun _ => rfl) fun _ _ => by simp [Logic.bool],
    fun _ => laneGives_of_execPlog (fun _ => rfl) fun _ _ => rfl,
    fun _ => laneGives_of_execAlu (op := fun _ a b c => if c != 0 then a else b) (fun _ => rfl) fun _ _ _ _ => by simp only [bne_iff_ne]⟩

/-- Settles O28, form by form: each result of the model is that of the rule's words. -/
theorem logicShiftsAndPredicates : Obligations.LogicShiftsAndPredicates := ⟨logicAndShifts, comparePredicateSelect⟩

end Sys2Proof.Machine
end

section
/-! SUPPORT. The fields of a buffer record and its 128 bits (04 R85, R86, 12 R275, R276). -/

namespace Sys2Proof.Machine

open Sys2Proof

/-- A field of a field. -/
theorem extractLsb'_extractLsb' {w a n b m : Nat} (x : BitVec w) (h : b + m ≤ n) : (x.extractLsb' a n).extractLsb' b m = x.extractLsb' (a + b) m := by
  apply BitVec.eq_of_getLsbD_eq
  intro i hi
  simp only [BitVec.getLsbD_extractLsb', show b + i < n by omega, decide_true, Bool.true_and, Nat.add_assoc]

namespace Brec

/-- The bits of a record, field by field (04 R85). -/
theorem getLsbD_bits (r : Brec) (i : Nat) : r.bits.getLsbD i =
    if i < 2 then r.res.getLsbD i else if i < 3 then r.oobf.getLsbD (i - 2) else if i < 5 then r.esz.getLsbD (i - 3)
    else if i < 8 then r.swz.getLsbD (i - 5) else if i < 40 then r.extent.getLsbD (i - 8) else if i < 64 then r.stride.getLsbD (i - 40)
    else r.base.getLsbD (i - 64) := by
  have happ : r.bits.getLsbD i = (r.base ++ r.stride ++ r.extent ++ r.swz ++ r.esz ++ r.oobf ++ r.res).getLsbD i := rfl
  simp only [happ, BitVec.getLsbD_append]
  grind

/-- A record put together from its fields has those fields. -/
theorem of_bits (r : Brec) : Brec.of r.bits = r := by
  obtain ⟨base, stride, extent, swz, esz, oobf, res⟩ := r
  simp only [Brec.of, Brec.mk.injEq]
  refine ⟨?_, ?_, ?_, ?_, ?_, ?_, ?_⟩ <;>
  · apply BitVec.eq_of_getLsbD_eq
    intro i hi
    rw [BitVec.getLsbD_extractLsb', getLsbD_bits]
    grind

/-- The fields of 128 bits make up those bits. -/
theorem bits_of (x : BitVec 128) : (Brec.of x).bits = x := by
  apply BitVec.eq_of_getLsbD_eq
  intro i hi
  rw [getLsbD_bits]
  simp only [Brec.of, BitVec.getLsbD_extractLsb']
  grind

/-! ### One field replaced (12 R275) -/

section replaced
variable (x : BitVec 128)

/-- A record with one field's new bits, where every bit outside that field is the old record's. -/
theorem replaced_of {x : BitVec 128} {r : Brec} {lo w : Nat} {v : BitVec w} (hv : r.bits.extractLsb' lo w = v)
    (hrest : ∀ i, i < lo ∨ lo + w ≤ i → r.bits.getLsbD i = (Brec.of x).bits.getLsbD i) : Replaced x r.bits lo w v :=
  ⟨hv, fun i _ h => by rw [hrest i h, bits_of]⟩

theorem replaced_base (v : DWord) : Replaced x { Brec.of x with base := v }.bits 64 64 v :=
  replaced_of (congrArg base (of_bits _)) fun i h => by simp only [getLsbD_bits]; grind

theorem replaced_stride (v : BitVec 24) : Replaced x { Brec.of x with stride := v }.bits 40 24 v :=
  replaced_of (congrArg stride (of_bits _)) fun i h => by simp only [getLsbD_bits]; grind

theorem replaced_extent (v : BitVec 32) : Replaced x { Brec.of x with extent := v }.bits 8 32 v :=
  replaced_of (congrArg extent (of_bits _)) fun i h => by simp only [getLsbD_bits]; grind

theorem replaced_swz (v : BitVec 3) : Replaced x { Brec.of x with swz := v }.bits 5 3 v :=
  replaced_of (congrArg swz (of_bits _)) fun i h => by simp only [getLsbD_bits]; grind

theorem replaced_esz (v : BitVec 2) : Replaced x { Brec.of x with esz := v }.bits 3 2 v :=
  replaced_of (congrArg esz (of_bits _)) fun i h => by simp only [getLsbD_bits]; grind

theorem replaced_oobf (v : BitVec 1) : Replaced x { Brec.of x with oobf := v }.bits 2 1 v :=
  replaced_of (congrArg oobf (of_bits _)) fun i h => by simp only [getLsbD_bits]; grind

end replaced

/-- The low byte of a record: the fields below EXTENT. -/
theorem extractLsb'_low_congr {r q : Brec} (hswz : r.swz = q.swz) (hesz : r.esz = q.esz) (hoobf : r.oobf = q.oobf) (hres : r.res = q.res) :
    r.bits.extractLsb' 0 8 = q.bits.extractLsb' 0 8 := by
  apply BitVec.eq_of_getLsbD_eq
  intro i hi
  simp only [BitVec.getLsbD_extractLsb', getLsbD_bits]
  grind

/-- The tag and the address of a base, out of the bits of its record. -/
theorem tag_of (x : BitVec 128) : (Brec.of x).base.extractLsb' 60 4 = x.extractLsb' 124 4 :=
  extractLsb'_extractLsb' x (by decide)

theorem address_of (x : BitVec 128) : (Brec.of x).base.extractLsb' 0 60 = x.extractLsb' 64 60 :=
  extractLsb'_extractLsb' x (by decide)

/-- A record after BRADV: its address moves on by n strides within its tag, and its extent loses n elements (12 R276). -/
theorem bits_adv (x : BitVec 128) (n : Word) :
    ((Brec.of x).adv n).bits.extractLsb' 124 4 = x.extractLsb' 124 4 ∧
    (((Brec.of x).adv n).bits.extractLsb' 64 60).toNat = ((x.extractLsb' 64 60).toNat + n.toNat * (x.extractLsb' 40 24).toNat) % 2 ^ 60 ∧
    ((Brec.of x).adv n).bits.extractLsb' 40 24 = x.extractLsb' 40 24 ∧
    (((Brec.of x).adv n).bits.extractLsb' 8 32).toNat = (x.extractLsb' 8 32).toNat - n.toNat ∧
    ((Brec.of x).adv n).bits.extractLsb' 0 8 = x.extractLsb' 0 8 := by
  refine ⟨?_, ?_, congrArg stride (of_bits _), ?_, ?_⟩
  · rw [← tag_of, of_bits, ← tag_of x]
    exact BitVec.extractLsb'_append_eq_left
  · rw [← address_of, of_bits, ← address_of x]
    exact (congrArg BitVec.toNat BitVec.extractLsb'_append_eq_right).trans (BitVec.toNat_ofNat ..)
  · have hext : ((Brec.of x).adv n).bits.extractLsb' 8 32 = if n.toNat ≤ (x.extractLsb' 8 32).toNat then x.extractLsb' 8 32 - n else 0 :=
      congrArg extent (of_bits _)
    rw [hext]
    split
    next h => exact BitVec.toNat_sub_of_le h
    next h => exact (Nat.sub_eq_zero_of_le (by omega)).symm
  · rw [← congrArg (BitVec.extractLsb' 0 8) (bits_of x)]
    exact extractLsb'_low_congr rfl rfl rfl rfl

/-! ### Addresses (04 R86) -/

/-- The address of an element of a record. -/
theorem addr_of (b : BitVec 128) (n idx : Nat) : ((Brec.of b).addr n idx).1 = b.extractLsb' 124 4 ++
    BitVec.ofNat 60 ((b.extractLsb' 64 60).toNat + swizzle (b.extractLsb' 5 3).toNat (idx * (b.extractLsb' 40 24).toNat)) := by
  rw [← tag_of, ← address_of]
  rfl

/-- An access of one element is in bounds where its index lies below the extent. -/
theorem inBounds_of (b : BitVec 128) (idx : Nat) :
    ((Brec.of b).addr (2 ^ (Brec.of b).esz.toNat) idx).2 = decide (idx < (b.extractLsb' 8 32).toNat) := by
  have hone : (2 ^ (Brec.of b).esz.toNat + 2 ^ (Brec.of b).esz.toNat - 1) / 2 ^ (Brec.of b).esz.toNat = 1 := by
    have hpos := Nat.two_pow_pos (Brec.of b).esz.toNat
    rw [Nat.add_sub_assoc hpos, Nat.add_div_left _ hpos, Nat.div_eq_of_lt (Nat.sub_lt hpos Nat.one_pos)]
  simp only [Brec.addr, hone, Nat.add_sub_cancel]
  rfl

end Brec

end Sys2Proof.Machine
end

section
/-! CLAIM O29. The forms that write, read and address by buffer records (12 R274 to R277, 04 R86, R88). -/

namespace Sys2Proof.Machine

open Sys2Proof

/-! ### Writes of a record -/

/-- A form that writes a buffer record acts once for the group. -/
theorem actsOnce_of_execBr {i : Instr} {o : OpX} {psn : State → Group → Option Nat} {r : State → Group → Brec}
    {P : State → Group → BitVec 128 → Prop} (he : ∀ s, exec i s = execBr o (psn s) (r s) s)
    (hp : ∀ (s : State) (g : Group), psn s (g.advance s.cur) = psn s g) (hr : ∀ (s : State) (g : Group), P s g (r s g).bits) :
    ActsOnce i (fun s _ => lowMask s) psn (fun s g => SetsBrec o.dst.num (P s g) g) :=
  actsOnce_of_exec (r := fun s g => g.setB o.dst.num (r s g).bits) he hp fun s _ => ⟨_, rfl, hr s _⟩

/-- A member of BRSET or BRADV: a record from the one in SA and a word. -/
theorem actsOnce_of_execBrset {i : Instr} {f : Form} {o : OpX} {put : Brec → Word → Brec} {P : State → Group → BitVec 128 → Prop}
    (he : ∀ s, exec i s = execBrset f o put s)
    (hr : ∀ (s : State) (g : Group), P s g (put (Brec.of (g.bAt o.sa.num)) (s.low g f 0 (.x o) 3).bits).bits) :
    ActsOnce i (fun s _ => lowMask s) (fun s g => (s.low g f 0 (.x o) 3).psn) (fun s g => SetsBrec o.dst.num (P s g) g) :=
  actsOnce_of_execBr he (fun _ _ => by rw [State.low_advance]) hr

/-- The fields of a record that BRMAKE puts together (12 R274): FLAGS hold STRIDE above the three small fields. -/
theorem brmake_fields (base : DWord) (extent c : Word) :
    let x := (Brec.mk base (c.extractLsb' 8 24) extent (c.extractLsb' 5 3) (c.extractLsb' 3 2) (c.extractLsb' 2 1) 0).bits
    x.extractLsb' 64 64 = base ∧ x.extractLsb' 8 32 = extent ∧ x.extractLsb' 40 24 = c.extractLsb' 8 24 ∧
    x.extractLsb' 2 6 = c.extractLsb' 2 6 ∧ x.extractLsb' 0 2 = 0 := by
  refine ⟨congrArg Brec.base (Brec.of_bits _), congrArg Brec.extent (Brec.of_bits _), congrArg Brec.stride (Brec.of_bits _), ?_,
    congrArg Brec.res (Brec.of_bits _)⟩
  apply BitVec.eq_of_getLsbD_eq
  intro i hi
  simp only [BitVec.getLsbD_extractLsb', Brec.getLsbD_bits]
  grind

theorem brmake_acts (o : OpX) : ActsOnce (.brmake o) (fun s _ => lowMask s)
    (fun s g => (s.lowPair g Forms.brmake 0 (.x o) 2).2 <|> (s.low g Forms.brmake 0 (.x o) 3).psn <|> (s.low g Forms.brmake 0 (.x o) 4).psn)
    (fun s g => SetsBrec o.dst.num (fun x =>
      x.extractLsb' 64 64 = (s.lowPair g Forms.brmake 0 (.x o) 2).1 ∧ x.extractLsb' 8 32 = (s.low g Forms.brmake 0 (.x o) 3).bits ∧
      x.extractLsb' 40 24 = (s.low g Forms.brmake 0 (.x o) 4).bits.extractLsb' 8 24 ∧
      x.extractLsb' 2 6 = (s.low g Forms.brmake 0 (.x o) 4).bits.extractLsb' 2 6 ∧ x.extractLsb' 0 2 = 0) g) :=
  actsOnce_of_execBr (fun s => show exec _ s = execBrmake o s from rfl) (fun _ _ => by simp only [State.low_advance, State.lowPair_advance])
    fun _ _ => brmake_fields ..

theorem brsetBase_acts (o : OpX) : ActsOnce (.brsetBase o) (fun s _ => lowMask s) (fun s g => (s.lowPair g Forms.brsetBase 0 (.x o) 3).2)
    (fun s g => SetsBrec o.dst.num (fun x => Replaced (g.bAt o.sa.num) x 64 64 (s.lowPair g Forms.brsetBase 0 (.x o) 3).1) g) :=
  actsOnce_of_execBr (fun s => show exec _ s = execBrsetBase o s from rfl) (fun _ _ => by rw [State.lowPair_advance])
    fun _ _ => Brec.replaced_base ..

theorem bufferRecordWrites : Sys2Proof.Claims.BufferRecordWrites := by
  unfold Sys2Proof.Claims.BufferRecordWrites
  refine ⟨brmake_acts, brsetBase_acts,
    fun o => actsOnce_of_execBrset (fun s => show exec _ s = execBrsetStride o s from rfl) fun s g => ?stride,
    fun o => actsOnce_of_execBrset (fun s => show exec _ s = execBrsetExtent o s from rfl) fun _ _ => Brec.replaced_extent ..,
    fun o => actsOnce_of_execBrset (fun s => show exec _ s = execBrsetSwz o s from rfl) fun s g => ?swz,
    fun o => actsOnce_of_execBrset (fun s => show exec _ s = execBrsetEsz o s from rfl) fun s g => ?esz,
    fun o => actsOnce_of_execBrset (fun s => show exec _ s = execBrsetOobf o s from rfl) fun s g => ?oobf,
    fun o => actsOnce_of_execBrset (fun s => show exec _ s = execBradv o s from rfl) fun _ _ => Brec.bits_adv ..⟩
  case stride => rw [← BitVec.setWidth_eq_extractLsb' (by decide)]; exact Brec.replaced_stride ..
  case swz => rw [← BitVec.setWidth_eq_extractLsb' (by decide)]; exact Brec.replaced_swz ..
  case esz => rw [← BitVec.setWidth_eq_extractLsb' (by decide)]; exact Brec.replaced_esz ..
  case oobf => rw [← BitVec.setWidth_eq_extractLsb' (by decide)]; exact Brec.replaced_oobf ..

/-! ### Reads of a record, and LEA -/

/-- A member of BRGET gives every executing lane a field of the record. -/
theorem writesLanes_of_execBrget {i : Instr} {o : OpX} {get : Brec → List Word} {xs : Group → List Val} (he : ∀ s, exec i s = execBrget o get s)
    (hx : ∀ g : Group, (get (Brec.of (g.bAt o.sa.num))).map (fun w => ⟨w, none⟩) = xs g) : WritesLanes i o.dst (fun _ g _ => xs g) :=
  writesLanes_of_writeSame (ys := fun _ g => (get (Brec.of (g.bAt o.sa.num))).map (fun w => ⟨w, none⟩)) he fun _ g => by
    rw [Group.bAt_advance, hx]

/-- BASE is read as a pair. -/
theorem base_pair (x : BitVec 128) :
    [(Brec.of x).base.extractLsb' 0 32, (Brec.of x).base.extractLsb' 32 32] = [x.extractLsb' 64 32, x.extractLsb' 96 32] := by
  simp only [Brec.of, extractLsb'_extractLsb' x (show 0 + 32 ≤ 64 by decide), extractLsb'_extractLsb' x (show 32 + 32 ≤ 64 by decide)]

theorem Sel.within_of_not_uniform {d : Sel} (h : isUniform d = false) (k : Nat) : Sel.within d k = true := by
  cases d with
  | s => cases h
  | _ => rfl

theorem State.viewsFor_of_not_uniform {d : Sel} (h : isUniform d = false) (s : State) (g : Group) : s.viewsFor g d = .ok g := by
  rw [State.viewsFor, h]
  rfl

theorem pairVals_one (x : DWord) (p : Option Nat) : pairVals x [p] = [⟨x.extractLsb' 0 32, p⟩, ⟨x.extractLsb' 32 32, p⟩] := rfl

theorem Val.with_one (w : Word) (p : Option Nat) : Val.with w [p] = ⟨w, p⟩ := rfl

@[simp] theorem State.index_advance (s : State) (g : Group) (c : Cur) (o : OpM) (l : Nat) : s.index (g.advance c) o l = s.index g o l :=
  State.readSel_advance ..

section lea
variable {o : OpM} {s : State} {g : Group} (hg : s.group? s.cur.key = some g)
include hg

theorem lea_gives {g0 : Group} (h0 : s.viewsFor (g.advance s.cur) o.data = .ok g0) (hw : Sel.within o.data 2 = true) (hu : isUniform o.aux = false)
    (hres : (g.bAt o.brec.toNat).extractLsb' 0 2 = 0) :
    let b := g.bAt o.brec.toNat
    let idx := fun l => ((s.index g o l).bits + memImm o).toNat
    let off := fun l => swizzle (b.extractLsb' 5 3).toNat (idx l * (b.extractLsb' 40 24).toNat)
    let addr := fun l => b.extractLsb' 124 4 ++ BitVec.ofNat 60 ((b.extractLsb' 64 60).toNat + off l)
    ActsOnGroup (.lea o) s (fun h => ∃ h0,
      Wrote s.cur.lanes o.data (fun l =>
        [⟨(addr l).extractLsb' 0 32, (s.index g o l).psn⟩, ⟨(addr l).extractLsb' 32 32, (s.index g o l).psn⟩]) g0 h0 ∧
      Wrote s.cur.lanes o.aux (fun l => [⟨if idx l < (b.extractLsb' 8 32).toNat then 1 else 0, (s.index g o l).psn⟩]) h0 h) := by
  intro b idx off addr
  refine ⟨_, Eq.trans (b := execLea o s) rfl (onGroup_ok hg ?_), _, wrote_foldl _ _ _ g0 fun _ _ => hw,
    wrote_foldl _ _ _ _ fun _ _ => Sel.within_of_not_uniform hu 1⟩
  by_cases hz : s.cur.lanes = 0
  · obtain rfl : g.advance s.cur = g0 := by simpa [State.viewsFor_of_no_lanes hz] using h0
    rw [hz, lanesOf_zero]
    rfl
  · have hres' : ¬ (Brec.of (g.bAt o.brec.toNat)).res ≠ 0 := not_not_intro hres
    simp only [Group.brecAt, Group.bAt_advance, State.index_advance, beq_false_of_ne hz, if_neg hres', State.writeLanes, h0,
      State.viewsFor_of_not_uniform hu, Brec.addr_of, Brec.inBounds_of, pairVals_one, Val.with_one, truth_decide]
    rfl

theorem lea_traps {l : Nat} (hl : lowest s.cur.lanes = some l) (hres : (g.bAt o.brec.toNat).extractLsb' 0 2 ≠ 0) :
    let b := g.bAt o.brec.toNat
    let idx := ((s.index g o l).bits + memImm o).toNat
    ActsOnGroup (.lea o) s (fun h => h = g.raise
      { cause := Cause.illegal, pc := s.cur.pc, lanes := s.cur.lanes,
        addr := b.extractLsb' 124 4 ++
          BitVec.ofNat 60 ((b.extractLsb' 64 60).toNat + swizzle (b.extractLsb' 5 3).toNat (idx * (b.extractLsb' 40 24).toNat)) }) := by
  have hz : s.cur.lanes ≠ 0 := by
    rintro h
    rw [h] at hl
    cases hl
  refine ⟨_, Eq.trans (b := execLea o s) rfl (onGroup_trap hg ?_), rfl⟩
  have hres' : (Brec.of (g.bAt o.brec.toNat)).res ≠ 0 := hres
  simp only [Group.brecAt, Group.bAt_advance, State.index_advance, beq_false_of_ne hz, if_pos hres', hl, Option.map_some, Option.getD_some, Brec.addr_of]
  rfl

end lea

theorem bufferRecordReads : Sys2Proof.Claims.BufferRecordReads := by
  unfold Sys2Proof.Claims.BufferRecordReads
  exact ⟨fun o => writesLanes_of_execBrget (fun s => show exec _ s = execBrgetBase o s from rfl) fun _ => congrArg _ (base_pair _),
    fun o => writesLanes_of_execBrget (fun s => show exec _ s = execBrgetStride o s from rfl) fun _ => rfl,
    fun o => writesLanes_of_execBrget (fun s => show exec _ s = execBrgetExtent o s from rfl) fun _ => rfl,
    fun o => writesLanes_of_execBrget (fun s => show exec _ s = execBrgetSwz o s from rfl) fun _ => rfl,
    fun o => writesLanes_of_execBrget (fun s => show exec _ s = execBrgetEsz o s from rfl) fun _ => rfl,
    fun o => writesLanes_of_execBrget (fun s => show exec _ s = execBrgetOobf o s from rfl) fun _ => rfl,
    fun _ _ _ _ hg => lea_gives hg, fun _ _ _ _ hg => lea_traps hg⟩

/-- Settles O29: a record is its fields, so a form that writes or reads one names the bits of each. -/
theorem bufferRecords : Obligations.BufferRecords := ⟨bufferRecordWrites, bufferRecordReads⟩

end Sys2Proof.Machine
end

section
/-! CLAIM O59. Exchanges between lanes, reductions and scans (12 R273, 10 R243, R244, 13 R293, R294). -/

namespace Sys2Proof.Machine

open Sys2Proof

/-! ### Exchanges -/

/-- SHFL and RDLANE: each executing lane takes SA of the lane that the exchange names, or its own where that lies outside the group. -/
theorem writesLanes_of_execShfl {i : Instr} {f : Form} {x : Shuffle} {o : OpA} {lane : Nat → Nat → Nat} (he : ∀ s, exec i s = execShfl f x o s)
    (hlane : ∀ l n, (x.lane l n).getD l = lane l n) : WritesLanes i o.dst (fun s g l =>
      let n := s.source g f 0 (.a o) 3 l
      let a := s.source g f 0 (.a o) 2 (lane l n.bits.toNat)
      [⟨a.bits, firstPsn [a, n]⟩]) := by
  refine writesLanes_of_exec he fun s g l => ?_
  simp only [State.source_advance, ← hlane, ← Val.with_psns, List.map_cons, List.map_nil]
  cases x.lane l (s.source g f 0 (.a o) 3 l).bits.toNat <;> rfl

theorem Shuffle.getD_up (l n : Nat) : (Shuffle.up.lane l n).getD l = if n ≤ l then l - n else l := by
  by_cases h : n ≤ l <;> simp [Shuffle.lane, h]

theorem Shuffle.getD_down (l n : Nat) : (Shuffle.down.lane l n).getD l = if l + n ≤ 31 then l + n else l := by
  by_cases h : l + n ≤ 31 <;> simp [Shuffle.lane, h, Nat.lt_succ_iff]

theorem laneExchanges : Sys2Proof.Claims.LaneExchanges := by
  unfold Sys2Proof.Claims.LaneExchanges
  exact ⟨fun _ => writesLanes_of_execShfl (x := .idx) (lane := fun _ n => n % 32) (fun _ => rfl) fun _ _ => rfl,
    fun _ => writesLanes_of_execShfl (x := .up) (fun _ => rfl) Shuffle.getD_up,
    fun _ => writesLanes_of_execShfl (x := .down) (fun _ => rfl) Shuffle.getD_down,
    fun _ => writesLanes_of_execShfl (x := .xor) (lane := fun l n => Nat.xor l (n % 32)) (fun _ => rfl) fun _ _ => rfl,
    fun _ => writesLanes_of_execShfl (x := .idx) (lane := fun _ n => n % 32) (fun _ => rfl) fun _ _ => rfl⟩

/-! ### Reductions and scans -/

theorem Group.seedAt_congr {g h : Group} (hs : h.seed = g.seed) (n : Nat) : h.seedAt n = g.seedAt n := by
  rw [Group.seedAt, Group.seedAt, hs]

@[simp] theorem Group.rndOf_advance (g : Group) (c : Cur) (o : OpA) : (g.advance c).rndOf o = g.rndOf o := by
  rw [Group.rndOf, Group.rndOf, Group.seedAt_congr (Group.advance_seed g c)]

/-- Advancing the seed depends on the seeds alone, and changes nothing else (10 R234). -/
theorem Group.advanceSeed_eq {g h : Group} (hs : h.seed = g.seed) (p : Option Pfx) (rnd : BitVec 2) (m : BitVec 32) :
    h.advanceSeed p rnd m = { h with seed := (g.advanceSeed p rnd m).seed } := by
  unfold Group.advanceSeed
  rw [Group.seedAt_congr hs, hs]
  split
  next => rfl
  next => rw [← hs]

/-- Splitting views changes lanes alone (03 R69). -/
theorem State.viewsFor_rest {s : State} {g g0 : Group} {d : Sel} (h : s.viewsFor g d = .ok g0) : g0 = { g with lanes := g0.lanes } := by
  unfold State.viewsFor at h
  split at h
  next =>
    cases hs : g.splitViews s.cur.lanes with
    | none => simp [hs] at h
    | some g' =>
      obtain rfl : g' = g0 := by simpa [hs] using h
      exact (splitViews_tells_apart hs).1
  next =>
    cases h
    rfl

/-- A destination that takes one register stands within its class. -/
theorem Sel.within_of_le_one (d : Sel) {k : Nat} (hk : k ≤ 1) : Sel.within d k = true := by
  cases d with
  | s n => exact decide_eq_true (by omega)
  | _ => rfl

/-- The executing lanes up to lane `l`, as a mask (10 R244). -/
theorem and_low_lanes (m : BitVec 32) (l : Nat) : m &&& BitVec.ofNat 32 (2 ^ (l + 1) - 1) = maskOf (fun j => m.getLsbD j && decide (j ≤ l)) := by
  apply BitVec.eq_of_getLsbD_eq
  intro j hj
  rw [BitVec.getLsbD_and, BitVec.getLsbD_ofNat, Nat.testBit_two_pow_sub_one, getLsbD_maskOf, decide_eq_true hj, Bool.true_and, Bool.true_and]
  exact congrArg _ (decide_eq_decide.2 Nat.lt_succ_iff)

theorem firstPsn_map {α : Type} (f : α → Val) (l : List α) : firstPsn (l.map f) = l.findSome? (fun x => (f x).psn) := List.findSome?_map ..

/-- The tree of combinations over the lanes of a mask (10 R243). -/
def State.laneTree (s : State) (g : Group) (f : Form) (k : Comb) (o : OpA) (m : BitVec 32) : Option Word :=
  treeOf (fun d j => k.op (f.effTy (.a o)) (g.rndOf o) (drawOf (g.rndOf o).seed j d))
    (fun j => if m.getLsbD j then some (s.source g f 0 (.a o) 2 j).bits else none) 5 0

/-- What an executing lane takes of it: with no lane in the mask, nothing; else the result, with the poison of the first poisoned source. -/
def State.reduced (s : State) (g : Group) (f : Form) (k : Comb) (o : OpA) (m : BitVec 32) : List Val :=
  match s.laneTree g f k o m with
  | some w => [⟨w, firstPsn ((lanesOf m).map (fun j => s.source g f 0 (.a o) 2 j))⟩]
  | none => []

theorem State.reduced_length (s : State) (g : Group) (f : Form) (k : Comb) (o : OpA) (m : BitVec 32) : (s.reduced g f k o m).length ≤ 1 := by
  unfold State.reduced
  split <;> simp

@[simp] theorem State.laneTree_advance (s : State) (g : Group) (c : Cur) (f : Form) (k : Comb) (o : OpA) (m : BitVec 32) :
    s.laneTree (g.advance c) f k o m = s.laneTree g f k o m := by
  simp only [State.laneTree, State.source_advance, Group.rndOf_advance]

theorem State.reduce_eq (s : State) (g : Group) (f : Form) (k : Comb) (o : OpA) (m : BitVec 32) : s.reduce g f k o m =
    (s.laneTree g f k o m).map (fun w => ⟨w, firstPsn ((lanesOf m).map (fun j => s.source g f 0 (.a o) 2 j))⟩) := by
  simp only [firstPsn_map]
  cases h : s.laneTree g f k o m <;> rw [State.laneTree] at h <;> simp only [State.reduce, h] <;> rfl

/-- The executing lanes that a lane's result is taken over: all of them, or for a SCAN those up to its own (10 R243, R244). -/
def reducedLanes (scan : Bool) (m : BitVec 32) (l : Nat) : BitVec 32 := if scan then maskOf (fun j => m.getLsbD j && decide (j ≤ l)) else m

/-- What a form of RED or SCAN answers: the tree over the executing lanes (SCAN: those up to each lane), and the seed moved on once. -/
theorem reduce_gives {i : Instr} {f : Form} {k : Comb} {scan : Bool} {o : OpA} (he : ∀ s, exec i s = execReduce f k scan o s) {s : State} {g g0 : Group}
    (hg : s.group? s.cur.key = some g) (h0 : s.viewsFor (g.advance s.cur) o.dst = .ok g0) :
    ActsOnGroup i s (fun h => ∃ h0, h = { h0 with seed := (g.advanceSeed o.pfx o.rnd s.cur.lanes).seed } ∧
      Wrote s.cur.lanes o.dst (fun l => s.reduced g f k o (reducedLanes scan s.cur.lanes l)) g0 h0) := by
  have hwrote := wrote_foldl s.cur.lanes o.dst (fun l => s.reduced g f k o (reducedLanes scan s.cur.lanes l)) g0
    (fun _ _ => Sel.within_of_le_one _ (State.reduced_length ..))
  refine ⟨_, (he s).trans (onGroup_ok hg ?_), _, Group.advanceSeed_eq ?_ o.pfx o.rnd s.cur.lanes, hwrote⟩
  · simp only [State.writeLanes, h0]
    refine congrArg (fun xs : Nat → List Val => Except.ok (((lanesOf s.cur.lanes).foldl (fun h l => h.writeAll o.dst l (xs l)) g0).advanceSeed
      o.pfx o.rnd s.cur.lanes)) (funext fun l => ?_)
    rw [and_low_lanes, State.reduce_eq, State.laneTree_advance, State.reduced, reducedLanes]
    simp only [State.source_advance]
    cases s.laneTree g f k o (if scan then maskOf (fun j => s.cur.lanes.getLsbD j && decide (j ≤ l)) else s.cur.lanes) <;> rfl
  · rw [hwrote.rest, State.viewsFor_rest h0, Group.advance_seed]

theorem reductionsAndScans : Sys2Proof.Claims.ReductionsAndScans := by
  unfold Sys2Proof.Claims.ReductionsAndScans
  intro claim
  have hclaim : ∀ {i : OpA → Instr} {f : Form} {k : Comb} {scan : Bool}, (∀ o s, exec (i o) s = execReduce f k scan o s) → claim i f k scan :=
    fun he o _ _ _ => reduce_gives (he o)
  exact ⟨hclaim fun _ _ => rfl, hclaim fun _ _ => rfl, hclaim fun _ _ => rfl, hclaim fun _ _ => rfl, hclaim fun _ _ => rfl, hclaim fun _ _ => rfl,
    hclaim fun _ _ => rfl, hclaim fun _ _ => rfl, hclaim fun _ _ => rfl, hclaim fun _ _ => rfl, hclaim fun _ _ => rfl, hclaim fun _ _ => rfl⟩

/-- Settles O59, by one lemma for the exchanges and one for the trees: the members of a form differ in the lane they name or in the combination. -/
theorem exchangesReductionsScans : Obligations.ExchangesReductionsScans := ⟨laneExchanges, reductionsAndScans⟩

end Sys2Proof.Machine
end
